-- ==== Sys2Proof/Word.lean ====
section
/-! DEFINITION. The word types of the Zalgan Z9 and the sparse tables State is made of. -/

namespace Sys2Proof

abbrev Byte := BitVec 8
/-- One 32-bit element of a vector register (02 R14). -/
abbrev W32 := BitVec 32
/-- A scalar register, a register-window word, a detail word (02 R14). -/
abbrev W64 := BitVec 64
/-- A lane mask: bit l is lane l (02 R26, R31; the Z9 has 64 lanes). -/
abbrev Mask := BitVec 64

/-- A sparse table: keys strictly rising; a key that is not listed holds the table's default. -/
abbrev Tab (α : Type) := List (Nat × α)

/-- The value at a key, `d` where the key is not listed. -/
def Tab.getD {α : Type} (t : Tab α) (k : Nat) (d : α) : α :=
  match t with
  | [] => d
  | (i, x) :: r => if i = k then x else if k < i then d else Tab.getD r k d

/-- The value at a key, if it is listed. -/
def Tab.get? {α : Type} (t : Tab α) (k : Nat) : Option α :=
  match t with
  | [] => none
  | (i, x) :: r => if i = k then some x else if k < i then none else Tab.get? r k

/-- The table with one key set. -/
def Tab.set {α : Type} (t : Tab α) (k : Nat) (v : α) : Tab α :=
  match t with
  | [] => [(k, v)]
  | (i, x) :: r => if k < i then (k, v) :: (i, x) :: r else if i = k then (k, v) :: r else (i, x) :: Tab.set r k v

/-- The table with one key taken out. -/
def Tab.erase {α : Type} (t : Tab α) (k : Nat) : Tab α :=
  match t with
  | [] => []
  | (i, x) :: r => if i = k then r else (i, x) :: Tab.erase r k

/-- The keys of a table. -/
def Tab.keys {α : Type} (t : Tab α) : List Nat := t.map Prod.fst

end Sys2Proof
end

