-- ==== Sys2Proof/Machine/Bits.lean ====
section
/-! DEFINITION. Bit fields, sign extension and byte order (01 R5, R6, R8), over natural numbers and integers. -/

namespace Sys2Proof.Machine

/-- Bits [lo+len-1:lo] of x (01 R5). -/
def fld (x lo len : Nat) : Nat := x / 2 ^ lo % 2 ^ len

/-- Bit n of x as a Bool. -/
def bit (x n : Nat) : Bool := x / 2 ^ n % 2 == 1

/-- A Bool as 0 or 1. -/
def b2n (b : Bool) : Nat := if b then 1 else 0

/-- The two's-complement reading of the low n bits of x (03 R32). -/
def sext (n x : Nat) : Int :=
  let y := x % 2 ^ n
  if y < 2 ^ (n - 1) then (y : Int) else (y : Int) - (2 ^ n : Nat)

/-- An integer narrowed to n bits (01 R8, 03 R34). -/
def wrapN (n : Nat) (x : Int) : Nat := (x % ((2 ^ n : Nat) : Int)).toNat

/-- Field [lo+len-1:lo] of x replaced by v. -/
def setFld (x lo len v : Nat) : Nat :=
  x - fld x lo len * 2 ^ lo + v % 2 ^ len * 2 ^ lo

/-- The value with a field at lo: the sum form in which detail words are written. -/
def at' (v lo len : Nat) : Nat := v % 2 ^ len * 2 ^ lo

/-- The little-endian value of a byte list (01 R6). -/
def leVal : List (BitVec 8) → Nat
  | [] => 0
  | b :: r => b.toNat + 256 * leVal r

/-- n bytes of x, lowest first (01 R6). -/
def leBytes : Nat → Nat → List (BitVec 8)
  | 0, _ => []
  | n + 1, x => BitVec.ofNat 8 x :: leBytes n (x / 256)

/-- The lanes 0 to 63 in ascending order. -/
def lanes : List Nat := List.range 64

/-- Lane l of a mask. -/
def lane (m : Mask) (l : Nat) : Bool := m.getLsbD l

/-- The mask of the lanes for which p holds. -/
def maskOf (p : Nat → Bool) : Mask :=
  BitVec.ofNat 64 (lanes.foldl (fun a l => if p l then a + 2 ^ l else a) 0)

/-- The lanes of a mask in ascending order. -/
def lanesOf (m : Mask) : List Nat := lanes.filter (fun l => m.getLsbD l)

/-- The lowest lane of a mask; 0 for an empty mask. -/
def lowLane (m : Mask) : Nat := (lanesOf m).headD 0

/-- Every lane. -/
def allLanes : Mask := BitVec.allOnes 64

/-- floor(log2 x), 0 for 0. -/
def ilog2 (x : Nat) : Nat := Nat.log2 x

/-- Bits needed to write x. -/
def bitLen (x : Nat) : Nat := if x = 0 then 0 else Nat.log2 x + 1

/-- One step of the bitwise square root; the result never exceeds the root of x. -/
def sqrtGo (x : Nat) : Nat → Nat → Nat
  | 0, r => r
  | k + 1, r =>
    let c := r + 2 ^ k
    sqrtGo x k (if c * c ≤ x then c else r)

/-- floor of the square root. -/
def isqrt (x : Nat) : Nat := sqrtGo x (bitLen x / 2 + 1) 0

/-- a rounded up to a multiple of b. -/
def roundUp (a b : Nat) : Nat := (a + b - 1) / b * b

end Sys2Proof.Machine
end

