-- ==== Sys2Proof/Syntax.lean ====
section
/-! DEFINITION. The instructions of the Zalgan Z9: the ONE inductive Instr, one constructor for each row of
spec/opcode_table.json: the words of the instruction set (04 to 22) and the events of its engines, distributor, host
and service cores. -/

namespace Sys2Proof

/-- A 12-bit operand field: its kind [11:10] and its index or value [9:0] (04 R58). -/
inductive Opnd where
  /-- kind 00, vector register -/
  | v (n : BitVec 10)
  /-- kind 01, scalar or special register -/
  | s (n : BitVec 10)
  /-- kind 10, predicate -/
  | p (n : BitVec 10)
  /-- kind 11, 10-bit signed immediate (04 R60) -/
  | imm (n : BitVec 10)
deriving DecidableEq, Repr

/-- The sixteen type codes, in code order (04 R61 Table 3). The suffixes .nN and .bN share one code. -/
inductive Ty where
  | none | i8 | i16 | i32 | i64 | n8 | n16 | n32 | n64 | f8e4 | f16 | bf16 | f32 | f64 | rn24 | rsv
deriving DecidableEq, Repr

/-- The eight rounding-mode codes, in code order (03 R39 Table 3; rmi is .rm, toward minus infinity); the last three are no mode. -/
inductive RM where
  | rne | rz | rp | rmi | rna | bad5 | bad6 | bad7
deriving DecidableEq, Repr

/-- The eight scope codes, in code order (04 R62); the last three are no scope. -/
inductive Scope where
  | group | tile | device | pod | job | bad5 | bad6 | bad7
deriving DecidableEq, Repr

/-- The ORDER codes, in code order (04 R59). -/
inductive Ord where
  | plain | acq | rel | acqrel
deriving DecidableEq, Repr

/-- Guard and scheduling hints, bits [83:70] (04 R58 Table 1). -/
structure Hd where
  gneg : Bool
  gp : BitVec 4
  delay : BitVec 4
  yield : Bool
  lasta : Bool
  lastb : Bool
  pair : Bool
  common : Bool
deriving DecidableEq, Repr

/-- Class Reg3 (04 R59 Table 2); the COND sub-operation is the constructor and its arguments. -/
structure R3 where
  hd : Hd
  d : Opnd
  a : Opnd
  b : Opnd
  ty : Ty
  rm : RM
  sat : Bool
deriving DecidableEq, Repr

/-- Class Fused; NEGP and NEGC are the constructor or its argument. -/
structure FU where
  hd : Hd
  d : Opnd
  a : Opnd
  b : Opnd
  c : Opnd
  ty : Ty
  rm : RM
  sat : Bool
deriving DecidableEq, Repr

/-- Class Imm24; SUB is the constructor. -/
structure IM where
  hd : Hd
  d : Opnd
  a : Opnd
  b : Opnd
  ty : Ty
  rm : RM
  imm : BitVec 24
deriving DecidableEq, Repr

/-- Class Branch; BSUB is the constructor and its argument. -/
structure BR where
  hd : Hd
  d : Opnd
  a : Opnd
  b : Opnd
  ty : Ty
  disp : BitVec 24
deriving DecidableEq, Repr

/-- Class Conv. -/
structure CV where
  hd : Hd
  d : Opnd
  a : Opnd
  b : Opnd
  ty : Ty
  rm : RM
  sat : Bool
  dty : Ty
  scale : BitVec 8
deriving DecidableEq, Repr

/-- Class Mem. -/
structure ME where
  hd : Hd
  d : Opnd
  a : Opnd
  b : Opnd
  ty : Ty
  scope : Scope
  ac : BitVec 4
  glob : Bool
  order : Ord
  ofs : BitVec 20
deriving DecidableEq, Repr

/-- Class Sync; KIND is the constructor or its argument. -/
structure SY where
  hd : Hd
  d : Opnd
  a : Opnd
  b : Opnd
  ty : Ty
  scope : Scope
  imm : BitVec 24
deriving DecidableEq, Repr

/-- Class Engine. -/
structure EN where
  hd : Hd
  d : Opnd
  a : Opnd
  b : Opnd
  ty : Ty
  tag : BitVec 6
  index : BitVec 4
  scope : Scope
  param : BitVec 17
deriving DecidableEq, Repr

/-- Every row of spec/opcode_table.json, the words, ILLEGAL, then the steps other
agents take, from OFFSET_COMPLETE on, in order. -/
inductive Instr where
  -- 0x01: control and planes, 05 Table 1
  | nop (w : Hd)
  | bra (w : BR)
  | brapl (k : BitVec 3) (w : BR)
  | brs (c : BitVec 4) (w : BR)
  | bany (w : BR)
  | ball (w : BR)
  | bnone (w : BR)
  | call (w : BR)
  | jmp (w : BR)
  | ret (w : BR)
  | exit (w : R3)
  | pset (k : BitVec 3) (w : BR)
  | psetv (w : BR)
  -- 0x02: group state, 05 Table 4
  | elect (w : R3)
  | pmask (w : R3)
  | pload (w : R3)
  | pathq (q : BitVec 2) (w : R3)
  -- 0x10: scalar, 05 Table 5
  | add (w : R3)
  | sub (w : R3)
  | mul (w : R3)
  | mulhi (w : R3)
  | div (w : R3)
  | rem (w : R3)
  | min (w : R3)
  | max (w : R3)
  | and (w : R3)
  | or (w : R3)
  | xor (w : R3)
  | andn (w : R3)
  | shl (w : R3)
  | shr (w : R3)
  | sar (w : R3)
  | rotl (w : R3)
  | scmp (c : BitVec 3) (w : R3)
  | clz (w : R3)
  | ctz (w : R3)
  | popc (w : R3)
  | brev (w : R3)
  | neg (w : R3)
  | abs (w : R3)
  | mov (w : R3)
  | lea (k : BitVec 3) (w : R3)
  | gaddr (r : BitVec 5) (w : R3)
  | gfld (f : BitVec 2) (w : R3)
  -- 0x11: scalar immediates, 05 Table 7
  | addi (w : IM)
  | movi (w : IM)
  | movm (w : IM)
  | movh (w : IM)
  | andi (w : IM)
  | ori (w : IM)
  | xori (w : IM)
  | bfxu (w : IM)
  | bfxs (w : IM)
  | bfi (w : IM)
  -- 0x12: literal loads, 05 R103
  | ldl (w : IM)
  -- 0x20: vector integer, 06 Table 1
  | vaddInt (w : R3)
  | vsubInt (w : R3)
  | vmulInt (w : R3)
  | vmulhi (w : R3)
  | vminInt (w : R3)
  | vmaxInt (w : R3)
  | vnegInt (w : R3)
  | vabsInt (w : R3)
  | vand (w : R3)
  | vor (w : R3)
  | vxor (w : R3)
  | vandn (w : R3)
  | vshl (w : R3)
  | vshr (w : R3)
  | vsar (w : R3)
  | vrotl (w : R3)
  | vclz (w : R3)
  | vctz (w : R3)
  | vpopc (w : R3)
  | vbrev (w : R3)
  | vmov (w : R3)
  | vcmp (c : BitVec 3) (w : R3)
  | pand (w : R3)
  | por (w : R3)
  | pxor (w : R3)
  | pandn (w : R3)
  | pnot (w : R3)
  -- 0x21: vector integer fused, 06 Table 2
  | vmad (n : BitVec 2) (w : FU)
  | vsel (w : FU)
  | vclamp (w : FU)
  | vdp4 (w : FU)
  -- 0x30: floating point fused, 06 Table 4
  | vfma (w : FU)
  | vfms (w : FU)
  | vfnma (w : FU)
  | vfnms (w : FU)
  | vfclamp (w : FU)
  -- 0x32: dot product, 06 Table 4
  | vdot2 (w : FU)
  -- 0x31: floating point, 06 Table 5
  | vaddFloat (w : R3)
  | vsubFloat (w : R3)
  | vmulFloat (w : R3)
  | vdiv (w : R3)
  | vminFloat (w : R3)
  | vmaxFloat (w : R3)
  | vminn (w : R3)
  | vmaxn (w : R3)
  | vnegFloat (w : R3)
  | vabsFloat (w : R3)
  | vcopysign (w : R3)
  | vfcmp (c : BitVec 3) (w : R3)
  | vfclass (w : R3)
  | vfrnd (w : R3)
  -- 0x40: conversions, 06 Table 8
  | vcvt (w : CV)
  | vcvtn (w : CV)
  | vcvtw (w : CV)
  -- 0x48: cross-lane, 07 Table 1
  | vshfl (m : BitVec 2) (g : BitVec 3) (w : R3)
  | vredlog (o : BitVec 3) (w : R3)
  | vscan (o : BitVec 3) (w : R3)
  | vscanx (o : BitVec 3) (w : R3)
  | vtopk (k : BitVec 3) (w : R3)
  | vtopkNorm (k : BitVec 3) (w : R3)
  -- 0x49: special functions, 07 Table 3
  | vrcp (w : IM)
  | vrsqrt (w : IM)
  | vsqrt (w : IM)
  | vexpo (w : IM)
  | vexp2i (w : IM)
  | vscalb (w : IM)
  | vrand (w : IM)
  | rseed (w : IM)
  -- 0x50: loads and stores, 10 Table 1
  | ldn (w : ME)
  | stn (w : ME)
  | ldnr (w : ME)
  | stnr (w : ME)
  | ldf (w : ME)
  | stf (w : ME)
  -- 0x51: atomics, 10 Table 2
  | atomAdd (w : ME)
  | atomMin (w : ME)
  | atomMax (w : ME)
  | atomAnd (w : ME)
  | atomOr (w : ME)
  | atomXor (w : ME)
  | atomExch (w : ME)
  | atomCas (w : ME)
  | vatomAdd (w : ME)
  -- 0x60: waits, fences, counters, 10 Table 4
  | waitAc (w : SY)
  | waitAny (w : SY)
  | waitAll (w : SY)
  | waitBatch (w : SY)
  | waitSt (w : SY)
  | ffr (w : SY)
  | fenceAcq (w : SY)
  | fenceRel (w : SY)
  | fenceAcqrel (w : SY)
  | publish (w : SY)
  | acrd (w : SY)
  | acwr (w : SY)
  -- 0x68: copy engine, 11 Table 1
  | cp (w : EN)
  | cpfill (w : EN)
  | cpd (w : EN)
  | tagst (w : EN)
  | tagclr (w : EN)
  -- 0x70: skeins and barriers, 11 Table 4
  | qpush (w : EN)
  | qpop (w : EN)
  | qstat (w : EN)
  | qbase (w : EN)
  | barinit (w : EN)
  | bara (w : EN)
  | barw (w : EN)
  | barrd (w : EN)
  | barb (w : EN)
  -- 0x78: matrix and gauge, 12 Table 3
  | gset (w : EN)
  | gmod (w : EN)
  | ginv (w : EN)
  | mma (w : EN)
  | mmfence (w : EN)
  | mmconv (w : CV)
  | mmrd (w : EN)
  | mmwr (w : EN)
  | gget (w : EN)
  | mmstat (w : EN)
  -- 0x80: reductions, 14 Table 1
  | redAdd (w : ME)
  | redMin (w : ME)
  | redMax (w : ME)
  -- 0x81: fabric, 14 Table 2
  | rput (w : EN)
  | rget (w : EN)
  | gath (w : EN)
  | publishShadow (w : EN)
  | pcarm (w : EN)
  | pcrd (w : EN)
  | pcadd (w : EN)
  | genst (w : EN)
  | genrd (w : EN)
  | fabst (w : EN)
  -- 0x90: traps, translation, grace, 19 Table 2, 20 Table 4, 22 Table 2
  | trap (w : SY)
  | tinfo (f : BitVec 3) (w : SY)
  | rte (w : SY)
  | rteSkip (w : SY)
  | save (w : SY)
  | yield (w : SY)
  | launch (w : SY)
  | tpost (w : SY)
  | tfence (w : SY)
  | icinv (w : SY)
  | quiesce (w : SY)
  | graceWait (w : SY)
  | dfree (w : SY)
  | gracest (w : SY)
  -- 0x98: trace and debug, 15 Table 9
  | tmark (w : IM)
  | temit (w : IM)
  | trcdis (w : IM)
  | trcen (w : IM)
  | bkpt (w : IM)
  | trcst (w : IM)
  | tflush (w : IM)
  -- a word that is refused: reason, operand, major, minor (04 R66)
  | illegal (r n maj mi : Nat)
  -- events: the steps other agents take; what a step acts on is State.inp, the schedule's choice (log 1)
  | offsetComplete
  | mod3Retry
  | handlerEligible
  | farAccessAtHome
  | farLoadLand
  | storeAck
  | groupUnblocked
  | groupEnd
  | copySectorComplete
  | skeinReserve
  | entryPoppable
  | skeinTake
  | qpopData
  | allowanceRise
  | baraArrival
  | blockBarrierComplete
  | publishVersionAdvance
  | matrixStart
  | mmaRowStep
  | mmaComplete
  | mmconvComplete
  | batchComplete
  | matrixFaultWait
  | sample
  | markerTimeout
  | traceDrain
  | dropped
  | trcctlWrite
  | dbgcmdRelease
  | dbgcmdReleaseAll
  | qtailDoorbell
  | qctlWrite
  | recordAdmission
  | blockPlace
  | queueAging
  | blockEnd
  | dependenceTagReady
  | launchComplete
  | taskTake
  | preemptRaise
  | forcedSave
  | groupLeave
  | restore
  | pageWalk
  | faultEntryWrite
  | fqackRetry
  | fqackNomem
  | fqackKilled
  | xlinv
  | fqctlWrite
  | icinvComplete
  | packetSend
  | packetPlace
  | packetAck
  | rtoExpiry
  | pcarmComplete
  | gatherComplete
  | planeFail
  | rtfill
  | rtmiss
  | jobctlWrite
  | regionValid
  | torusPortDown
  | verbaseWrite
  | hostAccess
  | graceElapse
  | castoffReturn
  | dfreeAppend
  | cut
  | llctlNow
  | llctlEn
  | llseal
  | sealCut
  | logDrain
  | llrep
  | replayEnd
  | scrub
  | tileoffWrite
  | cecntRead
  | errlostRead
  | errctlWrite
  | powerRound
  | throttle
  | pwrctlWrite
  | hbmRequest
  | idlePrecharge
  | refresh
  | coldReset
  | warmReset
  | registerWrite
  | instructionFetch
  | softError
  | serviceCoreStore
deriving DecidableEq, Repr

end Sys2Proof
end

