-- ==== Sys2Proof/Decode.lean ====
section
/-! DEFINITION. The 96-bit instruction word (04 R58 to R66): its fields, the issue-time checks of every form in the order
of their ILLEGAL reasons, the decoder (total: a word that breaks a rule decodes to `illegal` with the reason), and the
encoder. The form tables are those of 05, 06, 07, 10, 11, 12, 14, 15, 19, 20 and 22. -/

namespace Sys2Proof
open Sys2Proof.Machine

/-! ### Fields of a word -/

/-- The 12-bit field of an operand: kind at [11:10] (04 R58). -/
def Opnd.toNat : Opnd → Nat
  | .v n => n.toNat
  | .s n => 1024 + n.toNat
  | .p n => 2048 + n.toNat
  | .imm n => 3072 + n.toNat

/-- The operand a 12-bit field holds. -/
def Opnd.ofNat (x : Nat) : Opnd :=
  let n := BitVec.ofNat 10 x
  if x / 1024 % 4 = 0 then .v n else if x / 1024 % 4 = 1 then .s n else if x / 1024 % 4 = 2 then .p n else .imm n

/-- The kind code of an operand. -/
def Opnd.kind : Opnd → Nat
  | .v _ => 0
  | .s _ => 1
  | .p _ => 2
  | .imm _ => 3

/-- The index or value field of an operand. -/
def Opnd.idx : Opnd → Nat
  | .v n => n.toNat
  | .s n => n.toNat
  | .p n => n.toNat
  | .imm n => n.toNat

/-- The signed value of a kind 11 operand (04 R60). -/
def Opnd.simm : Opnd → Int
  | .v n => n.toInt
  | .s n => n.toInt
  | .p n => n.toInt
  | .imm n => n.toInt

/-- An unused operand field is zero (04 R64). -/
def Opnd.zero : Opnd := .v 0

/-- The type code (04 R61 Table 3). -/
def Ty.toNat : Ty → Nat
  | .none => 0 | .i8 => 1 | .i16 => 2 | .i32 => 3 | .i64 => 4 | .n8 => 5 | .n16 => 6 | .n32 => 7
  | .n64 => 8 | .f8e4 => 9 | .f16 => 10 | .bf16 => 11 | .f32 => 12 | .f64 => 13 | .rn24 => 14 | .rsv => 15

/-- The type of a code. -/
def Ty.ofCode : Nat → Ty
  | 0 => .none | 1 => .i8 | 2 => .i16 | 3 => .i32 | 4 => .i64 | 5 => .n8 | 6 => .n16 | 7 => .n32
  | 8 => .n64 | 9 => .f8e4 | 10 => .f16 | 11 => .bf16 | 12 => .f32 | 13 => .f64 | 14 => .rn24 | _ => .rsv

/-- The rounding-mode code (03 R39). -/
def RM.toNat : RM → Nat
  | .rne => 0 | .rz => 1 | .rp => 2 | .rmi => 3 | .rna => 4 | .bad5 => 5 | .bad6 => 6 | .bad7 => 7

def RM.ofCode : Nat → RM
  | 0 => .rne | 1 => .rz | 2 => .rp | 3 => .rmi | 4 => .rna | 5 => .bad5 | 6 => .bad6 | _ => .bad7

/-- The scope code (04 R62). -/
def Scope.toNat : Scope → Nat
  | .group => 0 | .tile => 1 | .device => 2 | .pod => 3 | .job => 4 | .bad5 => 5 | .bad6 => 6 | .bad7 => 7

def Scope.ofCode : Nat → Scope
  | 0 => .group | 1 => .tile | 2 => .device | 3 => .pod | 4 => .job | 5 => .bad5 | 6 => .bad6 | _ => .bad7

/-- The ORDER code (04 R59). -/
def Ord.toNat : Ord → Nat
  | .plain => 0 | .acq => 1 | .rel => 2 | .acqrel => 3

def Ord.ofCode : Nat → Ord
  | 0 => .plain | 1 => .acq | 2 => .rel | _ => .acqrel

/-- A word taken apart (04 R58 Table 1); MOD is left whole, its layout is the class's (04 R59). -/
structure Fields where
  major : Nat
  minor : Nat
  hd : Hd
  d : Opnd
  a : Opnd
  b : Opnd
  ty : Ty
  mod : Nat
deriving DecidableEq, Repr

/-- The fields of a 96-bit word. -/
def unpack (w : Nat) : Fields :=
  { major := fld w 88 8, minor := fld w 84 4,
    hd := { gneg := bit w 83, gp := BitVec.ofNat 4 (fld w 79 4), delay := BitVec.ofNat 4 (fld w 75 4),
            yield := bit w 74, lasta := bit w 73, lastb := bit w 72, pair := bit w 71, common := bit w 70 },
    d := Opnd.ofNat (fld w 58 12), a := Opnd.ofNat (fld w 46 12), b := Opnd.ofNat (fld w 34 12),
    ty := Ty.ofCode (fld w 30 4), mod := fld w 0 30 }

/-- The 96-bit word of fields that lie within their widths. -/
def pack (f : Fields) : Nat :=
  f.major * 2 ^ 88 + f.minor * 2 ^ 84 + b2n f.hd.gneg * 2 ^ 83 + f.hd.gp.toNat * 2 ^ 79 + f.hd.delay.toNat * 2 ^ 75
    + b2n f.hd.yield * 2 ^ 74 + b2n f.hd.lasta * 2 ^ 73 + b2n f.hd.lastb * 2 ^ 72 + b2n f.hd.pair * 2 ^ 71
    + b2n f.hd.common * 2 ^ 70 + f.d.toNat * 2 ^ 58 + f.a.toNat * 2 ^ 46 + f.b.toNat * 2 ^ 34 + f.ty.toNat * 2 ^ 30
    + f.mod

/-! ### Modifier fields by class (04 R59 Table 2) -/

def Fields.rm (f : Fields) : Nat := fld f.mod 27 3
def Fields.sat (f : Fields) : Bool := bit f.mod 26
def Fields.cond (f : Fields) : Nat := fld f.mod 20 6
def Fields.neg (f : Fields) : Nat := fld f.mod 24 2
def Fields.c (f : Fields) : Opnd := Opnd.ofNat (fld f.mod 12 12)
def Fields.sub (f : Fields) : Nat := fld f.mod 24 3
def Fields.imm (f : Fields) : Nat := fld f.mod 0 24
def Fields.bsub (f : Fields) : Nat := fld f.mod 24 6
def Fields.dty (f : Fields) : Nat := fld f.mod 22 4
def Fields.scale (f : Fields) : Nat := fld f.mod 14 8
def Fields.scopeM (f : Fields) : Nat := fld f.mod 27 3
def Fields.ac (f : Fields) : Nat := fld f.mod 23 4
def Fields.glob (f : Fields) : Bool := bit f.mod 22
def Fields.order (f : Fields) : Nat := fld f.mod 20 2
def Fields.ofs (f : Fields) : Nat := fld f.mod 0 20
def Fields.kind (f : Fields) : Nat := fld f.mod 24 3
def Fields.tag (f : Fields) : Nat := fld f.mod 24 6
def Fields.index (f : Fields) : Nat := fld f.mod 20 4
def Fields.scopeE (f : Fields) : Nat := fld f.mod 17 3
def Fields.param (f : Fields) : Nat := fld f.mod 0 17

/-- The payloads of the nine classes, as the fields give them. -/
def Fields.toR3 (f : Fields) : R3 := { hd := f.hd, d := f.d, a := f.a, b := f.b, ty := f.ty, rm := RM.ofCode f.rm, sat := f.sat }
def Fields.toFU (f : Fields) : FU :=
  { hd := f.hd, d := f.d, a := f.a, b := f.b, c := f.c, ty := f.ty, rm := RM.ofCode f.rm, sat := f.sat }
def Fields.toIM (f : Fields) : IM :=
  { hd := f.hd, d := f.d, a := f.a, b := f.b, ty := f.ty, rm := RM.ofCode f.rm, imm := BitVec.ofNat 24 f.imm }
def Fields.toBR (f : Fields) : BR := { hd := f.hd, d := f.d, a := f.a, b := f.b, ty := f.ty, disp := BitVec.ofNat 24 f.imm }
def Fields.toCV (f : Fields) : CV :=
  { hd := f.hd, d := f.d, a := f.a, b := f.b, ty := f.ty, rm := RM.ofCode f.rm, sat := f.sat, dty := Ty.ofCode f.dty,
    scale := BitVec.ofNat 8 f.scale }
def Fields.toME (f : Fields) : ME :=
  { hd := f.hd, d := f.d, a := f.a, b := f.b, ty := f.ty, scope := Scope.ofCode f.scopeM, ac := BitVec.ofNat 4 f.ac,
    glob := f.glob, order := Ord.ofCode f.order, ofs := BitVec.ofNat 20 f.ofs }
def Fields.toSY (f : Fields) : SY :=
  { hd := f.hd, d := f.d, a := f.a, b := f.b, ty := f.ty, scope := Scope.ofCode f.scopeM, imm := BitVec.ofNat 24 f.imm }
def Fields.toEN (f : Fields) : EN :=
  { hd := f.hd, d := f.d, a := f.a, b := f.b, ty := f.ty, tag := BitVec.ofNat 6 f.tag, index := BitVec.ofNat 4 f.index,
    scope := Scope.ofCode f.scopeE, param := BitVec.ofNat 17 f.param }

/-- The fields of a payload, with its opcode and selector (COND, NEGP NEGC, SUB, BSUB, KIND). -/
def R3.fields (w : R3) (major minor cond : Nat) : Fields :=
  { major := major, minor := minor, hd := w.hd, d := w.d, a := w.a, b := w.b, ty := w.ty,
    mod := w.rm.toNat * 2 ^ 27 + b2n w.sat * 2 ^ 26 + cond * 2 ^ 20 }
def FU.fields (w : FU) (major minor neg : Nat) : Fields :=
  { major := major, minor := minor, hd := w.hd, d := w.d, a := w.a, b := w.b, ty := w.ty,
    mod := w.rm.toNat * 2 ^ 27 + b2n w.sat * 2 ^ 26 + neg * 2 ^ 24 + w.c.toNat * 2 ^ 12 }
def IM.fields (w : IM) (major minor sub : Nat) : Fields :=
  { major := major, minor := minor, hd := w.hd, d := w.d, a := w.a, b := w.b, ty := w.ty,
    mod := w.rm.toNat * 2 ^ 27 + sub * 2 ^ 24 + w.imm.toNat }
def BR.fields (w : BR) (major minor bsub : Nat) : Fields :=
  { major := major, minor := minor, hd := w.hd, d := w.d, a := w.a, b := w.b, ty := w.ty,
    mod := bsub * 2 ^ 24 + w.disp.toNat }
def CV.fields (w : CV) (major minor _sel : Nat) : Fields :=
  { major := major, minor := minor, hd := w.hd, d := w.d, a := w.a, b := w.b, ty := w.ty,
    mod := w.rm.toNat * 2 ^ 27 + b2n w.sat * 2 ^ 26 + w.dty.toNat * 2 ^ 22 + w.scale.toNat * 2 ^ 14 }
def ME.fields (w : ME) (major minor _sel : Nat) : Fields :=
  { major := major, minor := minor, hd := w.hd, d := w.d, a := w.a, b := w.b, ty := w.ty,
    mod := w.scope.toNat * 2 ^ 27 + w.ac.toNat * 2 ^ 23 + b2n w.glob * 2 ^ 22 + w.order.toNat * 2 ^ 20 + w.ofs.toNat }
def SY.fields (w : SY) (major minor kind : Nat) : Fields :=
  { major := major, minor := minor, hd := w.hd, d := w.d, a := w.a, b := w.b, ty := w.ty,
    mod := w.scope.toNat * 2 ^ 27 + kind * 2 ^ 24 + w.imm.toNat }
def EN.fields (w : EN) (major minor _sel : Nat) : Fields :=
  { major := major, minor := minor, hd := w.hd, d := w.d, a := w.a, b := w.b, ty := w.ty,
    mod := w.tag.toNat * 2 ^ 24 + w.index.toNat * 2 ^ 20 + w.scope.toNat * 2 ^ 17 + w.param.toNat }
/-- `nop` has nothing but a guard and hints (04 R67). -/
def Hd.fields (w : Hd) (major minor _sel : Nat) : Fields :=
  { major := major, minor := minor, hd := w, d := Opnd.zero, a := Opnd.zero, b := Opnd.zero, ty := .none, mod := 0 }

/-! ### What a form accepts -/

/-- The limits a word is checked against beside itself: the group's allotment (02 R16), the mask of the skeins its kernel
declares (11 R198), the half-slots of its accumulator window (12 R212). -/
structure Limits where
  vregs : Nat
  skeins : Nat
  span : Nat
deriving DecidableEq, Repr

/-- The widest limits any group can have. -/
def Limits.widest : Limits := { vregs := 256, skeins := 2 ^ 32 - 1, span := 16 }

/-- What one form accepts, for one word. Kinds are sets: 1 vector, 2 scalar, 4 predicate, 8 immediate; 0 is an unused
operand (04 R64). -/
structure Form where
  kd : Nat := 0
  ka : Nat := 0
  kb : Nat := 0
  kc : Nat := 0
  /-- operands of the form that may also be absent, that is zero: 2 A, 4 B -/
  opt : Nat := 0
  /-- the operand C of the Fused class -/
  c : Opnd := Opnd.zero
  /-- accepted type codes, as a bit set -/
  types : Nat := 1
  /-- mask-independent (08 R148) -/
  mi : Bool := false
  /-- D is written -/
  wr : Bool := true
  /-- D may be %status (02 R19, 05 R101) -/
  st : Bool := false
  /-- A accepts s0 to s191 only -/
  sA : Bool := false
  /-- per-lane special registers may be sources when the destination is a vector register or a predicate (02 R19) -/
  lane : Bool := true
  /-- a per-lane special register in a written D has reason 6, not 7 (11 R188, R198) -/
  d6 : Bool := false
  /-- operands that name a pair when they are vectors: 1 D, 2 A, 4 B, 8 C (02 R16) -/
  pairs : Nat := 0
  /-- a modifier value is accepted (reason 8) -/
  ok8 : Bool := true
  /-- bits of MOD that must be zero (reason 9) -/
  z9 : Nat := 0
  /-- reason 7 beside the operands' own: the OPND number -/
  bad7 : Option Nat := none

/-- The kinds a table may list. -/
def kV : Nat := 1
def kS : Nat := 2
def kP : Nat := 4
def kVS : Nat := 3
def kSI : Nat := 10
def kVSI : Nat := 11

/-- The type sets of the tables (05 R98, 06 "Integer forms", 07 R122). -/
def tI : Nat := 0x1E
def tN : Nat := 0x1E0
def tIN : Nat := 0x1FE
def tF : Nat := 0x3C00
def tAll : Nat := 0x7FFE
def tB : Nat := 0x180
def tI34 : Nat := 0x198
def tAcc : Nat := 0x5C00

/-- A 64-bit type. -/
def Ty.wide (t : Ty) : Bool := t == .i64 || t == .n64 || t == .f64

/-- Membership of a code in a bit set. -/
def inSet (s n : Nat) : Bool := bit s n

/-- Every vector operand of a vector form is a pair under a 64-bit type (06 R106). -/
def Fields.allPairs (f : Fields) : Nat := if f.ty.wide then 15 else 0

/-- Rounding-mode and saturation limits of a class that has RM and SAT. -/
def Fields.rs (f : Fields) (rmMax : Nat) (satOk : Bool) : Bool := decide (f.rm ≤ rmMax) && (!f.sat || satOk)

/-- Major 0x01 (05 Table 1). -/
def form01 (f : Fields) : Option Form :=
  match f.minor with
  | 0 => some { z9 := 0x3FFFFFFF }
  | 1 => some { wr := false, z9 := 0x30000000 + (if bit f.bsub 3 then 0 else 0x07000000) }
  | 2 => some { ka := kS, kb := kSI, wr := false, ok8 := decide (f.bsub % 16 ≤ 5), z9 := 0x30000000 }
  | 3 => some { ka := kP, wr := false, ok8 := decide (f.bsub ≤ 2) }
  | 4 => some { kd := kS, ok8 := f.bsub == 0 }
  | 5 => some { ka := kS, wr := false, ok8 := f.bsub == 0 }
  | 6 => some { wr := false, z9 := 0x3FFFFFFF }
  | 7 => some { wr := false, z9 := 0x38FFFFFF }
  | 8 => some { ka := kV, wr := false, z9 := 0x3FFFFFFF }
  | _ => none

/-- Major 0x02 (05 Table 4, R96). -/
def form02 (f : Fields) : Option Form :=
  match f.minor with
  | 0 => some { kd := kP, ok8 := f.rs 0 false && f.cond == 0, z9 := 0xFFFFF }
  | 1 => some { kd := kS, ka := kP, ok8 := f.rs 0 false && f.cond == 0, z9 := 0xFFFFF }
  | 2 => some { kd := kP, ka := kSI, ok8 := f.rs 0 false && f.cond == 0, z9 := 0xFFFFF }
  | 3 => some { kd := kS, ok8 := f.rs 0 false && decide (f.cond ≤ 3), z9 := 0xFFFFF }
  | _ => none

/-- Major 0x10 (05 Table 5, R98). -/
def form10 (f : Fields) : Option Form :=
  let two (ty max : Nat) (sat : Bool) : Option Form :=
    some { kd := kS, ka := kS, kb := kSI, types := ty, ok8 := f.rs 0 sat && decide (f.cond ≤ max), z9 := 0xFFFFF }
  let one (ty max : Nat) (sat : Bool) : Option Form :=
    some { kd := kS, ka := kS, types := ty, ok8 := f.rs 0 sat && decide (f.cond ≤ max), z9 := 0xFFFFF }
  match f.minor with
  | 0x0 => two tIN 0 true
  | 0x1 => two tIN 0 true
  | 0x2 => two tIN 1 (f.cond == 0)
  | 0x3 => two tIN 1 false
  | 0x4 => two tIN 1 false
  | 0x5 => two tN 3 false
  | 0x6 => two tIN 3 false
  | 0x7 => two tIN 5 false
  | 0x8 => one tN 3 false
  | 0x9 => one tI 1 true
  | 0xA => some { kd := kS, ka := kSI, st := true, ok8 := f.rs 0 false && f.cond == 0, z9 := 0xFFFFF }
  | 0xB => some { kd := kS, ka := kS, kb := kS, ok8 := f.rs 0 false, z9 := 0x38FFFFF }
  | 0xC => some { kd := kS, ka := kS, kb := kS, ok8 := f.rs 0 false, z9 := 0x20FFFFF }
  | 0xD => one 1 3 false
  | _ => none

/-- Major 0x11 (05 Table 7, R102). -/
def form11 (f : Fields) : Option Form :=
  match f.minor with
  | 0x0 => some { kd := kS, ka := kS, types := tIN, ok8 := f.rm == 0 && f.sub == 0 }
  | 0x1 => some { kd := kS, ok8 := f.rm == 0 && decide (f.sub ≤ 2), z9 := if f.sub = 2 then 0xFF0000 else 0 }
  | 0x2 => some { kd := kS, ka := kS, types := tN, ok8 := f.rm == 0 && decide (f.sub ≤ 2) }
  | 0x3 => some { kd := kS, ka := kS, types := 0x100, z9 := 0xFFE000,
                  ok8 := f.rm == 0 && decide (f.sub ≤ 2) && decide (1 ≤ fld f.imm 6 7)
                    && decide (fld f.imm 0 6 + fld f.imm 6 7 ≤ 64) }
  | _ => none

/-- Major 0x12 (05 R103). -/
def form12 (f : Fields) : Option Form :=
  match f.minor with
  | 0x0 => some { kd := kVS, types := tAll, pairs := if f.ty.wide then 1 else 0, ok8 := f.rm == 0 && f.sub == 0 }
  | _ => none

/-- Major 0x20 (06 Table 1, R106). DESIGN CHOICE (log 32): a COND that names no form of its row (minor 0xA with COND above 4; minor 5 of major 0x31 with COND above 2)
leaves the kinds of its operands unstated (R105): they are checked as those of a form with two sources, before COND is refused. -/
def form20 (f : Fields) : Option Form :=
  let two (ty max : Nat) (sat : Bool) : Option Form :=
    some { kd := kV, ka := kVS, kb := kVSI, types := ty, pairs := f.allPairs,
           ok8 := f.rs 0 sat && decide (f.cond ≤ max), z9 := 0xFFFFF }
  let one (ty max : Nat) (sat : Bool) : Option Form :=
    some { kd := kV, ka := kVS, types := ty, pairs := f.allPairs,
           ok8 := f.rs 0 sat && decide (f.cond ≤ max), z9 := 0xFFFFF }
  match f.minor with
  | 0x0 => two tIN 0 true
  | 0x1 => two tIN 0 true
  | 0x2 => two tIN 1 (f.cond == 0)
  | 0x3 => two tIN 1 false
  | 0x4 => one tI 1 true
  | 0x5 => two tN 3 false
  | 0x6 => two tIN 3 false
  | 0x7 => one tN 3 false
  | 0x8 => some { kd := kV, ka := kVSI, types := tB, pairs := f.allPairs, ok8 := f.rs 0 false && f.cond == 0, z9 := 0xFFFFF }
  | 0x9 => some { kd := kP, ka := kV, kb := kVSI, types := tI34, pairs := f.allPairs,
                  ok8 := f.rs 0 false && decide (f.cond ≤ 5), z9 := 0xFFFFF }
  | 0xA => some { kd := kP, ka := kP, kb := if f.cond = 4 then 0 else kP,
                  ok8 := f.rs 0 false && decide (f.cond ≤ 4), z9 := 0xFFFFF }
  | _ => none

/-- A Fused form (04 R59): C, and NEGP and NEGC zero where the row says so. -/
def fused (f : Fields) (ty kc rmMax : Nat) (sat neg : Bool) : Form :=
  { kd := kV, ka := kVS, kb := kVSI, kc := kc, c := f.c, types := ty, pairs := f.allPairs,
    ok8 := f.rs rmMax sat, z9 := 0xFFF + (if neg then 0 else 0x3000000) }

/-- Major 0x21 (06 Table 2). -/
def form21 (f : Fields) : Option Form :=
  match f.minor with
  | 0x0 => some (fused f tIN kVSI 0 true true)
  | 0x1 => some (fused f tB kP 0 false false)
  | 0x2 => some (fused f tIN kVSI 0 false false)
  | 0x3 => some (fused f 0x22 kVSI 0 true false)
  | _ => none

/-- Major 0x30 (06 Table 4). -/
def form30 (f : Fields) : Option Form :=
  match f.minor with
  | 0x0 => some (fused f tF kVSI 3 false true)
  | 0x1 => some (fused f tF kVSI 0 false false)
  | _ => none

/-- Major 0x31 (06 Table 5). -/
def form31 (f : Fields) : Option Form :=
  let two (max rmMax : Nat) : Option Form :=
    some { kd := kV, ka := kVS, kb := kVSI, types := tF, pairs := f.allPairs,
           ok8 := f.rs rmMax false && decide (f.cond ≤ max), z9 := 0xFFFFF }
  match f.minor with
  | 0x0 => two 0 3
  | 0x1 => two 0 3
  | 0x2 => two 0 3
  | 0x3 => two 0 3
  | 0x4 => two 3 0
  | 0x5 => some { kd := kV, ka := kVS, kb := if f.cond ≤ 1 then 0 else kVSI, types := tF, pairs := f.allPairs,
                  ok8 := f.rs 0 false && decide (f.cond ≤ 2), z9 := 0xFFFFF }
  | 0x6 => some { kd := kP, ka := kV, kb := kVSI, types := tF, pairs := f.allPairs,
                  ok8 := f.rs 0 false && decide (f.cond ≤ 7), z9 := 0xFFFFF }
  | 0x7 => some { kd := kP, ka := kV, kb := 8, types := tF, pairs := f.allPairs,
                  ok8 := f.rs 0 false && f.cond == 0 && decide (0 ≤ f.b.simm), z9 := 0xFFFFF }
  | 0x8 => some { kd := kV, ka := kVS, types := tF, pairs := f.allPairs,
                  ok8 := f.rs 3 false && f.cond == 0, z9 := 0xFFFFF }
  | _ => none

/-- Major 0x32 (06 Table 4). -/
def form32 (f : Fields) : Option Form :=
  match f.minor with
  | 0x0 => some (fused f 0xC00 kVSI 3 false false)
  | _ => none

/-- The width classes of 06 R118: 2 wide, 1 half, 0 quarter; 3 for no type. -/
def Ty.widthClass : Ty → Nat
  | .i32 | .n32 | .i64 | .n64 | .f32 | .f64 | .rn24 => 2
  | .i16 | .n16 | .f16 | .bf16 => 1
  | .i8 | .n8 | .f8e4 => 0
  | .none | .rsv => 3

/-- Floating-point formats (03 R35). -/
def Ty.float : Ty → Bool
  | .f8e4 | .f16 | .bf16 | .f32 | .f64 => true
  | _ => false

/-- Integer types. -/
def Ty.int : Ty → Bool
  | .i8 | .i16 | .i32 | .i64 | .n8 | .n16 | .n32 | .n64 => true
  | _ => false

/-- Bits of an element of the type: 03 R32, R35; .rn24 is a 32-bit word. -/
def Ty.bits : Ty → Nat
  | .i8 | .n8 | .f8e4 => 8
  | .i16 | .n16 | .f16 | .bf16 => 16
  | .i64 | .n64 | .f64 => 64
  | _ => 32

/-- Pairs `vcvt` accepts (06 R118). -/
def cvtOk (s d : Ty) : Bool :=
  if d == .rn24 then s == .i32 || s == .i64
  else if s == .rn24 then d == .i32 || d == .i64 || d == .f32 || d == .f64
  else s.widthClass == d.widthClass && s.widthClass != 3

/-- Field limits of a conversion by kind of pair (06 Table 9). -/
def cvtFields (s d : Ty) (rm : Nat) (sat : Bool) (scale : Nat) : Bool :=
  if s.int && d.int then rm == 0 && scale == 0
  else if d == .rn24 || (s == .rn24 && d.int) then rm == 0 && !sat && scale == 0
  else decide (rm ≤ 4) && !sat

/-- Major 0x40 (06 Table 8). -/
def form40 (f : Fields) : Option Form :=
  let d := Ty.ofCode f.dty
  let pr := (if d.wide then 1 else 0) + (if f.ty.wide then 2 else 0)
  let lim := cvtFields f.ty d f.rm f.sat f.scale
  match f.minor with
  | 0x0 => some { kd := kV, ka := kVS, types := tAll, pairs := pr, ok8 := cvtOk f.ty d && lim, z9 := 0x3FFF }
  | 0x1 => some { kd := kV, ka := kVS, kb := 8, types := tAll, pairs := pr, z9 := 0x3FFF,
                  ok8 := f.ty.widthClass == 2 && f.ty != .rn24 && decide (d.widthClass ≤ 1) && lim
                    && decide (f.b.idx < 32 / d.bits) }
  | 0x2 => some { kd := kV, ka := kVS, kb := 8, types := tAll, pairs := pr, z9 := 0x3FFF,
                  ok8 := decide (f.ty.widthClass ≤ 1) && d.widthClass == 2 && d != .rn24 && lim
                    && decide (f.b.idx < 32 / f.ty.bits) }
  | _ => none

/-- Types of the operations of `vredlog` and `vscan` (07 Table 2). -/
def redTypes (op : Nat) : Nat := if op ≤ 2 then tIN + tF else if op ≤ 4 then tF else tN

/-- Major 0x48 (07 Table 1). -/
def form48 (f : Fields) : Option Form :=
  let op := f.cond % 8
  let rmMax := if op = 0 && inSet tF f.ty.toNat then 3 else 0
  let sat := op == 0 && inSet tIN f.ty.toNat
  match f.minor with
  | 0x0 => some { kd := kV, ka := kV, kb := kVSI, types := tB, pairs := f.allPairs, lane := false,
                  ok8 := f.rs 0 false && decide (fld f.cond 2 3 ≤ 5), z9 := 0x20FFFFF }
  | 0x1 => some { kd := kVS, ka := kV, types := redTypes op, pairs := f.allPairs, lane := false,
                  ok8 := f.rs rmMax sat, z9 := 0x38FFFFF }
  | 0x2 => some { kd := kV, ka := kV, types := redTypes op, pairs := f.allPairs, lane := false,
                  ok8 := f.rs rmMax sat, z9 := 0x30FFFFF }
  | 0x3 => some { kd := kV, ka := kV, kb := kP, types := if bit f.cond 3 then 0x1000 else 0x1088, pairs := 1, lane := false,
                  ok8 := f.rs (if bit f.cond 3 then 3 else 0) false, z9 := 0x30FFFFF }
  | _ => none

/-- Major 0x49 (07 Table 3). DESIGN CHOICE (log 32): the vector B of `vrand.n64`, read as .n32, must name an even-odd pair like the .n64 operands of the word; R130 does
not say. -/
def form49 (f : Fields) : Option Form :=
  match f.minor with
  | 0x0 => some { kd := kV, ka := kVS, types := if f.sub = 3 then 0x1000 else 0x3000, pairs := f.allPairs,
                  ok8 := decide (f.sub ≤ 3) && decide (f.rm ≤ (if f.sub ≤ 2 then 3 else 0)), z9 := 0xFFFFFF }
  | 0x1 => some { kd := kV, ka := kVSI, kb := kVSI, types := 0x1000, ok8 := f.sub == 0 && decide (f.rm ≤ 3), z9 := 0xFFFFFF }
  | 0x2 => some { kd := kV, ka := kVS, kb := kVSI, types := 0x1000, ok8 := f.sub == 0 && decide (f.rm ≤ 3), z9 := 0xFFFFFF }
  | 0x3 => some { kd := kV, ka := kS, kb := kVSI, sA := true, types := 0x1180, pairs := f.allPairs,
                  ok8 := f.sub == 0 && f.rm == 0, z9 := 0xFFFFFF }
  | 0x4 => some { kd := kS, types := 0x100, ok8 := f.sub == 0 && f.rm == 0, z9 := 0xFFFFFF }
  | _ => none

/-- The Mem-class checks of 10 R162: accepted orders as a set, whether AC and GLOB are. -/
def memForm (f : Fields) (kd ka kb ty orders pairs : Nat) (wr ac glob : Bool) : Form :=
  { kd := kd, ka := ka, kb := if f.d.kind = 1 then 0 else kb, types := ty, wr := wr, lane := false, pairs := pairs,
    ok8 := inSet orders f.order && decide (f.scopeM ≤ 4) && (f.order != 0 || f.scopeM == 0) && (!f.glob || glob),
    z9 := if ac then 0 else 0x7800000 }

/-- Major 0x50 (10 Table 1). -/
def form50 (f : Fields) : Option Form :=
  let pr := if f.ty.wide then 1 else 0
  match f.minor with
  | 0x0 => some (memForm f kVS kS kVSI tAll 1 pr true false false)
  | 0x1 => some (memForm f kVS kS kVSI tAll 1 pr false false false)
  | 0x2 => some (memForm f kV kS 0 0x80 1 0 true false false)
  | 0x3 => some (memForm f kV kS 0 0x80 1 0 false false false)
  | 0x4 => some (memForm f kVS kS kVSI tAll 3 pr true true true)
  | 0x5 => some (memForm f kVS kS kVSI tAll 5 pr false false true)
  | _ => none

/-- Major 0x51 (10 Table 2, R173, R177). -/
def form51 (f : Fields) : Option Form :=
  let pr := 2 + (if f.ty.wide then 5 else 0)
  if f.minor ≤ 7 then
    some (memForm f kV kVS kVSI (if f.minor = 0 then tI34 + 0x1000 else if f.minor ≤ 2 then tI34 else tB) 15 pr true true true)
  else if f.minor = 8 then some (memForm f 0 kS kV 0x1800 5 0 false false true)
  else none

/-- Major 0x80 (14 Table 1, R251). -/
def form80 (f : Fields) : Option Form :=
  let pr := if f.ty.wide then 1 else 0
  if f.minor ≤ 2 then some (memForm f kVS kS kVSI (if f.minor = 0 then tI34 + 0x1000 else tI34) 5 pr false false true)
  else none

/-- Major 0x60 (10 Tables 4 and 5). -/
def form60 (f : Fields) : Option Form :=
  let a0 := f.a == Opnd.zero
  match f.minor with
  | 0x0 => some { ka := if f.kind = 4 then 0 else kS, opt := if f.kind = 1 || f.kind = 2 then 0 else 2, wr := false, mi := true,
                  ok8 := decide (f.kind ≤ 4) && f.scopeM == 0,
                  z9 := if f.kind = 0 then 0xF0000 + (if a0 then 0 else 0xFFFF) else if f.kind = 3 then 0xFF0000 else 0xFFFFFF }
  | 0x1 => some { kd := kS, ka := kS, ok8 := f.kind == 0 && f.scopeM == 0, z9 := 0xFFFFFF }
  | 0x2 => some { wr := false, mi := true, ok8 := decide (1 ≤ f.kind) && decide (f.kind ≤ 3) && decide (f.scopeM ≤ 4), z9 := 0xFFFFFF }
  | 0x3 => some { wr := false, mi := true, ok8 := f.kind == 0 && f.scopeM == 0, z9 := 0xFFFFF0 }
  | 0x4 => some { kd := kS, ok8 := f.kind == 0 && f.scopeM == 0, z9 := 0xFFFFF }
  | 0x5 => some { ka := kSI, wr := false, ok8 := f.kind == 0 && f.scopeM == 0, z9 := 0xFFFFF }
  | _ => none

/-- The limits of an immediate operand, reason 8 outside them (11 R188, Table 4; 12 Table 3; 14 Table 2). -/
def immIn (o : Opnd) (lo hi : Int) : Bool := o.kind != 3 || (decide (lo ≤ o.simm) && decide (o.simm ≤ hi))

/-- Scopes TILE and DEVICE, the two an engine form accepts. -/
def scope12 (f : Fields) : Bool := f.scopeE == 1 || f.scopeE == 2

/-- Major 0x68 (11 Table 1, R188). -/
def form68 (f : Fields) : Option Form :=
  match f.minor with
  | 0x0 => some { kd := kS, ka := kS, kb := kSI, wr := false, mi := true, lane := false,
                  ok8 := scope12 f && immIn f.b 1 511, z9 := 0xF0FFFF }
  | 0x1 => some { kd := kS, ka := kS, kb := kSI, wr := false, mi := true, lane := false,
                  ok8 := scope12 f && immIn f.b 1 511, z9 := 0xF1FFFF }
  | 0x2 => some { ka := kS, wr := false, mi := true, lane := false, ok8 := scope12 f, z9 := 0xF1FFFF }
  | 0x3 => some { kd := kS, lane := false, d6 := true, ok8 := f.scopeE == 0, z9 := 0xF1FFFF }
  | 0x4 => some { ka := kS, wr := false, lane := false, ok8 := f.scopeE == 0, z9 := 0x3FF1FFFF }
  | _ => none

/-- The skein a word names: k[3:0] in INDEX, k[4] in PARAM[0] (11 R198). -/
def Fields.skein (f : Fields) : Nat := f.index + 16 * (f.param % 2)

/-- Major 0x70 (11 Table 4, R198). -/
def form70 (lim : Limits) (f : Fields) : Option Form :=
  let q : Option Nat := if bit lim.skeins f.skein then none else some 0
  match f.minor with
  | 0x0 => some { ka := kVS, wr := false, mi := true, lane := false, ok8 := scope12 f, z9 := 0x3F01FFFE, bad7 := q }
  | 0x1 => some { kd := kVS, mi := true, lane := false, d6 := true, ok8 := scope12 f, z9 := 0x3F01FFFE, bad7 := q }
  | 0x2 => some { kd := kS, lane := false, d6 := true, ok8 := f.scopeE == 0, z9 := 0x3F01FFFE, bad7 := q }
  | 0x3 => some { kd := kS, lane := false, d6 := true, ok8 := f.scopeE == 0, z9 := 0x3F01FFFE, bad7 := q }
  | 0x4 => some { ka := kS, kb := kSI, wr := false, lane := false, ok8 := f.scopeE == 0 && immIn f.b 1 511, z9 := 0x3FF1FFFF }
  | 0x5 => some { ka := kS, kb := kSI, wr := false, mi := true, lane := false, ok8 := scope12 f && immIn f.b 0 511, z9 := 0x3FF1FFFF }
  | 0x6 => some { ka := kS, kb := kSI, wr := false, mi := true, lane := false, ok8 := scope12 f && immIn f.b 0 1, z9 := 0x3FF1FFFF }
  | 0x7 => some { kd := kS, ka := kS, lane := false, d6 := true, ok8 := f.scopeE == 0, z9 := 0x3FF1FFFF }
  | 0x8 => some { wr := false, mi := true, lane := false, ok8 := scope12 f, z9 := 0x3F01FFFF }
  | _ => none

/-- Pairs of input and accumulator types of `mma`; ACC is 0 .f32, 1 .bf16, 2 .f16, 3 .rn24 (12 Table 1, R219). -/
def mmaPair (ty : Ty) (acc : Nat) : Bool :=
  match ty with
  | .bf16 => acc == 0 || acc == 1
  | .f16 => acc == 0 || acc == 2
  | .f8e4 => acc == 0 || acc == 1 || acc == 2
  | .rn24 => acc == 3
  | _ => false

/-- A tile of the accumulator window: full-width tiles are named by an even half-slot; all of it lies in the span (12 R212). -/
def accOk (lim : Limits) (j : Nat) (full : Bool) : Bool :=
  if full then j % 2 == 0 && decide (j + 2 ≤ lim.span) else decide (j + 1 ≤ lim.span)

/-- Conversion pairs of `mmconv` (12 Table 4). -/
def mmconvOk (s d : Ty) (rm : Nat) (scale : Nat) : Bool :=
  match s with
  | .f32 => (d == .f32 || d == .f64 || d == .bf16 || d == .f16) && decide (rm ≤ 4)
  | .bf16 => (d == .bf16 || d == .f32) && decide (rm ≤ 4)
  | .f16 => (d == .f16 || d == .f32) && decide (rm ≤ 4)
  | .rn24 => ((d == .f32 || d == .f64) && decide (rm ≤ 4)) || ((d == .i32 || d == .rn24) && rm == 0 && scale == 0)
  | _ => false

/-- The accumulator types that are full-width. -/
def Ty.fullAcc (t : Ty) : Bool := t == .f32 || t == .rn24

/-- Major 0x78 (12 Table 3, R219). `mmconv` with SAT = 1, which R223 forbids without naming a reason, is reason 8 (DESIGN CHOICE, log 32). -/
def form78 (lim : Limits) (f : Fields) : Option Form :=
  let j := fld f.param 9 4
  let acc := fld f.param 7 2
  match f.minor with
  | 0x0 => some { ka := kS, wr := false, mi := true, ok8 := f.scopeE == 0, z9 := 0x3F01FFFF }
  | 0x1 => some { ka := kS, wr := false, mi := true, ok8 := f.scopeE == 0 && decide (fld f.param 0 3 ≤ 3), z9 := 0x3F01FFF0 }
  | 0x2 => some { wr := false, mi := true, ok8 := f.scopeE == 0, z9 := 0x3F01FFFF }
  | 0x3 => some { types := 0x4E00, wr := false, mi := true, z9 := 0x3F000000,
                  ok8 := scope12 f && mmaPair f.ty acc && decide (fld f.param 13 3 ≤ (if acc = 3 then 0 else 3)),
                  bad7 := if accOk lim j (acc == 0 || acc == 3) then none else some 0 }
  | 0x4 => some { kd := kS, mi := true, ok8 := f.scopeE == 0, z9 := 0x3FF1FFFF }
  | 0x5 => some { ka := kS, kb := 8, types := tAcc, wr := false, mi := true, z9 := 0x3FFF,
                  ok8 := (fld f.b.idx 8 2 == 1 || fld f.b.idx 8 2 == 2) && !f.sat && mmconvOk f.ty (Ty.ofCode f.dty) f.rm f.scale,
                  bad7 := if accOk lim (f.b.idx % 16) f.ty.fullAcc then none else some 3 }
  | 0x6 => some { kd := kV, kb := kSI, types := tAcc, ok8 := f.scopeE == 0 && immIn f.b 0 255, z9 := 0x3FF1E1FF,
                  bad7 := if accOk lim j f.ty.fullAcc then none else some 0 }
  | 0x7 => some { ka := kV, kb := kSI, types := tAcc, wr := false, ok8 := f.scopeE == 0 && immIn f.b 0 255, z9 := 0x3FF1E1FF,
                  bad7 := if accOk lim j f.ty.fullAcc then none else some 0 }
  | 0x8 => some { kd := kS, ok8 := f.scopeE == 0 && decide (fld f.param 0 3 ≤ 4), z9 := 0x3F01FFF8 }
  | 0x9 => some { kd := kS, ok8 := f.scopeE == 0, z9 := 0x3FF1FFFF }
  | _ => none

/-- Major 0x81 (14 Table 2, R251). A region PARAM of 32 or more sets bits that Table 2 shows as zero: reason 9, where R251 gives reason 8 to a region above 31
(DESIGN CHOICE, log 32). -/
def form81 (f : Fields) : Option Form :=
  let s0 := f.scopeE == 0
  match f.minor with
  | 0x0 => some { kd := kS, ka := kS, kb := kSI, wr := false, mi := true, lane := false, z9 := 0x1FFF0,
                  ok8 := s0 && immIn f.b 1 511 && decide (fld f.param 0 4 ≤ 6) }
  | 0x1 => some { kd := kS, ka := kS, kb := kSI, wr := false, mi := true, lane := false, z9 := 0xF0FFF0,
                  ok8 := s0 && immIn f.b 1 511 && decide (fld f.param 0 4 ≤ 6) }
  | 0x2 => some { ka := kS, wr := false, mi := true, lane := false, z9 := 0xF1FFFF, ok8 := s0 }
  | 0x3 => some { kd := kS, ka := kS, lane := false, z9 := 0x3FF1FFFE, ok8 := s0 }
  | 0x4 => some { ka := kS, wr := false, mi := true, lane := false, z9 := 0x1FFE0, ok8 := s0 }
  | 0x5 => some { kd := kS, lane := false, z9 := 0x3F01FFE0, ok8 := s0 }
  | 0x6 => some { ka := kSI, wr := false, lane := false, z9 := 0x3F01FFE0, ok8 := s0 }
  | 0x7 => some { ka := kSI, wr := false, lane := false, z9 := 0x3FF1FFE0, ok8 := s0 }
  | 0x8 => some { kd := kS, lane := false, z9 := 0x3FF1FFE0, ok8 := s0 }
  | 0x9 => some { kd := kS, lane := false, z9 := 0x3FF1FFFF, ok8 := s0 }
  | _ => none

/-- Major 0x90 (19 Table 2, R313 and R317, 20 Table 4 and R336, 22 Table 2). -/
def form90 (lim : Limits) (f : Fields) : Option Form :=
  let k0 := f.kind == 0 && f.scopeM == 0
  match f.minor with
  | 0x0 => some { wr := false, ok8 := k0, z9 := 0xFFFF00 }
  | 0x1 => some { kd := kS, ok8 := decide (f.kind ≤ 4) && f.scopeM == 0, z9 := 0xFFFFFF }
  | 0x2 => some { wr := false, mi := true, ok8 := decide (f.kind ≤ 1) && f.scopeM == 0, z9 := 0xFFFFFF }
  | 0x3 => some { wr := false, mi := true, ok8 := k0 && decide (fld f.imm 0 16 < 2 ^ (lim.vregs / 16)), z9 := 0xFE0000 }
  | 0x4 => some { wr := false, mi := true, ok8 := k0, z9 := 0xFFFFFF }
  | 0x5 => some { kd := kS, ka := kS, ok8 := k0, z9 := 0xFFFFF0 }
  | 0x6 => some { kd := kS, ka := kS, ok8 := k0, z9 := 0xFFFFFF }
  | 0x7 => some { ka := if f.kind = 0 then 0 else kS, kb := if f.kind = 0 then 0 else kS, opt := if f.kind = 1 then 0 else 6,
                  wr := false, mi := true, z9 := 0xFFFFFF,
                  ok8 := decide (f.kind ≤ 1) && (f.scopeM == 1 || f.scopeM == 2) }
  | 0x8 => some { wr := false, mi := true, ok8 := k0, z9 := 0xFFFFFF }
  | 0x9 => some { wr := false, mi := true, ok8 := k0, z9 := 0xFFFFFF }
  | 0xA => some { kd := kS, ka := kS, ok8 := k0, z9 := 0xFFFFF0 }
  | 0xB => some { kd := kS, ok8 := k0, z9 := 0xFFFFFF }
  | _ => none

/-- Major 0x98 (15 Table 9, R280). -/
def form98 (f : Fields) : Option Form :=
  let r0 := f.rm == 0
  match f.minor with
  | 0x0 => some { wr := false, ok8 := r0 && f.sub == 0, z9 := 0xFFFFFF }
  | 0x1 => some { ka := kS, wr := false, ok8 := r0 && f.sub == 0, z9 := 0xFFFFFF }
  | 0x2 => some { wr := false, ok8 := r0 && decide (f.sub ≤ 1), z9 := 0xFFFFFF }
  | 0x3 => some { wr := false, ok8 := r0 && f.sub == 0, z9 := 0xFFFF00 }
  | 0x4 => some { kd := kS, ok8 := r0 && f.sub == 0, z9 := 0xFFFFFF }
  | 0x5 => some { wr := false, ok8 := r0 && f.sub == 0, z9 := 0xFFFFFF }
  | _ => none

/-- The form of a word, or the reason it has none: 1 major not assigned, 2 literal word, 3 minor not assigned (04 R63). -/
def formOf (lim : Limits) (f : Fields) : Except Nat Form :=
  let m (o : Option Form) : Except Nat Form := match o with | some x => .ok x | none => .error 3
  match f.major with
  | 0x01 => m (form01 f)
  | 0x02 => m (form02 f)
  | 0x10 => m (form10 f)
  | 0x11 => m (form11 f)
  | 0x12 => m (form12 f)
  | 0x20 => m (form20 f)
  | 0x21 => m (form21 f)
  | 0x30 => m (form30 f)
  | 0x31 => m (form31 f)
  | 0x32 => m (form32 f)
  | 0x40 => m (form40 f)
  | 0x48 => m (form48 f)
  | 0x49 => m (form49 f)
  | 0x50 => m (form50 f)
  | 0x51 => m (form51 f)
  | 0x60 => m (form60 f)
  | 0x68 => m (form68 f)
  | 0x70 => m (form70 lim f)
  | 0x78 => m (form78 lim f)
  | 0x80 => m (form80 f)
  | 0x81 => m (form81 f)
  | 0x90 => m (form90 lim f)
  | 0x98 => m (form98 f)
  | 0xFE => .error 2
  | _ => .error 1

/-! ### The checks, in the order of their reasons (04 R66) -/

/-- A per-lane special register: %lane or %plane (02 Table 2). -/
def perLane (o : Opnd) : Bool :=
  match o with
  | .s n => n == 0x300 || n == 0x301
  | _ => false

/-- The destination is a vector register or a predicate. -/
def Form.laneDest (fm : Form) (d : Opnd) : Bool := fm.lane && fm.wr && (d.kind == 0 || d.kind == 2) && fm.kd != 0

/-- Reason 6 for one operand: n is its place (0 D, 1 A, 2 B, 3 C), ks its kinds. -/
def bad6 (fm : Form) (d : Opnd) (n ks : Nat) (o : Opnd) : Bool :=
  if ks = 0 then o != Opnd.zero
  else if inSet fm.opt n && o == Opnd.zero then false
  else !inSet ks o.kind || (perLane o && !(n == 0 && fm.wr && !fm.d6) && !(n != 0 && fm.laneDest d))

/-- Reason 7 for one operand (02 R16, R18, R19, R22). -/
def bad7 (lim : Limits) (fm : Form) (n ks : Nat) (o : Opnd) : Bool :=
  if ks = 0 || (inSet fm.opt n && o == Opnd.zero) then false
  else match o with
    | .v x =>
      let p := inSet fm.pairs n
      decide (256 ≤ x.toNat) || (p && x.toNat % 2 == 1) || decide (lim.vregs ≤ x.toNat + b2n p)
    | .s x =>
      let i := x.toNat
      if i < 192 then false
      else if 0x300 ≤ i ∧ i ≤ 0x30E then
        (n == 0 && fm.wr && !(fm.st && i == 0x30C)) || (n == 1 && fm.sA)
      else true
    | .p x => decide (16 ≤ x.toNat)
    | .imm _ => false

/-- The first operand, in the order D A B C, for which a check fails: its OPND number. -/
def firstBad (p0 p1 p2 p3 : Bool) : Option Nat :=
  if p0 then some 1 else if p1 then some 2 else if p2 then some 3 else if p3 then some 4 else none

/-- The lowest reason a word breaks, with its OPND (04 R66); none when the word is legal. -/
def check (lim : Limits) (f : Fields) : Option (Nat × Nat) :=
  match formOf lim f with
  | .error r => some (r, 0)
  | .ok fm =>
    if fm.mi && (f.hd.gneg || f.hd.gp != 0) then some (4, 0)
    else if !inSet fm.types f.ty.toNat then some (5, 0)
    else match firstBad (bad6 fm f.d 0 fm.kd f.d) (bad6 fm f.d 1 fm.ka f.a) (bad6 fm f.d 2 fm.kb f.b) (bad6 fm f.d 3 fm.kc fm.c) with
    | some n => some (6, n)
    | none =>
      match (if fm.bad7 == some 0 then some 0 else
              firstBad (bad7 lim fm 0 fm.kd f.d) (bad7 lim fm 1 fm.ka f.a) (bad7 lim fm 2 fm.kb f.b || fm.bad7 == some 3)
                (bad7 lim fm 3 fm.kc fm.c)) with
      | some n => some (7, n)
      | none =>
        if !fm.ok8 then some (8, 0)
        else if f.mod &&& fm.z9 != 0 then some (9, 0)
        else match firstBad false (f.hd.lasta && f.a.kind != 0) (f.hd.lastb && f.b.kind != 0) false with
          | some n => some (10, n)
          | none => none

/-! ### Building the instruction -/

/-- The instruction of a legal word of major 0x01. -/
def build01 (f : Fields) : Option Instr :=
  match f.minor with
  | 0x0 => some (.nop f.hd)
  | 0x1 => if bit f.bsub 3 then some (.brapl (BitVec.ofNat 3 (fld f.bsub 0 3)) f.toBR) else some (.bra f.toBR)
  | 0x2 => some (.brs (BitVec.ofNat 4 (fld f.bsub 0 4)) f.toBR)
  | 0x3 => match f.bsub with
    | 0 => some (.bany f.toBR)
    | 1 => some (.ball f.toBR)
    | 2 => some (.bnone f.toBR)
    | _ => none
  | 0x4 => some (.call f.toBR)
  | 0x5 => if f.imm = 0 then some (.ret f.toBR) else some (.jmp f.toBR)
  | 0x6 => some (.exit f.toR3)
  | 0x7 => some (.pset (BitVec.ofNat 3 (fld f.bsub 0 3)) f.toBR)
  | 0x8 => some (.psetv f.toBR)
  | _ => none

/-- The instruction of a legal word of major 0x02. -/
def build02 (f : Fields) : Option Instr :=
  match f.minor with
  | 0x0 => some (.elect f.toR3)
  | 0x1 => some (.pmask f.toR3)
  | 0x2 => some (.pload f.toR3)
  | 0x3 => some (.pathq (BitVec.ofNat 2 (fld f.cond 0 2)) f.toR3)
  | _ => none

/-- The instruction of a legal word of major 0x10. -/
def build10 (f : Fields) : Option Instr :=
  match f.minor with
  | 0x0 => some (.add f.toR3)
  | 0x1 => some (.sub f.toR3)
  | 0x2 => match f.cond with
    | 0 => some (.mul f.toR3)
    | 1 => some (.mulhi f.toR3)
    | _ => none
  | 0x3 => match f.cond with
    | 0 => some (.div f.toR3)
    | 1 => some (.rem f.toR3)
    | _ => none
  | 0x4 => match f.cond with
    | 0 => some (.min f.toR3)
    | 1 => some (.max f.toR3)
    | _ => none
  | 0x5 => match f.cond with
    | 0 => some (.and f.toR3)
    | 1 => some (.or f.toR3)
    | 2 => some (.xor f.toR3)
    | 3 => some (.andn f.toR3)
    | _ => none
  | 0x6 => match f.cond with
    | 0 => some (.shl f.toR3)
    | 1 => some (.shr f.toR3)
    | 2 => some (.sar f.toR3)
    | 3 => some (.rotl f.toR3)
    | _ => none
  | 0x7 => some (.scmp (BitVec.ofNat 3 (fld f.cond 0 3)) f.toR3)
  | 0x8 => match f.cond with
    | 0 => some (.clz f.toR3)
    | 1 => some (.ctz f.toR3)
    | 2 => some (.popc f.toR3)
    | 3 => some (.brev f.toR3)
    | _ => none
  | 0x9 => match f.cond with
    | 0 => some (.neg f.toR3)
    | 1 => some (.abs f.toR3)
    | _ => none
  | 0xA => some (.mov f.toR3)
  | 0xB => some (.lea (BitVec.ofNat 3 (fld f.cond 0 3)) f.toR3)
  | 0xC => some (.gaddr (BitVec.ofNat 5 (fld f.cond 0 5)) f.toR3)
  | 0xD => some (.gfld (BitVec.ofNat 2 (fld f.cond 0 2)) f.toR3)
  | _ => none

/-- The instruction of a legal word of major 0x11. -/
def build11 (f : Fields) : Option Instr :=
  match f.minor with
  | 0x0 => some (.addi f.toIM)
  | 0x1 => match f.sub with
    | 0 => some (.movi f.toIM)
    | 1 => some (.movm f.toIM)
    | 2 => some (.movh f.toIM)
    | _ => none
  | 0x2 => match f.sub with
    | 0 => some (.andi f.toIM)
    | 1 => some (.ori f.toIM)
    | 2 => some (.xori f.toIM)
    | _ => none
  | 0x3 => match f.sub with
    | 0 => some (.bfxu f.toIM)
    | 1 => some (.bfxs f.toIM)
    | 2 => some (.bfi f.toIM)
    | _ => none
  | _ => none

/-- The instruction of a legal word of major 0x12. -/
def build12 (f : Fields) : Option Instr :=
  match f.minor with
  | 0x0 => some (.ldl f.toIM)
  | _ => none

/-- The instruction of a legal word of major 0x20. -/
def build20 (f : Fields) : Option Instr :=
  match f.minor with
  | 0x0 => some (.vaddInt f.toR3)
  | 0x1 => some (.vsubInt f.toR3)
  | 0x2 => match f.cond with
    | 0 => some (.vmulInt f.toR3)
    | 1 => some (.vmulhi f.toR3)
    | _ => none
  | 0x3 => match f.cond with
    | 0 => some (.vminInt f.toR3)
    | 1 => some (.vmaxInt f.toR3)
    | _ => none
  | 0x4 => match f.cond with
    | 0 => some (.vnegInt f.toR3)
    | 1 => some (.vabsInt f.toR3)
    | _ => none
  | 0x5 => match f.cond with
    | 0 => some (.vand f.toR3)
    | 1 => some (.vor f.toR3)
    | 2 => some (.vxor f.toR3)
    | 3 => some (.vandn f.toR3)
    | _ => none
  | 0x6 => match f.cond with
    | 0 => some (.vshl f.toR3)
    | 1 => some (.vshr f.toR3)
    | 2 => some (.vsar f.toR3)
    | 3 => some (.vrotl f.toR3)
    | _ => none
  | 0x7 => match f.cond with
    | 0 => some (.vclz f.toR3)
    | 1 => some (.vctz f.toR3)
    | 2 => some (.vpopc f.toR3)
    | 3 => some (.vbrev f.toR3)
    | _ => none
  | 0x8 => some (.vmov f.toR3)
  | 0x9 => some (.vcmp (BitVec.ofNat 3 (fld f.cond 0 3)) f.toR3)
  | 0xA => match f.cond with
    | 0 => some (.pand f.toR3)
    | 1 => some (.por f.toR3)
    | 2 => some (.pxor f.toR3)
    | 3 => some (.pandn f.toR3)
    | 4 => some (.pnot f.toR3)
    | _ => none
  | _ => none

/-- The instruction of a legal word of major 0x21. -/
def build21 (f : Fields) : Option Instr :=
  match f.minor with
  | 0x0 => some (.vmad (BitVec.ofNat 2 (fld f.neg 0 2)) f.toFU)
  | 0x1 => some (.vsel f.toFU)
  | 0x2 => some (.vclamp f.toFU)
  | 0x3 => some (.vdp4 f.toFU)
  | _ => none

/-- The instruction of a legal word of major 0x30. -/
def build30 (f : Fields) : Option Instr :=
  match f.minor with
  | 0x0 => match f.neg with
    | 0 => some (.vfma f.toFU)
    | 1 => some (.vfms f.toFU)
    | 2 => some (.vfnma f.toFU)
    | 3 => some (.vfnms f.toFU)
    | _ => none
  | 0x1 => some (.vfclamp f.toFU)
  | _ => none

/-- The instruction of a legal word of major 0x32. -/
def build32 (f : Fields) : Option Instr :=
  match f.minor with
  | 0x0 => some (.vdot2 f.toFU)
  | _ => none

/-- The instruction of a legal word of major 0x31. -/
def build31 (f : Fields) : Option Instr :=
  match f.minor with
  | 0x0 => some (.vaddFloat f.toR3)
  | 0x1 => some (.vsubFloat f.toR3)
  | 0x2 => some (.vmulFloat f.toR3)
  | 0x3 => some (.vdiv f.toR3)
  | 0x4 => match f.cond with
    | 0 => some (.vminFloat f.toR3)
    | 1 => some (.vmaxFloat f.toR3)
    | 2 => some (.vminn f.toR3)
    | 3 => some (.vmaxn f.toR3)
    | _ => none
  | 0x5 => match f.cond with
    | 0 => some (.vnegFloat f.toR3)
    | 1 => some (.vabsFloat f.toR3)
    | 2 => some (.vcopysign f.toR3)
    | _ => none
  | 0x6 => some (.vfcmp (BitVec.ofNat 3 (fld f.cond 0 3)) f.toR3)
  | 0x7 => some (.vfclass f.toR3)
  | 0x8 => some (.vfrnd f.toR3)
  | _ => none

/-- The instruction of a legal word of major 0x40. -/
def build40 (f : Fields) : Option Instr :=
  match f.minor with
  | 0x0 => some (.vcvt f.toCV)
  | 0x1 => some (.vcvtn f.toCV)
  | 0x2 => some (.vcvtw f.toCV)
  | _ => none

/-- The instruction of a legal word of major 0x48. -/
def build48 (f : Fields) : Option Instr :=
  match f.minor with
  | 0x0 => some (.vshfl (BitVec.ofNat 2 (fld f.cond 0 2)) (BitVec.ofNat 3 (fld f.cond 2 3)) f.toR3)
  | 0x1 => some (.vredlog (BitVec.ofNat 3 (fld f.cond 0 3)) f.toR3)
  | 0x2 => if bit f.cond 3 then some (.vscanx (BitVec.ofNat 3 (fld f.cond 0 3)) f.toR3) else some (.vscan (BitVec.ofNat 3 (fld f.cond 0 3)) f.toR3)
  | 0x3 => if bit f.cond 3 then some (.vtopkNorm (BitVec.ofNat 3 (fld f.cond 0 3)) f.toR3) else some (.vtopk (BitVec.ofNat 3 (fld f.cond 0 3)) f.toR3)
  | _ => none

/-- The instruction of a legal word of major 0x49. -/
def build49 (f : Fields) : Option Instr :=
  match f.minor with
  | 0x0 => match f.sub with
    | 0 => some (.vrcp f.toIM)
    | 1 => some (.vrsqrt f.toIM)
    | 2 => some (.vsqrt f.toIM)
    | 3 => some (.vexpo f.toIM)
    | _ => none
  | 0x1 => some (.vexp2i f.toIM)
  | 0x2 => some (.vscalb f.toIM)
  | 0x3 => some (.vrand f.toIM)
  | 0x4 => some (.rseed f.toIM)
  | _ => none

/-- The instruction of a legal word of major 0x50. -/
def build50 (f : Fields) : Option Instr :=
  match f.minor with
  | 0x0 => some (.ldn f.toME)
  | 0x1 => some (.stn f.toME)
  | 0x2 => some (.ldnr f.toME)
  | 0x3 => some (.stnr f.toME)
  | 0x4 => some (.ldf f.toME)
  | 0x5 => some (.stf f.toME)
  | _ => none

/-- The instruction of a legal word of major 0x51. -/
def build51 (f : Fields) : Option Instr :=
  match f.minor with
  | 0x0 => some (.atomAdd f.toME)
  | 0x1 => some (.atomMin f.toME)
  | 0x2 => some (.atomMax f.toME)
  | 0x3 => some (.atomAnd f.toME)
  | 0x4 => some (.atomOr f.toME)
  | 0x5 => some (.atomXor f.toME)
  | 0x6 => some (.atomExch f.toME)
  | 0x7 => some (.atomCas f.toME)
  | 0x8 => some (.vatomAdd f.toME)
  | _ => none

/-- The instruction of a legal word of major 0x60. -/
def build60 (f : Fields) : Option Instr :=
  match f.minor with
  | 0x0 => match f.kind with
    | 0 => some (.waitAc f.toSY)
    | 1 => some (.waitAny f.toSY)
    | 2 => some (.waitAll f.toSY)
    | 3 => some (.waitBatch f.toSY)
    | 4 => some (.waitSt f.toSY)
    | _ => none
  | 0x1 => some (.ffr f.toSY)
  | 0x2 => match f.kind with
    | 1 => some (.fenceAcq f.toSY)
    | 2 => some (.fenceRel f.toSY)
    | 3 => some (.fenceAcqrel f.toSY)
    | _ => none
  | 0x3 => some (.publish f.toSY)
  | 0x4 => some (.acrd f.toSY)
  | 0x5 => some (.acwr f.toSY)
  | _ => none

/-- The instruction of a legal word of major 0x68. -/
def build68 (f : Fields) : Option Instr :=
  match f.minor with
  | 0x0 => some (.cp f.toEN)
  | 0x1 => some (.cpfill f.toEN)
  | 0x2 => some (.cpd f.toEN)
  | 0x3 => some (.tagst f.toEN)
  | 0x4 => some (.tagclr f.toEN)
  | _ => none

/-- The instruction of a legal word of major 0x70. -/
def build70 (f : Fields) : Option Instr :=
  match f.minor with
  | 0x0 => some (.qpush f.toEN)
  | 0x1 => some (.qpop f.toEN)
  | 0x2 => some (.qstat f.toEN)
  | 0x3 => some (.qbase f.toEN)
  | 0x4 => some (.barinit f.toEN)
  | 0x5 => some (.bara f.toEN)
  | 0x6 => some (.barw f.toEN)
  | 0x7 => some (.barrd f.toEN)
  | 0x8 => some (.barb f.toEN)
  | _ => none

/-- The instruction of a legal word of major 0x78. -/
def build78 (f : Fields) : Option Instr :=
  match f.minor with
  | 0x0 => some (.gset f.toEN)
  | 0x1 => some (.gmod f.toEN)
  | 0x2 => some (.ginv f.toEN)
  | 0x3 => some (.mma f.toEN)
  | 0x4 => some (.mmfence f.toEN)
  | 0x5 => some (.mmconv f.toCV)
  | 0x6 => some (.mmrd f.toEN)
  | 0x7 => some (.mmwr f.toEN)
  | 0x8 => some (.gget f.toEN)
  | 0x9 => some (.mmstat f.toEN)
  | _ => none

/-- The instruction of a legal word of major 0x80. -/
def build80 (f : Fields) : Option Instr :=
  match f.minor with
  | 0x0 => some (.redAdd f.toME)
  | 0x1 => some (.redMin f.toME)
  | 0x2 => some (.redMax f.toME)
  | _ => none

/-- The instruction of a legal word of major 0x81. -/
def build81 (f : Fields) : Option Instr :=
  match f.minor with
  | 0x0 => some (.rput f.toEN)
  | 0x1 => some (.rget f.toEN)
  | 0x2 => some (.gath f.toEN)
  | 0x3 => some (.publishShadow f.toEN)
  | 0x4 => some (.pcarm f.toEN)
  | 0x5 => some (.pcrd f.toEN)
  | 0x6 => some (.pcadd f.toEN)
  | 0x7 => some (.genst f.toEN)
  | 0x8 => some (.genrd f.toEN)
  | 0x9 => some (.fabst f.toEN)
  | _ => none

/-- The instruction of a legal word of major 0x90. -/
def build90 (f : Fields) : Option Instr :=
  match f.minor with
  | 0x0 => some (.trap f.toSY)
  | 0x1 => some (.tinfo (BitVec.ofNat 3 (fld f.kind 0 3)) f.toSY)
  | 0x2 => match f.kind with
    | 0 => some (.rte f.toSY)
    | 1 => some (.rteSkip f.toSY)
    | _ => none
  | 0x3 => some (.save f.toSY)
  | 0x4 => some (.yield f.toSY)
  | 0x5 => some (.launch f.toSY)
  | 0x6 => some (.tpost f.toSY)
  | 0x7 => match f.kind with
    | 0 => some (.tfence f.toSY)
    | 1 => some (.icinv f.toSY)
    | _ => none
  | 0x8 => some (.quiesce f.toSY)
  | 0x9 => some (.graceWait f.toSY)
  | 0xA => some (.dfree f.toSY)
  | 0xB => some (.gracest f.toSY)
  | _ => none

/-- The instruction of a legal word of major 0x98. -/
def build98 (f : Fields) : Option Instr :=
  match f.minor with
  | 0x0 => some (.tmark f.toIM)
  | 0x1 => some (.temit f.toIM)
  | 0x2 => match f.sub with
    | 0 => some (.trcdis f.toIM)
    | 1 => some (.trcen f.toIM)
    | _ => none
  | 0x3 => some (.bkpt f.toIM)
  | 0x4 => some (.trcst f.toIM)
  | 0x5 => some (.tflush f.toIM)
  | _ => none

/-- The instruction of a legal word. -/
def build (f : Fields) : Option Instr :=
  match f.major with
  | 0x01 => build01 f
  | 0x02 => build02 f
  | 0x10 => build10 f
  | 0x11 => build11 f
  | 0x12 => build12 f
  | 0x20 => build20 f
  | 0x21 => build21 f
  | 0x30 => build30 f
  | 0x32 => build32 f
  | 0x31 => build31 f
  | 0x40 => build40 f
  | 0x48 => build48 f
  | 0x49 => build49 f
  | 0x50 => build50 f
  | 0x51 => build51 f
  | 0x60 => build60 f
  | 0x68 => build68 f
  | 0x70 => build70 f
  | 0x78 => build78 f
  | 0x80 => build80 f
  | 0x81 => build81 f
  | 0x90 => build90 f
  | 0x98 => build98 f
  | _ => none

/-- The decoder: total; a word that breaks a rule is `illegal` with its lowest reason (04 R65, R66). -/
def decode (lim : Limits) (w : Nat) : Instr :=
  let f := unpack w
  match check lim f with
  | some (r, n) => .illegal r n f.major f.minor
  | none =>
    match build f with
    | some i => i
    | none => .illegal 8 0 f.major f.minor

/-! ### The encoder -/

/-- The fields of an instruction; none for an event, which has no word. -/
def fieldsOf (i : Instr) : Option Fields :=
  match i with
  | .nop w => some (w.fields 0x01 0 0)
  | .bra w => some (w.fields 0x01 1 0)
  | .brapl k w => some (w.fields 0x01 1 (8 + k.toNat))
  | .brs c w => some (w.fields 0x01 2 (c.toNat))
  | .bany w => some (w.fields 0x01 3 0)
  | .ball w => some (w.fields 0x01 3 1)
  | .bnone w => some (w.fields 0x01 3 2)
  | .call w => some (w.fields 0x01 4 0)
  | .jmp w => some (w.fields 0x01 5 0)
  | .ret w => some (w.fields 0x01 5 0)
  | .exit w => some (w.fields 0x01 6 0)
  | .pset k w => some (w.fields 0x01 7 (k.toNat))
  | .psetv w => some (w.fields 0x01 8 0)
  | .elect w => some (w.fields 0x02 0 0)
  | .pmask w => some (w.fields 0x02 1 0)
  | .pload w => some (w.fields 0x02 2 0)
  | .pathq q w => some (w.fields 0x02 3 (q.toNat))
  | .add w => some (w.fields 0x10 0 0)
  | .sub w => some (w.fields 0x10 1 0)
  | .mul w => some (w.fields 0x10 2 0)
  | .mulhi w => some (w.fields 0x10 2 1)
  | .div w => some (w.fields 0x10 3 0)
  | .rem w => some (w.fields 0x10 3 1)
  | .min w => some (w.fields 0x10 4 0)
  | .max w => some (w.fields 0x10 4 1)
  | .and w => some (w.fields 0x10 5 0)
  | .or w => some (w.fields 0x10 5 1)
  | .xor w => some (w.fields 0x10 5 2)
  | .andn w => some (w.fields 0x10 5 3)
  | .shl w => some (w.fields 0x10 6 0)
  | .shr w => some (w.fields 0x10 6 1)
  | .sar w => some (w.fields 0x10 6 2)
  | .rotl w => some (w.fields 0x10 6 3)
  | .scmp c w => some (w.fields 0x10 7 (c.toNat))
  | .clz w => some (w.fields 0x10 8 0)
  | .ctz w => some (w.fields 0x10 8 1)
  | .popc w => some (w.fields 0x10 8 2)
  | .brev w => some (w.fields 0x10 8 3)
  | .neg w => some (w.fields 0x10 9 0)
  | .abs w => some (w.fields 0x10 9 1)
  | .mov w => some (w.fields 0x10 10 0)
  | .lea k w => some (w.fields 0x10 11 (k.toNat))
  | .gaddr r w => some (w.fields 0x10 12 (r.toNat))
  | .gfld f w => some (w.fields 0x10 13 (f.toNat))
  | .addi w => some (w.fields 0x11 0 0)
  | .movi w => some (w.fields 0x11 1 0)
  | .movm w => some (w.fields 0x11 1 1)
  | .movh w => some (w.fields 0x11 1 2)
  | .andi w => some (w.fields 0x11 2 0)
  | .ori w => some (w.fields 0x11 2 1)
  | .xori w => some (w.fields 0x11 2 2)
  | .bfxu w => some (w.fields 0x11 3 0)
  | .bfxs w => some (w.fields 0x11 3 1)
  | .bfi w => some (w.fields 0x11 3 2)
  | .ldl w => some (w.fields 0x12 0 0)
  | .vaddInt w => some (w.fields 0x20 0 0)
  | .vsubInt w => some (w.fields 0x20 1 0)
  | .vmulInt w => some (w.fields 0x20 2 0)
  | .vmulhi w => some (w.fields 0x20 2 1)
  | .vminInt w => some (w.fields 0x20 3 0)
  | .vmaxInt w => some (w.fields 0x20 3 1)
  | .vnegInt w => some (w.fields 0x20 4 0)
  | .vabsInt w => some (w.fields 0x20 4 1)
  | .vand w => some (w.fields 0x20 5 0)
  | .vor w => some (w.fields 0x20 5 1)
  | .vxor w => some (w.fields 0x20 5 2)
  | .vandn w => some (w.fields 0x20 5 3)
  | .vshl w => some (w.fields 0x20 6 0)
  | .vshr w => some (w.fields 0x20 6 1)
  | .vsar w => some (w.fields 0x20 6 2)
  | .vrotl w => some (w.fields 0x20 6 3)
  | .vclz w => some (w.fields 0x20 7 0)
  | .vctz w => some (w.fields 0x20 7 1)
  | .vpopc w => some (w.fields 0x20 7 2)
  | .vbrev w => some (w.fields 0x20 7 3)
  | .vmov w => some (w.fields 0x20 8 0)
  | .vcmp c w => some (w.fields 0x20 9 (c.toNat))
  | .pand w => some (w.fields 0x20 10 0)
  | .por w => some (w.fields 0x20 10 1)
  | .pxor w => some (w.fields 0x20 10 2)
  | .pandn w => some (w.fields 0x20 10 3)
  | .pnot w => some (w.fields 0x20 10 4)
  | .vmad n w => some (w.fields 0x21 0 (n.toNat))
  | .vsel w => some (w.fields 0x21 1 0)
  | .vclamp w => some (w.fields 0x21 2 0)
  | .vdp4 w => some (w.fields 0x21 3 0)
  | .vfma w => some (w.fields 0x30 0 0)
  | .vfms w => some (w.fields 0x30 0 1)
  | .vfnma w => some (w.fields 0x30 0 2)
  | .vfnms w => some (w.fields 0x30 0 3)
  | .vfclamp w => some (w.fields 0x30 1 0)
  | .vdot2 w => some (w.fields 0x32 0 0)
  | .vaddFloat w => some (w.fields 0x31 0 0)
  | .vsubFloat w => some (w.fields 0x31 1 0)
  | .vmulFloat w => some (w.fields 0x31 2 0)
  | .vdiv w => some (w.fields 0x31 3 0)
  | .vminFloat w => some (w.fields 0x31 4 0)
  | .vmaxFloat w => some (w.fields 0x31 4 1)
  | .vminn w => some (w.fields 0x31 4 2)
  | .vmaxn w => some (w.fields 0x31 4 3)
  | .vnegFloat w => some (w.fields 0x31 5 0)
  | .vabsFloat w => some (w.fields 0x31 5 1)
  | .vcopysign w => some (w.fields 0x31 5 2)
  | .vfcmp c w => some (w.fields 0x31 6 (c.toNat))
  | .vfclass w => some (w.fields 0x31 7 0)
  | .vfrnd w => some (w.fields 0x31 8 0)
  | .vcvt w => some (w.fields 0x40 0 0)
  | .vcvtn w => some (w.fields 0x40 1 0)
  | .vcvtw w => some (w.fields 0x40 2 0)
  | .vshfl m g w => some (w.fields 0x48 0 (m.toNat + g.toNat * 4))
  | .vredlog o w => some (w.fields 0x48 1 (o.toNat))
  | .vscan o w => some (w.fields 0x48 2 (o.toNat))
  | .vscanx o w => some (w.fields 0x48 2 (8 + o.toNat))
  | .vtopk k w => some (w.fields 0x48 3 (k.toNat))
  | .vtopkNorm k w => some (w.fields 0x48 3 (8 + k.toNat))
  | .vrcp w => some (w.fields 0x49 0 0)
  | .vrsqrt w => some (w.fields 0x49 0 1)
  | .vsqrt w => some (w.fields 0x49 0 2)
  | .vexpo w => some (w.fields 0x49 0 3)
  | .vexp2i w => some (w.fields 0x49 1 0)
  | .vscalb w => some (w.fields 0x49 2 0)
  | .vrand w => some (w.fields 0x49 3 0)
  | .rseed w => some (w.fields 0x49 4 0)
  | .ldn w => some (w.fields 0x50 0 0)
  | .stn w => some (w.fields 0x50 1 0)
  | .ldnr w => some (w.fields 0x50 2 0)
  | .stnr w => some (w.fields 0x50 3 0)
  | .ldf w => some (w.fields 0x50 4 0)
  | .stf w => some (w.fields 0x50 5 0)
  | .atomAdd w => some (w.fields 0x51 0 0)
  | .atomMin w => some (w.fields 0x51 1 0)
  | .atomMax w => some (w.fields 0x51 2 0)
  | .atomAnd w => some (w.fields 0x51 3 0)
  | .atomOr w => some (w.fields 0x51 4 0)
  | .atomXor w => some (w.fields 0x51 5 0)
  | .atomExch w => some (w.fields 0x51 6 0)
  | .atomCas w => some (w.fields 0x51 7 0)
  | .vatomAdd w => some (w.fields 0x51 8 0)
  | .waitAc w => some (w.fields 0x60 0 0)
  | .waitAny w => some (w.fields 0x60 0 1)
  | .waitAll w => some (w.fields 0x60 0 2)
  | .waitBatch w => some (w.fields 0x60 0 3)
  | .waitSt w => some (w.fields 0x60 0 4)
  | .ffr w => some (w.fields 0x60 1 0)
  | .fenceAcq w => some (w.fields 0x60 2 1)
  | .fenceRel w => some (w.fields 0x60 2 2)
  | .fenceAcqrel w => some (w.fields 0x60 2 3)
  | .publish w => some (w.fields 0x60 3 0)
  | .acrd w => some (w.fields 0x60 4 0)
  | .acwr w => some (w.fields 0x60 5 0)
  | .cp w => some (w.fields 0x68 0 0)
  | .cpfill w => some (w.fields 0x68 1 0)
  | .cpd w => some (w.fields 0x68 2 0)
  | .tagst w => some (w.fields 0x68 3 0)
  | .tagclr w => some (w.fields 0x68 4 0)
  | .qpush w => some (w.fields 0x70 0 0)
  | .qpop w => some (w.fields 0x70 1 0)
  | .qstat w => some (w.fields 0x70 2 0)
  | .qbase w => some (w.fields 0x70 3 0)
  | .barinit w => some (w.fields 0x70 4 0)
  | .bara w => some (w.fields 0x70 5 0)
  | .barw w => some (w.fields 0x70 6 0)
  | .barrd w => some (w.fields 0x70 7 0)
  | .barb w => some (w.fields 0x70 8 0)
  | .gset w => some (w.fields 0x78 0 0)
  | .gmod w => some (w.fields 0x78 1 0)
  | .ginv w => some (w.fields 0x78 2 0)
  | .mma w => some (w.fields 0x78 3 0)
  | .mmfence w => some (w.fields 0x78 4 0)
  | .mmconv w => some (w.fields 0x78 5 0)
  | .mmrd w => some (w.fields 0x78 6 0)
  | .mmwr w => some (w.fields 0x78 7 0)
  | .gget w => some (w.fields 0x78 8 0)
  | .mmstat w => some (w.fields 0x78 9 0)
  | .redAdd w => some (w.fields 0x80 0 0)
  | .redMin w => some (w.fields 0x80 1 0)
  | .redMax w => some (w.fields 0x80 2 0)
  | .rput w => some (w.fields 0x81 0 0)
  | .rget w => some (w.fields 0x81 1 0)
  | .gath w => some (w.fields 0x81 2 0)
  | .publishShadow w => some (w.fields 0x81 3 0)
  | .pcarm w => some (w.fields 0x81 4 0)
  | .pcrd w => some (w.fields 0x81 5 0)
  | .pcadd w => some (w.fields 0x81 6 0)
  | .genst w => some (w.fields 0x81 7 0)
  | .genrd w => some (w.fields 0x81 8 0)
  | .fabst w => some (w.fields 0x81 9 0)
  | .trap w => some (w.fields 0x90 0 0)
  | .tinfo f w => some (w.fields 0x90 1 (f.toNat))
  | .rte w => some (w.fields 0x90 2 0)
  | .rteSkip w => some (w.fields 0x90 2 1)
  | .save w => some (w.fields 0x90 3 0)
  | .yield w => some (w.fields 0x90 4 0)
  | .launch w => some (w.fields 0x90 5 0)
  | .tpost w => some (w.fields 0x90 6 0)
  | .tfence w => some (w.fields 0x90 7 0)
  | .icinv w => some (w.fields 0x90 7 1)
  | .quiesce w => some (w.fields 0x90 8 0)
  | .graceWait w => some (w.fields 0x90 9 0)
  | .dfree w => some (w.fields 0x90 10 0)
  | .gracest w => some (w.fields 0x90 11 0)
  | .tmark w => some (w.fields 0x98 0 0)
  | .temit w => some (w.fields 0x98 1 0)
  | .trcdis w => some (w.fields 0x98 2 0)
  | .trcen w => some (w.fields 0x98 2 1)
  | .bkpt w => some (w.fields 0x98 3 0)
  | .trcst w => some (w.fields 0x98 4 0)
  | .tflush w => some (w.fields 0x98 5 0)
  | .offsetComplete => none
  | .mod3Retry => none
  | .handlerEligible => none
  | .farAccessAtHome => none
  | .farLoadLand => none
  | .storeAck => none
  | .groupUnblocked => none
  | .groupEnd => none
  | .copySectorComplete => none
  | .skeinReserve => none
  | .entryPoppable => none
  | .skeinTake => none
  | .qpopData => none
  | .allowanceRise => none
  | .baraArrival => none
  | .blockBarrierComplete => none
  | .publishVersionAdvance => none
  | .matrixStart => none
  | .mmaRowStep => none
  | .mmaComplete => none
  | .mmconvComplete => none
  | .batchComplete => none
  | .matrixFaultWait => none
  | .sample => none
  | .markerTimeout => none
  | .traceDrain => none
  | .dropped => none
  | .trcctlWrite => none
  | .dbgcmdRelease => none
  | .dbgcmdReleaseAll => none
  | .qtailDoorbell => none
  | .qctlWrite => none
  | .recordAdmission => none
  | .blockPlace => none
  | .queueAging => none
  | .blockEnd => none
  | .dependenceTagReady => none
  | .launchComplete => none
  | .taskTake => none
  | .preemptRaise => none
  | .forcedSave => none
  | .groupLeave => none
  | .restore => none
  | .pageWalk => none
  | .faultEntryWrite => none
  | .fqackRetry => none
  | .fqackNomem => none
  | .fqackKilled => none
  | .xlinv => none
  | .fqctlWrite => none
  | .icinvComplete => none
  | .packetSend => none
  | .packetPlace => none
  | .packetAck => none
  | .rtoExpiry => none
  | .pcarmComplete => none
  | .gatherComplete => none
  | .planeFail => none
  | .rtfill => none
  | .rtmiss => none
  | .jobctlWrite => none
  | .regionValid => none
  | .torusPortDown => none
  | .verbaseWrite => none
  | .hostAccess => none
  | .graceElapse => none
  | .castoffReturn => none
  | .dfreeAppend => none
  | .cut => none
  | .llctlNow => none
  | .llctlEn => none
  | .llseal => none
  | .sealCut => none
  | .logDrain => none
  | .llrep => none
  | .replayEnd => none
  | .scrub => none
  | .tileoffWrite => none
  | .cecntRead => none
  | .errlostRead => none
  | .errctlWrite => none
  | .powerRound => none
  | .throttle => none
  | .pwrctlWrite => none
  | .hbmRequest => none
  | .idlePrecharge => none
  | .refresh => none
  | .coldReset => none
  | .warmReset => none
  | .registerWrite => none
  | .illegal _ _ _ _ => none
  | .instructionFetch => none
  | .softError => none
  | .serviceCoreStore => none

/-- The word of an instruction (0 for an event, which has none). -/
def encode (i : Instr) : Nat :=
  match fieldsOf i with
  | some f => pack f
  | none => 0

/-- The reason, if any, for which an instruction raises ILLEGAL in a group with these limits. `jmp` with DISP 0 is `ret`
(05 R92). -/
def illegalOf (lim : Limits) (i : Instr) : Option (Nat × Nat) :=
  match fieldsOf i with
  | some f => check lim f
  | none => none

/-- The instruction is a word of the instruction set and not an event. -/
def Instr.isWord (i : Instr) : Bool := (fieldsOf i).isSome

/-- A mask-independent word (08 R148). -/
def maskIndependent (i : Instr) : Bool :=
  match fieldsOf i with
  | some f => match formOf Limits.widest f with
    | .ok fm => fm.mi
    | .error _ => false
  | none => false

/-- The hints of a word; those of `nop` for an event or an illegal word. -/
def hdOf (i : Instr) : Hd :=
  match fieldsOf i with
  | some f => f.hd
  | none => { gneg := false, gp := 0, delay := 0, yield := false, lasta := false, lastb := false, pair := false, common := false }

/-- The host's question: the instruction whose bits are w, the table's numbering being that of 04 R58; the bits above
`nbits` are zero. -/
def decodeTableWord (nbits w : Nat) : Option Instr :=
  if nbits ≤ 96 then some (decode Limits.widest (w % 2 ^ nbits)) else none

end Sys2Proof
end

