-- ==== Sys2Proof/Machine/Float.lean ====
section
/-! DEFINITION. The five floating-point formats, exact rounding, RN24, and the functions the vector units, the matrix unit and
the copy engine share (03 R35 to R53, 06 R112 to R119, 07 R129). Values are exact: a significand, a power of two and, where a
root, a quotient or an exponential is not finite in binary, a sticky mark. -/

namespace Sys2Proof.Machine

/-- The flags of %status (02 R21 Table 4), as a bit set. -/
def NV : Nat := 1
def DZ : Nat := 2
def OF : Nat := 4
def UF : Nat := 8
def NX : Nat := 16
def SATF : Nat := 0x400
def GATEZ : Nat := 0x800

/-- A format (03 Table 1): width, exponent bits, fraction bits. The bias is 2^(eb-1) - 1 in all five. -/
structure Fmt where
  w : Nat
  eb : Nat
  fb : Nat
deriving DecidableEq, Repr

def Fmt.bias (f : Fmt) : Nat := 2 ^ (f.eb - 1) - 1
/-- .f8e4 has no infinity (03 R36). -/
def Fmt.f8 (f : Fmt) : Bool := f.w == 8

def f64 : Fmt := { w := 64, eb := 11, fb := 52 }
def f32 : Fmt := { w := 32, eb := 8, fb := 23 }
def f16 : Fmt := { w := 16, eb := 5, fb := 10 }
def bf16 : Fmt := { w := 16, eb := 8, fb := 7 }
def f8e4 : Fmt := { w := 8, eb := 4, fb := 3 }

/-- The format of a floating-point type. -/
def fmtOf (t : Ty) : Fmt :=
  match t with
  | .f64 => f64
  | .f16 => f16
  | .bf16 => bf16
  | .f8e4 => f8e4
  | _ => f32

/-- A value read from a format: a NaN (signalling or not), an infinity, or (-1)^neg x m x 2^e. -/
inductive FVal where
  | nan (sig : Bool)
  | inf (neg : Bool)
  | fin (neg : Bool) (m : Nat) (e : Int)
deriving DecidableEq, Repr

/-- The canonical NaN (03 Table 2). -/
def Fmt.qnan (f : Fmt) : Nat := if f.f8 then 0x7F else (2 ^ f.eb - 1) * 2 ^ f.fb + 2 ^ (f.fb - 1)
/-- The bits of an infinity. -/
def Fmt.infBits (f : Fmt) (neg : Bool) : Nat := b2n neg * 2 ^ (f.w - 1) + (2 ^ f.eb - 1) * 2 ^ f.fb
/-- The bits of the largest finite value. -/
def Fmt.maxBits (f : Fmt) (neg : Bool) : Nat :=
  b2n neg * 2 ^ (f.w - 1) + (if f.f8 then 0x7E else (2 ^ f.eb - 1) * 2 ^ f.fb - 1)
/-- The bits of a zero. -/
def Fmt.zeroBits (f : Fmt) (neg : Bool) : Nat := b2n neg * 2 ^ (f.w - 1)

/-- The value of an element (03 R35, R36). -/
def fromBits (f : Fmt) (x : Nat) : FVal :=
  let s := bit x (f.w - 1)
  let ef := fld x f.fb f.eb
  let fr := fld x 0 f.fb
  if f.f8 && ef == 15 && fr == 7 then .nan false
  else if !f.f8 && ef == 2 ^ f.eb - 1 then
    if fr = 0 then .inf s else .nan (!bit fr (f.fb - 1))
  else if ef = 0 then .fin s fr (1 - (f.bias : Int) - f.fb)
  else .fin s (2 ^ f.fb + fr) ((ef : Int) - f.bias - f.fb)

def FVal.isNan : FVal → Bool
  | .nan _ => true
  | _ => false

def FVal.isSnan : FVal → Bool
  | .nan s => s
  | _ => false

def FVal.isInf : FVal → Bool
  | .inf _ => true
  | _ => false

def FVal.isZero : FVal → Bool
  | .fin _ m _ => m == 0
  | _ => false

/-- The sign of a value that is no NaN. -/
def FVal.neg : FVal → Bool
  | .nan _ => false
  | .inf s => s
  | .fin s _ _ => s

/-- The value with its sign inverted when b holds. -/
def FVal.flip (b : Bool) : FVal → FVal
  | .nan s => .nan s
  | .inf s => .inf (xor s b)
  | .fin s m e => .fin (xor s b) m e

/-- Whether a discarded part r of d bits (plus a sticky mark) rounds the magnitude k up (03 R39 Table 3). -/
def roundsUp (rm : RM) (neg : Bool) (k r d : Nat) (sticky : Bool) : Bool :=
  let h := 2 ^ d
  match rm with
  | .rne => decide (h < 2 * r) || (decide (2 * r = h) && (sticky || k % 2 == 1))
  | .rz => false
  | .rp => !neg && (decide (r ≠ 0) || sticky)
  | .rmi => neg && (decide (r ≠ 0) || sticky)
  | _ => decide (h ≤ 2 * r)

/-- Magnitude m x 2^e (a little more when sticky) as a multiple of 2^q: the rounded multiple and whether it is inexact. -/
def quantize (rm : RM) (neg : Bool) (m : Nat) (e q : Int) (sticky : Bool) : Nat × Bool :=
  if q ≤ e then
    let k := m * 2 ^ (e - q).toNat
    (if roundsUp rm neg k 0 1 sticky then k + 1 else k, sticky)
  else
    let d := (q - e).toNat
    if bitLen m + 1 < d then
      (if roundsUp rm neg 0 0 1 (sticky || m != 0) then 1 else 0, sticky || m != 0)
    else
      let k := m / 2 ^ d
      let r := m % 2 ^ d
      (if roundsUp rm neg k r d sticky then k + 1 else k, sticky || r != 0)

/-- What an overflow delivers (03 R40 rule 3, R41). -/
def Fmt.overflow (f : Fmt) (rm : RM) (neg : Bool) : Nat :=
  if f.f8 then f.maxBits neg
  else match rm with
    | .rz => f.maxBits neg
    | .rp => if neg then f.maxBits neg else f.infBits neg
    | .rmi => if neg then f.infBits neg else f.maxBits neg
    | _ => f.infBits neg

/-- `Round` of a finite value to a format: the bits and the flags NX, OF, UF (03 R40 to R42). A nonzero value that rounds to zero sets NX alone, since R42 asks for
a nonzero result for UF; so does a `vexp2i` of a large positive b, of which 07 R129 says OF or UF: DEDUCED (log 40). -/
def roundFin (f : Fmt) (rm : RM) (neg : Bool) (m : Nat) (e : Int) (sticky : Bool) : Nat × Nat :=
  if m = 0 ∧ sticky = false then (f.zeroBits neg, 0)
  else
    let qmin : Int := 1 - (f.bias : Int) - f.fb
    let top : Int := (bitLen m : Int) - 1 + e
    let q := max (top - f.fb) qmin
    let (k, ix) := quantize rm neg m e q sticky
    let (k, q) := if k = 2 ^ (f.fb + 1) then (2 ^ f.fb, q + 1) else (k, q)
    let fl := if ix then NX else 0
    if k = 0 then (f.zeroBits neg, fl)
    else if k < 2 ^ f.fb then (f.zeroBits neg + k, if ix then NX + UF else 0)
    else
      let ef : Int := q + f.fb + f.bias
      let lim : Int := if f.f8 then 15 else 2 ^ f.eb - 2
      let fr := k - 2 ^ f.fb
      if lim < ef ∨ (f.f8 = true ∧ ef = 15 ∧ fr = 7) then (f.overflow rm neg, NX + OF)
      else (f.zeroBits neg + ef.toNat * 2 ^ f.fb + fr, fl)

/-- `Round` of any value: a NaN is canonical, NV when it signals; an infinity stays, but for .f8e4 (03 R37, R40, R41). -/
def roundVal (f : Fmt) (rm : RM) (x : FVal) : Nat × Nat :=
  match x with
  | .nan s => (f.qnan, if s then NV else 0)
  | .inf n => if f.f8 then (f.maxBits n, OF + NX) else (f.infBits n, 0)
  | .fin n m e => roundFin f rm n m e false

/-- A finite value as an integer multiple of 2^e0, for e0 not above its exponent. -/
def FVal.atExp (x : FVal) (e0 : Int) : Int :=
  match x with
  | .fin n m e => let k : Int := m * 2 ^ (e - e0).toNat; if n then -k else k
  | _ => 0

/-- The least exponent of a list of finite values. -/
def minExp : List FVal → Int
  | [] => 0
  | [.fin _ _ e] => e
  | .fin _ _ e :: r => min e (minExp r)
  | _ :: r => minExp r

/-- The exact product of two values; the Bool marks 0 x infinity (06 Table 3). -/
def mulVal (x y : FVal) : FVal × Bool :=
  match x, y with
  | .nan s, .nan t => (.nan (s || t), false)
  | .nan s, _ => (.nan s, false)
  | _, .nan t => (.nan t, false)
  | .inf s, .inf t => (.inf (xor s t), false)
  | .inf s, .fin t m _ => if m = 0 then (.nan true, true) else (.inf (xor s t), false)
  | .fin s m _, .inf t => if m = 0 then (.nan true, true) else (.inf (xor s t), false)
  | .fin s m e, .fin t n d => (.fin (xor s t) (m * n) (e + d), false)

/-- An exact sum rounded once: Table 3 of 06 for its special operands, R40 rule 4 for a zero. A NaN term that signals, or
0 x infinity, raises NV. -/
def sumRound (f : Fmt) (rm : RM) (xs : List FVal) : Nat × Nat :=
  if xs.any FVal.isNan then (f.qnan, if xs.any FVal.isSnan then NV else 0)
  else if xs.any (fun x => x.isInf && x.neg) && xs.any (fun x => x.isInf && !x.neg) then (f.qnan, NV)
  else if xs.any FVal.isInf then roundVal f rm (.inf (xs.any (fun x => x.isInf && x.neg)))
  else
    let e := minExp xs
    let t := xs.foldl (fun a x => a + x.atExp e) (0 : Int)
    if t = 0 then
      let n := if xs.all FVal.neg then true else if xs.all (fun x => !x.neg) then false else rm == .rmi
      (f.zeroBits n, 0)
    else roundFin f rm (decide (t < 0)) t.natAbs e false

/-- (-1)^np x a x b + (-1)^nc x c, one rounding (06 Table 4). -/
def fmaRound (f : Fmt) (rm : RM) (np nc : Bool) (a b c : FVal) : Nat × Nat :=
  sumRound f rm [(mulVal a b).1.flip np, c.flip nc]

/-- A product rounded once. -/
def mulRound (f : Fmt) (rm : RM) (a b : FVal) : Nat × Nat := roundVal f rm (mulVal a b).1

/-- The quotient of two positive significands to at least p + 3 bits: quotient, exponent, sticky. -/
def quot (p m n : Nat) (e : Int) : Nat × Int × Bool :=
  let s := p + 4 + bitLen n - bitLen m
  (m * 2 ^ s / n, e - s, m * 2 ^ s % n != 0)

/-- a / b, one rounding (06 R112, Table 3). -/
def divRound (f : Fmt) (rm : RM) (a b : FVal) : Nat × Nat :=
  match a, b with
  | .nan s, .nan t => (f.qnan, if s || t then NV else 0)
  | .nan s, _ => (f.qnan, if s then NV else 0)
  | _, .nan t => (f.qnan, if t then NV else 0)
  | .inf _, .inf _ => (f.qnan, NV)
  | .inf s, .fin t _ _ => (f.infBits (xor s t), 0)
  | .fin s _ _, .inf t => (f.zeroBits (xor s t), 0)
  | .fin s m e, .fin t n d =>
    if n = 0 then if m = 0 then (f.qnan, NV) else (f.infBits (xor s t), DZ)
    else if m = 0 then (f.zeroBits (xor s t), 0)
    else
      let (k, x, st) := quot f.fb m n (e - d)
      roundFin f rm (xor s t) k x st

/-- A positive value m x 2^e with its exponent made even. -/
def evenExp (m : Nat) (e : Int) : Nat × Int := if e % 2 = 0 then (m, e) else (2 * m, e - 1)

/-- The square root (07 Table 4). -/
def sqrtRound (f : Fmt) (rm : RM) (a : FVal) : Nat × Nat :=
  match a with
  | .nan s => (f.qnan, if s then NV else 0)
  | .inf n => if n then (f.qnan, NV) else (f.infBits false, 0)
  | .fin n m e =>
    if m = 0 then (f.zeroBits n, 0)
    else if n then (f.qnan, NV)
    else
      let (m, e) := evenExp m e
      let t := f.fb + 4
      let x := m * 2 ^ (2 * t)
      let r := isqrt x
      roundFin f rm false r (e / 2 - t) (r * r != x)

/-- The reciprocal square root (07 Table 4). -/
def rsqrtRound (f : Fmt) (rm : RM) (a : FVal) : Nat × Nat :=
  match a with
  | .nan s => (f.qnan, if s then NV else 0)
  | .inf n => if n then (f.qnan, NV) else (f.zeroBits false, 0)
  | .fin n m e =>
    if m = 0 then (f.infBits n, DZ)
    else if n then (f.qnan, NV)
    else
      let (m, e) := evenExp m e
      let t := f.fb + 4 + bitLen m
      let r := isqrt (2 ^ (2 * t) / m)
      roundFin f rm false r (-(e / 2) - t) (r * r * m != 2 ^ (2 * t))

/-- The reciprocal (07 Table 4). -/
def rcpRound (f : Fmt) (rm : RM) (a : FVal) : Nat × Nat := divRound f rm (.fin false 1 0) a

/-- Working precision of `exp2Frac` (log 9). -/
def expBits : Nat := 256

/-- 2^(k / 2^t) in [1, 2) as a fixed-point number of `expBits` bits, from below: a square root for each bit of k, the lowest
first, so the error stays under three units of the last place (log 9). -/
def exp2Frac (k : Nat) : Nat → Nat
  | 0 => 2 ^ expBits
  | t + 1 => isqrt (exp2Frac k t * (if bit k t then 2 else 1) * 2 ^ expBits)

/-- 2^(a - b) for a finite a (07 R129): exact where a - b is an integer, otherwise irrational. -/
def exp2Round (f : Fmt) (rm : RM) (neg : Bool) (m : Nat) (e : Int) (b : Int) : Nat × Nat :=
  if m = 0 ∨ 0 ≤ e then
    if 16 < e ∧ m ≠ 0 then roundFin f rm false 1 (if neg then -100000 else 100000) false
    else roundFin f rm false 1 ((FVal.fin neg m e).atExp 0 - b) false
  else
    let t := (-e).toNat
    let x : Int := (if neg then -(m : Int) else m)
    let n : Int := x / (2 ^ t : Nat)
    let k := (x % ((2 ^ t : Nat) : Int)).toNat
    if k = 0 then roundFin f rm false 1 (n - b) false
    else roundFin f rm false (exp2Frac k t) (n - b - expBits) true

/-- `vexp2i` (07 Table 4). -/
def vexp2iRound (f : Fmt) (rm : RM) (a : FVal) (b : Int) : Nat × Nat :=
  match a with
  | .nan s => (f.qnan, if s then NV else 0)
  | .inf n => if n then (f.zeroBits false, 0) else (f.infBits false, 0)
  | .fin n m e => exp2Round f rm n m e b

/-- `vscalb`: a x 2^b (07 Table 4). -/
def scalbRound (f : Fmt) (rm : RM) (a : FVal) (b : Int) : Nat × Nat :=
  match a with
  | .fin n m e => roundFin f rm n m (e + b) false
  | _ => roundVal f rm a

/-- `vexpo` (07 Table 4): floor(log2 |a|) as .i32. -/
def vexpoOf (a : FVal) : Nat × Nat :=
  match a with
  | .nan _ => (0x7FFFFFFF, NV)
  | .inf _ => (0x7FFFFFFF, NV)
  | .fin _ m e => if m = 0 then (0x80000000, DZ) else (wrapN 32 ((bitLen m : Int) - 1 + e), 0)

/-- A finite magnitude rounded to an integer, and whether it is inexact. -/
def roundInt (rm : RM) (neg : Bool) (m : Nat) (e : Int) : Int × Bool :=
  let (k, ix) := quantize rm neg m e 0 false
  (if neg then -(k : Int) else k, ix)

/-- `vfrnd` (06 R117). -/
def frndRound (f : Fmt) (rm : RM) (a : FVal) (bits : Nat) : Nat × Nat :=
  match a with
  | .nan s => (f.qnan, if s then NV else 0)
  | .inf _ => (bits, 0)
  | .fin n m e =>
    let (k, ix) := roundInt rm n m e
    if ix then ((roundFin f .rne n k.natAbs 0 false).1, 0) else (bits, 0)

/-- The numeric order of two values that are no NaN, +0 above -0 when `zeros` holds (06 R113). -/
def ltVal (zeros : Bool) (a b : FVal) : Bool :=
  match a, b with
  | .inf s, .inf t => s && !t
  | .inf s, _ => s
  | _, .inf t => !t
  | .fin s m e, .fin t n d =>
    if m = 0 ∧ n = 0 then zeros && s && !t
    else
      let e0 := min e d
      decide ((FVal.fin s m e).atExp e0 < (FVal.fin t n d).atExp e0)
  | _, _ => false

/-- `vmin`, `vmax` (num false), `vminn`, `vmaxn` (num true) on raw elements (06 R113). -/
def minMaxF (f : Fmt) (isMax num : Bool) (x y : Nat) : Nat × Nat :=
  let a := fromBits f x
  let b := fromBits f y
  let fl := if a.isSnan || b.isSnan then NV else 0
  if a.isNan && b.isNan then (f.qnan, fl)
  else if a.isNan then (if num then y else f.qnan, fl)
  else if b.isNan then (if num then x else f.qnan, fl)
  else if isMax then (if ltVal true a b then y else x, fl) else (if ltVal true b a then y else x, fl)

/-- A condition of `vfcmp` (06 Table 6): whether it holds, and NV. -/
def fcmp (f : Fmt) (c x y : Nat) : Bool × Nat :=
  let a := fromBits f x
  let b := fromBits f y
  let un := a.isNan || b.isNan
  let sn := a.isSnan || b.isSnan
  let lt := ltVal false a b
  let gt := ltVal false b a
  let quiet := if sn then NV else 0
  let loud := if un then NV else 0
  match c with
  | 0 => (!un && !lt && !gt, quiet)
  | 1 => (un || lt || gt, quiet)
  | 2 => (!un && lt, loud)
  | 3 => (!un && !gt, loud)
  | 4 => (!un && gt, loud)
  | 5 => (!un && !lt, loud)
  | 6 => (un, quiet)
  | _ => (!un, quiet)

/-- The class bit of an element (06 Table 7). -/
def classOf (f : Fmt) (x : Nat) : Nat :=
  match fromBits f x with
  | .nan _ => 8
  | .inf n => if n then 0 else 7
  | .fin n m _ =>
    if m = 0 then (if n then 3 else 4)
    else if m < 2 ^ f.fb then (if n then 2 else 5)
    else (if n then 1 else 6)

/-! ### RN24 (03 R44 to R48) -/

/-- The RN24 word of an integer, clamped; SAT when the clamp changes it (03 R45). -/
def rn24Encode (x : Int) : Nat × Nat :=
  let y := if x < -8257920 then -8257920 else if 8257919 < x then 8257919 else x
  ((y % 256).toNat + (y % 255).toNat * 2 ^ 8 + (y % 253).toNat * 2 ^ 16 + (y % 251).toNat * 2 ^ 24,
   if y = x then 0 else SATF)

/-- DecodeRN24 (03 R46): the integer, and whether the check holds. -/
def rn24Decode (w : Nat) : Int × Bool :=
  let c1 := fld w 0 8 % 256
  let c2 := fld w 8 8 % 255
  let c3 := fld w 16 8 % 253
  let ck := fld w 24 8 % 251
  let u := (c1 * 11032065 + c2 * 8225536 + c3 * 13774080) % 16515840
  let x : Int := if 8257920 ≤ u then (u : Int) - 16515840 else u
  (x, (x % 251).toNat == ck)

/-- One multiply-accumulate of the four channels (03 R48). -/
def rn24Mac (acc a b : Nat) : Nat :=
  let ch (lo m : Nat) : Nat := (fld acc lo 8 + fld a lo 8 % m * (fld b lo 8 % m)) % m * 2 ^ lo
  ch 0 256 + ch 8 255 + ch 16 253 + ch 24 251

/-- The residue bytes reduced (03 R46), nothing recomputed: what `mmconv` to .rn24 writes (12 R223). -/
def rn24Reduce (w : Nat) : Nat :=
  fld w 0 8 + fld w 8 8 % 255 * 2 ^ 8 + fld w 16 8 % 253 * 2 ^ 16 + fld w 24 8 % 251 * 2 ^ 24

/-! ### Conversions (06 R118, R119; 03 R43) -/

/-- Signed integer types. -/
def signedTy (t : Ty) : Bool :=
  match t with
  | .i8 | .i16 | .i32 | .i64 => true
  | _ => false

/-- The integer an element of an integer type holds (03 R32). -/
def readInt (t : Ty) (x : Nat) : Int := if signedTy t then sext t.bits x else ((x % 2 ^ t.bits : Nat) : Int)

/-- The range of an integer type. -/
def loOf (t : Ty) : Int := if signedTy t then -(2 ^ (t.bits - 1) : Nat) else 0
def hiOf (t : Ty) : Int := if signedTy t then (2 ^ (t.bits - 1) : Nat) - 1 else (2 ^ t.bits : Nat) - 1

/-- An exact integer narrowed to a type: wrapped, or clamped with SAT (03 R34). -/
def narrow (t : Ty) (sat : Bool) (x : Int) : Nat × Nat :=
  if sat then
    let y := if x < loOf t then loOf t else if hiOf t < x then hiOf t else x
    (wrapN t.bits y, if y = x then 0 else SATF)
  else (wrapN t.bits x, 0)

/-- A floating-point value to an integer type (03 R43). A bound delivered in place of a value differs from it: NX beside NV (03 R42); a NaN has no value to
differ from (log 10, DEDUCED). -/
def toIntTy (t : Ty) (rm : RM) (a : FVal) (scale : Int) : Nat × Nat :=
  match a with
  | .nan _ => (0, NV)
  | .inf n => (wrapN t.bits (if n then loOf t else hiOf t), NV + NX)
  | .fin n m e =>
    let (k, ix) := roundInt rm n m (e + scale)
    if k < loOf t then (wrapN t.bits (loOf t), NV + NX)
    else if hiOf t < k then (wrapN t.bits (hiOf t), NV + NX)
    else (wrapN t.bits k, if ix then NX else 0)

/-- One converted element (06 R119); an .rn24 source is already decoded to the integer x. -/
def convert (s d : Ty) (rm : RM) (sat : Bool) (scale : Int) (raw : Nat) : Nat × Nat :=
  if s.float then
    let a := fromBits (fmtOf s) raw
    if d.float then scalbRound (fmtOf d) rm a scale else toIntTy d rm a scale
  else
    let x : Int := if s == .rn24 then (rn24Decode raw).1 else readInt s raw
    if d.float then roundFin (fmtOf d) rm (decide (x < 0)) x.natAbs scale false
    else if d == .rn24 then rn24Encode x
    else narrow d sat x

/-- An immediate of kind 11 read under a type (04 R60). -/
def immBits (t : Ty) (x : Int) : Nat :=
  if t.float then (roundFin (fmtOf t) .rne (decide (x < 0)) x.natAbs 0 false).1
  else if t == .rn24 then (rn24Encode x).1
  else wrapN (if t == .none then 64 else t.bits) x

end Sys2Proof.Machine
end

