-- ==== Sys2Proof/Config.lean ====
section
/-! DEFINITION. What the Z9 fixes (00 Table 2) and the values the manual leaves open (free values, log 5). -/

namespace Sys2Proof.Config

/-- %width of the Z9 (00 Table 2, 02 R31). -/
def width : Nat := 64
/-- Tiles of the device (00 R3). -/
def tiles : Nat := 256
/-- Response slots of a group (14 R248). -/
def slots : Nat := 8
/-- Capacity of the copy engine of a tile (11 R196). -/
def copyPlaces : Nat := 256
/-- Entries of a tile's matrix command queue (12 R216). -/
def matEntries : Nat := 16
/-- Bytes of a tile's gauge buffer (00 Table 2). -/
def gaugeBytes : Nat := 524288
/-- Armed watches of a tile (14 R263). -/
def watches : Nat := 64
/-- Entries of the cast-off queue (22 R369). -/
def castoffMax : Nat := 4096
/-- Bytes of a tile's trace FIFO (15 R275). -/
def fifoBytes : Nat := 4096
/-- Leaf translations of a tile's cache (20 R334). -/
def tcacheMax : Nat := 512
/-- Pod entries of the rank translation cache (21 R347). -/
def rtcacheMax : Nat := 256

/-- FREE VALUE (log 5): the device's entropy source, one value for each read (07 R131). Nothing constrains it. -/
opaque freeWord : Nat → BitVec 64
/-- FREE VALUE (log 5): which of the candidates the manual allows is taken, one for each choice (11 R190). -/
opaque freeByte : Nat → BitVec 8

end Sys2Proof.Config
end

