-- ==== Sys2Proof/Machine/State.lean ====
section
/-! DEFINITION. The state of the whole device as plain data: groups, blocks, queues, engines, memory and register windows,
and the model's own fields (the schedule of agents, the current step's choice, the free-value counter). -/

namespace Sys2Proof.Machine
open Sys2Proof

/-! ### A group (02 R14) -/

/-- One path-table entry (02 R24, R25; 16 R287). `idx` is PATHIDX: 0 to 15 in the table, 16 + k in spill slot k. -/
structure Entry where
  idx : Nat
  ofs : Nat
  stamp : Nat
  lanes : Mask
  /-- held by a precise stop (15 R285) -/
  held : Bool
  /-- released with STEP: held again when it completes an offset (15 R286) -/
  step : Bool
  /-- released at its offset: no breakpoint fires before it completes it (log 20) -/
  pass : Bool
  /-- numbers of the stops that hold it and are not yet released (15 R285, R286) -/
  stops : List Nat
deriving DecidableEq, Repr

/-- What the words of the current offset have recorded (05 R88; 11 R206; 15 R284). -/
structure Rec where
  /-- next[l] -/
  next : Tab Nat
  /-- newplane[l] -/
  plane : Tab Nat
  /-- lanes that executed exit -/
  exits : Mask
  /-- lanes that arrived on a block barrier, with the barrier -/
  parks : Tab Nat
  /-- lanes whose entry a `bkpt` holds, with its code -/
  stops : Tab Nat
deriving DecidableEq, Repr

/-- No record. -/
def Rec.empty : Rec := { next := [], plane := [], exits := 0, parks := [], stops := [] }

/-- What becomes of a path table once the offset in progress is complete, since the frontier chooses only then (02 R24): the lanes parked on a block
barrier go on, those that were parked when it completed (11 R207); held entries at an offset, or all of them, are released, with STEP or not (15 R286). -/
inductive Late where
  | depart (k : Nat) (m : Mask)
  | release (ofs : Option Nat) (step : Bool)
deriving DecidableEq, Repr

/-- The trap frame (19 R310); `noword` is a resume point with no word. -/
structure Frame where
  kind : Nat
  detail : W64
  ofs : Nat
  plane : Nat
  noword : Bool
  /-- the resume point is the first word of its offset, and none has issued there -/
  fresh : Bool
  /-- the words that `rte.skip` had passed over, as in Group (19 R316) -/
  skips : Option (Nat × Nat)
  lanes : Mask
  paths : List Entry
  planes : Tab Nat
  parked : Tab Nat
  common : Bool
  todo : List Nat
  rcd : Rec
  /-- what its table waits for until the interrupted offset completes -/
  late : List Late
deriving DecidableEq, Repr

/-- A gauge record (12 R213, Table 2). -/
structure Gauge where
  valid : Bool
  inuse : Nat
  m : Nat
  n : Nat
  steps : Nat
  bord : Nat
  abase : W64
  bbase : W64
  astride : Nat
  bstride : Nat
  cstride : Nat
  cexp : Int
deriving DecidableEq, Repr

/-- A blocking word that has issued and waits (08 R146). `ids` are the far words whose completion its release condition still
needs: for a `fence.rel` at DEVICE, POD or JOB every earlier far word, at GROUP and TILE those into the tile's slice (10 R182). -/
inductive Wait where
  /-- `wait.ac`: counter, threshold (10 R179) -/
  | ac (n thr : Nat)
  /-- `wait.any`, `wait.all`: window-relative mask (10 R178, 11 R185) -/
  | tagAny (m : Nat)
  | tagAll (m : Nat)
  /-- `wait.batch` (12 R218) -/
  | batch (n : Nat)
  /-- `wait.st` -/
  | st
  /-- a fence (10 R182) -/
  | fence (ids : List Nat)
  /-- `publish k` before its step 2 (10 R183) -/
  | publish (k : Nat) (ids : List Nat)
  /-- `qpush`: skein, A, the value of a scalar A as the word issued, the reservation once it is made, its release condition (11 R199) -/
  | qpush (k : Nat) (a : Opnd) (v : W64) (j : Option Nat) (ids : List Nat)
  /-- `qpop`: skein, D, active lanes (11 R200) -/
  | qpop (k : Nat) (d : Opnd) (m : Mask)
  /-- `bara`: barrier address, announced bytes, release condition (11 R205) -/
  | bara (a n : Nat) (ids : List Nat)
  /-- `barb`: barrier, arriving lanes, release condition (11 R206, R207) -/
  | barb (k : Nat) (m : Mask) (ids : List Nat)
  /-- `barw`: barrier address, phase bit (11 R205) -/
  | barw (a : Nat) (p : Bool)
  /-- `grace.wait`: its earlier far words; the clock its period began; its lowest active lane (22 R367) -/
  | grace (ids : List Nat) (since : Option Nat) (lane : Nat)
  /-- `dfree` on a full cast-off queue: D, the object, the allocator, its earlier far words, the clock in which they had completed, its lowest active lane (22
  R368) -/
  | dfree (d : Opnd) (obj : W64) (k : Nat) (ids : List Nat) (since : Option Nat) (lane : Nat)
  /-- `tfence`: device scope or not, far words, earlier `icinv` commands (20 R337) -/
  | tfence (dev : Bool) (ids ics : List Nat)
  /-- `yield` in a PREEMPT handler (19 R318) -/
  | yield
deriving DecidableEq, Repr

/-- What is fixed for a group from placement to its end (08 R135 to R137, 18). -/
structure Env where
  /-- the block, and its launch's context -/
  block : Nat
  ctx : Nat
  /-- %group, %groups, %block, %role, %vregs -/
  index : Nat
  count : Nat
  linear : Nat
  role : Nat
  vregs : Nat
  /-- the kernel: code_base, declared planes, plane_stride, HANDLER -/
  codeBase : Nat
  planes : Nat
  stride : Nat
  handler : Nat
  /-- declared skeins (a mask), the block's accumulator and tag windows -/
  skeins : Nat
  accBase : Nat
  span : Nat
  tagBase : Nat
  tagSpan : Nat
  /-- Lifeline epoch of the block (26 R381), records taken when its launch was (26 R389) -/
  epoch : Int
  launch : Nat
  /-- clock of the start of the group (22 R361) -/
  born : Nat
deriving DecidableEq, Repr

/-- A latent error in a register file (27 R395): a scalar register, or a lane of a vector register; its syndrome. -/
structure RegFlaw where
  scalar : Bool
  reg : Nat
  lane : Nat
  worse : Bool
  syn : Nat
deriving DecidableEq, Repr

/-- A value beside a register: of a scalar register, or of a lane of a vector register; `ac` is the arrival counter of an open lane. -/
structure RegVal where
  scalar : Bool
  reg : Nat
  lane : Nat
  val : W64
  ac : Nat
deriving DecidableEq, Repr

/-- Data of a `qpop` on their way to D, for these lanes (11 R200). -/
structure Pop where
  d : Opnd
  m : Mask
  bytes : List Byte
deriving DecidableEq, Repr

/-- A checked word whose first execution failed its mod-3 check (03 R56): what it will write when the second one passes, its active lanes,
its type, the latent errors its writes clear, and the residue predicted for each lane and packed element. -/
structure Retry where
  regs : List RegVal
  preds : Tab Mask
  status : W64
  mask : Mask
  ty : Ty
  cleared : List RegFlaw
  expects : List (Nat × Nat × Nat)
deriving DecidableEq, Repr

/-- The architectural state of one resident group. Its key is tile x 64 + partition x 16 + slot. -/
structure Group where
  env : Env
  /-- v0 to v255: 64 lanes of 32 bits; an unlisted register is 0 -/
  v : Tab (List W32)
  /-- s0 to s191 -/
  s : Tab W64
  /-- p1 to p15 as lane masks (p0 is hard-wired, 02 R22) -/
  p : Tab Mask
  /-- ac0 to ac15, 16 bits -/
  ac : Tab (BitVec 16)
  gauges : Tab Gauge
  status : W64
  /-- outstanding-store counter -/
  stores : Nat
  /-- path table and the counter of creation stamps -/
  paths : List Entry
  stamp : Nat
  /-- plane of each lane; an unlisted lane is in plane 0 -/
  planes : Tab Nat
  exited : Mask
  /-- lanes parked on a block barrier, with the barrier (11 R206) -/
  parked : Tab Nat
  /-- the word now issuing: its plane, and whether plane 0's COMMON bit governs it (04 R73) -/
  plane : Nat
  common : Bool
  /-- planes whose words at the running offset have still to issue; none between offsets -/
  todo : Option (List Nat)
  /-- an offset whose words are not listed yet, and a plane: `rte.skip` has passed over its words of that plane and below (19 R316) -/
  skips : Option (Nat × Nat)
  /-- the offset that follows the one the group completed last, which it reaches without waiting for a fetch (16 R288) -/
  follow : Option Nat
  rcd : Rec
  late : List Late
  wait : Option Wait
  /-- clock in which the blocking word issued (11 R201) -/
  waitNo : Nat
  /-- first clock in which the group may issue again (08 R146; 19 R310) -/
  ready : Nat
  /-- the stall reason that holds until `ready`: 2 entering or leaving a handler, 11 a path-table move, 12 a re-execution, the reason of the wait that
  ended, 0 none (15 Table 2); with 2 the group waits for HANDLER_ELIGIBLE -/
  busy : Nat
  /-- first clock past the DELAY of its last word (04 R69) -/
  delayed : Nat
  /-- clock of its last issue -/
  issued : Option Nat
  /-- its next word could not issue in its last attempt (stall reasons 14, 15, 17, 18) -/
  stalled : Bool
  frame : Option Frame
  /-- pending PREEMPT or PREEMPT taken: the clock p + B of a forced save (19 R321) -/
  budget : Option Nat
  preempt : Bool
  saveMask : Nat
  /-- saved by force, or yielded: waits to leave (19 R322) -/
  leaving : Bool
  forced : Bool
  /-- the group resumed from an abandoned blocking word (19 R325) -/
  abandoned : Bool
  /-- no lane left; waits for its far words, copies and commands (05 R93) -/
  ended : Bool
  /-- far words that a later far word, copy or command of the group must wait for (10 R171, R182) -/
  holds : List Nat
  /-- OPEN, DONE, kept RESIDUE report and its batch, DONE at which it was raised (12 R218, R229) -/
  bopen : BitVec 16
  bdone : BitVec 16
  merr : Option (Nat × W64)
  nerr : Nat
  /-- clock of the latest quiescent point; `quiesce` words whose point has not taken effect, by the far words each waits for; a
  `quiesce` was executed in the running PREEMPT handler; the group left after one and has issued no word since (22 R360, R366) -/
  quiet : Option Nat
  qpend : List (List Nat)
  qhandler : Bool
  still : Bool
  /-- latest clock in which it may have taken in writes of other agents: its start, a word that reads memory or a status, a landing, the end of a wait (10 R183, log
  25) -/
  look : Nat
  /-- trace bit; a MARKER is owed before the next packet; clock of the last MARKER; words issued (15, 26) -/
  trace : Bool
  owes : Bool
  lastMark : Nat
  serial : Nat
  /-- prefetched words: offset, plane, word (20 R337) -/
  pre : List (Nat × Nat × Nat)
  /-- latent errors in its registers -/
  bad : List RegFlaw
  /-- lanes that far loads have left open, with their values from before the load; those the next word reads so, with what they hold (02 R29) -/
  opens : List RegVal
  view : List RegVal
  /-- what has landed in lanes that are still open, oldest first: the covering `wait.ac` leaves it there (02 R29) -/
  fills : List RegVal
  /-- popped entries whose data have not reached D (11 R200) -/
  pops : List Pop
  /-- the lane of the next word that a fault will strike; the re-execution in progress (03 R56) -/
  struck : Option Nat
  redo : Option Retry
  /-- a value read on its behalf was uncorrected: it issues nothing further (27 R397) -/
  halted : Bool
deriving DecidableEq, Repr

/-! ### Far words and copies (10, 11, 14) -/

/-- What a far word does at the home of an element. -/
inductive FarKind where
  | load
  | store
  /-- an atomic of major 0x51: its minor, 0 add to 7 compare-and-swap -/
  | atom (op : Nat)
  /-- a reduction of major 0x80: 0 add, 1 min, 2 max -/
  | red (op : Nat)
  /-- one element of a `vatom.add` line -/
  | vatom
deriving DecidableEq, Repr

/-- On whose behalf an engine acts: what order-log entries and cuts need to know of it (26 R381, R389). -/
structure Who where
  ctx : Nat
  epoch : Int
  linear : Nat
  index : Nat
  serial : Nat
  launch : Nat
  lane : Nat
  tile : Nat
  part : Nat
  /-- the group: block x 64 + %group; none for an agent of the device -/
  gid : Option Nat
  /-- which of its accesses, for an agent of the device (27 R397); 0 for a word's -/
  acc : Nat
deriving DecidableEq, Repr

/-- One element of a far word: lane, address (a local address of this device, the near window named through the tile window;
or bits [45:0] of the global address when `rank` names another rank), operand, expected value, whether it has been
performed, the value it returned, whether its reply has come back, whether that value has landed. -/
structure El where
  lane : Nat
  addr : Nat
  rank : Option Nat
  data : Nat
  cmp : Nat
  performed : Bool
  val : Nat
  acked : Bool
  landed : Bool
deriving DecidableEq, Repr

/-- Where a rank was resolved to at issue (21 R346): over UALink to a station, out of a torus port with the endpoint behind it, or over Ultra Ethernet to a
device of a pod, with the translation-cache entry that named its endpoint and its path set, once there was one. -/
inductive Route where
  | pod (station : Nat)
  | port (p pod dev : Nat)
  | net (pod dev : Nat) (entry : Option Nat)
deriving DecidableEq, Repr

/-- A packet or request on its way: which one, times it was resent, the clock of its sending, the RTO that times it, its path or
plane (14 R258, R259; 24 R376); whether a plane failure moved it (14 R255); the cache path it is resent on since its port went down (21 R354). -/
structure Send where
  x : Nat
  resends : Nat
  at_ : Nat
  rto : Nat
  path : Nat
  moved : Bool
  alt : Option Route
deriving DecidableEq, Repr

/-- A far word in flight. `holds` are the far words that must complete before it is sent; `routes` the ranks it names. -/
structure FarOp where
  id : Nat
  group : Nat
  who : Who
  kind : FarKind
  ty : Ty
  els : List El
  dest : Opnd
  ac : Option Nat
  holds : List Nat
  slot : Bool
  routes : List (Nat × Route)
  sends : List Send
deriving DecidableEq, Repr

/-- What a copy command moves (11 R190, 14 R257, R262, R267). -/
inductive CopyKind where
  | copy
  | fill (pat : W64)
  | put (k : Nat)
  | get
  | gather
  /-- bytes of the Lifeline engine on their way to a global target: of the order log, or of a slot (26 R386) -/
  | life (log : Bool)
deriving DecidableEq, Repr

/-- A copy, fabric copy or gather in flight. `gid` names the issuing group (block x 64 + %group). Sectors are numbered by the
256-byte block of their destination, packets by their index; `done` lists the completed ones; `tix` is the block tile index whose
tag it counts on. -/
structure Copy where
  id : Nat
  gid : Nat
  who : Who
  tile : Nat
  block : Nat
  tix : Nat
  kind : CopyKind
  tag : Nat
  src : Nat
  dst : Nat
  rowBytes : Nat
  rows : Nat
  sstride : Nat
  dstride : Nat
  widen : Bool
  bar : Option Nat
  unit : Nat
  holds : List Nat
  done : List Nat
  bytes : Nat
  routes : List (Nat × Route)
  sends : List Send
  /-- gather: its descriptor; `rput`: the region counted on -/
  desc : Nat
  /-- gather: rank stride, generation expected, whether pool space is held, staged bytes by offset -/
  rstride : Nat
  gen : Nat
  space : Bool
  /-- gather: the local address that a source of the device's own rank was resolved to as the word issued (09 R155) -/
  own : Option Nat
  /-- gather: stale sources; `rget`: destination sectors placed before their packet is complete -/
  marks : List Nat
  got : List Host.Cell
deriving DecidableEq, Repr

/-- A finished gather whose shadow is held (14 R267, R268): its number; `due`: published, and held by the collective engine while a page of its destination waits on a
walk (20 Table 5). -/
structure Shadow where
  id : Nat
  due : Bool
  ctx : Nat
  tile : Nat
  desc : Nat
  dst : Nat
  size : Nat
  who : Who
  got : List Host.Cell
deriving DecidableEq, Repr

/-- An armed `pcarm` (14 R263). -/
structure Watch where
  who : Who
  gid : Nat
  block : Nat
  tix : Nat
  tile : Nat
  tag : Nat
  ctr : Nat
  thr : W64
  /-- the counter has met the threshold -/
  met : Bool
deriving DecidableEq, Repr

/-- A pod entry of the rank translation cache: its pod, its bits, its two estimates (21 R347, R349). -/
structure RtEntry where
  pod : Nat
  raw : Nat
  srtt : Nat
  rttvar : Nat
deriving DecidableEq, Repr

/-! ### Barrier unit of a tile (11) -/

/-- A copy tag (11 R186). -/
structure Tag where
  count : Nat
  ready : Bool
  bytes : Nat
deriving DecidableEq, Repr

def Tag.fresh : Tag := { count := 0, ready := true, bytes := 0 }

/-- A reserved skein entry: its number, the far words its release condition still waits for, whether it can be popped. -/
structure SkEntry where
  j : Nat
  ids : List Nat
  poppable : Bool
deriving DecidableEq, Repr

/-- A skein of a resident block (11 R197 to R201): its ring, allowance, reservations made, takes made, entries, and takes whose
rise of the allowance is still due. -/
structure Skein where
  block : Nat
  base : Nat
  entries : Nat
  bytes : Nat
  allowance : Nat
  reserved : Nat
  taken : Nat
  live : List SkEntry
  rises : Nat
deriving DecidableEq, Repr

/-! ### Matrix unit (12) -/

/-- A command in a tile's matrix queue (12 R216 to R228): an `mma`, or an `mmconv` when `conv`. `step` and `row` are the
row-progress register; `bbuf` is B of the current step as it was read. -/
structure MatCmd where
  id : Nat
  gid : Nat
  who : Who
  tile : Nat
  block : Nat
  batch : BitVec 16
  conv : Bool
  rcd : Nat
  /-- first half-slot on the tile, and whether the accumulator tile is full-width -/
  half : Nat
  full : Bool
  m : Nat
  n : Nat
  steps : Nat
  abase : Nat
  bbase : Nat
  astride : Nat
  bstride : Nat
  bord : Nat
  ty : Ty
  acc : Ty
  rm : RM
  zero : Bool
  dst : Nat
  cstride : Nat
  dty : Ty
  exp : Int
  stage : Nat
  holds : List Nat
  started : Bool
  step : Nat
  row : Nat
  bbuf : List Nat
  faulted : Bool
deriving DecidableEq, Repr

/-! ### Translation (20) -/

/-- One leaf translation held by a tile's cache: context, page base and size, physical base, HOST, SYS, W, X. -/
structure Trans where
  tile : Nat
  ctx : Nat
  va : Nat
  size : Nat
  pa : Nat
  host : Bool
  sys : Bool
  w : Bool
  x : Bool
deriving DecidableEq, Repr

/-- A pointer held by the walk cache: context, level of the table it points to, index bits of the address, table base. -/
structure WalkPtr where
  ctx : Nat
  lvl : Nat
  idx : Nat
  base : Nat
deriving DecidableEq, Repr

/-- A fault entry (20 R342, Table 7): its fields, whether it stands in the ring yet, and the requesters joined to it. -/
structure FaultEntry where
  ctx : Nat
  page : Nat
  kind : Nat
  lvl : Nat
  pte : W64
  wr : Bool
  agent : Nat
  tile : Nat
  count : Nat
  written : Bool
  reqs : List Nat
deriving DecidableEq, Repr

/-- A 4-byte piece of a line of a tile's instruction cache (13 R241). -/
structure ICell where
  tile : Nat
  ctx : Nat
  va : Nat
  val : W32
deriving DecidableEq, Repr

/-- An `icinv` that has not completed (20 R338). -/
structure IcInv where
  id : Nat
  group : Nat
  tile : Nat
  dev : Bool
  lo : Nat
  len : Nat
deriving DecidableEq, Repr

/-- The loop buffer of a partition (05 R97, 20 R339): holder, body, captured planes and words, stale. -/
structure LoopBuf where
  group : Nat
  first : Nat
  last : Nat
  planes : List Nat
  words : List (Nat × Nat × Nat)
  stale : Bool
deriving DecidableEq, Repr

/-- A context: the status it ended with (0 while it lives), whether it has used the fabric, and the trap kind and detail
that killed it, as the service cores keep them (19 R312, 20 R343, 21 R345); an uncorrected value was consumed on its behalf, for which the service cores will
end it; the consumptions so far: requester, unit, granule (27 R397); the records with a lower number were taken before the context began (18 Table 3). -/
structure Ctx where
  status : Nat
  fabric : Bool
  cause : Option (Nat × W64)
  doomed : Bool
  spent : List (Who × Nat × Nat)
  born : Nat
deriving DecidableEq, Repr

def Ctx.live : Ctx := { status := 0, fabric := false, cause := none, doomed := false, spent := [], born := 0 }

/-! ### Launches, blocks and the queues (18, 19) -/

/-- A launch or task record taken from a queue (18 R292, R306): its number in the queue, its header, skein declarations and
arguments, the next block to place, the blocks that have ended, and how it stands. -/
structure Job where
  id : Nat
  queue : Nat
  num : Nat
  ctx : Nat
  launch : Nat
  hdr : Nat
  decls : List (Nat × Nat × Nat)
  args : List W64
  blocks : Nat
  next : Nat
  ended : Nat
  bitmap : Nat
  status : Nat
  finished : Bool
  task : Bool
  haddr : W64
  home : Nat
deriving DecidableEq, Repr

/-- A place of a block (08 R135, R136, 11 R185, 12 R211): its tiles, and on each the partition base and the first tag and half-slot of its
windows. -/
structure Place where
  tiles : List Nat
  bases : List Nat
  tags : List Nat
  accs : List Nat
deriving DecidableEq, Repr

/-- A place held for an unplaced producer block (18 R304). -/
structure Resv where
  job : Nat
  block : Nat
  place : Place
deriving DecidableEq, Repr

/-- A record appended by `launch` or `tpost` and not yet taken: its queue, bytes, slot position, the far words its posting waits
for (18 R308), and who posted it. -/
structure Post where
  queue : Nat
  bytes : List Byte
  slot : Nat
  ids : List Nat
  who : Who
deriving DecidableEq, Repr

/-- The distributor's side of a queue (18 R296, R298): the slot of the next record to take and to write, the slots in use, the
clock since which its window has held an admissible block, and whether it counts as PRIO 3. -/
structure Qst where
  rslot : Nat
  wslot : Nat
  used : Nat
  since : Option Nat
  aged : Bool
deriving DecidableEq, Repr

def Qst.fresh : Qst := { rslot := 0, wslot := 0, used := 0, since := none, aged := false }

/-- A placed block: its launch, place, groups (their keys while resident), barrier and exit state, dependence, and pre-emption. -/
structure Block where
  job : Nat
  ctx : Nat
  linear : Nat
  hdr : Nat
  decls : List (Nat × Nat × Nat)
  epoch : Int
  launch : Nat
  tiles : List Nat
  bases : List Nat
  /-- key of each group in %group order; none once it has freed its slot or left -/
  keys : List (Option Nat)
  /-- groups that have ended and freed their slots -/
  gone : List Nat
  /-- block barriers: arrived lanes by barrier x 64 + %group (11 R206) -/
  arrived : Tab Mask
  /-- first tag and first half-slot of its windows on each tile -/
  tagBases : List Nat
  accBases : List Nat
  /-- producer blocks its dependence tag still waits for (18 R303) -/
  needs : List Nat
  early : Bool
  /-- clock p of the pre-emption in progress (19 R320) and the swap slot it takes -/
  raised : Option Nat
  slot : Nat
  /-- every group has left; the barrier image is written (19 R322) -/
  out : Bool
  /-- accumulator windows still to be written to the swap slot (12 R230) -/
  accDue : Bool
  /-- groups that have left, by %group: what their images do not hold -/
  saved : Tab Group
  /-- the barrier image (19 R326) while the block is out: tags by tile index x 64 + tag, sector records (near address, byte sum, tile
  index), skeins by tile index x 32 + k -/
  otags : Tab Tag
  orecs : List (Nat × Nat × Nat)
  oskeins : Tab Skein
  /-- writes to its swap slot that wait for a translation: offset, bytes -/
  owed : List (Nat × List Byte)
deriving DecidableEq, Repr

/-- A cast-off entry (22 R368, R369): its start clock once it has one, the far words it waits for until then; the addresses of its link and of the list's head, from
ALLOC as it stood when its return began; how far the return has come (0 the head is still to be read, 1 it has been, 2 the object is linked to it), and the head read. -/
structure Cast where
  who : Who
  k : Nat
  obj : W64
  ids : List Nat
  since : Option Nat
  list : Option (Nat × Nat)
  prog : Nat
  head : W64
deriving DecidableEq, Repr

/-! ### Trace and debug of a tile (15) -/

/-- A packet on its way into the FIFO (15 R278): its event clock, group, place among the group's packets of that clock (0 MARKER, 1 CTRL, VPLANE and USER, 2
STOP, 3 SAMPLE), TYPE, payload, and the payload of the MARKER that precedes it where one is owed (none while TEN is 0). -/
structure Due where
  clock : Nat
  key : Nat
  rank : Nat
  ty : Nat
  payload : List Byte
  mark : List Byte
deriving DecidableEq, Repr

/-- FIFO bytes, LOST, packets lost since the last DROPPED, clocks in which TEN or SEN and in which SEN last rose, event clock of the
last packet by byte 1 (0xC0 is the whole tile's), stops not yet released, oldest first (path record, identity of the group, number),
the slot each issue port of each partition sampled last, the packets of the present clock, and the clock sampled last. -/
structure Dbg where
  fifo : List Byte
  lost : Nat
  owed : Nat
  rise : Nat
  srise : Nat
  seen : Tab Nat
  stops : List (Nat × Nat × Nat)
  picks : Tab Nat
  due : List Due
  sampled : Option Nat
deriving DecidableEq, Repr

def Dbg.idle : Dbg := { fifo := [], lost := 0, owed := 0, rise := 0, srise := 0, seen := [], stops := [], picks := [], due := [], sampled := none }

/-- Power state of a tile (28 R402, R403): the round it is of, energy spent in it, throttle level, throttled in the round. -/
structure Pow where
  round : Nat
  e : Nat
  level : Nat
  thr : Bool
deriving DecidableEq, Repr

def Pow.idle : Pow := { round := 0, e := 0, level := 0, thr := false }

/-- A latent error in a protected store (27 R395): unit of 27 Table 4, granule, worse than a single error, syndrome, and whether a scrub has already
found and recorded it (27 R398). -/
structure Flaw where
  unit : Nat
  place : Nat
  worse : Bool
  syn : Nat
  known : Bool
deriving DecidableEq, Repr

/-! ### Lifeline (26) -/

/-- An order-log entry (26 R389 Table 6). -/
structure LogEntry where
  data : W64
  obj : W64
  serial : Nat
  block : Nat
  launch : Nat
  group : Nat
  lane : Nat
  epoch : Int
  kind : Nat
deriving DecidableEq, Repr

/-- What a manifest lists of the context (26 Table 4), as the before accesses of a cut leave it: the queue registers and ring positions, the records taken, with the
blocks left to place and the completion bitmaps, the bytes of records not taken from host rings, the records posted and not taken, ALLOC registers, cast-off entries,
placement counters, generations, version counters. -/
structure Manifest where
  queues : List (Nat × W64)
  rings : Tab Qst
  jobs : List Job
  host : List (Nat × List Byte)
  posts : List Post
  allocs : List W64
  castoffs : List Cast
  pcs : Tab W64
  gens : Tab (BitVec 32)
  vers : Tab W64
deriving DecidableEq, Repr

def Manifest.none : Manifest :=
  { queues := [], rings := [], jobs := [], host := [], posts := [], allocs := [], castoffs := [], pcs := [], gens := [], vers := [] }

/-- A sealed slot of the target (26 Table 4), with the offset at which it ends, the records taken at its cut, and its manifest. -/
structure Slot where
  seq : Nat
  instant : Nat
  base : Nat
  frames : List Nat
  logpos : Nat
  stop : Nat
  taken : Nat
  manifest : Manifest
deriving DecidableEq, Repr

/-- MODEL: what a replay has made happen so far that a logged poll may have seen (26 R390, 13 R246): flips of the phase of a barrier, by block x 2^23 + near address;
for a group's polls of one, by identity x 2^23 + near address, the flips they imply and the phase last seen; placement counters as raises alone would have left them;
generations written. -/
structure Seen where
  flips : Tab Nat
  polls : Tab (Nat × Bool)
  highs : Tab W64
  gens : List (Nat × BitVec 32)
deriving DecidableEq, Repr

def Seen.none : Seen := { flips := [], polls := [], highs := [], gens := [] }

/-- A cut that is taken and not yet sealed (26 R382 to R384): its number and clock, whether LLSEAL confirmed it, the frames held for it, the records taken, and the
manifest. -/
structure Cut where
  k : Nat
  at_ : Nat
  confirmed : Bool
  held : List Nat
  taken : Nat
  manifest : Manifest
deriving DecidableEq, Repr

/-- The Lifeline engine beside its registers: the latest cut and its clock; the unsealed cuts, oldest first; frames written since the latest cut; the aside
copies (frame of the area, cut, frame copied); staged entries and how many of them stand in the staging ring; durable entries; the entries a replay has still to
match, and what it has seen; records taken since EN rose; a slot on its way to a global target; slots, next free byte of the target. -/
structure Lifeline where
  cut : Nat
  at_ : Nat
  cuts : List Cut
  wrote : List Nat
  aside : List (Nat × Nat × Nat)
  staged : List LogEntry
  inRing : Nat
  durable : List LogEntry
  replay : Option (List LogEntry)
  seen : Seen
  taken : Nat
  sealing : Option Slot
  slots : List Slot
  next : Nat
deriving DecidableEq, Repr

def Lifeline.idle : Lifeline :=
  { cut := 0, at_ := 0, cuts := [], wrote := [], aside := [], staged := [], inRing := 0, durable := [], replay := none, seen := Seen.none, taken := 0, sealing := none,
    slots := [], next := 0 }

/-! ### The host's view (21 R357 to R359) -/

/-- An atomic of the host that is in progress, or a store of the host as an exchange that has written (13 R244): its place and bytes, what it does (10 Table 2) with
which operands, the value it read, and whether it has written. -/
structure HostAt where
  place : Nat
  size : Nat
  op : Nat
  data : Nat
  cmp : Nat
  old : Nat
  wrote : Bool
deriving DecidableEq, Repr

/-- A publication at the I/O die before its step 3: its context, version counter, clock and group, or the launch whose completion it belongs to (18 R295), and the
clock up to which the group may have observed the writes of others (10 R183). -/
structure Pub where
  ctx : Nat
  k : Nat
  at_ : Nat
  gid : Option Nat
  job : Option Nat
  look : Nat
deriving DecidableEq, Repr

/-- A value of an aligned 8 bytes that a write at this clock, by this group where one made it, has replaced and no publication has covered: the host may still
read it (21 R357); the launch the write belongs to; the groups that have read the new value, each with the clock (13 R238). -/
structure Veil where
  gid : Option Nat
  job : Option Nat
  at_ : Nat
  place : Nat
  old : W64
  seen : List (Nat × Nat)
deriving DecidableEq, Repr

/-! ### Reasons a step can stop -/

/-- The one stop of the model: no step of the machine raises it. -/
inductive Fault where
  /-- a word is executed though State.cur names no resident group: raised by every word's meaning; safe, since no agent of the
  machine executes a word outside a group -/
  | noGroup
deriving DecidableEq, Repr

/-- Refusals of the model. -/
inductive Refusal where
  /-- an instruction without a meaning yet: raised by its arm of exec; safe -/
  | notModelled (mnemonic : String)
deriving DecidableEq, Repr

/-! ### The schedule (log 1) -/

/-- What one event acts on: which agent, element, lane or block, and the values that come from outside the device. -/
structure Inp where
  a : Nat
  b : Nat
  c : Nat
  d : Nat
  v : W64
  m : Mask
  bytes : List Byte
  nums : List Nat
deriving DecidableEq, Repr

def Inp.zero : Inp := { a := 0, b := 0, c := 0, d := 0, v := 0, m := 0, bytes := [], nums := [] }

/-- One turn: a group issues its next word, or another agent takes a step. -/
inductive Act where
  | issue (g : Nat)
  | event (i : Instr) (x : Inp)
deriving DecidableEq, Repr

/-- A turn and the core clocks that pass before it. -/
structure Turn where
  clocks : Nat
  act : Act
deriving DecidableEq, Repr

/-! ### The device -/

structure State where
  /-- %clock (02 R20) -/
  clock : Nat
  /-- MODEL (log 1): the order of the agents' steps; what the current event acts on; the group whose word executes -/
  sched : List Turn
  inp : Inp
  cur : Nat
  /-- MODEL (log 1): in this clock an agent other than a group has acted; the groups that have issued a word -/
  acted : Bool
  went : List Nat
  /-- MODEL: number of the next object; free values read so far (log 5); what the last read by the host or a service core
  returned, and whether it was poison -/
  seq : Nat
  freeCtr : Nat
  reply : List Byte
  poison : Bool
  /-- values the entropy source has delivered (07 R131) -/
  seeds : List W64
  /-- every byte of SRAM, HBM4, host memory and the accumulator stores, by place (log 3) -/
  mem : List Host.Cell
  /-- what the host may still read in place of uncovered device writes, and its atomics in progress (13 R243, R244) -/
  veils : List Veil
  hostAts : List HostAt
  /-- register windows, by BAR0 offset (28 R401); an unlisted register holds its reset value -/
  regs : Tab W64
  /-- PWRCTL as written, until the round ends (28 R404) -/
  pwrNext : Option W64
  /-- %energy and %allowance of a tile (02 R20, 28 R402), and its round; the last round whose end has been reckoned -/
  energy : Tab W64
  allow : Tab W64
  power : Tab Pow
  pwrDone : Option Nat
  /-- open row and clock of the last column access of a bank; queued requests of a pseudo-channel: address, arrival (28 R407) -/
  rows : Tab (Nat × Nat)
  hqueue : List (Nat × Nat)
  flaws : List Flaw
  ctxs : Tab Ctx
  jobs : List Job
  posts : List Post
  queues : Tab Qst
  resvs : List Resv
  blocks : Tab Block
  /-- queue served last, origin of the block placed last (18 R298, R299) -/
  lastQ : Nat
  lastTile : Option Nat
  groups : Tab Group
  far : List FarOp
  copies : List Copy
  shadows : List Shadow
  watches : List Watch
  mats : List MatCmd
  /-- copy tags by tile x 64 + tag; skeins by tile x 32 + k -/
  tags : Tab Tag
  skeins : Tab Skein
  trans : List Trans
  walks : List WalkPtr
  faults : List FaultEntry
  icache : List ICell
  icinvs : List IcInv
  /-- loop buffers by tile x 4 + partition -/
  loops : Tab LoopBuf
  /-- PMAP and DEAD (14 R269), resends of a tile, placement counters by region x 16 + k, generations -/
  pmap : Nat
  dead : Nat
  retx : Tab Nat
  pcs : Tab W64
  gens : Tab (BitVec 32)
  /-- packets placed here, by sender's rank and packet identity; the acknowledgements and replies sent for them, oldest first: sender, packet, data, poison
  (14 R259) -/
  placed : List (Nat × Nat)
  answers : List (Nat × Nat × List Byte × Bool)
  /-- pod translation cache, most recently used first; fills that wait; pods with an unfilled miss, oldest first; estimates of
  pod groups, pod peers and torus ports (21 R347 to R349) -/
  rtcache : List RtEntry
  rtwait : List Nat
  rtmiss : List Nat
  podRtt : Tab (Nat × Nat)
  peerRtt : Tab (Nat × Nat)
  portRtt : Tab (Nat × Nat)
  /-- version counters by context x 16 + k; publications before their step 3 (10 R183) -/
  vers : Tab W64
  pubs : List Pub
  castoffs : List Cast
  ll : Lifeline
  dbgs : Tab Dbg
deriving DecidableEq, Repr

/-- The machine right after reset (28 R409): nothing is resident, memory lists nothing, every register holds its reset value. -/
def State.reset : State :=
  { clock := 0, sched := [], inp := Inp.zero, cur := 0, acted := false, went := [], seq := 0, freeCtr := 0, reply := [], poison := false, seeds := [], mem := [], veils := [], hostAts := [],
    regs := [], pwrNext := none, energy := [], allow := [], power := [], pwrDone := none, rows := [], hqueue := [], flaws := [], ctxs := [], jobs := [],
    posts := [], queues := [], resvs := [], blocks := [], lastQ := 48, lastTile := none, groups := [], far := [], copies := [],
    shadows := [], watches := [], mats := [], tags := [], skeins := [], trans := [], walks := [], faults := [], icache := [],
    icinvs := [], loops := [], pmap := 0xE4, dead := 0, retx := [], pcs := [], gens := [], placed := [], answers := [], rtcache := [],
    rtwait := [], rtmiss := [], podRtt := [], peerRtt := [], portRtt := [], vers := [], pubs := [], castoffs := [],
    ll := Lifeline.idle, dbgs := [] }

end Sys2Proof.Machine
end

