-- ==== Sys2Proof/Machine/Flags.lean ====
section
/-! DEFINITION. %status: its sticky flags are set by OR and cleared by writing ones (02 R21 Table 4). The flag computations
of rounding, saturation and invalid operations stand in Float.lean, with the results they belong to. -/

namespace Sys2Proof.Machine

/-- The bits of %status that hold a flag. -/
def flagBits : W64 := 0xC1F

/-- Flags ORed into %status (02 R21, 06 R108). -/
def Group.raise (g : Group) (fl : Nat) : Group := { g with status := g.status ||| (BitVec.ofNat 64 fl &&& flagBits) }

/-- A write to %status clears each flag written as 1 (02 R21, 05 R101). -/
def Group.clearFlags (g : Group) (x : W64) : Group := { g with status := g.status &&& ~~~x }

/-- The flags of a list of elements together (06 R108). -/
def orFlags (xs : List (Nat × Nat)) : Nat := xs.foldl (fun a x => a ||| x.2) 0

end Sys2Proof.Machine
end

