-- ==== Sys2Proof/Machine/Memory.lean ====
section
/-! DEFINITION. The one byte store of the device: canonical lists of cells, the places of SRAM slices, HBM4, host memory and
accumulator stores in it, and multi-byte reads and writes (01 R6, 09 R152, log 3). -/

namespace Sys2Proof.Machine

/-- The byte at a place; an unlisted place reads 0 (28 R409, 12 R211; host memory: log 3). -/
def memGet (m : List Host.Cell) (a : Nat) : Byte :=
  match m with
  | [] => 0
  | (i, x) :: r => if i = a then x else if a < i then 0 else memGet r a

/-- The store with one byte replaced; writing 0 removes the entry, so that equal stores are equal lists. -/
def memPut (m : List Host.Cell) (a : Nat) (b : Byte) : List Host.Cell :=
  match m with
  | [] => if b = 0 then [] else [(a, b)]
  | (i, x) :: r =>
    if a < i then (if b = 0 then (i, x) :: r else (a, b) :: (i, x) :: r)
    else if i = a then (if b = 0 then r else (a, b) :: r)
    else (i, x) :: memPut r a b

/-- The canonical form: places strictly rising from `lo` on, no zero byte. -/
def wfFrom (lo : Nat) (m : List Host.Cell) : Bool :=
  match m with
  | [] => true
  | (i, x) :: r => decide (lo ≤ i) && (x != 0) && wfFrom (i + 1) r

/-- The canonical form of the store. -/
def Memory.wf (m : List Host.Cell) : Bool := wfFrom 0 m

/-- n bytes from a place up. -/
def memBytes (m : List Host.Cell) (a : Nat) : Nat → List Byte
  | 0 => []
  | n + 1 => memGet m a :: memBytes m (a + 1) n

/-- A list of bytes stored from a place up. -/
def memStore (m : List Host.Cell) (a : Nat) : List Byte → List Host.Cell
  | [] => m
  | b :: r => memStore (memPut m a b) (a + 1) r

/-- The little-endian value of n bytes (01 R6). -/
def memVal (m : List Host.Cell) (a n : Nat) : Nat := leVal (memBytes m a n)

/-- The low n bytes of a value stored little-endian (01 R6). -/
def memSet (m : List Host.Cell) (a n x : Nat) : List Host.Cell := memStore m a (leBytes n x)

/-- The place of byte o of tile t's slice: its tile-window address (09 Table 1). -/
def slicePlace (t o : Nat) : Nat := 0x100000000 + t * 0x800000 + o

/-- The place of HBM4 physical byte p. -/
def hbmPlace (p : Nat) : Nat := 2 ^ 48 + p

/-- The place of host memory byte p. -/
def hostPlace (p : Nat) : Nat := 2 ^ 49 + p

/-- The place of byte o of tile t's accumulator store (12 R211: 512 KiB). -/
def accPlace (t o : Nat) : Nat := 2 ^ 50 + t * 2 ^ 19 + o

end Sys2Proof.Machine
end

