-- ==== Sys2Proof/Machine/Ops.lean ====
section
/-! DEFINITION. The shared operations over the state: the current group, lanes and masks, the path table's running entry, taking
a trap and returning from one (19 R310, R316), the end of a context (20 R343), and how a word is executed: its ILLEGAL
checks, its empty-mask effect (08 R147), its own effect. -/

namespace Sys2Proof.Machine
open Sys2Proof

/-! ### Keys and places -/

/-- The tile, partition and slot of a group's key. -/
def tileOf (k : Nat) : Nat := k / 64
def partOf (k : Nat) : Nat := k / 16 % 4
def slotOf (k : Nat) : Nat := k % 16

/-- The group whose word executes. -/
def State.group? (s : State) : Option Group := s.groups.get? s.cur

/-- The state with the current group replaced. -/
def State.put (s : State) (g : Group) : State := { s with groups := s.groups.set s.cur g }

/-- The tile of the current group. -/
def State.tile (s : State) : Nat := tileOf s.cur

/-! ### Lanes -/

/-- Every lane of p0 reads true (02 R22). -/
def Group.pred (g : Group) (i : Nat) : Mask := if i = 0 then allLanes else g.p.getD i 0

/-- A lane's plane (02 R23). -/
def Group.planeOf (g : Group) (l : Nat) : Nat := g.planes.getD l 0

/-- The lanes of a plane. -/
def Group.inPlane (g : Group) (k : Nat) : Mask := maskOf (fun l => g.planeOf l == k)

/-- The lanes parked on a block barrier (11 R206). -/
def parkedMask (t : Tab Nat) : Mask := t.foldl (fun a x => a ||| BitVec.ofNat 64 (2 ^ x.1)) 0

/-- An entry the frontier may run: not held, not parked whole (11 R206, 15 R285). -/
def Group.runnable (g : Group) (e : Entry) : Bool := !e.held && (e.lanes &&& ~~~(parkedMask g.parked) != 0)

/-- The entry with the lowest offset among those given. -/
def lowest : List Entry → Option Entry
  | [] => none
  | e :: r =>
    match lowest r with
    | none => some e
    | some f => if f.ofs < e.ofs then some f else some e

/-- The running path: the runnable entry with the lowest offset (02 R24). -/
def Group.run? (g : Group) : Option Entry := lowest (g.paths.filter g.runnable)

/-- The running offset; 0 when nothing can run. -/
def Group.ofs (g : Group) : Nat :=
  match g.run? with
  | some e => e.ofs
  | none => 0

/-- The lanes of the running path. -/
def Group.pathLanes (g : Group) : Mask :=
  match g.run? with
  | some e => e.lanes
  | none => 0

/-- The lanes the current word applies to before its guard: all of the running path when the word is common (04 R73), those
in its plane otherwise (05 R85). -/
def Group.wordLanes (g : Group) : Mask := if g.common then g.pathLanes else g.pathLanes &&& g.inPlane g.plane

/-- The guard of a word (04 R58). -/
def Group.guard (g : Group) (h : Hd) : Mask := if h.gneg then ~~~(g.pred h.gp.toNat) else g.pred h.gp.toNat

/-- `ActiveMask()` (01 R11, 05 R85). -/
def Group.active (g : Group) (h : Hd) : Mask := g.wordLanes &&& g.guard h

/-- The planes occupied by the lanes of a mask, ascending (02 R24). -/
def Group.planesOf (g : Group) (m : Mask) : List Nat := (List.range 8).filter (fun k => m &&& g.inPlane k != 0)

/-- A set of planes as a mask. -/
def planeBits (ks : List Nat) : Nat := ks.foldl (fun a k => a + 2 ^ k) 0

/-! ### Register windows -/

/-- BAR0 offsets of the windows (28 R401 Table 1); the distributor window stands at 0. -/
def jobWin : Nat := 0x10000
def llWin : Nat := 0x14000
def errWin : Nat := 0x14100
def pwrWin : Nat := 0x18000
def hbmWin (stack : Nat) : Nat := 0x19000 + 256 * stack
def bootWin : Nat := 0x1A000
def dbgWin (tile : Nat) : Nat := 0x20000 + 256 * tile

/-- The context registers of the distributor window (19 Table 3, 20 R329, 21 R358). -/
def ctxWin (ctx : Nat) : Nat := 0x2000 + 32 * ctx

/-- The reset value of a register, where its table states one that is not 0: SWAPCTL (19 Table 3), LLCTL (26 Table 2), SCRUB
(27), PWRCTL and HCTL (28). -/
def regDefault (a : Nat) : W64 :=
  if 0x2000 ≤ a ∧ a < 0x4000 ∧ a % 32 = 8 then 0x8000000000000000
  else if a = llWin then 0x64
  else if a = errWin + 0x28 then 0x80000000001803E8
  else if a = pwrWin then 0x0000000C000407D0
  else if 0x19000 ≤ a ∧ a < 0x19800 ∧ a % 256 = 0 then 0x020000C8
  else 0

/-- A register's value. -/
def State.reg (s : State) (a : Nat) : W64 := s.regs.getD a (regDefault a)

/-- A register stored. -/
def State.setReg (s : State) (a : Nat) (v : W64) : State := { s with regs := s.regs.set a v }

/-! ### Stores of state, their units and granules (27 R395) -/

def isHbm (p : Nat) : Bool := decide (2 ^ 48 ≤ p) && decide (p < 2 ^ 49)
def isHost (p : Nat) : Bool := decide (2 ^ 49 ≤ p) && decide (p < 2 ^ 50)

/-- The unit of 27 Table 4 a place belongs to; 0 for host memory, which the device does not protect. -/
def unitOf (p : Nat) : Nat := if p < 2 ^ 48 then 3 else if p < 2 ^ 49 then 6 else if p < 2 ^ 50 then 0 else 5

/-- The start of the granule of a place: 8 bytes, 64 in HBM4. -/
def granule (p : Nat) : Nat := if isHbm p then p - p % 64 else p - p % 8
def granuleSize (p : Nat) : Nat := if isHbm p then 64 else 8

/-- A flaw lies in [p, p + n). -/
def Flaw.inRange (f : Flaw) (p n : Nat) : Bool :=
  (f.unit == 3 || f.unit == 5 || f.unit == 6) && decide (f.place < p + n) && decide (p < f.place + granuleSize f.place)

/-- Bytes placed by an engine that owns them or by an agent outside every context: no Lifeline bookkeeping. A granule wholly covered
holds no flaw afterwards (27 R396). -/
def State.poke (s : State) (p : Nat) (bs : List Byte) : State :=
  { s with
    mem := memStore s.mem p bs
    flaws := s.flaws.filter (fun f => !(f.inRange p bs.length && decide (p ≤ f.place) && decide (f.place + granuleSize f.place ≤ p + bs.length))) }

/-- n bytes at a place, without regard to errors. -/
def State.peek (s : State) (p n : Nat) : List Byte := memBytes s.mem p n

/-- No byte of a ring or area lies in the shadow pool, the physical addresses from 383 GiB to 384 GiB (20 R333). -/
def outsidePool (base n : Nat) : Bool := n == 0 || decide (base + n ≤ 383 * 2 ^ 30) || decide (384 * 2 ^ 30 ≤ base)

/-- What the host may still read after a device write of [p, p + n) in a host-visible window: the values of the aligned 8 bytes it touches (21 R357). -/
def veilsOf (s : State) (gid job : Option Nat) (p n : Nat) : List Veil :=
  if isHbm p || isHost p then
    (List.range ((p % 8 + n + 7) / 8)).map (fun i =>
      let q := p - p % 8 + 8 * i
      { gid := gid, job := job, at_ := s.clock, place := q, old := BitVec.ofNat 64 (memVal s.mem q 8), seen := [] })
  else []

/-- Two ranges of bytes meet. -/
def meets (p n q m : Nat) : Bool := decide (p < q + m) && decide (q < p + n)

/-- An access of the device at these bytes comes after the atomics of the host that have written there: none of its side can act on the values from before them any
more (13 R244). -/
def State.pastHost (s : State) (p n : Nat) : State :=
  match s.hostAts with
  | [] => s
  | hs => { s with hostAts := hs.filter (fun h => !(h.wrote && meets h.place h.size p n)) }

/-- Bytes that an engine of the device, or a service core, writes for no group: device writes like any other to the host (13 R244, 21 R357), outside Lifeline's
bookkeeping. -/
def State.engineWrite (s : State) (p : Nat) (bs : List Byte) : State :=
  { (s.pastHost p bs.length).poke p bs with veils := s.veils ++ veilsOf s none none p bs.length }

/-- An error record (27 R399 Table 4): written while ERRCTL.EN is 1; a full ring loses it and raises ERRLOST. -/
def errRecord (s : State) (cls unit addr ctx tile detail : Nat) (info : W64) : State :=
  let ctl := (s.reg errWin).toNat
  let size := 2 ^ fld ctl 0 5
  let tail := (s.reg (errWin + 0x18)).toNat
  if !bit ctl 63 then s
  else if size ≤ (tail + 2 ^ 64 - (s.reg (errWin + 0x10)).toNat) % 2 ^ 64 then
    let n := (s.reg (errWin + 0x20)).toNat
    s.setReg (errWin + 0x20) (BitVec.ofNat 64 (if n < 65535 then n + 1 else n))
  else
    let p := hbmPlace (fld (s.reg (errWin + 0x8)).toNat 0 48 + 32 * (tail % size))
    let w1 := 2 ^ 32 + ctx % 256 * 2 ^ 24 + tile % 256 * 2 ^ 16 + cls % 16 * 2 ^ 12 + unit % 16 * 2 ^ 8 + detail % 256
    (s.engineWrite p (leBytes 8 info.toNat ++ leBytes 8 w1 ++ leBytes 8 s.clock ++ leBytes 8 addr)).setReg (errWin + 0x18)
      (BitVec.ofNat 64 (tail + 1))

/-! ### The end of a context (20 R343, 18 R294) -/

/-- A copy of the Lifeline engine: it belongs to no context. -/
def Copy.ofLife (c : Copy) : Bool := match c.kind with | .life _ => true | _ => false

/-- The reports that the groups of a swapped-out block keep are handed over as they end: on no tile (12 R229, 27 R399; log 22). -/
def reportsOver (s : State) (ctx : Nat) (gs : Tab Group) : State :=
  gs.foldl (fun s x => match x.2.merr with | some r => errRecord s 4 5 0 ctx 0xFF 0 r.2 | none => s) s

/-- The reports of every swapped-out block of a context are handed over. -/
def handOver (s : State) (ctx : Nat) : State := s.blocks.foldl (fun t x => if x.2.ctx = ctx then reportsOver t ctx x.2.saved else t) s

/-- Every group of the context issues nothing further and ends; its swapped-out groups are gone, and the reports they keep handed over; its copies, matrix commands,
gathers, shadows, watches and placements are discarded, its fault entries released and its cast-off entries dropped; its launches
and tasks end with the status (LAUNCH_COMPLETE performs their completion). The copies of the Lifeline engine are not the context's. -/
def endContext (s : State) (ctx status : Nat) (cause : Option (Nat × W64)) : State :=
  let c := s.ctxs.getD ctx Ctx.live
  if c.status ≠ 0 then s
  else
    let s := handOver s ctx
    { s with
      ctxs := s.ctxs.set ctx { c with status := status, cause := cause }
      groups := s.groups.map (fun x => if x.2.env.ctx = ctx then (x.1, { x.2 with ended := true, wait := none, todo := none, redo := none }) else x)
      blocks := s.blocks.map (fun x => if x.2.ctx = ctx then
          (x.1, { x.2 with gone := x.2.gone ++ Tab.keys x.2.saved, saved := [], raised := none, accDue := false }) else x)
      jobs := s.jobs.map (fun j => if j.ctx = ctx && j.status == 0 && !j.finished then { j with status := status } else j)
      copies := s.copies.filter (fun c => c.who.ctx != ctx || c.ofLife)
      shadows := s.shadows.filter (fun c => c.ctx != ctx)
      watches := s.watches.filter (fun c => c.who.ctx != ctx)
      mats := s.mats.filter (fun c => c.who.ctx != ctx)
      castoffs := s.castoffs.filter (fun c => c.who.ctx != ctx)
      faults := s.faults.filter (fun f => f.ctx != ctx) }

/-- Status codes of 18 R294 a context ends with: 9 for NOMEM and FABFAIL alike. -/
def stNomem : Nat := 9
def stFabfail : Nat := 9
def stKilled : Nat := 10

/-! ### Taking a trap, and returning (19 R309 to R316) -/

/-- Trap kinds (19 Table 1). -/
def tIllegal : Nat := 1
def tMatrix : Nat := 2
def tAddr : Nat := 3
def tPlane : Nat := 4
def tResidue : Nat := 5
def tUser : Nat := 6
def tPreempt : Nat := 7

/-- The group as the handler's first word finds it: the trap frame written, one path entry at HANDLER in plane 0 holding every
lane that has not exited, at the words before this one of the running offset either (19 R310, 01 R11); a DELAY in progress runs on (04 R69). `noword`: the resume point is the running offset, with no word, its plane bits 0
(DESIGN CHOICE, log 26); `fresh`: no word has issued at it. -/
def Group.enter (g : Group) (clock kind : Nat) (detail : W64) (noword fresh : Bool) (lns : Mask) : Group :=
  { g with
    frame := some { kind := kind, detail := detail, ofs := g.ofs, plane := if noword then 0 else g.plane, noword := noword, fresh := fresh, skips := g.skips, lanes := lns,
                    paths := g.paths, planes := g.planes, parked := g.parked, common := g.common,
                    todo := if noword then [] else g.todo.getD [], rcd := g.rcd, late := g.late }
    paths := [{ idx := 0, ofs := g.env.handler, stamp := (match g.run? with | some e => e.stamp | none => 0),
                lanes := ~~~(g.exited ||| g.rcd.exits), held := false, step := false, pass := false, stops := [] }]
    planes := g.planes.filter (fun x => (g.exited ||| g.rcd.exits).getLsbD x.1)
    parked := []
    todo := none
    skips := none
    follow := none
    rcd := Rec.empty
    late := []
    wait := none
    ready := clock + 8
    busy := 2 }

/-- A synchronous trap of the current group: the handler is entered; without a handler, or inside one, the context ends KILLED
(19 R310 to R312). -/
def takeTrap (s : State) (g : Group) (kind : Nat) (detail : W64) (lns : Mask) : State :=
  if g.frame.isSome || g.env.handler == 0 then endContext s g.env.ctx stKilled (some (kind, detail))
  else s.put (g.enter s.clock kind detail false false lns)

/-- The path entries that hold a lane once the lanes of a mask are out of them. -/
def dropLanes (gone : Mask) (ps : List Entry) : List Entry :=
  (ps.map (fun e => { e with lanes := e.lanes &&& ~~~gone })).filter (fun e => e.lanes != 0)

/-- The group as `rte` restores it from its trap frame: the word at the resume point issues first (skip false), or the word of
the next higher occupied plane (skip true; 19 R316). Lanes that have executed `exit` in the handler, at its running offset too, are in no path again (01 R11, 05
R93): a plane all of whose lanes have done so is no longer occupied, and a resume point whose every lane has done so has no words left. -/
def Group.leave (g : Group) (f : Frame) (clock : Nat) (skip : Bool) : Group :=
  let gone := (g.exited ||| g.rcd.exits) &&& ~~~f.rcd.exits
  let g1 : Group := { g with paths := f.paths, parked := f.parked, planes := f.planes }
  let left := g1.pathLanes &&& ~~~gone
  let runs := left != 0
  let words := (f.plane :: f.todo).filter (fun k => f.common || left &&& g1.inPlane k != 0)
  let parked := f.parked.filter (fun x => !lane gone x.1)
  { g with
    frame := none
    paths := dropLanes gone f.paths
    planes := f.planes
    parked := parked
    exited := g.exited ||| g.rcd.exits
    common := f.common
    plane := f.plane
    todo := if f.noword || f.fresh || !runs then none else some (if skip then words.filter (fun k => k != f.plane) else words)
    skips := if !runs then none else if f.fresh && skip then some (f.ofs, f.plane) else f.skips
    follow := none
    rcd := if runs then { f.rcd with parks := f.rcd.parks.filter (fun x => !lane gone x.1) } else Rec.empty
    late := f.late
    qhandler := false
    ready := clock + 8
    busy := 2 }

/-- The detail word of ILLEGAL (04 R66 Table 5). -/
def illegalDetail (g : Group) (reason opnd major minor : Nat) : W64 :=
  BitVec.ofNat 64 (reason % 256 * 2 ^ 56 + major % 256 * 2 ^ 48 + minor % 16 * 2 ^ 44 + (if g.common then 0 else g.plane % 8) * 2 ^ 41
    + opnd % 8 * 2 ^ 38 + g.ofs % 2 ^ 32)

/-- The detail word of ADDR (09 R157 Table 4). -/
def addrDetail (glob : Bool) (lane reason addr : Nat) : W64 :=
  BitVec.ofNat 64 (b2n glob * 2 ^ 63 + lane % 128 * 2 ^ 56 + reason % 16 * 2 ^ 52 + addr % 2 ^ 48)

/-- The detail word of PLANE (05 R95 Table 3). -/
def planeDetail (g : Group) (request lane : Nat) : W64 :=
  BitVec.ofNat 64 (request % 2 ^ 32 * 2 ^ 32 + lane % 128 * 2 ^ 25 + (if g.common then 0 else g.plane % 8) * 2 ^ 22 + g.ofs % 2 ^ 22)

/-- The detail word of RESIDUE (03 R50 Table 6). -/
def residueDetail (source tile batch row col expect found : Nat) : W64 :=
  BitVec.ofNat 64 (source % 16 * 2 ^ 60 + tile % 256 * 2 ^ 52 + batch % 2 ^ 16 * 2 ^ 36 + row % 128 * 2 ^ 29 + col % 128 * 2 ^ 22
    + expect % 256 * 2 ^ 14 + found % 256 * 2 ^ 6)

/-! ### The order log -/

/-- %rank: MYRANK while a job is installed, 0 outside a job (02 Table 2, 21 Table 2). -/
def rankOf (s : State) : Nat :=
  let j := (s.reg jobWin).toNat
  if bit j 63 then fld j 46 17 else 0

/-! ### The order log (26 R387 to R394) -/

/-- A group's identity beyond its placement. -/
def Group.gid (g : Group) : Nat := g.env.block * 64 + g.env.index

/-- On whose behalf a word of the group with this key acts. -/
def whoAt (key : Nat) (g : Group) (m : Mask) : Who :=
  { ctx := g.env.ctx, epoch := g.env.epoch, linear := g.env.linear, index := g.env.index, serial := g.serial, launch := g.env.launch,
    lane := lowLane m, tile := tileOf key, part := partOf key, gid := some g.gid, acc := 0 }

/-- The same for the word the group waits in, which has issued already. -/
def whoWait (key : Nat) (g : Group) (m : Mask) : Who := whoAt key { g with serial := g.serial - 1 } m

/-- On whose behalf a word of the current group acts. -/
def whoOf (s : State) (g : Group) (m : Mask) : Who := whoAt s.cur g m

/-- The context LLCTL enrols. -/
def llCtx (s : State) : Nat := fld (s.reg llWin).toNat 48 8

/-- Lifeline records the accesses of the context with this epoch (26 R381, R387). -/
def State.records (s : State) (w : Who) : Bool := bit (s.reg llWin).toNat 63 && llCtx s == w.ctx && decide (0 ≤ w.epoch)

/-- The staging ring has room for n more 32-byte entries (26 R388). -/
def roomFor (s : State) (n : Nat) : Bool := decide (32 * (s.ll.staged.length + n) ≤ 2 ^ fld (s.reg (llWin + 0x20)).toNat 0 5)

/-- It has no room for one more. -/
def logFull (s : State) : Bool := !roomFor s 1

/-- The entry names this requester. -/
def LogEntry.byWho (e : LogEntry) (w : Who) : Bool :=
  e.block == w.linear % 2 ^ 32 && e.group == w.index && e.serial == w.serial && e.launch == w.launch % 2 ^ 20

/-- What replay or recording says of an event that is about to be performed: it may, it waits, or the replay has diverged. -/
inductive Gate where
  | free
  | wait
  | diverge
deriving DecidableEq, Repr

/-- A record of this number is still to be taken for the context: its launch comes after the records taken so far. -/
def launchToCome (s : State) (n : Nat) : Bool := decide ((n + 2 ^ 20 - 1 - s.ll.taken % 2 ^ 20) % 2 ^ 20 < 2 ^ 19)

/-- The block of an entry has still to be placed: a launch of it is to come, or has such a block left. -/
def blockToCome (s : State) (e : LogEntry) : Bool :=
  launchToCome s e.launch || s.jobs.any (fun j => j.launch % 2 ^ 20 == e.launch && !j.finished && j.status == 0 && decide (j.next ≤ e.block) && decide (j.next < j.blocks))

/-- The entry's group may still cause it: it has not issued past it and is resident or swapped out, or is still to be placed; or a far word, copy, command, post or
cast-off entry of its word is in flight. -/
def groupCauses (s : State) (e : LogEntry) : Bool :=
  let ahead (g : Group) : Bool :=
    g.env.linear % 2 ^ 32 == e.block && g.env.index == e.group && g.env.launch % 2 ^ 20 == e.launch && decide (g.serial ≤ e.serial + 1) && !g.ended
  blockToCome s e
    || s.groups.any (fun x => ahead x.2) || s.blocks.any (fun x => x.2.saved.any (fun y => ahead y.2))
    || s.far.any (fun o => e.byWho o.who) || s.copies.any (fun o => e.byWho o.who) || s.mats.any (fun o => e.byWho o.who)
    || s.castoffs.any (fun o => e.byWho o.who) || s.posts.any (fun o => e.byWho o.who)

/-- The requester fields are zero: no group caused the entry (26 R389). -/
def LogEntry.noGroup (e : LogEntry) : Bool := e.serial == 0 && e.block == 0 && e.launch == 0 && e.group == 0 && e.lane == 0

/-- The entry's event can still arrive (26 R394). From other ranks packets and contributions may always come, with the atomics that are logged right after their
ARRIVE; from the host, records. The distributor takes a record from a device queue once one is posted, and updates a completion word while a launch has not
finished; it places what is still to be placed. Everything else a group causes. -/
def canArrive (s : State) (e : LogEntry) : Bool :=
  let coming : List LogEntry := s.ll.replay.getD []
  match e.kind with
  | 2 | 6 | 7 => true
  | 5 => groupCauses s e || (e.noGroup && (decide (e.obj.toNat < 32) || s.posts.any (fun p => BitVec.ofNat 64 p.queue == e.obj)))
  | 12 => blockToCome s e
  | 1 =>
    groupCauses s e || (e.noGroup && (s.jobs.any (fun j => j.ctx == llCtx s && !j.finished) || coming.any (fun f => f.kind == 5)))
      || coming.any (fun f => f.kind == 7 && f.serial == e.serial && f.launch == e.launch && f.group == e.group && f.lane == e.lane && f.epoch == e.epoch)
  | _ => groupCauses s e

/-- The object of an event: a location, whichever way it is updated, for the kinds 1 and 2; for the others what OBJ names, by kind (26 Table 5). -/
def objClass (kind : Nat) : Nat := if kind = 2 then 1 else kind

/-- The entry stands at the object of an event of this kind by w: STAT and SEED events have no object but their requester; the cast-off returns of the context
keep one order (22 R371). -/
def LogEntry.atObject (e : LogEntry) (w : Who) (kind obj : Nat) : Bool :=
  if kind = 8 ∨ kind = 9 then
    (e.kind == 8 || e.kind == 9) && e.block == w.linear % 2 ^ 32 && e.group == w.index && e.launch == w.launch % 2 ^ 20
  else if kind = 11 then e.kind == 11
  else objClass e.kind == objClass kind && e.obj == BitVec.ofNat 64 obj

/-- The gate of an event: while recording, the staging ring must have room (26 R388); during a replay of its context, the object's next logged entry, of
whatever kind, must name it (26 R390, R394). -/
def gate (s : State) (w : Who) (kind obj : Nat) : Gate :=
  match s.ll.replay with
  | none => if s.records w && logFull s then .wait else .free
  | some es =>
    if llCtx s ≠ w.ctx then .free
    else
      match es.find? (fun e => e.atObject w kind obj) with
      | none => .wait
      | some e =>
        if e.kind == kind && e.byWho w && (kind != 11 || e.obj == BitVec.ofNat 64 obj) then .free
        else if canArrive s e && (kind != 8 && kind != 9) then .wait
        else .diverge

/-- The end of a replay that diverged: the context ends KILLED and DIVERGE is set (26 R394). -/
def diverged (s : State) : State :=
  let x := (s.reg (llWin + 0x28)).toNat
  { (endContext s (llCtx s) stKilled none) with ll := { s.ll with replay := none } }.setReg (llWin + 0x28)
    (BitVec.ofNat 64 (setFld (setFld x 60 1 0) 59 1 1))

/-- The next logged entry of a kind and requester, while a replay of its context is in progress (26 R390). -/
def logged? (s : State) (w : Who) (kind : Nat) : Option LogEntry :=
  match s.ll.replay with
  | none => none
  | some es => if llCtx s = w.ctx then es.find? (fun e => e.kind == kind && e.byWho w) else none

/-- A value that depends on timing: the logged one during a replay (26 R387 kind 8, R390). -/
def statVal (s : State) (g : Group) (v : Nat) : Nat :=
  match logged? s (whoOf s g 0) 8 with
  | some e => e.data.toNat
  | none => v

/-- %clock, %energy or %allowance now (02 Table 2). -/
def timeVal (s : State) (n : Nat) : Nat :=
  if n = 0x309 then s.clock
  else if n = 0x30A then (s.energy.getD (tileOf s.cur) 0).toNat
  else (s.allow.getD (tileOf s.cur) 0).toNat

/-- The same as the group's word reads it: during a replay the logged value, the first one of the word for the first of these registers it reads (26
R387 kind 8, R390). -/
def timeRead (s : State) (g : Group) (n : Nat) : Nat :=
  match s.ll.replay with
  | none => timeVal s n
  | some es =>
    let xs := if llCtx s = g.env.ctx then es.filter (fun e => e.kind == 8 && e.byWho (whoOf s g 0)) else []
    match xs with
    | [] => timeVal s n
    | e :: _ => ((xs.getD (s.inp.nums.findIdx (fun k => k == n)) e).data).toNat

/-- LLST with one bit replaced (26 Table 3). -/
def setLlst (s : State) (n v : Nat) : State :=
  s.setReg (llWin + 0x28) (BitVec.ofNat 64 (setFld (s.reg (llWin + 0x28)).toNat n 1 v))

/-- The aside copies, frames and slot of cut k dropped; the frames held for it are held for the next one (26 R384). -/
def Lifeline.abandon (l : Lifeline) (k : Nat) (held : List Nat) : Lifeline :=
  let add (xs : List Nat) : List Nat := xs ++ held.filter (fun f => !xs.contains f)
  let rest := l.cuts.filter (fun c => c.k != k)
  let next := (rest.find? (fun c => decide (k < c.k))).map Cut.k
  { l with cuts := rest.map (fun c => if some c.k = next then { c with held := add c.held } else c)
           wrote := if next.isNone then add l.wrote else l.wrote
           aside := l.aside.filter (fun a => a.2.1 != k)
           sealing := if l.sealing.any (fun x => x.seq == k) then none else l.sealing }

/-- Cut k is abandoned (26 R384). -/
def abandonCut (s : State) (k : Nat) : State :=
  match s.ll.cuts.find? (fun c => c.k == k) with
  | none => s
  | some c =>
    let ll := s.ll.abandon k c.held
    let s1 : State := { s with ll := ll, copies := if ll.sealing = s.ll.sealing then s.copies else s.copies.filter (fun c => c.kind != .life false) }
    setLlst (setLlst s1 63 (b2n (!ll.cuts.isEmpty))) 61 (if k = ll.cut then 1 else b2n (bit (s.reg (llWin + 0x28)).toNat 61))

/-- Every cut in progress is abandoned. -/
def abandonCuts (s : State) : State := (s.ll.cuts.map Cut.k).foldl abandonCut s

/-- Replay passes the cut of an entry's epoch: the frames written since are those of that cut's slot on, where it was sealed (26 R392). -/
def passCut (l : Lifeline) (e : Int) : Lifeline :=
  if (l.cut : Int) < e then { l with cut := e.toNat, wrote := if l.slots.any (fun x => x.seq == e.toNat) then [] else l.wrote } else l

/-- Replay is about to perform an event: it passes the cut of its entry's epoch first (26 R392). -/
def passEvent (s : State) (w : Who) (kind obj : Nat) : State :=
  match s.ll.replay with
  | none => s
  | some es =>
    match es.find? (fun e => e.kind == kind && (kind == 8 || kind == 9 || e.obj == BitVec.ofNat 64 obj) && e.byWho w) with
    | some e => if llCtx s = w.ctx then { s with ll := passCut s.ll e.epoch } else s
    | none => s

/-- One order-log entry (26 R389): recorded, where a staging ring that is full abandons the cuts in progress (26 R387), or taken off the log during a
replay. -/
def logEvent (s : State) (w : Who) (kind : Nat) (obj data : Nat) : State :=
  match s.ll.replay with
  | some es =>
    match es.find? (fun e => e.kind == kind && (kind == 8 || kind == 9 || e.obj == BitVec.ofNat 64 obj) && e.byWho w) with
    | some e => if llCtx s = w.ctx then { s with ll := { (passCut s.ll e.epoch) with replay := some (es.erase e) } } else s
    | none => s
  | none =>
    if s.records w then
      let s1 := { s with ll := { s.ll with staged := s.ll.staged ++
        [{ data := BitVec.ofNat 64 data, obj := BitVec.ofNat 64 obj, serial := w.serial, block := w.linear % 2 ^ 32,
           launch := w.launch % 2 ^ 20, group := w.index, lane := w.lane, epoch := w.epoch, kind := kind }] } }
      if logFull s1 then abandonCuts s1 else s1
    else s

/-- The words that cause an event of 26 Table 5 in their issue clock, with the event's kind. -/
def logsKind (i : Instr) : Option Nat :=
  match i with
  | .ffr _ | .tagst _ | .qstat _ | .barrd _ | .mmstat _ | .pcrd _ | .genrd _ | .fabst _ | .gracest _ | .trcst _ | .acrd _
  | .publishShadow _ | .launch _ | .tpost _ | .dfree _ => some 8
  | .gget w => if w.param.toNat % 8 = 4 then some 8 else none
  | .tinfo f _ => if f = 4 then some 8 else none
  | .rseed _ => some 9
  | .mma _ | .mmconv _ => some 4
  | _ => none

/-- The forms whose D is a source too. -/
def readsDest (i : Instr) : Bool :=
  match i with
  | .stn _ | .stnr _ | .stf _ | .atomCas _ | .redAdd _ | .redMin _ | .redMax _ | .cp _ | .cpfill _ | .rput _ | .rget _ | .bfi _ | .movm _
  | .movh _ | .vcvtn _ => true
  | _ => false

/-- The special registers whose value depends on timing that a word reads: %clock, %energy, %allowance (26 Table 5). -/
def timeRegs (i : Instr) : List Nat :=
  match fieldsOf i with
  | some f =>
    let os := [f.a, f.b] ++ (if f.major = 0x21 ∨ f.major = 0x30 ∨ f.major = 0x32 then [f.c] else []) ++ (if readsDest i then [f.d] else [])
    [0x309, 0x30A, 0x30B].filter (fun n => os.any (fun o => o == .s (BitVec.ofNat 10 n)))
  | none => []

/-- Words that may take in what other agents have written: those of the majors from 0x50 on, which reach memory, queues, tags and statuses. -/
def takesIn (i : Instr) : Bool := match fieldsOf i with | some f => decide (0x50 ≤ f.major) | none => false

/-- A word reads one of them. -/
def readsTime (i : Instr) : Bool := !(timeRegs i).isEmpty

/-- The order-log entries of a word that reads them: one for each register, in ascending order. -/
def logTime (i : Instr) (s : State) (g : Group) (m : Mask) (t : State) : State :=
  (timeRegs i).foldl (fun t n => logEvent t (whoOf s g m) 8 0 (timeRead s g n)) t

/-! ### Executing a word -/

/-- What the body of a word does: it is performed, it traps (in a state in which a partial effect may stand, 01 R10), or it
cannot issue in this clock and the group tries again (08 R141, 12 R216, 14 R248). -/
inductive Res where
  | ok (s : State)
  | trap (s : State) (kind : Nat) (detail : W64)
  | stall
deriving DecidableEq, Repr

/-- The limits of the group for the checks of 04 R66. -/
def Group.limits (g : Group) : Limits := { vregs := g.env.vregs, skeins := g.env.skeins, span := g.env.span }

/-- The stall reason of a blocking word (15 Table 2). -/
def waitReason : Wait → Nat
  | .ac _ _ | .tagAny _ | .tagAll _ | .batch _ | .st => 4
  | .fence _ | .publish _ _ | .bara _ _ _ | .barb _ _ _ | .tfence _ _ _ => 5
  | .qpush _ _ _ _ _ => 6
  | .qpop _ _ _ => 7
  | .barw _ _ => 8
  | .grace _ _ _ => 9
  | .dfree _ _ _ _ _ _ => 10
  | .yield => 2

/-- The group goes on: it is eligible in the clock after the condition of its wait has come to hold, and blocked in that clock still (08 R146). -/
def Group.released (g : Group) (clock : Nat) : Group :=
  { g with wait := none, ready := max g.ready (clock + 1), busy := (match g.wait with | some w => waitReason w | none => g.busy), look := clock }

/-- A word that could not issue goes back to the head of its offset's words. -/
def Group.retry (g : Group) : Group := { g with todo := some (g.plane :: g.todo.getD []), stalled := true }

/-- The order-log event a word causes when it issues, if any (26 Table 5): its kind and object. -/
def wordEvent (i : Instr) (s : State) : Option (Nat × Nat) :=
  match logsKind i with
  | some 4 => some (4, tileOf s.cur)
  | some k => some (k, 0)
  | none => if readsTime i then some (8, 0) else none

/-- The entries a word records as it issues. -/
def wordEntries (i : Instr) : Nat := (timeRegs i).length + (if (logsKind i).isSome then 1 else 0)

/-- The gate of the answer of a `dfree`: a replay returns entries in the logged order (22 R371), and none before one posted earlier (22 R369), so that an
object is posted once those returned before it have been; one that was never returned waits for none. -/
def postGate (s : State) (w : Who) : Gate :=
  match gate s w 8 0, s.ll.replay with
  | .free, some es =>
    if llCtx s ≠ w.ctx || !es.any (fun e => e.kind == 8 && e.byWho w && e.data == 0) || !es.any (fun e => e.kind == 11 && e.byWho w) then .free
    else
      let before := (es.filter (fun e => e.kind == 11)).takeWhile (fun e => !e.byWho w)
      let missing := before.filter (fun e => !s.castoffs.any (fun c => e.byWho c.who))
      if missing.isEmpty then .free else if missing.all (canArrive s) then .wait else .diverge
  | r, _ => r

/-- What Lifeline says of the events of a word: while recording, every entry of the word needs room (26 R388). -/
def wordGate (i : Instr) (s : State) (g : Group) (m : Mask) : Gate :=
  match wordEvent i s with
  | none => .free
  | some (k, o) =>
    if s.ll.replay.isNone && s.records (whoOf s g m) && !roomFor s (wordEntries i) then .wait
    else match i with | .dfree _ => postGate s (whoOf s g m) | _ => gate s (whoOf s g m) k o

/-- What Lifeline says of the reads of %clock, %energy and %allowance by a word that traps: its operands have been read (26 Table 5). -/
def timeGate (i : Instr) (s : State) (g : Group) (m : Mask) : Gate :=
  if !readsTime i then .free
  else if s.ll.replay.isNone && s.records (whoOf s g m) && !roomFor s (timeRegs i).length then .wait
  else gate s (whoOf s g m) 8 0

/-- A word of the current group: ILLEGAL before anything else (04 R65); with an empty mask the effect of 08 R147 (`empty`), unless
the form is mask-independent (08 R148); otherwise its own effect `body`, a trap being taken as 19 R310 says. -/
def runWord (i : Instr) (s : State) (empty : State → Group → State) (body : State → Group → Mask → Res) :
    Host.Outcome State Fault Refusal :=
  match s.group? with
  | none => .fault .noGroup
  | some g =>
    match illegalOf g.limits i with
    | some (r, n) =>
      let f := (fieldsOf i).getD (unpack 0)
      .next (takeTrap s g tIllegal (illegalDetail g r n f.major f.minor) (g.active (hdOf i)))
    | none =>
      let m := g.active (hdOf i)
      if m = 0 ∧ maskIndependent i = false then .next (empty s g)
      else
        match body s g m with
        | .ok s' =>
          match wordGate i s g m with
          | .wait => .next (s.put g.retry)
          | .diverge => .next (diverged s)
          | .free => .next (logTime i s g m s')
        | .trap s' k d =>
          match timeGate i s g m with
          | .wait => .next (s.put g.retry)
          | .diverge => .next (diverged s)
          | .free => .next (takeTrap (logTime i s g m s') ((s'.group?).getD g) k d m)
        | .stall => .next (s.put g.retry)

/-- The empty-mask effect of a word that names no counter: none (08 R147). -/
def nothing (s : State) (_ : Group) : State := s

/-- A word whose effect lies within the group's own state. -/
def groupWord (i : Instr) (s : State) (f : State → Group → Mask → Group) : Host.Outcome State Fault Refusal :=
  runWord i s nothing (fun s g m => .ok (s.put (f s g m)))

end Sys2Proof.Machine
end

