-- ==== Sys2Proof/Machine/Hbm.lean ====
section
/-! DEFINITION. The command queues of the HBM4 base dies, and the order in which they serve the accesses to HBM4 (28 R406 to R408). -/

namespace Sys2Proof.Machine
open Sys2Proof

/-- The stack of HBM4 physical byte p (28 R406). -/
def stackOf (p : Nat) : Nat := fld p 11 3 ^^^ fld p 19 3

/-- The pseudo-channel of a physical address: (stack x 32 + channel) x 2 + pseudo-channel. -/
def pseudoChannel (p : Nat) : Nat := (stackOf p * 32 + fld p 14 5) * 2 + fld p 22 1

/-- The bank of a physical address within the device. -/
def bankOf (p : Nat) : Nat := pseudoChannel p * 16 + fld p 23 4

/-- The row of a physical address within its bank. -/
def rowOf (p : Nat) : Nat := p / 2 ^ 27 * 8 + fld p 19 3

/-- The column of a physical address: its 64-byte access in the row (28 Table 4). -/
def columnOf (p : Nat) : Nat := fld p 6 5

/-- The 64-byte access a physical address lies in: bank, row, column. -/
def accessOf (p : Nat) : Nat × Nat × Nat := (bankOf p, rowOf p, columnOf p)

/-- IDLE of the stack of a bank. -/
def idleOf (s : State) (bank : Nat) : Nat := fld (s.reg (hbmWin (bank / 1024))).toNat 0 16

/-- The row a bank was left with (row, clock of its last column access) is open: its timer has not reached IDLE, or a request to it was queued when it did (28
R408). -/
def rowOpen (s : State) (bank : Nat) (r : Nat × Nat) : Bool :=
  decide (s.clock < r.2 + idleOf s bank) || s.hqueue.any (fun x => bankOf x.1 == bank && rowOf x.1 == r.1 && decide (x.2 ≤ r.2 + idleOf s bank))

/-- A request finds its bank row open. -/
def rowHit (s : State) (p : Nat) : Bool := match s.rows.get? (bankOf p) with | some r => r.1 == rowOf p && rowOpen s (bankOf p) r | none => false

/-- A queued request is for the open row of a bank. -/
def queuedHit (s : State) (q : List (Nat × Nat)) (bank : Nat) : Bool := q.any (fun r => bankOf r.1 == bank && rowHit s r.1)

/-- The request a pseudo-channel serves next: the oldest once it has waited AGEMAX, otherwise the oldest row hit, otherwise the oldest; and of the requests to its
64-byte access the one that arrived first (28 R407). -/
def nextRequest (s : State) (pc : Nat) : Option (Nat × Nat) :=
  let q := s.hqueue.filter (fun r => pseudoChannel r.1 == pc)
  match q with
  | [] => none
  | r :: _ =>
    let x := if r.2 + fld (s.reg (hbmWin (pc / 64))).toNat 16 16 ≤ s.clock then r else (q.find? (fun x => rowHit s x.1)).getD r
    some ((q.find? (fun y => accessOf y.1 == accessOf x.1)).getD x)

/-- The state once a pseudo-channel has served a request: its row is left open, or closed at once for IDLE 0 and no queued hit (28 R408). -/
def served (s : State) (r : Nat × Nat) : State :=
  let bank := bankOf r.1
  let s1 := { s with hqueue := s.hqueue.erase r, rows := s.rows.set bank (rowOf r.1, s.clock) }
  if idleOf s bank = 0 && !queuedHit s1 s1.hqueue bank then { s1 with rows := s1.rows.erase bank } else s1

/-- An access to a place is performed now: in HBM4 when its pseudo-channel has room for its request and serves that 64-byte access next, before every request queued
there (28 R407); none while it waits. A request for the same access that is queued already is the one served. -/
def hbmServe (s : State) (p : Nat) : Option State :=
  if !isHbm p then some s
  else
    let a := p - 2 ^ 48
    let pc := pseudoChannel a
    let same := s.hqueue.any (fun r => accessOf r.1 == accessOf a)
    if !same && decide (32 ≤ (s.hqueue.filter (fun r => pseudoChannel r.1 == pc)).length) then none
    else
      let s1 : State := if same then s else { s with hqueue := s.hqueue ++ [(a, s.clock)] }
      match nextRequest s1 pc with
      | some r => if accessOf r.1 == accessOf a then some (served s1 r) else none
      | none => none

/-- The 64-byte accesses of n bytes at a place, each served in its turn. -/
def hbmRun (s : State) (p n : Nat) : Option State :=
  if !isHbm p then some s
  else (List.range ((p % 64 + n + 63) / 64)).foldl (fun r i => r.bind (fun s => hbmServe s (p - p % 64 + 64 * i))) (some s)

/-- The same of several runs, in order. -/
def hbmRuns (s : State) (ps : List (Nat × Nat)) : Option State := ps.foldl (fun r x => r.bind (fun s => hbmRun s x.1 x.2)) (some s)

end Sys2Proof.Machine
end

