-- ==== Sys2Proof/Machine/Operands.lean ====
section
/-! DEFINITION. Every operand form: scalar, special, vector, predicate and immediate sources (02 R16 to R22, 04 R60, 06 R106),
packed elements (03 R33), and the one place where each kind of destination is written. -/

namespace Sys2Proof.Machine
open Sys2Proof

/-- A lane of a vector register (02 R16). -/
def Group.vreg (g : Group) (r l : Nat) : W32 := (g.v.getD r []).getD l 0

/-- A scalar register. -/
def Group.sreg (g : Group) (i : Nat) : W64 := g.s.getD i 0

/-- A group special register (02 Table 2); %rank is job-relative and 0 outside a job (21 R345: JOBCTL). -/
def special (s : State) (g : Group) (i : Nat) : Nat :=
  match i with
  | 0x302 => Config.width
  | 0x303 => g.env.index
  | 0x304 => g.env.count
  | 0x305 => g.env.linear
  | 0x306 => tileOf s.cur
  | 0x307 => partOf s.cur
  | 0x308 => rankOf s
  | 0x309 => timeRead s g 0x309
  | 0x30A => timeRead s g 0x30A
  | 0x30B => timeRead s g 0x30B
  | 0x30C => g.status.toNat
  | 0x30D => g.env.vregs
  | 0x30E => g.env.role
  | _ => 0

/-- The 64 bits of a kind 01 operand; an immediate is sign-extended to 64 bits (04 R60, 05 R98). -/
def scalarVal (s : State) (g : Group) (o : Opnd) : Nat :=
  match o with
  | .s n => if n.toNat < 192 then (g.sreg n.toNat).toNat else special s g n.toNat
  | .imm n => wrapN 64 n.toInt
  | _ => 0

/-- A scalar source under a type: its low n bits, or the immediate read under the type (04 R60, 05 R98). -/
def scalarSrc (s : State) (g : Group) (t : Ty) (o : Opnd) : Nat :=
  match o with
  | .imm n => immBits t n.toInt
  | _ => if t == .none then scalarVal s g o else scalarVal s g o % 2 ^ t.bits

/-- Bits per packed element position: 32 for 32-bit and 64-bit types (03 R33). -/
def Ty.elemBits (t : Ty) : Nat := if t.bits < 32 then t.bits else 32

/-- The elements of a lane: packed elements in ascending order, or the one 32-bit or 64-bit element (03 R33). -/
def elems (t : Ty) (x : Nat) : List Nat :=
  if t.bits < 32 then (List.range (32 / t.bits)).map (fun j => fld x (t.bits * j) t.bits) else [x]

/-- A lane from its elements. -/
def joinElems (t : Ty) (xs : List Nat) : Nat :=
  match xs with
  | [] => 0
  | x :: r => x % 2 ^ t.bits + 2 ^ t.bits * joinElems t r

/-- One element in every packed position of a lane. -/
def splat (t : Ty) (x : Nat) : Nat :=
  if t.bits < 32 then joinElems t (List.replicate (32 / t.bits) x) else x % 2 ^ t.bits

/-- A lane of a vector operand under a type: the register or the pair (02 R16), a scalar supplied to every element, a per-lane
special register, an immediate (06 R106). -/
def laneVal (s : State) (g : Group) (t : Ty) (o : Opnd) (l : Nat) : Nat :=
  match o with
  | .v r => (g.vreg r.toNat l).toNat + (if t.wide then 2 ^ 32 * (g.vreg (r.toNat + 1) l).toNat else 0)
  | .s n =>
    if n = 0x300 then l
    else if n = 0x301 then g.planeOf l
    else splat t (scalarVal s g o)
  | .imm n => splat t (immBits t n.toInt)
  | .p _ => 0

/-- Lanes of one register replaced where the mask holds (02 R17). -/
def Group.setLanes (g : Group) (r : Nat) (m : Mask) (f : Nat → Nat) : Group :=
  { g with v := g.v.set r (lanes.map (fun l => if lane m l then BitVec.ofNat 32 (f l) else g.vreg r l))
           bad := g.bad.filter (fun x => x.scalar || x.reg != r || !lane m x.lane)
           view := g.view.filter (fun x => x.scalar || x.reg != r || !lane m x.lane) }

/-- A value put back into a register, whatever lies open there. -/
def Group.putVal (g : Group) (x : RegVal) : Group :=
  if x.scalar then { g with s := g.s.set x.reg x.val }
  else { g with v := g.v.set x.reg (lanes.map (fun l => if l = x.lane then x.val.setWidth 32 else g.vreg x.reg l)) }

/-- The register or lane of a value is that of one of these. -/
def RegVal.overlaps (x : RegVal) (ys : List RegVal) : Bool := ys.any (fun y => y.scalar == x.scalar && y.reg == x.reg && y.lane == x.lane)

/-- A vector destination: the register, or the pair under a 64-bit type (02 R16, R17). -/
def Group.writeV (g : Group) (t : Ty) (d : Opnd) (m : Mask) (f : Nat → Nat) : Group :=
  match d with
  | .v r =>
    if t.wide then (g.setLanes r.toNat m f).setLanes (r.toNat + 1) m (fun l => f l / 2 ^ 32) else g.setLanes r.toNat m f
  | _ => g

/-- A predicate destination: the lanes of the mask; p0 discards (02 R17, R22). -/
def Group.writeP (g : Group) (d : Opnd) (m : Mask) (f : Nat → Bool) : Group :=
  match d with
  | .p n => if n = 0 then g else { g with p := g.p.set n.toNat ((g.pred n.toNat &&& ~~~m) ||| (maskOf f &&& m)) }
  | _ => g

/-- A scalar destination s0 to s191 (02 R18). -/
def Group.writeS (g : Group) (d : Opnd) (x : Nat) : Group :=
  match d with
  | .s n =>
    if n.toNat < 192 then { g with s := g.s.set n.toNat (BitVec.ofNat 64 x), bad := g.bad.filter (fun y => !y.scalar || y.reg != n.toNat),
                                   view := g.view.filter (fun y => !y.scalar || y.reg != n.toNat) } else g
  | _ => g

/-- A result of n bits as a scalar register holds it: sign-extended for a .i type, zero-extended for .n and .b (03 R33, 05 R98). 03 R33 names no rule for a
floating-point or .rn24 element (`ldn`, `ldf`, `vredlog` to sD: 10 R164, 07 R125 refer back to it): zero-extended too, DESIGN CHOICE (log 39). -/
def extS (t : Ty) (x : Nat) : Nat := wrapN 64 (readInt t x)

/-- A predicate source, as a lane mask. -/
def predVal (g : Group) (o : Opnd) : Mask :=
  match o with
  | .p n => g.pred n.toNat
  | _ => 0

/-- A per-lane effect: the results of the active lanes and their flags, every source read before any write (01 R9), the flags
ORed once (06 R108). -/
def Group.vecWrite (g : Group) (t : Ty) (d : Opnd) (m : Mask) (f : Nat → Nat × Nat) : Group :=
  let rs := lanes.map (fun l => if lane m l then f l else (0, 0))
  (g.writeV t d m (fun l => (rs.getD l (0, 0)).1)).raise (orFlags rs)

/-- An operation on the elements of up to three lane values (06 R107). -/
def mapElems (t : Ty) (f : Nat → Nat → Nat → Nat × Nat) (a b c : Nat) : Nat × Nat :=
  let rs := ((elems t a).zip ((elems t b).zip (elems t c))).map (fun x => f x.1 x.2.1 x.2.2)
  (joinElems t (rs.map Prod.fst), orFlags rs)

end Sys2Proof.Machine
end

