-- ==== Sys2Proof/Machine/Access.lean ====
section
/-! DEFINITION. Reaching memory: protected reads and their consumption (27 R395 to R397), the one operation through which an agent
writes, with Lifeline's part in it (26 R383), address checks (09 R152 to R157), rank and region resolution (21 R345 to R353)
and translation from a tile's cache (20 R328, R334). -/

namespace Sys2Proof.Machine
open Sys2Proof

/-! ### Protected reads (27 R395 to R397) -/

/-- A corrected error of a unit is counted (27 R399). -/
def countCorrected (s : State) (unit : Nat) : State :=
  s.setReg (errWin + 0x100 + 8 * unit) (s.reg (errWin + 0x100 + 8 * unit) + 1)

/-- A group stands behind a requester. -/
def Who.names (w : Who) (g : Group) : Bool := w.gid == some g.gid

/-- The group behind a requester, resident or out, issues no further word, and its context, which notes the consumption, waits for the service cores to end it (27
R397). -/
def halt (s : State) (w : Who) (unit addr : Nat) : State :=
  let c := s.ctxs.getD w.ctx Ctx.live
  let stop (x : Nat × Group) : Nat × Group := if w.names x.2 then (x.1, { x.2 with halted := true }) else x
  { s with
    ctxs := s.ctxs.set w.ctx { c with doomed := true, spent := c.spent ++ [(w, unit, addr)] }
    groups := s.groups.map stop
    blocks := s.blocks.map (fun x => (x.1, { x.2 with saved := x.2.saved.map stop })) }

/-- A consumption (27 R397, steps 1 to 3) of a granule: the record of class 2, with the stack for HBM4 and the reader's partition otherwise, and the group issues no
further word. What was read stays undone: the same requester's read of the same granule, tried again, changes nothing (log 22). Step 4 is FQACK_KILLED. -/
def consumeAt (s : State) (w : Who) (unit place addr syn : Nat) : State :=
  if (s.ctxs.getD w.ctx Ctx.live).spent.contains (w, unit, place) then s
  else halt (errRecord s 2 unit addr w.ctx (min w.tile 255) (if unit = 6 then stackOf addr else w.part) (BitVec.ofNat 64 (syn % 256))) w unit place

/-- A consumption of a register, or of what another device sent with poison, which its ADDR field names (27 Table 4). -/
def consume (s : State) (w : Who) (unit addr syn : Nat) : State := consumeAt s w unit addr addr syn

/-- The ADDR field of an error record for a place (27 Table 4). Where in the shadow pool a staged granule (from 2^60) lies is not stated: a free value (log 22). -/
def recordAddr (p : Nat) : Nat :=
  if isHbm p then p - 2 ^ 48 else if p < 2 ^ 48 then p else if 2 ^ 60 ≤ p then (Config.freeWord p).toNat % 2 ^ 48 else 0

/-- A read of n bytes on behalf of a requester: single errors are corrected and counted; a worse one is consumed and delivers
nothing (27 R395, R396). -/
def State.readAt (s : State) (w : Who) (p n : Nat) : State × Option (List Byte) :=
  match s.flaws with
  | [] => (s, some (s.peek p n))
  | _ =>
    match s.flaws.find? (fun f => f.worse && f.inRange p n) with
    | some f => (consumeAt s w f.unit f.place (recordAddr f.place) f.syn, none)
    | none =>
      let hit := s.flaws.filter (fun f => f.inRange p n)
      (hit.foldl (fun s f => countCorrected s f.unit) { s with flaws := s.flaws.filter (fun f => !f.inRange p n) }, some (s.peek p n))

/-- The same of a read whose requester is another device's, or the host: a worse error is not consumed here, the answer carries poison (27 R396, R397). -/
def State.readSoft (s : State) (p n : Nat) : State × Option (List Byte) :=
  match s.flaws with
  | [] => (s, some (s.peek p n))
  | _ =>
    if s.flaws.any (fun f => f.worse && f.inRange p n) then (s, none)
    else
      let hit := s.flaws.filter (fun f => f.inRange p n)
      (hit.foldl (fun s f => countCorrected s f.unit) { s with flaws := s.flaws.filter (fun f => !f.inRange p n) }, some (s.peek p n))

/-- Reads of several places, in order; none when one is consumed. -/
def State.readAll (s : State) (w : Who) (n : Nat) : List Nat → State × Option (List (List Byte))
  | [] => (s, some [])
  | p :: r =>
    match s.readAt w p n with
    | (s1, none) => (s1, none)
    | (s1, some bs) =>
      match s1.readAll w n r with
      | (s2, none) => (s2, none)
      | (s2, some rest) => (s2, some (bs :: rest))

/-! ### Writes (26 R383) -/

/-- A before block of cut k is left on the device: resident or swapped out, of the enrolled context, with a lower epoch. -/
def beforeLeft (s : State) (k : Nat) : Bool :=
  s.blocks.any (fun x => x.2.ctx == llCtx s && decide (x.2.epoch < (k : Int)) && decide (x.2.gone.length < x.2.keys.length))

/-- The place of the i-th frame of the aside area (26 Table 1). -/
def asidePlace (s : State) (i : Nat) : Nat := hbmPlace ((fld (s.reg (llWin + 0x18)).toNat 16 32 + i) * 65536)

/-- The lowest free frame of the aside area. -/
def freeAside (s : State) : Option Nat :=
  (List.range (fld (s.reg (llWin + 0x18)).toNat 0 16)).find? (fun i => !s.ll.aside.any (fun a => a.1 == i))

/-- A requester outside every group: an engine, the distributor, an arriving packet. -/
def agentWho (ctx tile : Nat) : Who :=
  { ctx := ctx, epoch := -1, linear := 0, index := 0, serial := 0, launch := 0, lane := 0, tile := tile, part := 0, gid := none, acc := 0 }

/-- The Lifeline engine as the reader of an enrolled context's memory, with the number of its access: each distinct access that consumes is recorded (27 R397). -/
def lifeWho (ctx acc : Nat) : Who := { agentWho ctx 0xFF with acc := acc }

/-- The numbers of the engine's accesses: for frames copied aside and read for the seal of cut k, and for the i-th log entry it reads back. -/
def asideAcc (k : Nat) : Nat := 3 * k
def sealAcc (k : Nat) : Nat := 3 * k + 1
def entryAcc (i : Nat) : Nat := 3 * i + 2

/-- Frame fr copied into the aside area for cut k, before an after access (26 R383): a full area abandons the cut (R384); an uncorrected error in the frame is
consumed by the engine, and the cut abandoned (27 R397). -/
def asideCopy (s : State) (ctx k fr : Nat) : State :=
  match freeAside s with
  | none => abandonCut s k
  | some i =>
    match s.readAt (lifeWho ctx (asideAcc k)) (hbmPlace (fr * 65536)) 65536 with
    | (s1, none) => abandonCut s1 k
    | (s1, some bs) => { s1.engineWrite (asidePlace s1 i) bs with ll := { s1.ll with aside := s1.ll.aside ++ [(i, k, fr)] } }

/-- Frame fr is held for cut k. -/
def holdFrame (s : State) (k fr : Nat) : State :=
  { s with ll := { s.ll with cuts := s.ll.cuts.map (fun d => if d.k = k ∧ !d.held.contains fr then { d with held := d.held ++ [fr] } else d) } }

/-- A before access performed on an aside copy too, at place q of it: a write leaves what it leaves live (f); an atomic reads the copy like any protected store, and
its operation c is done on what it holds there (26 R383, 27 R395); where that read is a consumption the cut is abandoned. -/
def asideWrite (s : State) (ctx k q n : Nat) (f : List Byte → List Byte) (c : Option (List Byte → List Byte)) : State :=
  match c with
  | none => s.engineWrite q (f (s.peek q n))
  | some op =>
    match s.readAt (lifeWho ctx (asideAcc k)) q n with
    | (s1, none) => abandonCut s1 k
    | (s1, some bs) => s1.engineWrite q (op bs)

/-- What one unsealed cut asks of a write of n bytes at place p in frame fr, before the live frame is written (26 R383): a before access is performed on an aside
copy too. -/
def cutWrite (w : Who) (p n fr : Nat) (f : List Byte → List Byte) (c : Option (List Byte → List Byte)) (s : State) (k : Nat) : State :=
  match s.ll.cuts.find? (fun x => x.k == k) with
  | none => s
  | some x =>
  match s.ll.aside.find? (fun a => a.2.1 == x.k && a.2.2 == fr) with
  | some a => if (x.k : Int) ≤ w.epoch then s else holdFrame (asideWrite s w.ctx x.k (asidePlace s a.1 + p % 65536) n f c) x.k fr
  | none =>
    if (x.k : Int) ≤ w.epoch then
      if x.held.contains fr || !beforeLeft s x.k then asideCopy s w.ctx x.k fr else s
    else holdFrame s x.k fr

/-- Lifeline's part in a write of the enrolled context to a frame (26 R383): once for every unsealed cut. -/
def lifeWrite (s : State) (w : Who) (p n : Nat) (f : List Byte → List Byte) (c : Option (List Byte → List Byte)) : State :=
  if bit (s.reg llWin).toNat 63 && llCtx s == w.ctx && isHbm p then
    let fr := (p - 2 ^ 48) / 65536
    let s : State := { s with ll := { s.ll with wrote := if s.ll.wrote.contains fr then s.ll.wrote else s.ll.wrote ++ [fr] } }
    (s.ll.cuts.map Cut.k).foldl (cutWrite w p n fr f c) s
  else s

/-- The access is a before access of an unsealed cut: what it changes beside memory changes in the manifests of those cuts too (26 Table 4). -/
def manifestUpd (s : State) (w : Who) (f : Manifest → Manifest) : State :=
  if bit (s.reg llWin).toNat 63 && llCtx s == w.ctx then
    { s with ll := { s.ll with cuts := s.ll.cuts.map (fun c => if w.epoch < (c.k : Int) then { c with manifest := f c.manifest } else c) } }
  else s

/-- Bytes of [q, q + 8) that [p, p + n) covers replaced by those written there. -/
def overlay (q : Nat) (old : W64) (p : Nat) (bs : List Byte) : W64 :=
  BitVec.ofNat 64 (leVal ((leBytes 8 old.toNat).mapIdx (fun i x => if p ≤ q + i then (bs[q + i - p]?).getD x else x)))

/-- Bytes at p that the host sees at once: what it may still read in their place shows them too (21 R357, R359). -/
def State.shown (s : State) (p : Nat) (bs : List Byte) : State :=
  { s with veils := (s.veils.filter (fun v => !(decide (p ≤ v.place) && decide (v.place + 8 ≤ p + bs.length)))).map (fun v =>
      { v with old := overlay v.place v.old p bs }) }

/-- MODEL: the phases of barriers that a plain write of these bytes is about to change, noted for every block of the tile while a replay is in progress (13 R246). -/
def State.phases (s : State) (p : Nat) (bs : List Byte) : State :=
  match s.ll.replay with
  | none => s
  | some _ =>
    let tops := (List.range (bs.length / 16 + 2)).map (fun i => (p / 16 + i) * 16)
    let flipped := tops.filter (fun q => decide (p ≤ q + 7) && decide (q + 7 < p + bs.length) && bit (bs.getD (q + 7 - p) 0).toNat 7 != bit (memVal s.mem q 8) 63)
    let keys := flipped.flatMap (fun q => s.blocks.filterMap (fun x =>
      if x.2.tiles.any (fun t => slicePlace t 0 == q - q % 2 ^ 23) then some (x.1 * 2 ^ 23 + q % 2 ^ 23) else none))
    { s with ll := { s.ll with seen := { s.ll.seen with flips := keys.foldl (fun t k => t.set k (t.getD k 0 + 1)) s.ll.seen.flips } } }

/-- Bytes of a near store of a word (10 R165). -/
def State.nearStore (s : State) (p : Nat) (bs : List Byte) : State := (s.phases p bs).poke p bs

/-- One access of a requester that writes n bytes: the new bytes are f of the old ones (13 R233: in one step at the home); c is the operation of an atomic. -/
def State.update (s : State) (w : Who) (p n : Nat) (f : List Byte → List Byte) (c : Option (List Byte → List Byte)) : State :=
  let s1 := (lifeWrite s w p n f c).pastHost p n
  s1.nearStore p (f (s1.peek p n))

/-- The group of a requester has read the values that stand in these bytes: what was written there until now it has observed (10 R183, 13 R238). -/
def State.observe (s : State) (w : Who) (p n : Nat) : State :=
  match w.gid, s.veils with
  | some g, v :: r => { s with veils := (v :: r).map (fun v => if meets v.place 8 p n then { v with seen := v.seen ++ [(g, s.clock)] } else v) }
  | _, _ => s

/-- An atomic of the host that has read and not yet written meets these bytes (13 R244). -/
def hostHolds (s : State) (p n : Nat) : Bool := s.hostAts.any (fun h => !h.wrote && meets h.place h.size p n)

/-- The bytes that an atomic of the device may read although an atomic of the host that meets it has written: on a host page without SYS, and on HBM4 (13 R244, 21
R359). -/
def staleAt (s : State) (p n : Nat) (sys : Bool) : Option (List Byte) :=
  if (isHost p && !sys) || isHbm p then
    (s.hostAts.find? (fun h => h.wrote && meets h.place h.size p n)).map (fun h =>
      (s.peek p n).mapIdx (fun i x => if h.place ≤ p + i then ((leBytes h.size h.old)[p + i - h.place]?).getD x else x))
  else none

/-- The launch a requester acts for: that of its group's block, or the one whose completion the distributor performs (18 R295). -/
def Who.job (s : State) (w : Who) : Option Nat :=
  match w.gid with
  | some g => (s.blocks.get? (g / 64)).map Block.job
  | none => if w.acc = 0 then none else some (w.acc - 1)

/-- The same of an access whose result the host sees only through a publication (21 R357). -/
def State.modify (s : State) (w : Who) (p n : Nat) (f : List Byte → List Byte) (c : Option (List Byte → List Byte)) : State :=
  { s.update w p n f c with veils := s.veils ++ veilsOf s w.gid (w.job s) p n }

/-- An atomic access of a requester, whose operation is op: on a host page with SYS it is performed at the host's coherence point, and the host sees its result at
once (21 R359). Elsewhere it may act on other bytes than those that stand there, which `old` gives (13 R244). -/
def State.atomicAt (s : State) (w : Who) (p n : Nat) (sys : Bool) (old : Option (List Byte)) (op : List Byte → List Byte) : State :=
  let f (bs : List Byte) : List Byte := op (old.getD bs)
  if sys && isHost p then (s.update w p n f (some op)).shown p (f (s.peek p n)) else s.modify w p n f (some op)

/-- A plain write of a requester. -/
def State.write (s : State) (w : Who) (p : Nat) (bs : List Byte) : State := s.modify w p bs.length (fun _ => bs) none

/-! ### Address checks at issue (09 R152 to R157) -/

/-- The reason a place in the local map refuses a far form: 1 hole, 2 reserved range (09 Table 1). -/
def areaReason (a : Nat) : Option Nat :=
  if a < 0x7F0000 then none
  else if a < 0x800000 then some 2
  else if a < 0x100000000 then some 1
  else if a < 0x180000000 then (if 0x7F0000 ≤ a % 0x800000 then some 2 else none)
  else if a < 0x200000000 then some 1
  else none

/-- The first check a local address of an n-byte access fails, in the order of 09 R157. -/
def localReason (near : Bool) (n a : Nat) : Option Nat :=
  if 2 ^ 48 ≤ a then some 3
  else if a % n ≠ 0 then some 9
  else if near then (if 0x7F0000 ≤ a then some 10 else none)
  else areaReason a

/-- The first byte of [a, a + n) that fails a check, with its reason; strides stay inside one 64 KiB unit, whose first byte decides
(every boundary of 09 Table 1 is a multiple of 64 KiB). -/
def rangeReason (near : Bool) (a n : Nat) : Option (Nat × Nat) :=
  if n = 0 then none
  else
    let units := List.range ((a % 65536 + n + 65535) / 65536)
    units.findSome? (fun i =>
      let x := if i = 0 then a else (a / 65536 + i) * 65536
      (localReason near 1 x).map (fun r => (r, x)))

/-- The canonical address of a location of this device: the near window named through the tile window (09 R153). -/
def canon (tile a : Nat) : Nat := if a < 0x800000 then slicePlace tile a else a

/-! ### Ranks and regions (21) -/

/-- The 128 or 256 bits of a wide register (28 R401). -/
def wideReg (s : State) (a n : Nat) : Nat :=
  (List.range n).foldl (fun x i => x + (s.reg (a + 8 * i)).toNat * 2 ^ (64 * i)) 0

/-- A region descriptor (21 Table 7). -/
structure Region where
  base : Nat
  size : Nat
  ctx : Nat
  redwin : Bool
  a : Bool
  w : Bool
  r : Bool
deriving DecidableEq, Repr

/-- The descriptor of region n, when it is valid (21 R350). -/
def regionOf (s : State) (n : Nat) : Option Region :=
  let d := wideReg s (jobWin + 0x3000 + 32 * n) 4
  let base := fld d 16 48 * 2 ^ 16
  let size := fld d 64 42
  if bit d 0 && decide (base + size ≤ 2 ^ 48) then
    some { base := base, size := size, ctx := fld d 5 8, redwin := bit d 4, a := bit d 3, w := bit d 2, r := bit d 1 }
  else none

/-- The permission an access kind needs: 0 load, 1 store, 2 atomic. -/
def Region.allows (r : Region) (k : Nat) : Bool := if k = 0 then r.r else if k = 1 then r.w else r.a

/-- Torus mode is in force (21 R352). -/
def torusOn (s : State) : Bool :=
  let j := (s.reg jobWin).toNat
  let d := (s.reg (jobWin + 0x8)).toNat
  bit j 63 && bit (wideReg s (jobWin + 0x100 + 16 * (fld j 46 17 / 1024)) 2) 126
    && fld d 0 12 * fld d 12 12 * fld d 24 12 * fld d 36 12 == fld j 28 18

/-- The neighbour of a rank over torus port p (21 R353). -/
def torusPeer (s : State) (r p : Nat) : Nat :=
  let d := (s.reg (jobWin + 0x8)).toNat
  let dim := p / 2
  let size := fld d (12 * dim) 12
  let below := ((List.range dim).map (fun i => fld d (12 * i) 12)).foldl (· * ·) 1
  let c := r / below % size
  let c' := if p % 2 = 0 then (c + 1) % size else (c + size - 1) % size
  r - c * below + c' * below

/-- The port a rank leaves on under torus mode: the first serving port that is up (21 R353). -/
def torusPort (s : State) (r : Nat) : Option Nat :=
  if torusOn s then
    (List.range 8).find? (fun p => torusPeer s (rankOf s) p == r && !bit (s.reg (jobWin + 0x8)).toNat (56 + p))
  else none

/-- Where a rank lies: none when it is this device; an error is reason 5 (21 R345, R346). -/
def resolveRank (s : State) (r : Nat) : Except Nat (Option Route) :=
  let j := (s.reg jobWin).toNat
  let e := wideReg s (jobWin + 0x100 + 16 * (r / 1024)) 2
  let o := r % 1024
  let rpp := fld e 94 11
  let step := fld e 74 10
  if !bit j 63 || decide (fld j 28 18 ≤ r) || !bit e 127 || decide (fld e 63 11 ≤ o) || rpp == 0 || step == 0 then .error 5
  else
    let pod := fld e 105 17 + o / rpp
    let dev := fld e 84 10 + o % rpp * step
    if 1024 ≤ dev then .error 5
    else if r = fld j 46 17 then .ok none
    else if pod = fld j 11 17 then
      let l2 := (s.reg (jobWin + 0x1000 + 8 * dev)).toNat
      if bit l2 63 then .ok (some (.pod (fld l2 0 10))) else .error 5
    else
      match torusPort s r with
      | some p => .ok (some (.port p pod dev))
      | none => .ok (some (.net pod dev ((s.rtcache.find? (fun x => x.pod == pod)).map (fun x => x.raw))))

/-- What an address names: a location of this device, or bits [45:0] of a global address of another rank with its route. -/
structure Target where
  addr : Nat
  rank : Option Nat
  route : Option Route
deriving DecidableEq, Repr

/-- The checks of a global address, in the order of 09 R157 (reasons 3 to 9, then 1 and 2 for the device's own rank), for an n-byte
access of kind k: OFS, then idx, is added to the offset field alone, and neither sum may leave it (09 R154, 10 R163). The error carries bits
[47:0] of the effective address. -/
def resolveGlobal (s : State) (k n align base : Nat) (ofs idx : Int) : Except (Nat × Nat) Target :=
  let rank := fld base 46 17
  let reg := fld base 41 5
  let o1 := (fld base 0 41 : Int) + ofs
  let o := o1 + idx
  let place (x : Int) : Nat := (rank * 2 ^ 46 + reg * 2 ^ 41 + wrapN 41 x) % 2 ^ 48
  let ea := place o
  if !bit base 63 then .error (3, ea)
  else if o1 < 0 ∨ (2 ^ 41 : Int) ≤ o1 then .error (4, place o1)
  else if o < 0 ∨ (2 ^ 41 : Int) ≤ o then .error (4, ea)
  else
    match resolveRank s rank with
    | .error r => .error (r, ea)
    | .ok route =>
      match regionOf s reg with
      | none => .error (6, ea)
      | some d =>
        if d.size < o.toNat + n then .error (7, ea)
        else if !d.allows k then .error (8, ea)
        else if o.toNat % align ≠ 0 then .error (9, ea)
        else
          match route with
          | some r => .ok { addr := reg * 2 ^ 41 + o.toNat, rank := some rank, route := some r }
          | none =>
            match areaReason (d.base + o.toNat) with
            | some x => .error (x, ea)
            | none => .ok { addr := canon (tileOf s.cur) (d.base + o.toNat), rank := none, route := none }

/-- The checks of a local address: no bit of [63:48] may be set in the base register or in the sum, which does not wrap (09 R152, R154). -/
def resolveLocal (s : State) (near : Bool) (align base : Nat) (ofs idx : Int) : Except (Nat × Nat) Target :=
  let a := (base : Int) + ofs + idx
  if 2 ^ 48 ≤ base ∨ a < 0 ∨ (2 ^ 48 : Int) ≤ a then .error (3, wrapN 48 a)
  else
    match localReason near align a.toNat with
    | some r => .error (r, a.toNat)
    | none => .ok { addr := canon (tileOf s.cur) a.toNat, rank := none, route := none }

/-- The checks of one access of a word: GLOB, near form, kind, bytes, base register, OFS and idx. -/
def resolve (s : State) (glob near : Bool) (k n base : Nat) (ofs idx : Int) : Except (Nat × Nat) Target :=
  if glob then resolveGlobal s k n n base ofs idx else resolveLocal s near n base ofs idx

/-! ### The walk (20 R330, R331) -/

/-- What an entry says at its level: the next table, a page, or a fault of some kind. -/
inductive Walk where
  | next (base : Nat)
  | leaf (pa size : Nat)
  | fault (kind : Nat)
deriving DecidableEq, Repr

/-- One entry of a walk for access kind k (0 read, 1 write or atomic, 2 fetch) (20 R331). -/
def walkEntry (k lvl e : Nat) : Walk :=
  if !bit e 0 then .fault 1
  else if fld e 48 16 ≠ 0 ∨ fld e 7 5 ≠ 0 then .fault 4
  else if !bit e 1 then
    if lvl = 3 ∨ fld e 2 5 ≠ 0 ∨ (lvl = 2 ∧ fld e 12 5 ≠ 0) then .fault 4 else .next (fld e 12 36 * 4096)
  else
    let size := if lvl = 2 then 2 ^ 30 else if bit e 6 then 2 ^ 21 else 65536
    let pa := fld e 12 36 * 4096
    if lvl = 1 ∨ (lvl = 2 ∧ bit e 6) ∨ (bit e 4 ∧ !bit e 5) then .fault 4
    else if pa % size ≠ 0 then .fault 4
    else if !bit e 5 ∧ 383 * 2 ^ 30 < pa + size then .fault 5
    else if k = 1 ∧ !bit e 2 then .fault 2
    else if k = 2 ∧ !bit e 3 then .fault 3
    else .leaf pa size

/-- The index of an address at a level (20 R330). -/
def walkIdx (va lvl : Nat) : Nat := if lvl = 1 then fld va 39 9 else if lvl = 2 then fld va 30 9 else fld va 16 14

/-- The address bits that pick the table a pointer of a level leads to. -/
def ptrIdx (va lvl : Nat) : Nat := if lvl = 1 then fld va 39 9 else fld va 30 18

/-! ### Translation from a tile's cache (20 R328, R334) -/

/-- The agents outside the tiles (collective engine, distributor, arriving packets, Lifeline) share one place for their
translations (log 12). -/
def midTile : Nat := 256

/-- A requester waits on a fault of the page an address lies in (20 R340). -/
def waitsFault (s : State) (id ctx a : Nat) : Bool := s.faults.any (fun f => f.ctx == ctx && f.page == a / 65536 && f.reqs.contains id)

/-- The key by which a group's fetch is known as a requester. -/
def fetchReq (key : Nat) : Nat := 2 ^ 60 + key

/-- The key by which an agent of the device is known as a requester of a page: the agent (20 Table 7), its tile, and the object it acts for where it has several
(a shadow's number, an arriving packet's sender and identity). -/
def agentReq (agent tile obj va : Nat) : Nat := 2 ^ 61 + ((obj * 2 ^ 9 + tile) * 8 + agent) * 2 ^ 32 + va / 65536

/-- The place and SYS mark of a local address for an access kind (0 read, 1 write or atomic, 2 fetch), when no walk is needed. -/
def xlate (s : State) (tile ctx a kind : Nat) : Option (Nat × Bool) :=
  if a < 0x200000000 then some (canon tile a, false)
  else
    match s.trans.find? (fun t => t.tile == tile && t.ctx == ctx && decide (t.va ≤ a) && decide (a < t.va + t.size)
        && (kind != 1 || t.w) && (kind != 2 || t.x)) with
    | some t => some (if t.host then hostPlace (t.pa + (a - t.va)) else hbmPlace (t.pa + (a - t.va)), t.sys)
    | none => none

/-- The place of an address, without its mark. -/
def placeOf (s : State) (tile ctx a kind : Nat) : Option Nat := (xlate s tile ctx a kind).map Prod.fst

/-- Where the page tables as they stand lead an address, from a table of a level on; nothing is read through a cache, no error is looked at. -/
def tableWalk (m : List Host.Cell) (va k t lvl : Nat) : Nat → Option Nat
  | 0 => none
  | n + 1 =>
    match walkEntry k lvl (memVal m (hbmPlace (t + 8 * walkIdx va lvl)) 8) with
    | .fault _ => none
    | .next base => tableWalk m va k base (lvl + 1) n
    | .leaf pa size =>
      let e := memVal m (hbmPlace (t + 8 * walkIdx va lvl)) 8
      some (if bit e 5 then hostPlace (pa + va % size) else hbmPlace (pa + va % size))

/-- The location an address of a context names: where the tile's cache leads it, otherwise where its tables would (13 R232: a location is a byte, whatever
address names it). -/
def homeOf (s : State) (tile ctx a kind : Nat) : Option Nat :=
  match placeOf s tile ctx a kind with
  | some p => some p
  | none =>
    let root := (s.reg (ctxWin ctx + 0x10)).toNat
    if bit root 0 then tableWalk s.mem a kind (fld root 12 36 * 4096) 1 3 else none

/-! ### The walk through the caches (20 R330, R331, R334) -/

/-- How a whole walk ends: a translation, a fault with its level and entry, or a consumption. -/
inductive Walked where
  | ok (t : Trans)
  | fault (kind lvl pte : Nat)
  | gone
deriving DecidableEq, Repr

/-- A pointer entry enters the walk cache of 256 (20 R334). -/
def holdPtr (s : State) (p : WalkPtr) : State :=
  { s with walks := (p :: s.walks.filter (fun x => !(x.ctx == p.ctx && x.lvl == p.lvl && x.idx == p.idx))).take 256 }

/-- The walk from a level on, its table at t. -/
def walkFrom (s : State) (w : Who) (tile va k : Nat) (t lvl : Nat) : Nat → State × Walked
  | 0 => (s, .fault 4 3 0)
  | n + 1 =>
    match s.readAt w (hbmPlace (t + 8 * walkIdx va lvl)) 8 with
    | (s1, none) => (s1, .gone)
    | (s1, some bs) =>
      let e := leVal bs
      match walkEntry k lvl e with
      | .fault kind => (s1, .fault kind lvl e)
      | .next base => walkFrom (holdPtr s1 { ctx := w.ctx, lvl := lvl, idx := ptrIdx va lvl, base := base }) w tile va k base (lvl + 1) n
      | .leaf pa size =>
        (s1, .ok { tile := tile, ctx := w.ctx, va := va - va % size, size := size, pa := pa, host := bit e 5, sys := bit e 4, w := bit e 2, x := bit e 3 })

/-- The walk for an address of a context, from the deepest pointer the walk cache holds (20 R331, R334). -/
def walk (s : State) (w : Who) (tile va k : Nat) : State × Walked :=
  let root := (s.reg (ctxWin w.ctx + 0x10)).toNat
  let held (lvl : Nat) : Option WalkPtr := s.walks.find? (fun p => p.ctx == w.ctx && p.lvl == lvl && p.idx == ptrIdx va lvl)
  if !bit root 0 then (s, .fault 1 1 0)
  else
    match held 2 with
    | some p => walkFrom s w tile va k p.base 3 1
    | none =>
      match held 1 with
      | some p => walkFrom s w tile va k p.base 2 2
      | none => walkFrom s w tile va k (fld root 12 36 * 4096) 1 3

/-- A leaf enters its tile's translation cache of 512 (20 R334). -/
def holdTrans (s : State) (t : Trans) : State :=
  let mine := s.trans.filter (fun x => x.tile == t.tile && !(x.ctx == t.ctx && x.va == t.va && x.size == t.size))
  { s with trans := t :: mine.take (Config.tcacheMax - 1) ++ s.trans.filter (fun x => x.tile != t.tile) }

/-- The place of an address for a requester, walked for where its tile's cache lacks the translation: the walk reads protected memory, and its leaf enters the cache
(20 R331, R334). None where the walk ends in a fault or a consumption. -/
def walkedPlace (s : State) (w : Who) (tile a k : Nat) : State × Option Nat :=
  match placeOf s tile w.ctx a k with
  | some p => (s, some p)
  | none =>
    match walk s w tile a k with
    | (s1, .ok t) => (holdTrans s1 t, placeOf (holdTrans s1 t) tile w.ctx a k)
    | (s1, .fault _ _ _) => ({ s1 with walks := s.walks }, none)
    | (s1, .gone) => (s1, none)

/-- The places of n bytes from a on, in pieces of `step` bytes; none while one needs a walk. -/
def placesOf (s : State) (tile ctx kind step a : Nat) : Nat → Option (List Nat)
  | 0 => some []
  | n + 1 =>
    match placeOf s tile ctx a kind, placesOf s tile ctx kind step (a + step) n with
    | some p, some r => some (p :: r)
    | _, _ => none

/-- Cells grouped into runs of consecutive addresses. -/
def runsOf : List (Nat × Byte) → List (Nat × List Byte)
  | [] => []
  | (a, x) :: r =>
    match runsOf r with
    | (b, bs) :: t => if b = a + 1 then (a, x :: bs) :: t else (a, [x]) :: (b, bs) :: t
    | [] => [(a, [x])]

/-- Bytes cut at the 64 KiB boundaries of their addresses, so that each piece lies in one page. -/
def pieces (a : Nat) (bs : List Byte) : Nat → List (Nat × List Byte)
  | 0 => []
  | n + 1 =>
    let k := 65536 - a % 65536
    if bs.isEmpty then [] else (a, bs.take k) :: pieces (a + k) (bs.drop k) n

/-- A write of n bytes of a SYS page waits for an atomic of the host in progress there (13 R244, 21 R359). -/
def heldOff (s : State) (tile ctx a n : Nat) : Bool :=
  !s.hostAts.isEmpty && (match xlate s tile ctx a 1 with | some (q, true) => hostHolds s q n | _ => false)

/-- Bytes written from a local address up for a requester at a tile; none while a page needs a walk, an atomic of the host holds the write back, or an access to HBM4
waits for its turn. -/
def State.writeVia (s : State) (w : Who) (tile a : Nat) (bs : List Byte) : Option State :=
  let ps := pieces a bs (bs.length / 65536 + 2)
  if ps.any (fun p => heldOff s tile w.ctx p.1 p.2.length) then none else
  (ps.mapM (fun p => placeOf s tile w.ctx p.1 1)).bind (fun qs =>
    (hbmRuns s ((qs.zip ps).map (fun x => (x.1, x.2.2.length)))).map (fun s1 => (qs.zip ps).foldl (fun s x => s.write w x.1 x.2.2) s1))

/-- Bytes read at several places, one after the other, after the host atomics that have written there (13 R244); no bytes when one is consumed. -/
def State.readRuns (s : State) (w : Who) (rs : List (Nat × Nat)) : State × Option (List Byte) :=
  rs.foldl (fun r x =>
    match r with
    | (s, none) => (s, none)
    | (s, some acc) =>
      match (s.pastHost x.1 x.2).readAt w x.1 x.2 with
      | (s1, none) => (s1, none)
      | (s1, some bs) => (s1, some (acc ++ bs))) (s, some [])

/-- n bytes read from a local address up for a requester at a tile; none while a page needs a walk, or an access to HBM4 waits for its turn; no bytes when one is
consumed. -/
def State.readVia (s : State) (w : Who) (tile a n : Nat) : Option (State × Option (List Byte)) :=
  let ps := pieces a (List.replicate n 0) (n / 65536 + 2)
  (ps.mapM (fun p => placeOf s tile w.ctx p.1 0)).bind (fun qs =>
    let rs := (qs.zip ps).map (fun x => (x.1, x.2.2.length))
    (hbmRuns s rs).map (fun s1 => s1.readRuns w rs))

end Sys2Proof.Machine
end

