-- ==== Sys2Proof/Machine/Code.lean ====
section
/-! DEFINITION. Reading code: the instruction cache, prefetched words and loop buffer (05 R97, 13 R241, 20 R328), and the literal
load, major 0x12 (04 R74, R75, 05 R103). -/

namespace Sys2Proof.Machine
open Sys2Proof

/-- The byte address of a word (04 R75, R76). -/
def Group.codeAddr (g : Group) (plane o : Nat) : Nat := g.env.codeBase + 12 * (plane * g.env.stride + o)

/-- How a fetch ends: the word, a wait for a walk, or a consumption, which halts the group (27 R397). -/
inductive Fetch where
  | word (w : Nat)
  | wait
  | gone (s : State)
deriving DecidableEq, Repr

/-- The loop buffer's word, when the group holds its partition's buffer and it covers the offset and plane (05 R97). -/
def loopWord (s : State) (key : Nat) (plane o : Nat) : Option Nat :=
  match s.loops.get? (key / 16) with
  | none => none
  | some b =>
    if b.group = key ∧ b.first ≤ o ∧ o ≤ b.last then (b.words.find? (fun x => x.1 == o && x.2.1 == plane)).map (fun x => x.2.2) else none

/-- Four bytes of code: from the tile's instruction cache where it holds them, otherwise from memory through the fetch path. -/
def fetchPiece (s : State) (w : Who) (va : Nat) : Fetch :=
  match s.icache.find? (fun c => c.tile == w.tile && c.ctx == w.ctx && c.va == va) with
  | some c => .word c.val.toNat
  | none =>
    match placeOf s w.tile w.ctx va 2 with
    | none => .wait
    | some p =>
      match s.readAt w p 4 with
      | (_, some bs) => .word (leVal bs)
      | (s1, none) => .gone s1

/-- Three pieces as one word. -/
def joinFetch (a b c : Fetch) : Fetch :=
  match a, b, c with
  | .word x, .word y, .word z => .word (x + 2 ^ 32 * y + 2 ^ 64 * z)
  | .gone s, _, _ => .gone s
  | _, .gone s, _ => .gone s
  | _, _, .gone s => .gone s
  | _, _, _ => .wait

/-- The group's fetch of this word waits on a fault: until an FQACK restarts its walk it gets no word, whatever the caches come to hold (20 R340). -/
def fetchStuck (s : State) (key : Nat) (g : Group) (plane o : Nat) : Bool :=
  (loopWord s key plane o).isNone && !g.pre.any (fun x => x.1 == o && x.2.1 == plane)
    && [0, 4, 8].any (fun i => waitsFault s (fetchReq key) g.env.ctx (g.codeAddr plane o + i))

/-- The word of a plane at an offset of the group with this key. -/
def fetchAt (s : State) (key : Nat) (g : Group) (plane o : Nat) : Fetch :=
  match loopWord s key plane o with
  | some w => .word w
  | none =>
    match g.pre.find? (fun x => x.1 == o && x.2.1 == plane) with
    | some x => .word x.2.2
    | none =>
      let w := whoAt key g 0
      let a := g.codeAddr plane o
      if fetchStuck s key g plane o then .wait else joinFetch (fetchPiece s w a) (fetchPiece s w (a + 4)) (fetchPiece s w (a + 8))

/-- What reading a word leaves: single errors in the code bytes it reads from memory are corrected and counted (27 R395). -/
def fetchCorrect (s : State) (key : Nat) (g : Group) (plane o : Nat) : State :=
  match s.flaws with
  | [] => s
  | _ =>
    if (loopWord s key plane o).isSome || g.pre.any (fun x => x.1 == o && x.2.1 == plane) then s
    else
      let w := whoAt key g 0
      let a := g.codeAddr plane o
      [a, a + 4, a + 8].foldl (fun s va =>
        if s.icache.any (fun c => c.tile == w.tile && c.ctx == w.ctx && c.va == va) then s
        else match placeOf s w.tile w.ctx va 2 with | some p => (s.readAt w p 4).1 | none => s) s

/-- The check of a word's address (20 R328): 3, 1 or 2. -/
def codeReason (g : Group) (plane o : Nat) : Option Nat := (rangeReason false (g.codeAddr plane o) 12).map Prod.fst

/-- What a literal load finds for one plane: payload [63:0], that the target is no literal word (04 R75), or that its address is
refused. -/
inductive Lit where
  | val (x : Nat)
  | bad
  | addr (r : Nat)
  | wait
  | gone (s : State)
deriving DecidableEq, Repr

def litAt (s : State) (g : Group) (plane : Nat) (o : Int) : Lit :=
  if o < 0 ∨ (g.env.stride : Int) ≤ o then .bad
  else
    match codeReason g plane o.toNat with
    | some r => .addr r
    | none =>
    match fetchAt s s.cur g plane o.toNat with
    | .word w => if w / 2 ^ 88 = 0xFE then .val (w % 2 ^ 64) else .bad
    | .wait => .wait
    | .gone s1 => .gone s1

/-- `ldl` (05 R103): each lane reads its own plane's word; reason 11 names the plane of the lowest lane that fails; a literal word in
a hole or reserved range raises ADDR as its fetch would (log 14). -/
def execLdl (w : IM) (s : State) : Host.Outcome State Fault Refusal :=
  runWord (.ldl w) s nothing (fun s g m =>
    let o : Int := (g.ofs : Int) + w.imm.toInt
    let ls := (lanesOf m).map (fun l => (l, litAt s g (g.planeOf l) o))
    match ls.findSome? (fun x => match x.2 with | .gone s1 => some s1 | _ => none) with
    | some s1 => .ok s1
    | none =>
      if ls.any (fun x => x.2 == .wait) then .stall
      else
        match ls.find? (fun x => x.2 == .bad) with
        | some x => .trap s tIllegal (illegalDetail { g with plane := g.planeOf x.1, common := false } 11 0 0x12 0)
        | none =>
        match ls.findSome? (fun x => match x.2 with | .addr r => some (x.1, r) | _ => none) with
        | some (l, r) => .trap s tAddr (addrDetail false l r (g.codeAddr (g.planeOf l) o.toNat))
        | none =>
          let at? (l : Nat) : Nat := match ls.find? (fun x => x.1 == l) with | some (_, .val x) => x | _ => 0
          let s := (g.planesOf m).foldl (fun s k => fetchCorrect s s.cur g k o.toNat) s
          match w.d with
          | .v _ => .ok (s.put (g.writeV w.ty w.d m (fun l => if w.ty.wide then at? l else at? l % 2 ^ 32)))
          | _ => .ok (s.put (g.writeS w.d (extS w.ty (at? (lowLane m) % 2 ^ w.ty.bits)))))

end Sys2Proof.Machine
end

