-- ==== Sys2Proof/Machine/Table.lean ====
section
/-! DEFINITION. The path table of a group: merging and spilling (02 R24 to R26, 16 R287), its rebuilding when an offset completes (05 R88), departures from a
block barrier (11 R207) and releases of held entries (15 R286), and the spill area in SRAM. -/

namespace Sys2Proof.Machine
open Sys2Proof

/-! ### Merging and spilling (02 R24, R25) -/

/-- Lanes moved to an offset under the merging rule (02 R24): into the entry there, or a new entry with the next stamp and the lowest
free index. Lanes that merge use up no stamp: 02 R25 draws one for each new entry, while 05 R88 has every group but the first take one (DESIGN CHOICE,
log 26; the stamp counter shows in bytes 960 and 961 of the spill area). -/
def addLanes (paths : List Entry) (stamp t : Nat) (m : Mask) : List Entry × Nat :=
  if m = 0 then (paths, stamp)
  else if paths.any (fun e => e.ofs == t) then
    (paths.map (fun e => if e.ofs = t then { e with lanes := e.lanes ||| m } else e), stamp)
  else
    let idx := ((List.range 16).find? (fun i => !paths.any (fun e => e.idx == i))).getD 16
    (paths ++ [{ idx := idx, ofs := t, stamp := stamp, lanes := m, held := false, step := false, pass := false, stops := [] }], (stamp + 1) % 2 ^ 16)

/-- The oldest table entry by age (02 R25): (next - stamp) mod 2^16, the greatest. -/
def oldestEntry (next : Nat) : List Entry → Option Entry
  | [] => none
  | e :: r =>
    match oldestEntry next r with
    | none => if e.idx < 16 then some e else none
    | some f => if e.idx < 16 ∧ (next + 2 ^ 16 - f.stamp) % 2 ^ 16 < (next + 2 ^ 16 - e.stamp) % 2 ^ 16 then some e else some f

/-- The oldest table entry moved to the lowest free spill slot (02 R25, 16 R287). -/
def spillOldest (next : Nat) (paths : List Entry) : List Entry :=
  match oldestEntry next paths with
  | none => paths
  | some o =>
    let k := ((List.range 48).find? (fun k => !paths.any (fun e => e.idx == 16 + k))).getD 0
    paths.map (fun e => if e.ofs = o.ofs then { e with idx := 16 + k } else e)

/-- `addLanes` with a free index made first when the table is full (16 R287). -/
def placeLanes (paths : List Entry) (stamp t : Nat) (m : Mask) : List Entry × Nat :=
  if m = 0 ∨ paths.any (fun e => e.ofs == t) ∨ (paths.filter (fun e => decide (e.idx < 16))).length < 16 then addLanes paths stamp t m
  else addLanes (spillOldest stamp paths) stamp t m

/-- Lowest free index of the table. -/
def freeIdx (paths : List Entry) : Nat := ((List.range 16).find? (fun i => !paths.any (fun e => e.idx == i))).getD 15

/-- A spilled entry that is chosen returns to the table, the oldest other entry spilling when it is full; the number of moves. -/
def Group.frontier (g : Group) : Group × Nat :=
  match g.run? with
  | none => (g, 0)
  | some e =>
    if e.idx < 16 then (g, 0)
    else
      let others := g.paths.filter (fun x => x.ofs != e.ofs)
      let full := 16 ≤ (others.filter (fun x => decide (x.idx < 16))).length
      let others' := if full then spillOldest g.stamp others else others
      ({ g with paths := others' ++ [{ e with idx := freeIdx others' }] }, if full then 2 else 1)

/-- Moves stall issue for 6 clk each, with stall reason PATH_SPILL. -/
def Group.moved (g : Group) (clock n : Nat) : Group :=
  if n = 0 then g else { g with ready := max g.ready (clock + 1) + 6 * n, busy := 11 }

/-- Spilled entries among those given. -/
def spilledIn (ps : List Entry) : Nat := (ps.filter (fun x => decide (16 ≤ x.idx))).length

/-! ### Departures from a block barrier, and releases (11 R207, 15 R286) -/

/-- The lanes that are parked on barrier k. -/
def parkedOn (t : Tab Nat) (k : Nat) : Mask := t.foldl (fun a x => if x.2 = k then a ||| BitVec.ofNat 64 (2 ^ x.1) else a) 0

/-- The entry at an offset is held where `b` says so (15 R285). -/
def holdAt (t : Nat) (b : Bool) (ps : List Entry) : List Entry := ps.map (fun x => if x.ofs = t then { x with held := x.held || b } else x)

/-- A path table and its stamp counter after the lanes m have moved to o + 1 of their entries (11 R207, 02 R24): an entry that
moves whole to a free offset keeps its stamp and index. Lanes of a held entry stay held where they go, with the entry they merge into (15 R285; log 20). -/
def departTable (stride : Nat) (m : Mask) (paths : List Entry) (stamp : Nat) : List Entry × Nat :=
  if m = 0 then (paths, stamp)
  else
    let stay := (paths.map (fun e => { e with lanes := e.lanes &&& ~~~m })).filter (fun e => e.lanes != 0)
    let whole := (paths.filter (fun e => e.lanes &&& ~~~m == 0)).foldl (fun a e =>
      let t := (e.ofs + 1) % stride
      if a.any (fun x => x.ofs == t) then a.map (fun x => if x.ofs = t then { x with lanes := x.lanes ||| e.lanes, held := x.held || e.held, stops := x.stops ++ e.stops } else x)
      else a ++ [{ e with ofs := t, pass := false }]) stay
    (paths.filter (fun e => e.lanes &&& ~~~m != 0 && e.lanes &&& m != 0)).foldl (fun a e =>
      let t := (e.ofs + 1) % stride
      let r := placeLanes a.1 a.2 t (e.lanes &&& m)
      (holdAt t e.held r.1, r.2)) (whole, stamp)

/-- The lanes of m parked on k, parked no longer. -/
def unpark (t : Tab Nat) (k : Nat) (m : Mask) : Tab Nat := t.filter (fun x => !(x.2 == k && lane m x.1))

/-- Held entries at an offset, or all of them, released: a released entry runs its offset before a breakpoint fires for it again (log 20). -/
def releaseIn (ofs : Option Nat) (step : Bool) (ps : List Entry) : List Entry :=
  ps.map (fun e => if e.held && (match ofs with | some o => e.ofs == o | none => true) then { e with held := false, step := step, pass := true, stops := [] } else e)

/-- One of these acts on the running table of a group between offsets. -/
def Group.lateStep (g : Group) (x : Late) : Group :=
  match x with
  | .depart k m =>
    let r := departTable g.env.stride (parkedOn g.parked k &&& m) g.paths g.stamp
    { g with paths := r.1, stamp := r.2, parked := unpark g.parked k m }
  | .release ofs step => { g with paths := releaseIn ofs step g.paths }

/-- All of them act, in order. -/
def Group.settleLate (g : Group) : Group := { (g.late.foldl Group.lateStep g) with late := [] }

/-- It acts on the table, at once between offsets, when the offset completes otherwise; and the same on the table a trap frame holds. -/
def Group.late1 (g : Group) (x : Late) (y : Late) : Group :=
  let g1 := if g.todo.isSome then { g with late := g.late ++ [x] } else g.lateStep x
  match g1.frame with
  | none => g1
  | some f =>
    if !f.noword && !f.fresh then { g1 with frame := some { f with late := f.late ++ [y] } }
    else
      let h := { g1 with paths := f.paths, parked := f.parked }.lateStep y
      { g1 with stamp := h.stamp, frame := some { f with paths := h.paths, parked := h.parked } }

/-- The lanes parked on k go on: in the path table, and in the table a trap frame holds (11 R207); each entry that spills stalls the group. A group with every
entry parked is blocked still in this clock (08 R146, 11 R206). -/
def Group.depart (g : Group) (clock k : Nat) : Group :=
  let h := g.late1 (.depart k (parkedOn g.parked k)) (.depart k (match g.frame with | some f => parkedOn f.parked k | none => 0))
  let n := spilledIn h.paths - spilledIn g.paths
  let h1 : Group := if g.run?.isNone && h.run?.isSome then { h with ready := max h.ready (clock + 1), busy := 8 } else h
  { (h1.moved clock n) with look := clock }

/-- Held entries released: they compete for the frontier from the next clock, once the offset in progress is complete. -/
def Group.release (g : Group) (ofs : Option Nat) (step : Bool) : Group := g.late1 (.release ofs step) (.release ofs step)

/-- A release of held entries that acts once the offset in progress is complete frees this entry. -/
def Late.frees (x : Late) (e : Entry) : Bool :=
  match x with
  | .release (some o) _ => e.ofs == o
  | .release none _ => true
  | .depart _ _ => false

/-- The held entries of a table that no pending release frees: a released entry is held no longer (15 R286). -/
def stillHeld (ps : List Entry) (late : List Late) : List Entry := ps.filter (fun e => e.held && !late.any (fun x => x.frees e))

/-- The held entries a release would free. -/
def Group.heldAt (g : Group) (ofs : Option Nat) : List Entry :=
  (stillHeld g.paths g.late ++ (match g.frame with | some f => stillHeld f.paths f.late | none => [])).filter
    (fun e => match ofs with | some o => e.ofs == o | none => true)

/-! ### Completing an offset (05 R88) -/

/-- Where each lane of the completed entry goes: lanes by offset, ascending; a parked lane stays at o (11 R206). -/
def Group.groups (g : Group) (o : Nat) (m : Mask) : Tab Mask :=
  (lanesOf m).foldl (fun a l =>
    let t := match g.rcd.parks.get? l with | some _ => o | none => g.rcd.next.getD l ((o + 1) % g.env.stride)
    a.set t (a.getD t 0 ||| BitVec.ofNat 64 (2 ^ l))) []

/-- Planes with the recorded planes of the lanes of a mask. -/
def Group.newPlanes (g : Group) (m : Mask) : Tab Nat :=
  (lanesOf m).foldl (fun a l => match g.rcd.plane.get? l with | some k => a.set l k | none => a) g.planes

/-- The table without E after its lanes have been given their offsets: the group with the lowest next keeps E's stamp and index (05 R88,
16 R287). DESIGN CHOICE (log 26): where that group merges into an entry that stands at its offset, E's index is free for an entry that the same completion creates: E is
taken out first, as R88 does not say. -/
def rebuild (e : Entry) (gs : Tab Mask) (paths : List Entry) (stamp : Nat) : List Entry × Nat :=
  match gs with
  | [] => (paths, stamp)
  | (t, m) :: rest =>
    let first :=
      if paths.any (fun x => x.ofs == t) then paths.map (fun x => if x.ofs = t then { x with lanes := x.lanes ||| m } else x)
      else paths ++ [{ e with ofs := t, lanes := m, step := false, pass := false }]
    rest.foldl (fun a x => placeLanes a.1 a.2 x.1 x.2) (first, stamp)

/-- R88 for a group whose offset has issued all its words, with what waited for it: the group, and the entry moves it took. -/
def Group.complete (g : Group) : Group × Nat :=
  match g.run? with
  | none => (({ g with todo := none, rcd := Rec.empty } : Group).settleLate, 0)
  | some e =>
    let left := e.lanes &&& ~~~g.rcd.exits
    let others := g.paths.filter (fun x => x.ofs != e.ofs)
    let r := rebuild e (g.groups e.ofs left) others g.stamp
    let parked := (lanesOf e.lanes).foldl (fun a l =>
      match (if lane left l then g.rcd.parks.get? l else none) with | some k => Tab.set a l k | none => Tab.erase a l) g.parked
    let g1 := ({ g with paths := r.1, stamp := r.2, planes := g.newPlanes left, exited := g.exited ||| (e.lanes &&& g.rcd.exits),
                        parked := parked, todo := none, follow := some ((e.ofs + 1) % g.env.stride), rcd := Rec.empty } : Group).settleLate
    let f := g1.frontier
    (f.1, spilledIn g1.paths - spilledIn others + f.2)

/-- The entry that continues E: at the lowest offset its lanes went to. -/
def Group.successor (g : Group) : Option Nat :=
  match g.run? with
  | none => none
  | some e => ((g.groups e.ofs (e.lanes &&& ~~~g.rcd.exits)).head?).map Prod.fst

/-! ### The spill area (02 R26) -/

/-- The spilled entries of a group with their plane masks: those of its table, or of the table its trap frame holds. -/
def Group.spilled (g : Group) : List (Entry × Nat) :=
  let of (h : Group) (ps : List Entry) : List (Entry × Nat) := (ps.filter (fun e => decide (16 ≤ e.idx))).map (fun e => (e, planeBits (h.planesOf e.lanes)))
  of g g.paths ++ (match g.frame with | some f => of { g with planes := f.planes } f.paths | none => [])

/-- A spilled entry in the layout of 02 Table 5. -/
def spillEntry (e : Entry) (planes : Nat) : List Byte := leBytes 16 (e.lanes.toNat + at' e.stamp 80 16 + at' planes 96 8 + 2 ^ 104)

/-- The entry in spill slot k. -/
def inSlot (ps : List (Entry × Nat)) (k : Nat) : Option (Entry × Nat) := ps.find? (fun e => e.1.idx == 16 + k)

/-- What changes in a spill area as its entries change: the entry and offset of a slot filled or changed, VALID of a slot that comes free, the number of valid
slots, and the next stamp where an entry spills. -/
def spillWrites (old new : List (Entry × Nat)) (stamp : Nat) : List (Nat × List Byte) :=
  let key (x : Entry × Nat) := (x.1.ofs, x.1.stamp, x.1.lanes, x.2)
  let slots := (List.range 48).flatMap (fun k =>
    match (inSlot old k).map key, inSlot new k with
    | o, some (e, planes) =>
      if o = some (key (e, planes)) then [] else [(16 * k, spillEntry e planes)] ++ (if o.map Prod.fst = some e.ofs then [] else [(768 + 4 * k, leBytes 4 e.ofs)])
    | some _, none => [(16 * k + 13, [0])]
    | none, none => [])
  let came := new.any (fun x => !old.any (fun y => y.1.idx == x.1.idx && y.1.ofs == x.1.ofs))
  slots ++ (if old.length = new.length then [] else [(1020, leBytes 4 new.length)]) ++ (if came then [(960, leBytes 2 stamp)] else [])

/-- The place of a group's spill area: the distributor allots the top 64 KiB of a slice by partition and slot (DESIGN CHOICE, log 26). -/
def spillPlace (key : Nat) : Nat := slicePlace (tileOf key) (0x7F0000 + key % 64 * 1024)

/-- The entries that leave spill slots, and those that lanes merge into, are read, in order; false where a read is a consumption. -/
def readBack (s : State) (w : Who) (p : Nat) : List (Entry × Nat) → State × Bool
  | [] => (s, true)
  | x :: r =>
    match s.readAt w (p + 16 * (x.1.idx - 16)) 16 with
    | (s1, none) => (s1, false)
    | (s1, some _) =>
      match s1.readAt w (p + 768 + 4 * (x.1.idx - 16)) 4 with
      | (s2, none) => (s2, false)
      | (s2, some _) => readBack s2 w p r

/-- The group with this key has been halted since it stood as g. -/
def stopped (s : State) (key : Nat) (g : Group) : Bool := !g.halted && (match s.groups.get? key with | some x => x.halted | none => false)

/-- The group, which stood as `old`, stands as `g`, and its spill area follows its table: an entry that returns is read, one that lanes
merge into is read and written (02 R24), and a spill writes its entry (02 R25, R26).
Where the read is a consumption nothing is written, and the group stops as it stood (27 R396, R397). -/
def State.respill (s : State) (key : Nat) (old g : Group) : State :=
  if old.spilled = g.spilled then { s with groups := s.groups.set key g }
  else
    let back := old.spilled.filter (fun x => !g.spilled.any (fun y => y.1.idx == x.1.idx && y.1.ofs == x.1.ofs && y.1.lanes == x.1.lanes))
    match readBack { s with groups := s.groups.set key old } (whoAt key g 0) (spillPlace key) back with
    | (s1, false) => s1
    | (s1, true) => (spillWrites old.spilled g.spilled g.stamp).foldl (fun s x => s.poke (spillPlace key + x.1) x.2) { s1 with groups := s1.groups.set key g }

end Sys2Proof.Machine
end

