-- ==== Sys2Proof/Machine/Trace.lean ====
section
/-! DEFINITION. Trace and debug of a tile (15, 16 R287): path records, packets and their FIFO, markers, sampling, the drain, stops and their
release, and major 0x98. -/

namespace Sys2Proof.Machine
open Sys2Proof

/-! ### Registers of the debug block (15 Tables 3 to 5) -/

def State.dbg (s : State) (t : Nat) : Dbg := s.dbgs.getD t Dbg.idle
def State.setDbg (s : State) (t : Nat) (d : Dbg) : State := { s with dbgs := s.dbgs.set t d }

def trcctl (s : State) (t : Nat) : Nat := (s.reg (dbgWin t)).toNat
def tenOn (s : State) (t : Nat) : Bool := bit (trcctl s t) 63
def senOn (s : State) (t : Nat) : Bool := bit (trcctl s t) 62
def denOn (s : State) (t : Nat) : Bool := bit (trcctl s t) 61
def wrapOn (s : State) (t : Nat) : Bool := bit (trcctl s t) 60
def ringSize (s : State) (t : Nat) : Nat := 2 ^ fld (trcctl s t) 0 5

/-- Held entries of the groups resident on a tile. -/
def heldEntries (s : State) (t : Nat) : Nat :=
  ((s.groups.filter (fun x => tileOf x.1 == t)).map (fun x => (x.2.heldAt none).length)).foldl (· + ·) 0

/-- The ring is full and WRAP is 0: it holds its size of bytes not consumed, or more, as after a write of RSZ, WRAP or TRCRP (log 27). -/
def ringFull (s : State) (t : Nat) : Bool :=
  !wrapOn s t && ringSize s t ≤ ((s.reg (dbgWin t + 0x10)).toNat + 2 ^ 64 - (s.reg (dbgWin t + 0x18)).toNat) % 2 ^ 64

/-- STOPREC: the path record of the oldest stop not yet released; 0 with none. -/
def stopRec (s : State) (t : Nat) : Nat := match (s.dbg t).stops with | x :: _ => x.1 | [] => 0

/-! ### Path records (15 R272) -/

/-- The 128 bits of a path record. -/
def pathRecord (key idx planes plane ofs cause code : Nat) (m : Mask) : Nat :=
  at' key 114 14 + at' idx 108 6 + at' planes 100 8 + at' plane 97 3 + at' ofs 75 22 + at' cause 72 3 + at' code 64 8 + m.toNat

/-- The record of an entry of a group. -/
def Group.record (g : Group) (key : Nat) (e : Entry) (plane cause code : Nat) : Nat :=
  pathRecord key e.idx (planeBits (g.planesOf e.lanes)) plane e.ofs cause code e.lanes

/-- A word carries COMMON; a literal word holds payload there (04 R73, R74). -/
def carriesCommon (w : Nat) : Bool := fld w 88 8 != 0xFE && bit w 70

/-- The planes of a list whose words at an offset `rte.skip` has not passed over (19 R316). -/
def Group.unskipped (g : Group) (o : Nat) (ks : List Nat) : List Nat :=
  match g.skips with
  | some (x, k) => if x = o then ks.filter (fun j => decide (k < j)) else ks
  | none => ks

/-- The plane of the first word at an entry's offset that has not been passed over; 0 for a common word. -/
def firstPlane (s : State) (key : Nat) (g : Group) (e : Entry) : Nat :=
  let ks := g.unskipped e.ofs (g.planesOf e.lanes)
  match fetchAt s key g 0 e.ofs with
  | .word w => if carriesCommon w then 0 else ks.headD 0
  | _ => ks.headD 0

/-- The running path; of a group whose every entry is held or parked, its lowest entry (log 27). -/
def Group.shown (g : Group) : Option Entry := match g.run? with | some e => some e | none => lowest g.paths

/-- The plane of the first word that path runs next. -/
def startPlane (s : State) (key : Nat) (g : Group) : Nat := match g.shown with | some e => firstPlane s key g e | none => 0

/-- The plane of the next word to issue: of the words still to issue at the offset, or of the first word of the offset to run next; 0 for a
common word. -/
def nextPlane (s : State) (key : Nat) (g : Group) : Nat :=
  match g.todo with
  | some (k :: _) => if g.common then 0 else k
  | some [] => startPlane s key g.complete.1
  | none => startPlane s key g

/-- The plane of the next word of an entry (15 R272): of the running path's next word, otherwise of the first word at its offset. -/
def entryPlane (s : State) (key : Nat) (g : Group) (e : Entry) : Nat :=
  if g.run? = some e then nextPlane s key g else firstPlane s key g e

/-! ### Packets (15 R276 to R282) -/

/-- The DL code of a delta and its bytes (15 R277). -/
def deltaBytes (d : Nat) : Nat × List Byte :=
  if d = 0 then (0, []) else if d < 256 then (1, leBytes 1 d) else if d < 65536 then (2, leBytes 2 d) else (3, leBytes 8 d)

/-- A packet: byte 0, byte 1, the delta bytes, the payload. -/
def packet (ty b1 delta : Nat) (payload : List Byte) : List Byte :=
  let d := deltaBytes delta
  BitVec.ofNat 8 (ty * 16 + d.1 * 4) :: BitVec.ofNat 8 b1 :: (d.2 ++ payload)

/-- Byte 1 of a group's packets: its partition and slot. -/
def byte1 (key : Nat) : Nat := key % 64

/-- A DROPPED packet, when packets were lost and it fits: as soon as the FIFO has room for it, before any other packet (15 R282, 16 R289). -/
def dropped (d : Dbg) (clock : Nat) : Dbg :=
  if d.owed = 0 then d
  else
    let p := packet 4 0xC0 (clock - d.seen.getD 0xC0 d.rise) (leBytes 4 d.owed)
    if d.fifo.length + p.length ≤ Config.fifoBytes then { d with fifo := d.fifo ++ p, owed := 0, seen := d.seen.set 0xC0 clock } else d

/-- A lost packet is counted (15 R281); its DROPPED packet follows at once where it fits. -/
def lose (d : Dbg) (clock : Nat) : Dbg := dropped { d with lost := if d.lost < 0xFFFF then d.lost + 1 else d.lost, owed := d.owed + 1 } clock

/-- The group owes a MARKER, or owes none; `at?` is the clock of one that has been emitted. -/
def setOwes (s : State) (key : Nat) (b : Bool) (at? : Option Nat) : State :=
  match s.groups.get? key with
  | some g => { s with groups := s.groups.set key { g with owes := b, lastMark := at?.getD g.lastMark } }
  | none => s

/-- A packet of a group enters the FIFO whole in its event clock, after the MARKER the group owes while TEN is 1; or it is lost and counted, and the group owes a
MARKER (15 R279, R281). Where the owed MARKER does not fit, the packet it has to precede is lost with it, and one packet is counted (15's example, row 3). While
TEN is 0, the first packet after SEN rose counts its delta from that clock (15 R277). -/
def enterFifo (s : State) (x : Due) : State :=
  let t := tileOf x.key
  let d := dropped (s.dbg t) x.clock
  let b := byte1 x.key
  let owes := match s.groups.get? x.key with | some g => g.owes | none => false
  let put (d : Dbg) (p : List Byte) : Dbg := { d with fifo := d.fifo ++ p, seen := d.seen.set b x.clock }
  let fits (d : Dbg) (p : List Byte) : Bool := decide (d.fifo.length + p.length ≤ Config.fifoBytes)
  if x.ty = 3 then
    let p := packet 3 b 0 x.payload
    if fits d p then setOwes (s.setDbg t (put d p)) x.key false (some x.clock) else setOwes (s.setDbg t (lose d x.clock)) x.key true none
  else if owes && !x.mark.isEmpty then
    let p := packet 3 b 0 x.mark
    if fits d p then
      let d1 := put d p
      let q := packet x.ty b 0 x.payload
      if fits d1 q then setOwes (s.setDbg t (put d1 q)) x.key false (some x.clock) else setOwes (s.setDbg t (lose d1 x.clock)) x.key true (some x.clock)
    else s.setDbg t (lose d x.clock)
  else
    let last := d.seen.getD b d.srise
    let q := packet x.ty b (x.clock - (if x.mark.isEmpty then max last d.srise else last)) x.payload
    if fits d q then s.setDbg t (put d q) else setOwes (s.setDbg t (lose d x.clock)) x.key true none

/-- A packet put in its place among those of its tile: by event clock, then by partition and slot, then by its place in its group (15 R278). -/
def insertDue (x : Due) : List Due → List Due
  | [] => [x]
  | y :: r =>
    if x.clock < y.clock ∨ (x.clock = y.clock ∧ (byte1 x.key < byte1 y.key ∨ (byte1 x.key = byte1 y.key ∧ x.rank < y.rank))) then x :: y :: r
    else y :: insertDue x r

/-- The packets of earlier clocks enter the FIFO. -/
def settleTrace (s : State) (t : Nat) : State :=
  let d := s.dbg t
  let old := d.due.filter (fun x => decide (x.clock < s.clock))
  if old.isEmpty then s
  else old.foldl enterFifo (s.setDbg t { d with due := d.due.filter (fun x => !decide (x.clock < s.clock)) })

/-- A packet put among those of its tile that have still to enter the FIFO. -/
def addDue (s : State) (x : Due) : State :=
  let d := s.dbg (tileOf x.key)
  s.setDbg (tileOf x.key) { d with due := insertDue x d.due }

/-- A packet of a group with this event clock, to be ordered among the others of its clock. -/
def post (s : State) (x : Due) : State := addDue (settleTrace s (tileOf x.key)) x

/-- DBGST (15 Table 5): the FIFO with the packets of earlier clocks in it. HELD has no stated rule past its 8 bits: it saturates, as STOPS does (log 27). -/
def dbgst (s : State) (t : Nat) : Nat :=
  let d := (settleTrace s t).dbg t
  at' (min d.lost 0xFFFF) 48 16 + at' (min (heldEntries s t) 255) 40 8 + at' (min d.stops.length 255) 32 8 + at' d.fifo.length 19 13
    + at' (b2n (ringFull s t)) 18 1

/-- The record of the running path after the offset that completed last; a group whose every entry is held or parked gives its lowest entry, one that has
ended an empty record (log 27). -/
def Group.pathNow (g : Group) (key plane : Nat) : Nat :=
  match g.shown with
  | some e => g.record key e plane 0 0
  | none => pathRecord key 0 0 0 0 0 0 0

/-- The payload of a MARKER (15 R279): the running path and %clock. -/
def Group.markBytes (g : Group) (key plane clock : Nat) : List Byte := leBytes 16 (g.pathNow key plane) ++ leBytes 8 clock

/-- The MARKER packet of a group at a clock. -/
def Group.markDue (g : Group) (key plane clock : Nat) : Due :=
  { clock := clock, key := key, rank := 0, ty := 3, payload := g.markBytes key plane clock, mark := [] }

/-- A MARKER of a group at a clock, while TEN is 1. -/
def marker (s : State) (key plane clock : Nat) : State :=
  match s.groups.get? key with
  | none => s
  | some g =>
    if !tenOn s (tileOf key) then s
    else post { s with groups := s.groups.set key { g with lastMark := clock } } (g.markDue key plane clock)

/-- A packet of a group, with the MARKER it may owe. -/
def emit (s : State) (key plane rank ty : Nat) (payload : List Byte) : State :=
  match s.groups.get? key with
  | none => s
  | some g => post s { clock := s.clock, key := key, rank := rank, ty := ty, payload := payload,
                       mark := if tenOn s (tileOf key) then g.markBytes key plane s.clock else [] }

/-- The MARKERs that 4,096 clk without one bring about as the clock rises to c (15 R279). -/
def overdue (s : State) (c : Nat) : State :=
  s.groups.foldl (fun s x =>
    let n := (c - x.2.lastMark) / 4096
    if tenOn s (tileOf x.1) && n != 0 then
      let s1 := (List.range n).foldl (fun s i => addDue s (x.2.markDue x.1 (nextPlane s x.1 x.2) (x.2.lastMark + 4096 * (i + 1)))) s
      { s1 with groups := s1.groups.set x.1 { x.2 with lastMark := x.2.lastMark + 4096 * n } }
    else s) s

/-- The plane a packet of the word now executing names. -/
def Group.wordPlane (g : Group) : Nat := if g.common then 0 else g.plane

/-- The CTRL packet of a control word that recorded something for the lanes m (15 R278), with the VPLANE of a `psetv`. -/
def emitCtrl (s : State) (g : Group) (m : Mask) (target : Nat) (vplane : Option (Nat → Nat)) : State :=
  if m = 0 ∨ !tenOn s (tileOf s.cur) ∨ !g.trace then s
  else
    let s1 := emit s s.cur g.wordPlane 1 1 (leBytes 3 g.ofs ++ leBytes 1 g.wordPlane ++ leBytes 3 target ++ leBytes 8 m.toNat)
    match vplane with
    | none => s1
    | some f => emit s1 s.cur g.wordPlane 1 2 (leBytes 24 (lanes.foldl (fun a l => a + (if lane m l then f l % 8 else 0) * 2 ^ (3 * l)) 0))

/-! ### Stops (15 R283 to R286) -/

/-- An entry of a group is held: STOPREC and STOPS follow the list of stops; a STOP packet while TEN is 1. The record names the plane of the entry's next word. -/
def stopEntry (s : State) (key : Nat) (e : Entry) (cause code : Nat) : State :=
  match s.groups.get? key with
  | none => s
  | some g =>
    let t := tileOf key
    let r := g.record key e (entryPlane s key g e) cause code
    let g1 := { g with paths := g.paths.map (fun x =>
      if x.ofs = e.ofs then { x with held := true, step := false, pass := false, stops := x.stops ++ [s.seq] } else x) }
    let d := s.dbg t
    let s1 := { s with groups := s.groups.set key g1, seq := s.seq + 1 }.setDbg t { d with stops := d.stops ++ [(r, g.env.block * 64 + g.env.index, s.seq)] }
    if tenOn s t then emit s1 key (nextPlane s1 key g1) 2 6 (leBytes 16 r) else s1

/-- The breakpoint of a tile that fires for an entry becoming the running one (15 R283). DESIGN CHOICE (log 20): of several that match, the one of the lowest number
fires, and the entry makes one stop; R283 does not say. -/
def breakAt (s : State) (t : Nat) (g : Group) (e : Entry) : Option Nat :=
  if !denOn s t ∨ e.pass then none
  else
    (List.range 4).find? (fun k =>
      let b := wideReg s (dbgWin t + 0x40 + 16 * k) 2
      bit b 0 && fld b 80 48 == g.env.codeBase && fld b 50 22 == e.ofs && (fld b 72 8 &&& planeBits (g.planesOf e.lanes)) != 0)

/-- Breakpoints checked for the running entry, and for each entry that becomes the running one in its place. -/
def checkBreaks (s : State) (key : Nat) : Nat → State
  | 0 => s
  | n + 1 =>
    match s.groups.get? key with
    | none => s
    | some g =>
      match g.run? with
      | none => s
      | some e =>
        match breakAt s (tileOf key) g e with
        | none => s
        | some k => checkBreaks (stopEntry s key e 1 k) key n

/-- Held entries of a group at an offset (or all of them) released: their stops are over. Nothing happens where none is held (15 R286). -/
def releaseHeld (s : State) (key : Nat) (ofs : Option Nat) (step : Bool) : State :=
  match s.groups.get? key with
  | none => s
  | some g =>
    let hit := g.heldAt ofs
    { s with groups := s.groups.set key (if hit.isEmpty then g else g.release ofs step)
             dbgs := s.dbgs.map (fun x => (x.1, { x.2 with stops := x.2.stops.filter (fun r =>
               !(r.2.1 == g.env.block * 64 + g.env.index && hit.any (fun e => e.stops.contains r.2.2))) })) }

/-- The group that a DBGCMD value names on tile t; none where it names another tile's (15 Table 7). -/
def namedGroup (t v : Nat) : Option Nat := if tileOf (fld v 50 14) = t then some (fld v 50 14) else none

/-- DBGCMD_RELEASE: on tile `a`, the DBGCMD value `v` with CMD 1 (15 Table 7). -/
def execDbgcmdRelease (s : State) : Host.Outcome State Fault Refusal :=
  let v := s.inp.v.toNat
  .next (match namedGroup s.inp.a v with
    | some key => if fld v 0 2 = 1 then releaseHeld s key (some (fld v 28 22)) (bit v 27) else s
    | none => s)

/-- DBGCMD_RELEASE_ALL: CMD 2. -/
def execDbgcmdReleaseAll (s : State) : Host.Outcome State Fault Refusal :=
  let v := s.inp.v.toNat
  .next (match namedGroup s.inp.a v with
    | some key => if fld v 0 2 = 2 then releaseHeld s key none (bit v 27) else s
    | none => s)

/-! ### The words of major 0x98 (15 R280) -/

/-- `tmark`. -/
def execTmark (w : IM) (s : State) : Host.Outcome State Fault Refusal :=
  runWord (.tmark w) s nothing (fun s g _ => .ok (marker s s.cur g.wordPlane s.clock))

/-- `temit`. -/
def execTemit (w : IM) (s : State) : Host.Outcome State Fault Refusal :=
  runWord (.temit w) s nothing (fun s g _ =>
    .ok (if tenOn s (tileOf s.cur) then emit s s.cur g.wordPlane 1 7 (leBytes 8 (scalarVal s g w.a)) else s))

/-- `trcdis`. -/
def execTrcdis (w : IM) (s : State) : Host.Outcome State Fault Refusal :=
  groupWord (.trcdis w) s (fun _ g _ => { g with trace := false })

/-- `trcen`: a MARKER before its next packet. -/
def execTrcen (w : IM) (s : State) : Host.Outcome State Fault Refusal :=
  groupWord (.trcen w) s (fun _ g _ => { g with trace := true, owes := true })

/-- `bkpt` (15 R284): its lanes' entries are held when the offset completes; nothing while DEN is 0. -/
def execBkpt (w : IM) (s : State) : Host.Outcome State Fault Refusal :=
  groupWord (.bkpt w) s (fun s g m =>
    if denOn s (tileOf s.cur) then
      { g with rcd := { g.rcd with stops := (lanesOf m).foldl (fun a l => Tab.set a l (w.imm.toNat % 256)) g.rcd.stops } }
    else g)

/-- A word that writes a value depending on timing to a scalar (26 R387 kind 8): logged, and replayed. -/
def statWord (d : Opnd) (v : State → Group → Nat) (s : State) (g : Group) (m : Mask) : Res :=
  let x := statVal s g (v s g)
  .ok ((logEvent s (whoOf s g m) 8 0 x).put (g.writeS d x))

/-- The same where a logged value says that something has come about: during a replay the word waits until it has come about here too (13 R246, 26 R390). -/
def statAfter (d : Opnd) (v : State → Group → Nat) (past : State → Group → Nat → Bool) (s : State) (g : Group) (m : Mask) : Res :=
  match logged? s (whoOf s g 0) 8 with
  | some e => if past s g e.data.toNat then statWord d v s g m else .stall
  | none => statWord d v s g m

/-- `trcst`. -/
def execTrcst (w : IM) (s : State) : Host.Outcome State Fault Refusal :=
  runWord (.trcst w) s nothing (statWord w.d (fun s _ => dbgst s (tileOf s.cur)))

/-! ### The drain (15 R275) -/

/-- Up to n bytes of the FIFO moved to the ring, while it has room; a DROPPED packet takes the room that comes free (15 R282). -/
def drain (s : State) (t : Nat) : Nat → State
  | 0 => s
  | n + 1 =>
    match (s.dbg t).fifo with
    | [] => s
    | b :: r =>
      if ringFull s t then s
      else
        let wp := (s.reg (dbgWin t + 0x10)).toNat
        let p := hbmPlace (fld (s.reg (dbgWin t + 0x8)).toNat 0 48 + wp % ringSize s t)
        drain (((s.engineWrite p [b]).setReg (dbgWin t + 0x10) (BitVec.ofNat 64 (wp + 1))).setDbg t (dropped { (s.dbg t) with fifo := r } s.clock)) t n

/-- TRACE_DRAIN: on tile `a`, up to `b` bytes (all of them for 0). -/
def execTraceDrain (s : State) : Host.Outcome State Fault Refusal :=
  .next (drain (settleTrace s s.inp.a) s.inp.a (if s.inp.b = 0 then Config.fifoBytes else min s.inp.b Config.fifoBytes))

/-- PAD bytes that fill n bytes to a 64-byte boundary (15 Table 8). -/
def padding (n : Nat) : List Byte := List.replicate ((64 - n % 64) % 64) 0

/-- `tflush`: the FIFO, padded to a 64-byte boundary after a DROPPED packet that fits, drains to the ring. -/
def execTflush (w : IM) (s : State) : Host.Outcome State Fault Refusal :=
  runWord (.tflush w) s nothing (fun s _ _ =>
    let t := tileOf s.cur
    let s1 := settleTrace s t
    let d := dropped (s1.dbg t) s.clock
    .ok (drain (s1.setDbg t { d with fifo := d.fifo ++ padding d.fifo.length }) t Config.fifoBytes))

/-- DROPPED: on tile `a`. -/
def execDropped (s : State) : Host.Outcome State Fault Refusal :=
  let s1 := settleTrace s s.inp.a
  .next (if (s1.dbg s.inp.a).owed = 0 then s1 else s1.setDbg s.inp.a (dropped (s1.dbg s.inp.a) s.clock))

/-- MARKER_TIMEOUT: of group `a`, 4,096 clk after its last MARKER (15 R279); as the clock rises, `overdue` takes every such step that is due. -/
def execMarkerTimeout (s : State) : Host.Outcome State Fault Refusal :=
  .next (match s.groups.get? s.inp.a with
    | some g => if g.lastMark + 4096 ≤ s.clock then marker s s.inp.a (nextPlane s s.inp.a g) s.clock else s
    | none => s)

/-- A value as TRCCTL stores it (15 Table 4). -/
def trcctlStored (v : Nat) : Nat :=
  let rsz := fld v 0 5
  at' (fld v 60 4) 60 4 + at' (min (fld v 8 4) 8) 8 4 + at' (if rsz < 16 then 16 else if 30 < rsz then 30 else rsz) 0 5

/-- A TRCCTL write on a tile (15 R275, R277, R279): a write that places a byte of the ring in the shadow pool is ignored (20 R333). The first packets after SEN
rose count from that clock (`enterFifo`). After TEN rose, the 4,096 clk of a group's next MARKER count from that clock (log 27). -/
def writeTrcctl (s0 : State) (t v : Nat) : State :=
  let s := settleTrace s0 t
  let x := trcctlStored v
  let old := trcctl s t
  let tenUp := bit x 63 && !bit old 63
  let senUp := bit x 62 && !bit old 62
  if !outsidePool (fld (s.reg (dbgWin t + 0x8)).toNat 0 48) (2 ^ fld x 0 5) then s
  else
    let s1 := s.setReg (dbgWin t) (BitVec.ofNat 64 x)
    if !(tenUp || senUp) then s1
    else
      let d := s1.dbg t
      let s2 := (((s1.setReg (dbgWin t + 0x10) 0).setReg (dbgWin t + 0x18) 0).setDbg t
        { d with lost := 0, rise := s.clock, srise := if senUp then s.clock else d.srise,
                 seen := d.seen.erase 0xC0 })
      if tenUp then
        { s2 with groups := s2.groups.map (fun x => if tileOf x.1 = t then (x.1, { x.2 with owes := true, lastMark := s.clock }) else x) }
      else s2

/-- TRCCTL_WRITE: tile `a`, value `v`. -/
def execTrcctlWrite (s : State) : Host.Outcome State Fault Refusal := .next (writeTrcctl s s.inp.a s.inp.v.toNat)

end Sys2Proof.Machine
end

