-- ==== Sys2Proof/Machine/Control.lean ====
section
/-! DEFINITION. Control, plane and group-state words: majors 0x01 and 0x02 (04 R67, 05 R85 to R96). A control word records; the
path table is rebuilt when the offset completes (05 R88). -/

namespace Sys2Proof.Machine
open Sys2Proof

/-- (o + d) mod plane_stride (05 R88, R91). -/
def Group.target (g : Group) (o d : Int) : Nat := ((o + d) % ((g.env.stride : Nat) : Int)).toNat

/-- next[l] := t for every lane of the mask. -/
def Group.recNext (g : Group) (m : Mask) (t : Nat) : Group :=
  { g with rcd := { g.rcd with next := (lanesOf m).foldl (fun a l => Tab.set a l t) g.rcd.next } }

/-- newplane[l] := f l for every lane of the mask. -/
def Group.recPlane (g : Group) (m : Mask) (f : Nat → Nat) : Group :=
  { g with rcd := { g.rcd with plane := (lanesOf m).foldl (fun a l => Tab.set a l (f l)) g.rcd.plane } }

/-- `nop` (04 R67). -/
def execNop (w : Hd) (s : State) : Host.Outcome State Fault Refusal := groupWord (.nop w) s (fun _ g _ => g)

/-- A control word: what it records, for which lanes and with which target; while traced it emits its CTRL packet (15 R278). -/
def ctrlWord (i : Instr) (s : State) (f : State → Group → Mask → Group × Mask × Nat) : Host.Outcome State Fault Refusal :=
  runWord i s nothing (fun s g m =>
    let r := f s g m
    .ok (emitCtrl (s.put r.1) r.1 r.2.1 r.2.2 none))

/-- A branch of the lanes of the mask to o + DISP when it is taken (05 R91). -/
def Group.branch (g : Group) (m : Mask) (taken : Bool) (t : Nat) : Group × Mask × Nat :=
  if taken then (g.recNext m t, m, t) else (g, 0, 0)

/-- `bra` (05 R91). -/
def execBra (w : BR) (s : State) : Host.Outcome State Fault Refusal :=
  ctrlWord (.bra w) s (fun _ g m => g.branch m true (g.target g.ofs w.disp.toInt))

/-- `brapl k`: a target and a new plane, or PLANE (05 R91, R95). -/
def execBrapl (k : BitVec 3) (w : BR) (s : State) : Host.Outcome State Fault Refusal :=
  runWord (.brapl k w) s nothing (fun s g m =>
    if g.env.planes ≤ k.toNat then .trap s tPlane (planeDetail g k.toNat (lowLane m))
    else
      let t := g.target g.ofs w.disp.toInt
      let g' := (g.recNext m t).recPlane m (fun _ => k.toNat)
      .ok (emitCtrl (s.put g') g' m t none))

/-- The conditions of `brs` (05 Table 2). -/
def brsCond (c : Nat) (a b : Nat) : Bool :=
  match c with
  | 0 => a == b
  | 1 => a != b
  | 2 => decide (sext 64 a < sext 64 b)
  | 3 => decide (sext 64 b ≤ sext 64 a)
  | 4 => decide (a < b)
  | _ => decide (b ≤ a)

/-- `brs` (05 R91). -/
def execBrs (c : BitVec 4) (w : BR) (s : State) : Host.Outcome State Fault Refusal :=
  ctrlWord (.brs c w) s (fun s g m => g.branch m (brsCond c.toNat (scalarVal s g w.a) (scalarVal s g w.b)) (g.target g.ofs w.disp.toInt))

/-- `bany`: taken when any active lane has the predicate (05 R91). -/
def execBany (w : BR) (s : State) : Host.Outcome State Fault Refusal :=
  ctrlWord (.bany w) s (fun _ g m => g.branch m (m &&& predVal g w.a != 0) (g.target g.ofs w.disp.toInt))

/-- `ball`: taken when all active lanes have it (05 R91). -/
def execBall (w : BR) (s : State) : Host.Outcome State Fault Refusal :=
  ctrlWord (.ball w) s (fun _ g m => g.branch m (m &&& predVal g w.a == m) (g.target g.ofs w.disp.toInt))

/-- `bnone`: taken when no active lane has it (05 R91). -/
def execBnone (w : BR) (s : State) : Host.Outcome State Fault Refusal :=
  ctrlWord (.bnone w) s (fun _ g m => g.branch m (m &&& predVal g w.a == 0) (g.target g.ofs w.disp.toInt))

/-- `call`: the target, and the link o + 1 in sD (05 R92). -/
def execCall (w : BR) (s : State) : Host.Outcome State Fault Refusal :=
  ctrlWord (.call w) s (fun _ g m => (g.writeS w.d (g.ofs + 1)).branch m true (g.target g.ofs w.disp.toInt))

/-- (sA + DISP) mod plane_stride, sA unsigned (05 R92). -/
def jumpTo (s : State) (g : Group) (w : BR) : Nat := g.target (scalarVal s g w.a) w.disp.toInt

/-- `jmp` (05 R92). -/
def execJmp (w : BR) (s : State) : Host.Outcome State Fault Refusal :=
  ctrlWord (.jmp w) s (fun s g m => g.branch m true (jumpTo s g w))

/-- `ret` is `jmp sA, 0` (05 R92). -/
def execRet (w : BR) (s : State) : Host.Outcome State Fault Refusal :=
  ctrlWord (.ret w) s (fun s g m => g.branch m true (jumpTo s g w))

/-- `exit`: the lanes leave the path table when the offset completes (05 R88, R93). -/
def execExit (w : R3) (s : State) : Host.Outcome State Fault Refusal :=
  ctrlWord (.exit w) s (fun _ g m => ({ g with rcd := { g.rcd with exits := g.rcd.exits ||| m } }, m, 0))

/-- `pset k` (05 R94). -/
def execPset (k : BitVec 3) (w : BR) (s : State) : Host.Outcome State Fault Refusal :=
  runWord (.pset k w) s nothing (fun s g m =>
    if g.env.planes ≤ k.toNat then .trap s tPlane (planeDetail g k.toNat (lowLane m))
    else
      let g' := g.recPlane m (fun _ => k.toNat)
      .ok (emitCtrl (s.put g') g' m 0 none))

/-- `psetv`: every active lane is checked before any is recorded (05 R94). -/
def execPsetv (w : BR) (s : State) : Host.Outcome State Fault Refusal :=
  runWord (.psetv w) s nothing (fun s g m =>
    let want (l : Nat) : Nat := laneVal s g .n32 w.a l
    match (lanesOf m).find? (fun l => decide (g.env.planes ≤ want l)) with
    | some l => .trap s tPlane (planeDetail g (want l) l)
    | none => .ok (emitCtrl (s.put (g.recPlane m want)) (g.recPlane m want) m 0 (some want)))

/-- `elect`: true only in the lowest active lane (05 R96). -/
def execElect (w : R3) (s : State) : Host.Outcome State Fault Refusal :=
  groupWord (.elect w) s (fun _ g m => g.writeP w.d m (fun l => l == lowLane m))

/-- `pmask` (05 R96). -/
def execPmask (w : R3) (s : State) : Host.Outcome State Fault Refusal :=
  groupWord (.pmask w) s (fun _ g m => g.writeS w.d (predVal g w.a &&& m).toNat)

/-- `pload`: bit l of the scalar; a per-lane special register supplies each lane its own value (05 R96, 02 R19). -/
def execPload (w : R3) (s : State) : Host.Outcome State Fault Refusal :=
  groupWord (.pload w) s (fun s g m =>
    g.writeP w.d m (fun l => bit (if perLane w.a then laneVal s g .n64 w.a l else scalarVal s g w.a) l))

/-- `pathq` (05 R96, Table 4): the table as it stood before the offset; lanes that executed `exit` at the offset a handler interrupted are not live in it (01 R11). -/
def execPathq (q : BitVec 2) (w : R3) (s : State) : Host.Outcome State Fault Refusal :=
  groupWord (.pathq q w) s (fun _ g _ =>
    g.writeS w.d (match q.toNat with
      | 0 => g.paths.length
      | 1 => g.pathLanes.toNat
      | 2 => planeBits (g.planesOf g.pathLanes)
      | _ => (~~~(g.exited ||| (match g.frame with | some f => f.rcd.exits | none => 0))).toNat))

end Sys2Proof.Machine
end

