-- ==== Sys2Proof/Machine/Scalar.lean ====
section
/-! DEFINITION. Scalar integer and address words: majors 0x10 and 0x11 (05 R98 to R102). -/

namespace Sys2Proof.Machine
open Sys2Proof

/-! ### The operations, on n-bit patterns (05 Table 5) -/

/-- Two-source arithmetic: the exact result narrowed to the type, or clamped (05 R98, 03 R34). -/
def arith2 (f : Int → Int → Int) (t : Ty) (sat : Bool) (a b : Nat) : Nat × Nat := narrow t sat (f (readInt t a) (readInt t b))

/-- The high n bits of the exact product (05 R99). -/
def mulhiOf (t : Ty) (a b : Nat) : Nat := wrapN t.bits (readInt t a * readInt t b / (2 ^ t.bits : Nat))

/-- Division toward zero, with the corners of 05 R99. -/
def divOf (t : Ty) (a b : Nat) : Nat :=
  if b % 2 ^ t.bits = 0 then 2 ^ t.bits - 1 else wrapN t.bits (Int.tdiv (readInt t a) (readInt t b))

/-- The remainder of division toward zero (05 R99). -/
def remOf (t : Ty) (a b : Nat) : Nat :=
  if b % 2 ^ t.bits = 0 then a % 2 ^ t.bits else wrapN t.bits (Int.tmod (readInt t a) (readInt t b))

def minOf (t : Ty) (a b : Nat) : Nat := if readInt t b < readInt t a then b else a
def maxOf (t : Ty) (a b : Nat) : Nat := if readInt t a < readInt t b then b else a

/-- a AND NOT b on n bits. -/
def andnOf (t : Ty) (a b : Nat) : Nat := a &&& (b % 2 ^ t.bits ^^^ (2 ^ t.bits - 1))

/-- Shifts by an unsigned amount x (05 R100). -/
def shlOf (t : Ty) (a x : Nat) : Nat := if t.bits ≤ x then 0 else a * 2 ^ x % 2 ^ t.bits
def shrOf (t : Ty) (a x : Nat) : Nat := if t.bits ≤ x then 0 else a % 2 ^ t.bits / 2 ^ x
def sarOf (t : Ty) (a x : Nat) : Nat := wrapN t.bits (sext t.bits a / (2 ^ (if t.bits ≤ x then t.bits else x) : Nat))
def rotlOf (t : Ty) (a x : Nat) : Nat :=
  let n := t.bits
  let r := x % n
  let y := a % 2 ^ n
  (y * 2 ^ r + y / 2 ^ (n - r)) % 2 ^ n

/-- The conditions of `scmp` and `vcmp` (05 Table 6). -/
def cmpOf (c : Nat) (t : Ty) (a b : Nat) : Bool :=
  let x := readInt t a
  let y := readInt t b
  match c with
  | 0 => x == y
  | 1 => x != y
  | 2 => decide (x < y)
  | 3 => decide (x ≤ y)
  | 4 => decide (y < x)
  | _ => decide (y ≤ x)

/-- Counts and bit reversal (05 Table 5): clz and ctz of 0 give n. -/
def clzOf (t : Ty) (a : Nat) : Nat := t.bits - bitLen (a % 2 ^ t.bits)
def ctzOf (t : Ty) (a : Nat) : Nat := ((List.range t.bits).find? (fun i => bit a i)).getD t.bits
def popcOf (t : Ty) (a : Nat) : Nat := (List.range t.bits).foldl (fun k i => k + b2n (bit a i)) 0
def brevOf (t : Ty) (a : Nat) : Nat := (List.range t.bits).foldl (fun k i => k + b2n (bit a i) * 2 ^ (t.bits - 1 - i)) 0

/-- Negation and absolute value, saturating when asked (05 Table 5). -/
def negOf (t : Ty) (sat : Bool) (a : Nat) : Nat × Nat := narrow t sat (-(readInt t a))
def absOf (t : Ty) (sat : Bool) (a : Nat) : Nat × Nat := narrow t sat ((readInt t a).natAbs : Int)

/-! ### The words -/

/-- The group after a two-source scalar form: the result of n bits extended into sD, its flags raised (05 R98). -/
def scalar2 (s : State) (g : Group) (w : R3) (f : Nat → Nat → Nat × Nat) : Group :=
  let r := f (scalarSrc s g w.ty w.a) (scalarSrc s g w.ty w.b)
  (g.writeS w.d (extS w.ty r.1)).raise r.2

/-- The group after a one-source scalar form. -/
def scalar1 (s : State) (g : Group) (w : R3) (f : Nat → Nat × Nat) : Group :=
  let r := f (scalarSrc s g w.ty w.a)
  (g.writeS w.d (extS w.ty r.1)).raise r.2

/-- `add` (05 Table 5). -/
def execAdd (w : R3) (s : State) : Host.Outcome State Fault Refusal :=
  groupWord (.add w) s (fun s g _ => scalar2 s g w (arith2 (· + ·) w.ty w.sat))

/-- `sub`. -/
def execSub (w : R3) (s : State) : Host.Outcome State Fault Refusal :=
  groupWord (.sub w) s (fun s g _ => scalar2 s g w (arith2 (· - ·) w.ty w.sat))

/-- `mul`. -/
def execMul (w : R3) (s : State) : Host.Outcome State Fault Refusal :=
  groupWord (.mul w) s (fun s g _ => scalar2 s g w (arith2 (· * ·) w.ty w.sat))

/-- `mulhi` (05 R99). -/
def execMulhi (w : R3) (s : State) : Host.Outcome State Fault Refusal :=
  groupWord (.mulhi w) s (fun s g _ => scalar2 s g w (fun a b => (mulhiOf w.ty a b, 0)))

/-- `div` (05 R99). -/
def execDiv (w : R3) (s : State) : Host.Outcome State Fault Refusal :=
  groupWord (.div w) s (fun s g _ => scalar2 s g w (fun a b => (divOf w.ty a b, 0)))

/-- `rem` (05 R99). -/
def execRem (w : R3) (s : State) : Host.Outcome State Fault Refusal :=
  groupWord (.rem w) s (fun s g _ => scalar2 s g w (fun a b => (remOf w.ty a b, 0)))

/-- `min`. -/
def execMin (w : R3) (s : State) : Host.Outcome State Fault Refusal :=
  groupWord (.min w) s (fun s g _ => scalar2 s g w (fun a b => (minOf w.ty a b, 0)))

/-- `max`. -/
def execMax (w : R3) (s : State) : Host.Outcome State Fault Refusal :=
  groupWord (.max w) s (fun s g _ => scalar2 s g w (fun a b => (maxOf w.ty a b, 0)))

/-- `and`. -/
def execAnd (w : R3) (s : State) : Host.Outcome State Fault Refusal :=
  groupWord (.and w) s (fun s g _ => scalar2 s g w (fun a b => (a &&& b, 0)))

/-- `or`. -/
def execOr (w : R3) (s : State) : Host.Outcome State Fault Refusal :=
  groupWord (.or w) s (fun s g _ => scalar2 s g w (fun a b => (a ||| b, 0)))

/-- `xor`. -/
def execXor (w : R3) (s : State) : Host.Outcome State Fault Refusal :=
  groupWord (.xor w) s (fun s g _ => scalar2 s g w (fun a b => (a ^^^ b, 0)))

/-- `andn`. -/
def execAndn (w : R3) (s : State) : Host.Outcome State Fault Refusal :=
  groupWord (.andn w) s (fun s g _ => scalar2 s g w (fun a b => (andnOf w.ty a b, 0)))

/-- A scalar shift: s is B read as an unsigned 64-bit value (05 R100). -/
def scalarShift (s : State) (g : Group) (w : R3) (f : Ty → Nat → Nat → Nat) : Group :=
  g.writeS w.d (extS w.ty (f w.ty (scalarSrc s g w.ty w.a) (scalarVal s g w.b)))

/-- `shl` (05 R100). -/
def execShl (w : R3) (s : State) : Host.Outcome State Fault Refusal :=
  groupWord (.shl w) s (fun s g _ => scalarShift s g w shlOf)

/-- `shr` (05 R100). -/
def execShr (w : R3) (s : State) : Host.Outcome State Fault Refusal :=
  groupWord (.shr w) s (fun s g _ => scalarShift s g w shrOf)

/-- `sar` (05 R100). -/
def execSar (w : R3) (s : State) : Host.Outcome State Fault Refusal :=
  groupWord (.sar w) s (fun s g _ => scalarShift s g w sarOf)

/-- `rotl` (05 R100). -/
def execRotl (w : R3) (s : State) : Host.Outcome State Fault Refusal :=
  groupWord (.rotl w) s (fun s g _ => scalarShift s g w rotlOf)

/-- `scmp.cond`: 1 or 0 (05 Table 6). -/
def execScmp (c : BitVec 3) (w : R3) (s : State) : Host.Outcome State Fault Refusal :=
  groupWord (.scmp c w) s (fun s g _ => scalar2 s g w (fun a b => (b2n (cmpOf c.toNat w.ty a b), 0)))

/-- `clz`. -/
def execClz (w : R3) (s : State) : Host.Outcome State Fault Refusal :=
  groupWord (.clz w) s (fun s g _ => scalar1 s g w (fun a => (clzOf w.ty a, 0)))

/-- `ctz`. -/
def execCtz (w : R3) (s : State) : Host.Outcome State Fault Refusal :=
  groupWord (.ctz w) s (fun s g _ => scalar1 s g w (fun a => (ctzOf w.ty a, 0)))

/-- `popc`. -/
def execPopc (w : R3) (s : State) : Host.Outcome State Fault Refusal :=
  groupWord (.popc w) s (fun s g _ => scalar1 s g w (fun a => (popcOf w.ty a, 0)))

/-- `brev`. -/
def execBrev (w : R3) (s : State) : Host.Outcome State Fault Refusal :=
  groupWord (.brev w) s (fun s g _ => scalar1 s g w (fun a => (brevOf w.ty a, 0)))

/-- `neg`. -/
def execNeg (w : R3) (s : State) : Host.Outcome State Fault Refusal :=
  groupWord (.neg w) s (fun s g _ => scalar1 s g w (negOf w.ty w.sat))

/-- `abs`. -/
def execAbs (w : R3) (s : State) : Host.Outcome State Fault Refusal :=
  groupWord (.abs w) s (fun s g _ => scalar1 s g w (absOf w.ty w.sat))

/-- `mov`: 64 bits to sD; with D = %status it clears each flag the source holds as 1 (05 R101, 02 R21). -/
def execMov (w : R3) (s : State) : Host.Outcome State Fault Refusal :=
  groupWord (.mov w) s (fun s g _ =>
    if w.d = .s 0x30C then g.clearFlags (BitVec.ofNat 64 (scalarVal s g w.a)) else g.writeS w.d (scalarVal s g w.a))

/-- `lea`: (a + b x 2^k) mod 2^64. -/
def execLea (k : BitVec 3) (w : R3) (s : State) : Host.Outcome State Fault Refusal :=
  groupWord (.lea k w) s (fun s g _ => g.writeS w.d ((scalarVal s g w.a + scalarVal s g w.b * 2 ^ k.toNat) % 2 ^ 64))

/-- `gaddr`: a global address from rank, offset and region (05 Table 5, 09 R154). -/
def execGaddr (r : BitVec 5) (w : R3) (s : State) : Host.Outcome State Fault Refusal :=
  groupWord (.gaddr r w) s (fun s g _ =>
    g.writeS w.d (2 ^ 63 + fld (scalarVal s g w.a) 0 17 * 2 ^ 46 + r.toNat * 2 ^ 41 + fld (scalarVal s g w.b) 0 41))

/-- `gfld`: rank, region, offset or the global bit (05 Table 5). -/
def execGfld (f : BitVec 2) (w : R3) (s : State) : Host.Outcome State Fault Refusal :=
  groupWord (.gfld f w) s (fun s g _ =>
    let a := scalarVal s g w.a
    g.writeS w.d (match f.toNat with
      | 0 => fld a 46 17
      | 1 => fld a 41 5
      | 2 => fld a 0 41
      | _ => fld a 63 1))

/-- The sign-extended IMM24, narrowed to a type (05 R102). -/
def imm24 (w : IM) : Nat := wrapN w.ty.bits w.imm.toInt

/-- `addi` (05 Table 7). -/
def execAddi (w : IM) (s : State) : Host.Outcome State Fault Refusal :=
  groupWord (.addi w) s (fun s g _ =>
    g.writeS w.d (extS w.ty (wrapN w.ty.bits (readInt w.ty (scalarSrc s g w.ty w.a) + w.imm.toInt))))

/-- `movi`. -/
def execMovi (w : IM) (s : State) : Host.Outcome State Fault Refusal :=
  groupWord (.movi w) s (fun _ g _ => g.writeS w.d (wrapN 64 w.imm.toInt))

/-- The 64 bits of the destination, for the forms that keep some of them. -/
def destVal (g : Group) (d : Opnd) : Nat :=
  match d with
  | .s n => (g.sreg n.toNat).toNat
  | _ => 0

/-- `movm`: bits [47:24]. -/
def execMovm (w : IM) (s : State) : Host.Outcome State Fault Refusal :=
  groupWord (.movm w) s (fun _ g _ => g.writeS w.d (setFld (destVal g w.d) 24 24 w.imm.toNat))

/-- `movh`: bits [63:48]. -/
def execMovh (w : IM) (s : State) : Host.Outcome State Fault Refusal :=
  groupWord (.movh w) s (fun _ g _ => g.writeS w.d (setFld (destVal g w.d) 48 16 w.imm.toNat))

/-- `andi` (05 Table 7). -/
def execAndi (w : IM) (s : State) : Host.Outcome State Fault Refusal :=
  groupWord (.andi w) s (fun s g _ => g.writeS w.d (extS w.ty (scalarSrc s g w.ty w.a &&& imm24 w)))

/-- `ori`. -/
def execOri (w : IM) (s : State) : Host.Outcome State Fault Refusal :=
  groupWord (.ori w) s (fun s g _ => g.writeS w.d (extS w.ty (scalarSrc s g w.ty w.a ||| imm24 w)))

/-- `xori`. -/
def execXori (w : IM) (s : State) : Host.Outcome State Fault Refusal :=
  groupWord (.xori w) s (fun s g _ => g.writeS w.d (extS w.ty (scalarSrc s g w.ty w.a ^^^ imm24 w)))

/-- pos and len of a bit-field form (05 Table 7). -/
def bfPos (w : IM) : Nat := fld w.imm.toNat 0 6
def bfLen (w : IM) : Nat := fld w.imm.toNat 6 7

/-- `bfxu`: an unsigned bit field (05 R102). -/
def execBfxu (w : IM) (s : State) : Host.Outcome State Fault Refusal :=
  groupWord (.bfxu w) s (fun s g _ => g.writeS w.d (fld (scalarVal s g w.a) (bfPos w) (bfLen w)))

/-- `bfxs`: a signed bit field. -/
def execBfxs (w : IM) (s : State) : Host.Outcome State Fault Refusal :=
  groupWord (.bfxs w) s (fun s g _ => g.writeS w.d (wrapN 64 (sext (bfLen w) (fld (scalarVal s g w.a) (bfPos w) (bfLen w)))))

/-- `bfi`: a bit field of sD replaced. -/
def execBfi (w : IM) (s : State) : Host.Outcome State Fault Refusal :=
  groupWord (.bfi w) s (fun s g _ => g.writeS w.d (setFld (destVal g w.d) (bfPos w) (bfLen w) (scalarVal s g w.a)))

end Sys2Proof.Machine
end

