-- ==== Sys2Proof/Machine/VecInt.lean ====
section
/-! DEFINITION. Vector integer, compare, select and predicate words: majors 0x20 and 0x21 (06 R105 to R111). -/

namespace Sys2Proof.Machine
open Sys2Proof

/-- The group after a two-source vector form: Op on every element of every active lane (06 R107, R108). -/
def vec2 (s : State) (g : Group) (m : Mask) (w : R3) (f : Nat → Nat → Nat × Nat) : Group :=
  g.vecWrite w.ty w.d m (fun l =>
    mapElems w.ty (fun a b _ => f a b) (laneVal s g w.ty w.a l) (laneVal s g w.ty w.b l) 0)

/-- The group after a one-source vector form. -/
def vec1 (s : State) (g : Group) (m : Mask) (w : R3) (f : Nat → Nat × Nat) : Group :=
  g.vecWrite w.ty w.d m (fun l => mapElems w.ty (fun a _ _ => f a) (laneVal s g w.ty w.a l) 0 0)

/-- The group after a Fused vector form. -/
def vec3 (s : State) (g : Group) (m : Mask) (w : FU) (f : Nat → Nat → Nat → Nat × Nat) : Group :=
  g.vecWrite w.ty w.d m (fun l =>
    mapElems w.ty f (laneVal s g w.ty w.a l) (laneVal s g w.ty w.b l) (laneVal s g w.ty w.c l))

/-- `vadd`, integer (06 Table 1). -/
def execVaddInt (w : R3) (s : State) : Host.Outcome State Fault Refusal :=
  groupWord (.vaddInt w) s (fun s g m => vec2 s g m w (arith2 (· + ·) w.ty w.sat))

/-- `vsub`, integer (06 Table 1). -/
def execVsubInt (w : R3) (s : State) : Host.Outcome State Fault Refusal :=
  groupWord (.vsubInt w) s (fun s g m => vec2 s g m w (arith2 (· - ·) w.ty w.sat))

/-- `vmul`, integer (06 Table 1). -/
def execVmulInt (w : R3) (s : State) : Host.Outcome State Fault Refusal :=
  groupWord (.vmulInt w) s (fun s g m => vec2 s g m w (arith2 (· * ·) w.ty w.sat))

/-- `vmulhi` (06 Table 1). -/
def execVmulhi (w : R3) (s : State) : Host.Outcome State Fault Refusal :=
  groupWord (.vmulhi w) s (fun s g m => vec2 s g m w (fun a b => (mulhiOf w.ty a b, 0)))

/-- `vmin`, integer (06 Table 1). -/
def execVminInt (w : R3) (s : State) : Host.Outcome State Fault Refusal :=
  groupWord (.vminInt w) s (fun s g m => vec2 s g m w (fun a b => (minOf w.ty a b, 0)))

/-- `vmax`, integer (06 Table 1). -/
def execVmaxInt (w : R3) (s : State) : Host.Outcome State Fault Refusal :=
  groupWord (.vmaxInt w) s (fun s g m => vec2 s g m w (fun a b => (maxOf w.ty a b, 0)))

/-- `vand` (06 Table 1). -/
def execVand (w : R3) (s : State) : Host.Outcome State Fault Refusal :=
  groupWord (.vand w) s (fun s g m => vec2 s g m w (fun a b => (a &&& b, 0)))

/-- `vor` (06 Table 1). -/
def execVor (w : R3) (s : State) : Host.Outcome State Fault Refusal :=
  groupWord (.vor w) s (fun s g m => vec2 s g m w (fun a b => (a ||| b, 0)))

/-- `vxor` (06 Table 1). -/
def execVxor (w : R3) (s : State) : Host.Outcome State Fault Refusal :=
  groupWord (.vxor w) s (fun s g m => vec2 s g m w (fun a b => (a ^^^ b, 0)))

/-- `vandn` (06 Table 1). -/
def execVandn (w : R3) (s : State) : Host.Outcome State Fault Refusal :=
  groupWord (.vandn w) s (fun s g m => vec2 s g m w (fun a b => (andnOf w.ty a b, 0)))

/-- `vshl` (06 Table 1). -/
def execVshl (w : R3) (s : State) : Host.Outcome State Fault Refusal :=
  groupWord (.vshl w) s (fun s g m => vec2 s g m w (fun a b => (shlOf w.ty a b, 0)))

/-- `vshr` (06 Table 1). -/
def execVshr (w : R3) (s : State) : Host.Outcome State Fault Refusal :=
  groupWord (.vshr w) s (fun s g m => vec2 s g m w (fun a b => (shrOf w.ty a b, 0)))

/-- `vsar` (06 Table 1). -/
def execVsar (w : R3) (s : State) : Host.Outcome State Fault Refusal :=
  groupWord (.vsar w) s (fun s g m => vec2 s g m w (fun a b => (sarOf w.ty a b, 0)))

/-- `vrotl` (06 Table 1). -/
def execVrotl (w : R3) (s : State) : Host.Outcome State Fault Refusal :=
  groupWord (.vrotl w) s (fun s g m => vec2 s g m w (fun a b => (rotlOf w.ty a b, 0)))

/-- `vneg`, integer (06 Table 1). -/
def execVnegInt (w : R3) (s : State) : Host.Outcome State Fault Refusal :=
  groupWord (.vnegInt w) s (fun s g m => vec1 s g m w (negOf w.ty w.sat))

/-- `vabs`, integer (06 Table 1). -/
def execVabsInt (w : R3) (s : State) : Host.Outcome State Fault Refusal :=
  groupWord (.vabsInt w) s (fun s g m => vec1 s g m w (absOf w.ty w.sat))

/-- `vclz` (06 Table 1). -/
def execVclz (w : R3) (s : State) : Host.Outcome State Fault Refusal :=
  groupWord (.vclz w) s (fun s g m => vec1 s g m w (fun a => (clzOf w.ty a, 0)))

/-- `vctz` (06 Table 1). -/
def execVctz (w : R3) (s : State) : Host.Outcome State Fault Refusal :=
  groupWord (.vctz w) s (fun s g m => vec1 s g m w (fun a => (ctzOf w.ty a, 0)))

/-- `vpopc` (06 Table 1). -/
def execVpopc (w : R3) (s : State) : Host.Outcome State Fault Refusal :=
  groupWord (.vpopc w) s (fun s g m => vec1 s g m w (fun a => (popcOf w.ty a, 0)))

/-- `vbrev` (06 Table 1). -/
def execVbrev (w : R3) (s : State) : Host.Outcome State Fault Refusal :=
  groupWord (.vbrev w) s (fun s g m => vec1 s g m w (fun a => (brevOf w.ty a, 0)))

/-- `vmov` (06 Table 1). -/
def execVmov (w : R3) (s : State) : Host.Outcome State Fault Refusal :=
  groupWord (.vmov w) s (fun s g m => vec1 s g m w (fun a => (a, 0)))

/-- `vcmp.cond` (06 R110). -/
def execVcmp (c : BitVec 3) (w : R3) (s : State) : Host.Outcome State Fault Refusal :=
  groupWord (.vcmp c w) s (fun s g m => g.writeP w.d m (fun l => cmpOf c.toNat w.ty (laneVal s g w.ty w.a l) (laneVal s g w.ty w.b l)))

/-- `pand` (06 R111). -/
def execPand (w : R3) (s : State) : Host.Outcome State Fault Refusal :=
  groupWord (.pand w) s (fun _ g m => g.writeP w.d m (lane (predVal g w.a &&& predVal g w.b)))

/-- `por` (06 R111). -/
def execPor (w : R3) (s : State) : Host.Outcome State Fault Refusal :=
  groupWord (.por w) s (fun _ g m => g.writeP w.d m (lane (predVal g w.a ||| predVal g w.b)))

/-- `pxor` (06 R111). -/
def execPxor (w : R3) (s : State) : Host.Outcome State Fault Refusal :=
  groupWord (.pxor w) s (fun _ g m => g.writeP w.d m (lane (predVal g w.a ^^^ predVal g w.b)))

/-- `pandn` (06 R111). -/
def execPandn (w : R3) (s : State) : Host.Outcome State Fault Refusal :=
  groupWord (.pandn w) s (fun _ g m => g.writeP w.d m (lane (predVal g w.a &&& ~~~(predVal g w.b))))

/-- `pnot` (06 R111). -/
def execPnot (w : R3) (s : State) : Host.Outcome State Fault Refusal :=
  groupWord (.pnot w) s (fun _ g m => g.writeP w.d m (lane (~~~(predVal g w.a))))

/-- Op of `vmad`: NEGP negates the product, NEGC negates C (06 Table 2). -/
def madOf (np nc : Bool) (t : Ty) (sat : Bool) (a b c : Nat) : Nat × Nat :=
  narrow t sat ((if np then -(readInt t a * readInt t b) else readInt t a * readInt t b) + (if nc then -(readInt t c) else readInt t c))

/-- `vmad`; n is NEGP, NEGC (06 Table 2). -/
def execVmad (n : BitVec 2) (w : FU) (s : State) : Host.Outcome State Fault Refusal :=
  groupWord (.vmad n w) s (fun s g m => vec3 s g m w (madOf (n.getLsbD 1) (n.getLsbD 0) w.ty w.sat))

/-- `vsel`: a where pC holds, b elsewhere (06 Table 2). -/
def execVsel (w : FU) (s : State) : Host.Outcome State Fault Refusal :=
  groupWord (.vsel w) s (fun s g m => g.writeV w.ty w.d m (fun l => if lane (predVal g w.c) l then laneVal s g w.ty w.a l else laneVal s g w.ty w.b l))

/-- `vclamp`: min(max(a, b), c) (06 Table 2). -/
def execVclamp (w : FU) (s : State) : Host.Outcome State Fault Refusal :=
  groupWord (.vclamp w) s (fun s g m => vec3 s g m w (fun a b c => (minOf w.ty (maxOf w.ty a b) c, 0)))

/-- The type of the sum of `vdp4`: 32 bits, signed as the elements are (log 11). -/
def dp4Ty (t : Ty) : Ty := if signedTy t then .i32 else .n32

/-- Op of `vdp4`: c + a0 b0 + a1 b1 + a2 b2 + a3 b3 in 32 bits (06 R109, Table 2). -/
def dp4Of (t : Ty) (sat : Bool) (a b c : Nat) : Nat × Nat :=
  let ps := ((elems t a).zip (elems t b)).map (fun x => readInt t x.1 * readInt t x.2)
  narrow (dp4Ty t) sat (readInt (dp4Ty t) c + ps.foldl (· + ·) 0)

/-- `vdp4`: C and D are 32-bit lanes (06 Table 2). -/
def execVdp4 (w : FU) (s : State) : Host.Outcome State Fault Refusal :=
  groupWord (.vdp4 w) s (fun s g m => g.vecWrite (dp4Ty w.ty) w.d m (fun l => dp4Of w.ty w.sat (laneVal s g w.ty w.a l) (laneVal s g w.ty w.b l) (laneVal s g (dp4Ty w.ty) w.c l)))

end Sys2Proof.Machine
end

