-- ==== Sys2Proof/Machine/VecFloat.lean ====
section
/-! DEFINITION. Vector floating-point words and conversions: majors 0x30, 0x31, 0x32 and 0x40 (06 R112 to R119). -/

namespace Sys2Proof.Machine
open Sys2Proof

/-- A two-source operation on the values of elements of a type. -/
def onF2 (t : Ty) (f : Fmt → FVal → FVal → Nat × Nat) (a b : Nat) : Nat × Nat :=
  f (fmtOf t) (fromBits (fmtOf t) a) (fromBits (fmtOf t) b)

/-- A one-source operation on the value of an element. -/
def onF1 (t : Ty) (f : Fmt → FVal → Nat × Nat) (a : Nat) : Nat × Nat := f (fmtOf t) (fromBits (fmtOf t) a)

/-- The fused multiply-add family (06 Table 4). -/
def fmaOf (np nc : Bool) (w : FU) (a b c : Nat) : Nat × Nat :=
  let f := fmtOf w.ty
  fmaRound f w.rm np nc (fromBits f a) (fromBits f b) (fromBits f c)

/-- `vfma` (06 Table 4). -/
def execVfma (w : FU) (s : State) : Host.Outcome State Fault Refusal :=
  groupWord (.vfma w) s (fun s g m => vec3 s g m w (fmaOf false false w))

/-- `vfms` (06 Table 4). -/
def execVfms (w : FU) (s : State) : Host.Outcome State Fault Refusal :=
  groupWord (.vfms w) s (fun s g m => vec3 s g m w (fmaOf false true w))

/-- `vfnma` (06 Table 4). -/
def execVfnma (w : FU) (s : State) : Host.Outcome State Fault Refusal :=
  groupWord (.vfnma w) s (fun s g m => vec3 s g m w (fmaOf true false w))

/-- `vfnms` (06 Table 4). -/
def execVfnms (w : FU) (s : State) : Host.Outcome State Fault Refusal :=
  groupWord (.vfnms w) s (fun s g m => vec3 s g m w (fmaOf true true w))

/-- Op of `vfclamp`: vmin(vmax(a, b), c) (06 R113). -/
def fclampOf (t : Ty) (a b c : Nat) : Nat × Nat :=
  let x := minMaxF (fmtOf t) true false a b
  let y := minMaxF (fmtOf t) false false x.1 c
  (y.1, x.2 ||| y.2)

/-- `vfclamp` (06 Table 4). -/
def execVfclamp (w : FU) (s : State) : Host.Outcome State Fault Refusal :=
  groupWord (.vfclamp w) s (fun s g m => vec3 s g m w (fclampOf w.ty))

/-- Op of `vdot2`: c + a0 b0 + a1 b1, one rounding to .f32; Table 3 on the exact sum of three terms (06 R112). -/
def dot2Of (t : Ty) (rm : RM) (a b c : Nat) : Nat × Nat :=
  let v (x : Nat) : FVal := fromBits (fmtOf t) x
  let ps := ((elems t a).zip (elems t b)).map (fun x => (mulVal (v x.1) (v x.2)).1)
  sumRound f32 rm (ps ++ [fromBits f32 c])

/-- `vdot2`: C and D are .f32 lanes (06 Table 4). -/
def execVdot2 (w : FU) (s : State) : Host.Outcome State Fault Refusal :=
  groupWord (.vdot2 w) s (fun s g m => g.vecWrite .f32 w.d m (fun l => dot2Of w.ty w.rm (laneVal s g w.ty w.a l) (laneVal s g w.ty w.b l) (laneVal s g .f32 w.c l)))

/-- `vadd`, floating point (06 Table 5). -/
def execVaddFloat (w : R3) (s : State) : Host.Outcome State Fault Refusal :=
  groupWord (.vaddFloat w) s (fun s g m => vec2 s g m w (onF2 w.ty (fun f a b => sumRound f w.rm [a, b])))

/-- `vsub`, floating point (06 Table 5). -/
def execVsubFloat (w : R3) (s : State) : Host.Outcome State Fault Refusal :=
  groupWord (.vsubFloat w) s (fun s g m => vec2 s g m w (onF2 w.ty (fun f a b => sumRound f w.rm [a, b.flip true])))

/-- `vmul`, floating point (06 Table 5). -/
def execVmulFloat (w : R3) (s : State) : Host.Outcome State Fault Refusal :=
  groupWord (.vmulFloat w) s (fun s g m => vec2 s g m w (onF2 w.ty (fun f a b => mulRound f w.rm a b)))

/-- `vdiv` (06 Table 5). -/
def execVdiv (w : R3) (s : State) : Host.Outcome State Fault Refusal :=
  groupWord (.vdiv w) s (fun s g m => vec2 s g m w (onF2 w.ty (fun f a b => divRound f w.rm a b)))

/-- `vmin`, floating point (06 Table 5). -/
def execVminFloat (w : R3) (s : State) : Host.Outcome State Fault Refusal :=
  groupWord (.vminFloat w) s (fun s g m => vec2 s g m w (minMaxF (fmtOf w.ty) false false))

/-- `vmax`, floating point (06 Table 5). -/
def execVmaxFloat (w : R3) (s : State) : Host.Outcome State Fault Refusal :=
  groupWord (.vmaxFloat w) s (fun s g m => vec2 s g m w (minMaxF (fmtOf w.ty) true false))

/-- `vminn` (06 Table 5). -/
def execVminn (w : R3) (s : State) : Host.Outcome State Fault Refusal :=
  groupWord (.vminn w) s (fun s g m => vec2 s g m w (minMaxF (fmtOf w.ty) false true))

/-- `vmaxn` (06 Table 5). -/
def execVmaxn (w : R3) (s : State) : Host.Outcome State Fault Refusal :=
  groupWord (.vmaxn w) s (fun s g m => vec2 s g m w (minMaxF (fmtOf w.ty) true true))

/-- A sign form: the magnitude of a with a given sign; a NaN gives the canonical NaN and no flag (06 R114). -/
def signOf (t : Ty) (sg : Bool) (a : Nat) : Nat × Nat :=
  if (fromBits (fmtOf t) a).isNan then ((fmtOf t).qnan, 0) else (fld a 0 (t.bits - 1) + b2n sg * 2 ^ (t.bits - 1), 0)

/-- `vneg`, floating point (06 R114). -/
def execVnegFloat (w : R3) (s : State) : Host.Outcome State Fault Refusal :=
  groupWord (.vnegFloat w) s (fun s g m => vec1 s g m w (fun a => signOf w.ty (!bit a (w.ty.bits - 1)) a))

/-- `vabs`, floating point (06 R114). -/
def execVabsFloat (w : R3) (s : State) : Host.Outcome State Fault Refusal :=
  groupWord (.vabsFloat w) s (fun s g m => vec1 s g m w (signOf w.ty false))

/-- `vcopysign` (06 R114). -/
def execVcopysign (w : R3) (s : State) : Host.Outcome State Fault Refusal :=
  groupWord (.vcopysign w) s (fun s g m => vec2 s g m w (fun a b => signOf w.ty (bit b (w.ty.bits - 1)) a))

/-- A comparison of two lanes: every element must satisfy it; the flags of all (06 R115). -/
def fcmpLane (t : Ty) (c a b : Nat) : Bool × Nat :=
  let rs := ((elems t a).zip (elems t b)).map (fun x => fcmp (fmtOf t) c x.1 x.2)
  (rs.all Prod.fst, rs.foldl (fun k x => k ||| x.2) 0)

/-- `vfcmp.cond` (06 R115). -/
def execVfcmp (c : BitVec 3) (w : R3) (s : State) : Host.Outcome State Fault Refusal :=
  groupWord (.vfcmp c w) s (fun s g m =>
    let r (l : Nat) : Bool × Nat := fcmpLane w.ty c.toNat (laneVal s g w.ty w.a l) (laneVal s g w.ty w.b l)
    (g.writeP w.d m (fun l => (r l).1)).raise ((lanesOf m).foldl (fun k l => k ||| (r l).2) 0))

/-- `vfclass`: the class of some element has its bit in the mask (06 R116). -/
def execVfclass (w : R3) (s : State) : Host.Outcome State Fault Refusal :=
  groupWord (.vfclass w) s (fun s g m =>
    g.writeP w.d m (fun l => (elems w.ty (laneVal s g w.ty w.a l)).any (fun x => bit w.b.idx (classOf (fmtOf w.ty) x))))

/-- `vfrnd` (06 R117). -/
def execVfrnd (w : R3) (s : State) : Host.Outcome State Fault Refusal :=
  groupWord (.vfrnd w) s (fun s g m => vec1 s g m w (fun a => frndRound (fmtOf w.ty) w.rm (fromBits (fmtOf w.ty) a) a))

/-! ### Conversions (06 R118, R119) -/

/-- The RESIDUE detail of the first failing lane and element of an .rn24 source, if any (03 R47, R50). -/
def rn24Fail (s : State) (g : Group) (a : Opnd) (m : Mask) : Option W64 :=
  match (lanesOf m).find? (fun l => !(rn24Decode (laneVal s g .rn24 a l)).2) with
  | some l =>
    let x := laneVal s g .rn24 a l
    some (residueDetail 3 s.tile 0 l 0 (((rn24Decode x).1 % 251).toNat) (fld x 24 8 % 251))
  | none => none

/-- One converted element of a Conv word. -/
def cvtElem (w : CV) (x : Nat) : Nat × Nat := convert w.ty w.dty w.rm w.sat w.scale.toInt x

/-- A conversion word: RESIDUE for a failed .rn24 check before anything is written (03 R47, 06 R119). -/
def convWord (i : Instr) (w : CV) (s : State) (f : State → Group → Mask → Group) : Host.Outcome State Fault Refusal :=
  runWord i s nothing (fun s g m =>
    match (if w.ty == .rn24 then rn24Fail s g w.a m else none) with
    | some d => .trap s tResidue d
    | none => .ok (s.put (f s g m)))

/-- `vcvt`: element to element (06 Table 8). -/
def execVcvt (w : CV) (s : State) : Host.Outcome State Fault Refusal :=
  convWord (.vcvt w) w s (fun s g m =>
    g.vecWrite w.dty w.d m (fun l =>
      let rs := (elems w.ty (laneVal s g w.ty w.a l)).map (cvtElem w)
      (joinElems w.dty (rs.map Prod.fst), orFlags rs)))

/-- `vcvtn`: the wide element into packed element k, the others kept (06 Table 8). -/
def execVcvtn (w : CV) (s : State) : Host.Outcome State Fault Refusal :=
  convWord (.vcvtn w) w s (fun s g m =>
    g.vecWrite w.dty w.d m (fun l =>
      let r := cvtElem w (laneVal s g w.ty w.a l)
      (setFld (laneVal s g .n32 w.d l) (w.dty.bits * w.b.idx) w.dty.bits r.1, r.2)))

/-- `vcvtw`: packed element k to the whole lane or pair (06 Table 8). -/
def execVcvtw (w : CV) (s : State) : Host.Outcome State Fault Refusal :=
  convWord (.vcvtw w) w s (fun s g m =>
    g.vecWrite w.dty w.d m (fun l =>
      cvtElem w (fld (laneVal s g w.ty w.a l) (w.ty.bits * w.b.idx) w.ty.bits)))

end Sys2Proof.Machine
end

