-- ==== Sys2Proof/Machine/Cross.lean ====
section
/-! DEFINITION. Cross-lane words and special functions: majors 0x48 and 0x49 (07 R122 to R131), with the log-step tree of
03 R53. -/

namespace Sys2Proof.Machine
open Sys2Proof

/-- The source lane of `vshfl` (07 R124): mode, segment shift, distance, lane. -/
def shflSrc (mode sh b l : Nat) : Nat :=
  let sg := 64 / 2 ^ sh
  let base := l - l % sg
  let i := l % sg
  match mode with
  | 0 => base + b % sg
  | 1 => if b ≤ i then l - b else l
  | 2 => if i + b < sg then l + b else l
  | _ => base + (i ^^^ b) % sg

/-- B of a cross-lane word read as .n32: under a 64-bit type the even register of a pair (07 R124). -/
def laneN32 (s : State) (g : Group) (o : Opnd) (l : Nat) : Nat := laneVal s g .n32 o l

/-- `vshfl` (07 R124); a source lane may be inactive (07 R123). -/
def execVshfl (mode : BitVec 2) (sh : BitVec 3) (w : R3) (s : State) : Host.Outcome State Fault Refusal :=
  groupWord (.vshfl mode sh w) s (fun s g m =>
    g.writeV w.ty w.d m (fun l => laneVal s g w.ty w.a (shflSrc mode.toNat sh.toNat (laneN32 s g w.b l) l)))

/-- The identity of an operation (07 Table 2). -/
def redIdent (op : Nat) (t : Ty) : Nat :=
  match op with
  | 0 => if t.float then (fmtOf t).zeroBits true else 0
  | 1 => if t.float then (fmtOf t).infBits false else wrapN t.bits (hiOf t)
  | 2 => if t.float then (fmtOf t).infBits true else wrapN t.bits (loOf t)
  | 3 => (fmtOf t).infBits false
  | 4 => (fmtOf t).infBits true
  | 5 => 2 ^ t.bits - 1
  | _ => 0

/-- One application of an operation to two elements (07 Table 2). -/
def redOp (op : Nat) (t : Ty) (rm : RM) (a b : Nat) : Nat × Nat :=
  match op with
  | 0 => if t.float then onF2 t (fun f a b => sumRound f rm [a, b]) a b else (wrapN t.bits (readInt t a + readInt t b), 0)
  | 1 => if t.float then minMaxF (fmtOf t) false false a b else (minOf t a b, 0)
  | 2 => if t.float then minMaxF (fmtOf t) true false a b else (maxOf t a b, 0)
  | 3 => minMaxF (fmtOf t) false true a b
  | 4 => minMaxF (fmtOf t) true true a b
  | 5 => (a &&& b, 0)
  | 6 => (a ||| b, 0)
  | _ => (a ^^^ b, 0)

/-- One level of the log-step tree: neighbours combined in pairs (03 R53). -/
def treeLevel (f : Nat → Nat → Nat × Nat) : List Nat → List Nat × Nat
  | a :: b :: r =>
    let x := f a b
    let y := treeLevel f r
    (x.1 :: y.1, x.2 ||| y.2)
  | xs => (xs, 0)

/-- d levels of the tree over 2^d values; the result stands in lane 0. -/
def treeFold (f : Nat → Nat → Nat × Nat) : Nat → List Nat → Nat × Nat
  | 0, xs => (xs.headD 0, 0)
  | d + 1, xs =>
    let x := treeLevel f xs
    let y := treeFold f d x.1
    (y.1, x.2 ||| y.2)

/-- The reduction of one element position over the active lanes: the tree with the identity outside them; an integer sum is
exact and narrowed or clamped once (07 R125). -/
def reduceAt (op : Nat) (t : Ty) (rm : RM) (sat : Bool) (m : Mask) (x : Nat → Nat) : Nat × Nat :=
  if op = 0 ∧ t.float = false then narrow t sat ((lanesOf m).foldl (fun a l => a + readInt t (x l)) (0 : Int))
  else treeFold (redOp op t rm) 6 (lanes.map (fun l => if lane m l then x l else redIdent op t))

/-- Element positions of a lane under a type. -/
def positions (t : Ty) : List Nat := List.range (if t.bits < 32 then 32 / t.bits else 1)

/-- Element j of a lane value. -/
def elemAt (t : Ty) (j x : Nat) : Nat := if t.bits < 32 then fld x (t.bits * j) t.bits else x

/-- `vredlog` (07 R125): the lane word goes to every active lane, or to sD extended under 03 R33. -/
def execVredlog (op : BitVec 3) (w : R3) (s : State) : Host.Outcome State Fault Refusal :=
  groupWord (.vredlog op w) s (fun s g m =>
    let rs := (positions w.ty).map (fun j => reduceAt op.toNat w.ty w.rm w.sat m (fun l => elemAt w.ty j (laneVal s g w.ty w.a l)))
    let x := joinElems w.ty (rs.map Prod.fst)
    let g' := match w.d with
      | .v _ => g.writeV w.ty w.d m (fun _ => x)
      | _ => g.writeS w.d (if w.ty.bits < 32 then x else extS w.ty x)
    g'.raise (orFlags rs))

/-- The prefix of one element position at lane l (07 R126): the lanes below l, and l itself when inclusive; an integer sum is
exact and narrowed or clamped once. -/
def scanAt (op : Nat) (t : Ty) (rm : RM) (sat incl : Bool) (m : Mask) (x : Nat → Nat) (l : Nat) : Nat × Nat :=
  let ls := (lanesOf m).filter (fun k => decide (k < l) || (incl && k == l))
  if op = 0 ∧ t.float = false then narrow t sat (ls.foldl (fun a k => a + readInt t (x k)) (0 : Int))
  else ls.foldl (fun a k => let r := redOp op t rm a.1 (x k); (r.1, a.2 ||| r.2)) (redIdent op t, 0)

/-- The group after a scan (07 R126); the flags are those of every step taken, the last of which only an inclusive scan
delivers, yet both take it. -/
def scanWord (s : State) (g : Group) (m : Mask) (op : Nat) (incl : Bool) (w : R3) : Group :=
  let x (j l : Nat) : Nat := elemAt w.ty j (laneVal s g w.ty w.a l)
  let g' := g.vecWrite w.ty w.d m (fun l =>
    let rs := (positions w.ty).map (fun j => scanAt op w.ty w.rm w.sat incl m (x j) l)
    (joinElems w.ty (rs.map Prod.fst), orFlags rs))
  if op = 0 ∧ w.ty.float = false then g'
  else g'.raise (orFlags ((positions w.ty).map (fun j => scanAt op w.ty w.rm w.sat true m (x j) 63)))

/-- `vscan` (07 R126). -/
def execVscan (op : BitVec 3) (w : R3) (s : State) : Host.Outcome State Fault Refusal :=
  groupWord (.vscan op w) s (fun s g m => scanWord s g m op.toNat true w)

/-- `vscanx` (07 R126). -/
def execVscanx (op : BitVec 3) (w : R3) (s : State) : Host.Outcome State Fault Refusal :=
  groupWord (.vscanx op w) s (fun s g m => scanWord s g m op.toNat false w)

/-! ### Top-k (07 R127, R128) -/

/-- Value a ranks before value b, larger first, +0 equal to -0. -/
def ranksAbove (t : Ty) (a b : Nat) : Bool :=
  if t.float then ltVal false (fromBits (fmtOf t) b) (fromBits (fmtOf t) a) else decide (readInt t b < readInt t a)

/-- Insert a (value, lane) candidate behind every candidate it does not rank above: equal values keep lane order. -/
def rankInsert (t : Ty) (c : Nat × Nat) : List (Nat × Nat) → List (Nat × Nat)
  | [] => [c]
  | d :: r => if ranksAbove t c.1 d.1 then c :: d :: r else d :: rankInsert t c r

/-- The winners: the first k of the candidates in rank order, as (value, lane). -/
def winners (t : Ty) (m : Mask) (x : Nat → Nat) (k : Nat) : List (Nat × Nat) :=
  let cs := (lanesOf m).filter (fun l => !(t.float && (fromBits (fmtOf t) (x l)).isNan))
  (cs.foldl (fun a l => rankInsert t (x l, l) a) []).take k

/-- A signalling NaN in a candidate lane raises NV. -/
def topkFlags (t : Ty) (m : Mask) (x : Nat → Nat) : Nat :=
  if t.float && (lanesOf m).any (fun l => (fromBits (fmtOf t) (x l)).isSnan) then NV else 0

/-- The weights of the winners (07 R128), with their flags. -/
def normWeights (rm : RM) (vs : List Nat) : List Nat × Nat :=
  let xs := vs.map (fromBits f32)
  let sum := if vs.isEmpty then (0, 0) else sumRound f32 rm xs
  let sv := fromBits f32 sum.1
  let tiny := match sv with | .fin _ m _ => decide (m < 2 ^ 23) | _ => false
  if vs.isEmpty || tiny then
    let ws := vs.map (fun _ => divRound f32 rm (.fin false 1 0) (.fin false vs.length 0))
    (ws.map Prod.fst, sum.2 ||| orFlags ws ||| GATEZ)
  else
    let ws := xs.map (fun v => divRound f32 rm v sv)
    (ws.map Prod.fst, sum.2 ||| orFlags ws)

/-- The group after a top-k word: lane l takes winner l mod 8, its value or weight in vD and its lane number in vD+1
(07 R127). -/
def topkWord (s : State) (g : Group) (m : Mask) (k : Nat) (norm : Bool) (w : R3) : Group :=
  let x (l : Nat) : Nat := laneVal s g w.ty w.a l
  let cm := m &&& predVal g w.b
  let ws := winners w.ty cm x k
  let out := if norm then normWeights w.rm (ws.map Prod.fst) else (ws.map Prod.fst, 0)
  match w.d with
  | .v r =>
    let g1 := g.setLanes r.toNat m (fun l => out.1.getD (l % 8) 0)
    let g2 := g1.setLanes (r.toNat + 1) m (fun l => (ws.map Prod.snd).getD (l % 8) 0xFFFFFFFF)
    g2.raise (topkFlags w.ty cm x ||| out.2)
  | _ => g

/-- `vtopk`; k is the field plus 1 (07 R127). -/
def execVtopk (k : BitVec 3) (w : R3) (s : State) : Host.Outcome State Fault Refusal :=
  groupWord (.vtopk k w) s (fun s g m => topkWord s g m (k.toNat + 1) false w)

/-- `vtopk.norm` (07 R128). -/
def execVtopkNorm (k : BitVec 3) (w : R3) (s : State) : Host.Outcome State Fault Refusal :=
  groupWord (.vtopkNorm k w) s (fun s g m => topkWord s g m (k.toNat + 1) true w)

/-! ### Special functions and generators (07 R129 to R131) -/

/-- The group after a one-source special function. -/
def special1 (s : State) (g : Group) (m : Mask) (w : IM) (f : Fmt → FVal → Nat × Nat) : Group :=
  g.vecWrite w.ty w.d m (fun l => onF1 w.ty f (laneVal s g w.ty w.a l))

/-- `vrcp` (07 Table 4). -/
def execVrcp (w : IM) (s : State) : Host.Outcome State Fault Refusal :=
  groupWord (.vrcp w) s (fun s g m => special1 s g m w (fun f a => rcpRound f w.rm a))

/-- `vrsqrt` (07 Table 4). -/
def execVrsqrt (w : IM) (s : State) : Host.Outcome State Fault Refusal :=
  groupWord (.vrsqrt w) s (fun s g m => special1 s g m w (fun f a => rsqrtRound f w.rm a))

/-- `vsqrt` (07 Table 4). -/
def execVsqrt (w : IM) (s : State) : Host.Outcome State Fault Refusal :=
  groupWord (.vsqrt w) s (fun s g m => special1 s g m w (fun f a => sqrtRound f w.rm a))

/-- `vexpo` (07 Table 4). -/
def execVexpo (w : IM) (s : State) : Host.Outcome State Fault Refusal :=
  groupWord (.vexpo w) s (fun s g m => special1 s g m w (fun _ a => vexpoOf a))

/-- B of `vexp2i` and `vscalb`, read as .i32 in each lane (07 R122). -/
def laneI32 (s : State) (g : Group) (o : Opnd) (l : Nat) : Int := sext 32 (laneVal s g .i32 o l)

/-- `vexp2i`: 2^(a - b) (07 Table 4). -/
def execVexp2i (w : IM) (s : State) : Host.Outcome State Fault Refusal :=
  groupWord (.vexp2i w) s (fun s g m =>
    g.vecWrite .f32 w.d m (fun l => vexp2iRound f32 w.rm (fromBits f32 (laneVal s g .f32 w.a l)) (laneI32 s g w.b l)))

/-- `vscalb`: a x 2^b (07 Table 4). -/
def execVscalb (w : IM) (s : State) : Host.Outcome State Fault Refusal :=
  groupWord (.vscalb w) s (fun s g m =>
    g.vecWrite .f32 w.d m (fun l => scalbRound f32 w.rm (fromBits f32 (laneVal s g .f32 w.a l)) (laneI32 s g w.b l)))

/-- The hash of `vrand` (07 R130): key, counter, lane. -/
def randZ (key c l : Nat) : Nat :=
  let z := (key + (c * 2 ^ 8 + l) * 0x9E3779B97F4A7C15) % 2 ^ 64
  let z := ((z ^^^ z / 2 ^ 30) * 0xBF58476D1CE4E5B9) % 2 ^ 64
  let z := ((z ^^^ z / 2 ^ 27) * 0x94D049BB133111EB) % 2 ^ 64
  z ^^^ z / 2 ^ 31

/-- `vrand` (07 R130). -/
def execVrand (w : IM) (s : State) : Host.Outcome State Fault Refusal :=
  groupWord (.vrand w) s (fun s g m =>
    g.writeV w.ty w.d m (fun l =>
      let z := randZ (scalarVal s g w.a) (laneN32 s g w.b l) l
      match w.ty with
      | .n64 => z
      | .f32 => (roundFin f32 .rne false (fld z 40 24) (-24) false).1
      | _ => z % 2 ^ 32))

/-- A value the entropy source has not delivered: the one drawn, or the next above it that is new (07 R131: no two words return the same). -/
def freshSeed (seen : List W64) (x : W64) : W64 :=
  ((List.range (seen.length + 1)).map (fun i => x + BitVec.ofNat 64 i)).find? (fun y => !seen.contains y) |>.getD x

/-- `rseed`: 64 bits of the entropy source, a free value (log 5) that no word has had; the logged value during a replay (07 R131, 26 kind 9). -/
def execRseed (w : IM) (s : State) : Host.Outcome State Fault Refusal :=
  runWord (.rseed w) s nothing (fun s g m =>
    match logged? s (whoOf s g m) 9 with
    | some e => .ok ((logEvent s (whoOf s g m) 9 0 e.data.toNat).put (g.writeS w.d e.data.toNat))
    | none =>
      let x := freshSeed s.seeds (Config.freeWord s.freeCtr)
      .ok { ((logEvent s (whoOf s g m) 9 0 x.toNat).put (g.writeS w.d x.toNat)) with freeCtr := s.freeCtr + 1, seeds := s.seeds ++ [x] })

end Sys2Proof.Machine
end

