-- ==== Sys2Proof/Machine/Header.lean ====
section
/-! DEFINITION. The fields of a record's header (18 Table 2). -/

namespace Sys2Proof.Machine

def hCode (h : Nat) : Nat := fld h 0 48
def hPlanes (h : Nat) : Nat := fld h 48 3 + 1
def hPslog (h : Nat) : Nat := fld h 52 5
def hBlocks (h : Nat) : Nat := fld h 64 32 + 1
def hG (h : Nat) : Nat := fld h 96 7
/-- T; 0 for the refused code. -/
def hT (h : Nat) : Nat := match fld h 103 2 with | 0 => 1 | 1 => 2 | 2 => 4 | _ => 0
def hTaglog (h : Nat) : Nat := fld h 105 3
def hSpan (h : Nat) : Nat := 2 ^ hTaglog h
def hAcc (h : Nat) : Nat := match fld h 108 3 with | 0 => 0 | n + 1 => 2 ^ (n + 1)
def hArgb (h : Nat) : Nat := fld h 112 5
def hQb (h : Nat) : Nat := fld h 117 2
def hNroles (h : Nat) : Nat := fld h 119 3
def hEclass (h : Nat) : Nat := fld h 122 3
def hSerial (h : Nat) : Bool := bit h 125
def hPub (h : Nat) : Bool := bit h 126
def hPubk (h : Nat) : Nat := fld h 176 4
def hEarly (h : Nat) : Nat := fld h 180 7
def hHandler (h : Nat) : Nat := fld h 192 22
def hBudget (h : Nat) : Nat := fld h 214 16
def hDone (h : Nat) : Nat := fld h 256 64
def hMkind (h : Nat) : Nat := fld h 320 2
def hMshift (h : Nat) : Nat := fld h 322 5
def hDepdist (h : Nat) : Nat := fld h 327 3
def hMscale (h : Nat) : Nat := fld h 336 16
def hMwidth (h : Nat) : Nat := fld h 352 16
def hMofs (h : Nat) : Int := sext 32 (fld h 384 32)

end Sys2Proof.Machine
end

