-- ==== Sys2Proof/Machine/Mem.lean ====
section
/-! DEFINITION. Loads, stores, atomics, waits, fences and publication: majors 0x50, 0x51 and 0x60 (10 R161 to R183), and the
reductions of major 0x80 (14 R252). A near access is performed in its issue clock; a far word becomes a FarOp, whose elements
FAR_ACCESS_AT_HOME performs. -/

namespace Sys2Proof.Machine
open Sys2Proof

/-! ### Addresses and data (10 R163, R164) -/

/-- Bytes of an element. -/
def bytesOf (t : Ty) : Nat := t.bits / 8

/-- idx of a lane: a byte offset, or a stride in elements (10 R163). -/
def laneOfs (s : State) (g : Group) (w : ME) (l : Nat) : Int :=
  match w.b with
  | .v r => ((g.vreg r.toNat l).toNat : Int)
  | .s _ => (l : Int) * sext 64 (scalarVal s g w.b) * ((bytesOf w.ty) : Int)
  | .imm n => (l : Int) * n.toInt * ((bytesOf w.ty) : Int)
  | .p _ => 0

/-- D is a scalar register: one access for the group. -/
def single (w : ME) : Bool := match w.d with | .s _ => true | _ => false

/-- OFS, 20 bits signed (04 R59). -/
def offOf (w : ME) : Int := w.ofs.toInt

/-- The targets of a load, store or reduction: one for each active lane in ascending order, or one for the group; the error is the
ADDR detail word of the lowest lane that fails. -/
def targets (s : State) (g : Group) (m : Mask) (w : ME) (near : Bool) (k : Nat) : Except W64 (List (Nat × Target)) :=
  let b := scalarVal s g w.a
  (if single w then [(0, 0)] else (lanesOf m).map (fun l => (l, laneOfs s g w l))).mapM (fun x =>
    match resolve s w.glob near k (bytesOf w.ty) b (offOf w) x.2 with
    | .ok t => .ok (x.1, t)
    | .error (r, a) => .error (addrDetail w.glob x.1 r a))

/-- The targets of an atomic: the one address, or each lane's own from the pair of A (10 R173). Every active lane operates (10 R174), so that its ADDR detail
names the lowest one for a scalar A too (09 R157; DESIGN CHOICE, log 38). -/
def atomTargets (s : State) (g : Group) (m : Mask) (w : ME) : Except W64 (List (Nat × Target)) :=
  (lanesOf m).mapM (fun l =>
    match resolve s w.glob false 2 (bytesOf w.ty) (laneVal s g .n64 w.a l) (offOf w) 0 with
    | .ok t => .ok (l, t)
    | .error (r, a) => .error (addrDetail w.glob l r a))

/-- A loaded element as a lane holds it (10 R164). -/
def loadLane (t : Ty) (x : Nat) : Nat := if t.bits < 32 then wrapN 32 (readInt t x) else x

/-- The data a store or reduction takes from D for a lane. -/
def storeData (s : State) (g : Group) (w : ME) (l : Nat) : Nat := laneVal s g w.ty w.d l % 2 ^ w.ty.bits

/-- The group with the loaded elements in D. -/
def Group.loaded (g : Group) (t : Ty) (d : Opnd) (xs : List (Nat × Nat)) : Group :=
  match d with
  | .v _ => g.writeV t d (maskOf (fun l => xs.any (fun x => x.1 == l))) (fun l =>
      match xs.find? (fun x => x.1 == l) with | some x => loadLane t x.2 | none => 0)
  | _ => match xs with | x :: _ => g.writeS d (extS t x.2) | [] => g

/-! ### Near forms (10 R165, R166) -/

/-- `ldn`. -/
def execLdn (w : ME) (s : State) : Host.Outcome State Fault Refusal :=
  runWord (.ldn w) s nothing (fun s g m =>
    match targets s g m w true 0 with
    | .error d => .trap s tAddr d
    | .ok ts =>
      match s.readAll (whoOf s g m) (bytesOf w.ty) (ts.map (fun t => t.2.addr)) with
      | (s1, none) => .ok s1
      | (s1, some bs) => .ok (s1.put (g.loaded w.ty w.d (ts.zip bs |>.map (fun x => (x.1.1, leVal x.2))))))

/-- `stn`: lanes naming one element are applied in ascending order (10 R164). -/
def execStn (w : ME) (s : State) : Host.Outcome State Fault Refusal :=
  runWord (.stn w) s nothing (fun s g m =>
    match targets s g m w true 1 with
    | .error d => .trap s tAddr d
    | .ok ts => .ok (ts.foldl (fun s t => s.nearStore t.2.addr (leBytes (bytesOf w.ty) (storeData s g w t.1))) s))

/-- The row a row form names (10 R166). -/
def rowTarget (s : State) (g : Group) (w : ME) (k : Nat) : Except W64 Nat :=
  match resolve s false true k 256 (scalarVal s g w.a) (offOf w) 0 with
  | .ok t => .ok t.addr
  | .error (r, a) => .error (addrDetail false 0 r a)

/-- `ldnr`: one access to the row. -/
def execLdnr (w : ME) (s : State) : Host.Outcome State Fault Refusal :=
  runWord (.ldnr w) s nothing (fun s g m =>
    match rowTarget s g w 0 with
    | .error d => .trap s tAddr d
    | .ok a =>
      match s.readAt (whoOf s g m) a 256 with
      | (s1, none) => .ok s1
      | (s1, some bs) => .ok (s1.put (g.writeV .n32 w.d m (fun l => leVal ((bs.drop (4 * l)).take 4)))))

/-- `stnr`: the bytes of the active lanes, as one access (10 R166). -/
def execStnr (w : ME) (s : State) : Host.Outcome State Fault Refusal :=
  runWord (.stnr w) s nothing (fun s g m =>
    match rowTarget s g w 1 with
    | .error d => .trap s tAddr d
    | .ok a =>
      let cells := (lanesOf m).flatMap (fun l => (leBytes 4 (storeData s g w l)).mapIdx (fun i x => (a + 4 * l + i, x)))
      .ok ((runsOf cells).foldl (fun s x => s.nearStore x.1 x.2) s))

/-! ### Far words (10 R168 to R171, 14 R247 to R252) -/

/-- A far word is a load or an atomic that returns a value: it counts on an arrival counter. -/
def FarKind.returns : FarKind → Bool
  | .load | .atom _ => true
  | _ => false

/-- Places of the copy engine in use (11 R196). -/
def enginePlaces (s : State) (tile : Nat) : Nat :=
  (s.far.filter (fun o => tileOf o.group == tile)).length + (s.copies.filter (fun c => c.tile == tile)).length

/-- Far words of the group in flight. -/
def farIds (s : State) (key : Nat) : List Nat := (s.far.filter (fun o => o.group == key)).map FarOp.id

/-- Those that return a value. -/
def farLoads (s : State) (key : Nat) : List Nat := (s.far.filter (fun o => o.group == key && o.kind.returns)).map FarOp.id

/-- Those whose target lies in the issuing tile's slice (10 Table 6). -/
def farOwn (s : State) (key : Nat) : List Nat :=
  (s.far.filter (fun o => o.group == key && o.els.any (fun e => e.rank.isNone && decide (slicePlace (tileOf key) 0 ≤ e.addr)
    && decide (e.addr < slicePlace (tileOf key) 0x800000)))).map FarOp.id

/-- Free response slots of the group (14 R248). -/
def freeSlots (s : State) (key : Nat) : Nat := Config.slots - (s.far.filter (fun o => o.group == key && o.slot)).length

/-- An arrival counter raised by one (02 R15). -/
def Group.landed (g : Group) (n : Nat) : Group := { g with ac := g.ac.set n (g.ac.getD n 0 + 1) }

/-- The context has used the fabric (21 R345). -/
def markFabric (s : State) (ctx : Nat) : State :=
  let c := s.ctxs.getD ctx Ctx.live
  { s with ctxs := s.ctxs.set ctx { c with fabric := true } }

/-- The word marks its context when GLOB is 1. -/
def markGlob (s : State) (g : Group) (w : ME) : State := if w.glob then markFabric s g.env.ctx else s

/-- Elements of a far word from its targets. -/
def mkEls (ts : List (Nat × Target)) (data cmp : Nat → Nat) : List El :=
  ts.map (fun t => { lane := t.1, addr := t.2.addr, rank := t.2.rank, data := data t.1, cmp := cmp t.1, performed := false, val := 0,
                     acked := false, landed := false })

/-- The routes a far word names, one for each rank. -/
def mkRoutes (ts : List (Nat × Target)) : List (Nat × Route) :=
  (ts.filterMap (fun t => match t.2.rank, t.2.route with | some r, some x => some (r, x) | _, _ => none)).eraseDups

/-- The registers a returning far word leaves open, with their values (02 R29). -/
def Group.opened (g : Group) (t : Ty) (d : Opnd) (ls : List Nat) (n : Nat) : List RegVal :=
  match d with
  | .v r => ls.flatMap (fun l =>
      ({ scalar := false, reg := r.toNat, lane := l, val := (g.vreg r.toNat l).setWidth 64, ac := n } : RegVal)
        :: (if t.wide then [{ scalar := false, reg := r.toNat + 1, lane := l, val := (g.vreg (r.toNat + 1) l).setWidth 64, ac := n }] else []))
  | .s r => if ls.isEmpty then [] else [{ scalar := true, reg := r.toNat, lane := 0, val := g.sreg r.toNat, ac := n }]
  | _ => []

/-- A far word sent to the copy engine: it waits for an engine place (10 R184) and, across a fabric, for a response slot (14 R248);
an acquire holds the later far words, a release waits for the earlier ones (10 R171). -/
def sendFar (s : State) (g : Group) (m : Mask) (w : ME) (kind : FarKind) (ts : List (Nat × Target)) (data cmp : Nat → Nat) : Res :=
  let routes := mkRoutes ts
  let slot := kind.returns && !routes.isEmpty
  if Config.copyPlaces ≤ enginePlaces s (tileOf s.cur) then .stall
  else if slot && freeSlots s s.cur == 0 then .stall
  else
    let ids := farIds s s.cur
    let rel := w.order == .rel || w.order == .acqrel
    let acq := w.order == .acq || w.order == .acqrel
    let op : FarOp :=
      { id := s.seq, group := s.cur, who := whoOf s g m, kind := kind, ty := w.ty, els := mkEls ts data cmp, dest := w.d,
        ac := if kind.returns then some w.ac.toNat else none, holds := if rel then ids else g.holds.filter (fun i => ids.contains i),
        slot := slot, routes := routes, sends := [] }
    let g' := { g with opens := if kind.returns then g.opens ++ g.opened w.ty w.d (ts.map Prod.fst) w.ac.toNat else g.opens
                       stores := if kind.returns then g.stores else g.stores + 1,
                       holds := if acq then g.holds ++ [s.seq] else g.holds }
    .ok { ((markGlob s g w).put g') with far := s.far ++ [op], seq := s.seq + 1 }

/-- A far load or atomic with an empty mask: its arrival counter is raised at once (08 R147). -/
def countEmpty (w : ME) (s : State) (g : Group) : State := (markGlob s g w).put (g.landed w.ac.toNat)

/-- A far store with an empty mask. -/
def globEmpty (w : ME) (s : State) (g : Group) : State := markGlob s g w

/-- `ldf` (10 R168). -/
def execLdf (w : ME) (s : State) : Host.Outcome State Fault Refusal :=
  runWord (.ldf w) s (countEmpty w) (fun s g m =>
    match targets s g m w false 0 with
    | .error d => .trap (markGlob s g w) tAddr d
    | .ok ts => sendFar s g m w .load ts (fun _ => 0) (fun _ => 0))

/-- `stf` (10 R169). -/
def execStf (w : ME) (s : State) : Host.Outcome State Fault Refusal :=
  runWord (.stf w) s (globEmpty w) (fun s g m =>
    match targets s g m w false 1 with
    | .error d => .trap (markGlob s g w) tAddr d
    | .ok ts => sendFar s g m w .store ts (storeData s g w) (fun _ => 0))

/-- An atomic of minors 0x0 to 0x7 (10 R173). -/
def atomWord (op : Nat) (w : ME) (s : State) (g : Group) (m : Mask) : Res :=
  match atomTargets s g m w with
  | .error d => .trap (markGlob s g w) tAddr d
  | .ok ts => sendFar s g m w (.atom op) ts (fun l => laneVal s g w.ty w.b l % 2 ^ w.ty.bits)
      (fun l => laneVal s g w.ty w.d l % 2 ^ w.ty.bits)

/-- `atom.add`. -/
def execAtomAdd (w : ME) (s : State) : Host.Outcome State Fault Refusal :=
  runWord (.atomAdd w) s (countEmpty w) (atomWord 0 w)

/-- `atom.min`. -/
def execAtomMin (w : ME) (s : State) : Host.Outcome State Fault Refusal :=
  runWord (.atomMin w) s (countEmpty w) (atomWord 1 w)

/-- `atom.max`. -/
def execAtomMax (w : ME) (s : State) : Host.Outcome State Fault Refusal :=
  runWord (.atomMax w) s (countEmpty w) (atomWord 2 w)

/-- `atom.and`. -/
def execAtomAnd (w : ME) (s : State) : Host.Outcome State Fault Refusal :=
  runWord (.atomAnd w) s (countEmpty w) (atomWord 3 w)

/-- `atom.or`. -/
def execAtomOr (w : ME) (s : State) : Host.Outcome State Fault Refusal :=
  runWord (.atomOr w) s (countEmpty w) (atomWord 4 w)

/-- `atom.xor`. -/
def execAtomXor (w : ME) (s : State) : Host.Outcome State Fault Refusal :=
  runWord (.atomXor w) s (countEmpty w) (atomWord 5 w)

/-- `atom.exch`. -/
def execAtomExch (w : ME) (s : State) : Host.Outcome State Fault Refusal :=
  runWord (.atomExch w) s (countEmpty w) (atomWord 6 w)

/-- `atom.cas`. -/
def execAtomCas (w : ME) (s : State) : Host.Outcome State Fault Refusal :=
  runWord (.atomCas w) s (countEmpty w) (atomWord 7 w)

/-- The targets of `vatom.add`: the lines are checked at the active lanes' bytes; sA + OFS must be a multiple of 128 (10 R177, 14
R250). The lowest active lane that fails gives LANE and REASON: 3 to 8 for its own bytes, then 9 with the line's address, then 1 and 2 (09 R157; log 38). -/
def vatomTargets (s : State) (g : Group) (m : Mask) (w : ME) : Except W64 (List (Nat × Target)) :=
  let b := scalarVal s g w.a
  let a := wrapN 64 ((b : Int) + offOf w)
  (lanesOf m).mapM (fun (l : Nat) =>
    match (if w.glob then resolveGlobal s 2 4 1 b (offOf w) (4 * (l : Int)) else resolveLocal s false 1 b (offOf w) (4 * (l : Int))) with
    | .error (r, x) => .error (if (3 ≤ r ∧ r ≤ 8) ∨ a % 128 = 0 then addrDetail w.glob l r x else addrDetail w.glob l 9 (a % 2 ^ 48))
    | .ok t => if a % 128 = 0 then .ok (l, t) else .error (addrDetail w.glob l 9 (a % 2 ^ 48)))

/-- The elements of a `vatom.add`: one for each lane, or the two .bf16 elements of its word, each added on its own (10 R177). -/
def vatomEls (t : Ty) (ts : List (Nat × Target)) : List (Nat × Target) :=
  if t.bits = 16 then ts.flatMap (fun x => [(2 * x.1, x.2), (2 * x.1 + 1, { x.2 with addr := x.2.addr + 2 })]) else ts

/-- What an element of a `vatom.add` adds. -/
def vatomData (s : State) (g : Group) (w : ME) (i : Nat) : Nat :=
  if w.ty.bits = 16 then fld (laneVal s g .n32 w.b (i / 2)) (16 * (i % 2)) 16 else laneVal s g .n32 w.b i

/-- `vatom.add` (10 R177). -/
def execVatomAdd (w : ME) (s : State) : Host.Outcome State Fault Refusal :=
  runWord (.vatomAdd w) s (globEmpty w) (fun s g m =>
    match vatomTargets s g m w with
    | .error d => .trap (markGlob s g w) tAddr d
    | .ok ts => sendFar s g m w .vatom (vatomEls w.ty ts) (vatomData s g w) (fun _ => 0))

/-- A reduction (14 R252). -/
def redWord (op : Nat) (w : ME) (s : State) (g : Group) (m : Mask) : Res :=
  match targets s g m w false 2 with
  | .error d => .trap (markGlob s g w) tAddr d
  | .ok ts => sendFar s g m w (.red op) ts (storeData s g w) (fun _ => 0)

/-- `red.add` (14 R252). -/
def execRedAdd (w : ME) (s : State) : Host.Outcome State Fault Refusal :=
  runWord (.redAdd w) s (globEmpty w) (redWord 0 w)

/-- `red.min` (14 R252). -/
def execRedMin (w : ME) (s : State) : Host.Outcome State Fault Refusal :=
  runWord (.redMin w) s (globEmpty w) (redWord 1 w)

/-- `red.max` (14 R252). -/
def execRedMax (w : ME) (s : State) : Host.Outcome State Fault Refusal :=
  runWord (.redMax w) s (globEmpty w) (redWord 2 w)

/-! ### Waits (10 R178, R179) -/

/-- Some of these far words are still in flight. -/
def inFlight (s : State) (ids : List Nat) : Bool := s.far.any (fun o => ids.contains o.id)

/-- (a - n) mod 2^16 lies below 2^15: a has reached n. -/
def reached (a n : Nat) : Bool := decide ((a + 2 ^ 16 - n % 2 ^ 16) % 2 ^ 16 < 2 ^ 15)

/-- The READY bits of the block's window, as a window-relative mask (11 R185). -/
def tagBits (s : State) (tile base span : Nat) : Nat :=
  (List.range span).foldl (fun a t => a + (if (s.tags.getD (tile * 64 + base + t) Tag.fresh).ready then 2 ^ t else 0)) 0

/-- A mask with the bits at and above the tag span cleared (11 R185). -/
def Group.tagMask (g : Group) (x : Nat) : Nat := x % 2 ^ g.env.tagSpan

/-- The condition of the waits of major 0x60 and of the fences; `wait.batch` also needs its report delivered (12 R229). -/
def waitHolds (s : State) (key : Nat) (g : Group) (w : Wait) : Bool :=
  match w with
  | .ac n thr => reached (g.ac.getD n 0).toNat thr
  | .tagAny m => m == 0 || (tagBits s (tileOf key) g.env.tagBase g.env.tagSpan &&& m) != 0
  | .tagAll m => (tagBits s (tileOf key) g.env.tagBase g.env.tagSpan &&& m) == m
  | .batch n => reached g.bdone.toNat n
  | .st => g.stores == 0
  | .fence ids => !inFlight s ids
  | .publish _ ids => !inFlight s ids
  | _ => false

/-- The group blocks on the word (08 R146). -/
def State.block (s : State) (g : Group) (w : Wait) : State := s.put { g with wait := some w, waitNo := s.clock }

/-- A word that waits unless its condition holds as it issues. -/
def waitWord (w : Wait) (s : State) (g : Group) : Res := if waitHolds s s.cur g w then .ok s else .ok (s.block g w)

/-- Returning far words of a group that are still to count on counter n. -/
def toCount (s : State) (key n : Nat) : Nat := (s.far.filter (fun o => o.group == key && o.ac == some n)).length

/-- The group once a `wait.ac n` has completed: the lanes its loads left open are so no longer, if it covers them: its threshold is what the counter reaches
when every load issued before it has counted. Each such lane holds the landed value, whatever was written to it since, unless a load on another counter still
leaves it open (02 R29; log 7). -/
def Group.covered (g : Group) (s : State) (key n thr : Nat) : Group :=
  if toCount s key n = 0 && (g.ac.getD n 0).toNat == thr % 2 ^ 16 then
    let opens := g.opens.filter (fun x => x.ac != n)
    let shut := g.fills.filter (fun x => x.ac == n && !x.overlaps opens)
    shut.foldl Group.putVal { g with opens := opens, view := g.view.filter (fun x => !x.overlaps shut), fills := g.fills.filter (fun x => x.ac != n) }
  else g

/-- The threshold or batch number: sA[15:0] when A is kind 01, IMM24 [15:0] otherwise (10 Table 5). -/
def thrOf (w : SY) (s : State) (g : Group) : Nat :=
  match w.a with
  | .s _ => scalarVal s g w.a % 2 ^ 16
  | _ => w.imm.toNat % 2 ^ 16

/-- `wait.ac`. -/
def execWaitAc (w : SY) (s : State) : Host.Outcome State Fault Refusal :=
  runWord (.waitAc w) s nothing (fun s g _ =>
    let n := fld w.imm.toNat 20 4
    let thr := thrOf w s g
    if waitHolds s s.cur g (.ac n thr) then .ok (s.put (g.covered s s.cur n thr)) else .ok (s.block g (.ac n thr)))

/-- `wait.any`. -/
def execWaitAny (w : SY) (s : State) : Host.Outcome State Fault Refusal :=
  runWord (.waitAny w) s nothing (fun s g _ => waitWord (.tagAny (g.tagMask (scalarVal s g w.a))) s g)

/-- `wait.all`. -/
def execWaitAll (w : SY) (s : State) : Host.Outcome State Fault Refusal :=
  runWord (.waitAll w) s nothing (fun s g _ => waitWord (.tagAll (g.tagMask (scalarVal s g w.a))) s g)

/-- The kept RESIDUE report a `wait.batch n` would deliver (12 R229). -/
def Group.report (g : Group) (n : Nat) : Option W64 :=
  match g.merr with
  | some (b, d) => if reached n b then some d else none
  | none => none

/-- `wait.batch` (12 R218, R229): a kept report of a batch at or below n is raised and cleared in place of the release. -/
def execWaitBatch (w : SY) (s : State) : Host.Outcome State Fault Refusal :=
  runWord (.waitBatch w) s nothing (fun s g _ =>
    let n := thrOf w s g
    match (if waitHolds s s.cur g (.batch n) then g.report n else none) with
    | some d => .trap (s.put { g with merr := none }) tResidue d
    | none => waitWord (.batch n) s g)

/-- `wait.st`. -/
def execWaitSt (w : SY) (s : State) : Host.Outcome State Fault Refusal :=
  runWord (.waitSt w) s nothing (fun s g _ => waitWord .st s g)

/-! ### STAT words (26 R387 kind 8) -/

/-- Nothing that was counted on the tag is outstanding: READY is set, or has been and was cleared. -/
def Tag.done (t : Tag) : Bool := t.ready || t.count == 0

/-- `ffr` (10 R180): a replay gives the logged tag once nothing is outstanding on it, whether or not a `tagclr` has cleared it since (13 R246, 26 R390). -/
def execFfr (w : SY) (s : State) : Host.Outcome State Fault Refusal :=
  runWord (.ffr w) s nothing (statAfter w.d (fun s g =>
    let m := tagBits s (tileOf s.cur) g.env.tagBase g.env.tagSpan &&& g.tagMask (scalarVal s g w.a)
    ((List.range 64).find? (fun t => bit m t)).getD 64)
    (fun s g t => decide (64 ≤ t) || (s.tags.getD (tileOf s.cur * 64 + g.env.tagBase + t) Tag.fresh).done))

/-- `acrd` (10 R181). -/
def execAcrd (w : SY) (s : State) : Host.Outcome State Fault Refusal :=
  runWord (.acrd w) s nothing (statAfter w.d (fun _ g => (g.ac.getD (fld w.imm.toNat 20 4) 0).toNat)
    (fun _ g x => reached (g.ac.getD (fld w.imm.toNat 20 4) 0).toNat x))

/-- `acwr` (10 R181). -/
def execAcwr (w : SY) (s : State) : Host.Outcome State Fault Refusal :=
  groupWord (.acwr w) s (fun s g _ => { g with ac := g.ac.set (fld w.imm.toNat 20 4) (BitVec.ofNat 16 (scalarVal s g w.a)) })

/-! ### Fences and publication (10 R182, R183) -/

/-- The far words a release at this scope waits for (10 Table 6). -/
def relIds (s : State) (sc : Nat) : List Nat := if sc ≤ 1 then farOwn s s.cur else farIds s s.cur

/-- The holds a release at GROUP or TILE leaves on later far words (10 Table 6). -/
def Group.relHolds (g : Group) (s : State) (sc : Nat) : Group := if sc ≤ 1 then { g with holds := g.holds ++ farIds s s.cur } else g

/-- The holds an acquire fence leaves. -/
def Group.acqHolds (g : Group) (s : State) : Group := { g with holds := g.holds ++ farLoads s s.cur }

/-- `fence.acq` never blocks. -/
def execFenceAcq (w : SY) (s : State) : Host.Outcome State Fault Refusal :=
  groupWord (.fenceAcq w) s (fun s g _ => g.acqHolds s)

/-- `fence.rel`. -/
def execFenceRel (w : SY) (s : State) : Host.Outcome State Fault Refusal :=
  runWord (.fenceRel w) s nothing (fun s g _ =>
    let g' := g.relHolds s w.scope.toNat
    waitWord (.fence (relIds s w.scope.toNat)) (s.put g') g')

/-- `fence.acqrel`. -/
def execFenceAcqrel (w : SY) (s : State) : Host.Outcome State Fault Refusal :=
  runWord (.fenceAcqrel w) s nothing (fun s g _ =>
    let g' := (g.relHolds s w.scope.toNat).acqHolds s
    waitWord (.fence (relIds s w.scope.toNat)) (s.put g') g')

/-- A publication handed to the I/O die (10 R183 steps 2 and 3: PUBLISH_VERSION_ADVANCE). -/
def handPublish (s : State) (w : Who) (k look : Nat) (job : Option Nat) : State :=
  manifestUpd { s with pubs := s.pubs ++ [{ ctx := w.ctx, k := k, at_ := s.clock, gid := w.gid, job := job, look := look }] } w (fun m =>
    if bit (s.reg (ctxWin w.ctx + 0x18)).toNat 0 then { m with vers := m.vers.set (w.ctx * 16 + k) (m.vers.getD (w.ctx * 16 + k) 0 + 1) } else m)

/-- `publish k` (10 R183). -/
def execPublish (w : SY) (s : State) : Host.Outcome State Fault Refusal :=
  runWord (.publish w) s nothing (fun s g m =>
    let k := w.imm.toNat % 16
    let ids := farIds s s.cur
    if inFlight s ids then .ok (s.block g (.publish k ids)) else .ok (handPublish s (whoOf s g m) k g.look none))

end Sys2Proof.Machine
end

