-- ==== Sys2Proof/Machine/Copy.lean ====
section
/-! DEFINITION. Copy tags and the copy engine's words, major 0x68 (11 R185 to R195), and the step that completes one copy sector
(11 R190 to R194). -/

namespace Sys2Proof.Machine
open Sys2Proof

/-! ### Tags (11 R185, R186) -/

/-- The physical tag a TAG field names (11 R185). -/
def Group.tagNo (g : Group) (t : Nat) : Nat := if g.env.tagSpan = 0 then 0 else t % g.env.tagSpan

/-- The block tile index of a tile (08 R135). -/
def Block.tix (b : Block) (tile : Nat) : Nat := (b.tiles.findIdx? (· == tile)).getD 0

/-- The block tile index of the current group's tile. -/
def tixOf (s : State) (g : Group) : Nat :=
  match s.blocks.get? g.env.block with
  | some b => b.tix (tileOf s.cur)
  | none => 0

/-- A copy waits on a fault entry (11 R194; 20 Table 5). -/
def faulted (s : State) (id : Nat) : Bool := s.faults.any (fun f => f.reqs.contains id)

/-- The tag status word (11 Table 3). -/
def tagWord (s : State) (block tix tag : Nat) (t : Tag) : Nat :=
  b2n (s.copies.any (fun c => c.block == block && c.tag == tag && c.tix == tix && faulted s c.id)) * 2 ^ 63 + b2n t.ready * 2 ^ 62
    + t.count % 512 * 2 ^ 32 + t.bytes % 2 ^ 32

/-- Swap slot k of a context begins here (19 R324). -/
def swapSlot (s : State) (ctx k : Nat) : Nat := fld (s.reg (ctxWin ctx)).toNat 0 48 + 0x2000000 * k

/-- On whose behalf a block's image is moved. -/
def blockWho (b : Block) (tile : Nat) : Who :=
  { agentWho b.ctx tile with epoch := b.epoch, linear := b.linear, launch := b.launch }

/-- Bytes of the swap slot of a block that is out replaced (19 R326), once the page is walked for where its translation is not held; where the tables lead nowhere
yet, an atomic of the host holds the write back, or a granule of a table is consumed, they wait. -/
def imagePut (s : State) (bid ofs : Nat) (bs : List Byte) : State :=
  match s.blocks.get? bid with
  | none => s
  | some b =>
    let t := b.tiles.headD 0
    let a := swapSlot s b.ctx b.slot + ofs
    let r := if b.owed.isEmpty then walkedPlace s (blockWho b t) t a 1 else (s, none)
    match (if heldOff r.1 t b.ctx a bs.length then none else r.2.bind (fun p => (hbmRun r.1 p bs.length).map (fun s1 => s1.write (blockWho b t) p bs))) with
    | some s1 => s1
    | none => { r.1 with blocks := r.1.blocks.set bid { b with owed := b.owed ++ [(ofs, bs)] } }

/-- A tag of a block's window: the physical tag while the block is resident, the word of its barrier image while it is out (11 R208,
19 R326). -/
def tagUpd (s : State) (block tix tag : Nat) (f : Tag → Tag) : State :=
  match s.blocks.get? block with
  | none => s
  | some b =>
    if b.out then
      let x := f (b.otags.getD (tix * 64 + tag) Tag.fresh)
      let s1 := { s with blocks := s.blocks.set block { b with otags := b.otags.set (tix * 64 + tag) x } }
      let i := tix * hSpan b.hdr + tag
      if i < 64 then imagePut s1 block (8 * i) (leBytes 8 (tagWord s1 block tix tag x)) else s1
    else
      let k := b.tiles.getD tix 0 * 64 + b.tagBases.getD tix 0 + tag
      { s with tags := s.tags.set k (f (s.tags.getD k Tag.fresh)) }

/-- A word names the tag (11 R186, steps 1 to 3). -/
def Tag.take (t : Tag) : Tag := { count := t.count + 1, ready := false, bytes := if t.count = 0 then 0 else t.bytes }

/-- Completed bytes are added, modulo 2^32. -/
def Tag.add (n : Nat) (t : Tag) : Tag := { t with bytes := (t.bytes + n) % 2 ^ 32 }

/-- What the tag counts falls by one; READY is set when it reaches 0. -/
def Tag.drop (t : Tag) : Tag := { t with count := t.count - 1, ready := t.count ≤ 1 }

/-! ### Phase barriers (11 R204, R205) -/

/-- `Settle`, on the 16 bytes as one number. -/
def settle (x : Nat) : Nat :=
  if fld x 16 16 = 0 ∧ fld x 64 32 = 0 then setFld (setFld x 63 1 (1 - fld x 63 1)) 16 16 (fld x 32 16) else x

/-- The arrival of a `bara` that announces n bytes. -/
def barArrive (n x : Nat) : Nat :=
  settle (if fld x 16 16 = 0 then setFld x 62 1 1 else setFld (setFld x 16 16 (fld x 16 16 - 1)) 64 32 (fld x 64 32 + n))

/-- A sector's bytes delivered. -/
def barSector (n x : Nat) : Nat := settle (setFld x 64 32 (fld x 64 32 + 2 ^ 32 - n % 2 ^ 32))

/-- A replay notes that the phase of a block's barrier has flipped. -/
def noteFlip (s : State) (block p x y : Nat) : State :=
  if s.ll.replay.isNone || bit x 63 == bit y 63 then s
  else
    let k := block * 2 ^ 23 + p % 2 ^ 23
    { s with ll := { s.ll with seen := { s.ll.seen with flips := s.ll.seen.flips.set k (s.ll.seen.flips.getD k 0 + 1) } } }

/-- One indivisible step of the barrier unit on the 16 bytes at a place, of a block. -/
def barStep (s : State) (w : Who) (block p : Nat) (f : Nat → Nat) : State :=
  match s.readAt w p 16 with
  | (s1, none) => s1
  | (s1, some bs) => (noteFlip s1 block p (leVal bs) (f (leVal bs))).poke p (leBytes 16 (f (leVal bs)))

/-- A sector record of a barrier image (19 R326): near address, byte sum, block tile index. -/
def recordBytes (r : Nat × Nat × Nat) : List Byte := leBytes 16 (at' r.1 0 64 + at' r.2.1 64 32 + at' r.2.2 96 2)

/-- A sector update of a block's barrier at a near address: at the slice, or in the barrier image's record (19 R326); none when a
new record is needed and 1,024 exist. -/
def sectorBar (s : State) (w : Who) (block tix a n : Nat) : Option State :=
  match s.blocks.get? block with
  | none => some s
  | some b =>
    if b.out then
      match b.orecs.findIdx? (fun r => r.1 == a && r.2.2 == tix) with
      | some i =>
        let r := b.orecs.getD i (a, 0, tix)
        some (imagePut { s with blocks := s.blocks.set block { b with orecs := b.orecs.set i (a, (r.2.1 + n) % 2 ^ 32, tix) } } block (0x2208 + 16 * i)
          (recordBytes (a, (r.2.1 + n) % 2 ^ 32, tix)))
      | none =>
        let i := b.orecs.length
        if 1024 ≤ i then none
        else
          some (imagePut (imagePut { s with blocks := s.blocks.set block { b with orecs := b.orecs ++ [(a, n % 2 ^ 32, tix)] } } block (0x2208 + 16 * i)
            (recordBytes (a, n % 2 ^ 32, tix))) block 0x2200 (leBytes 8 (i + 1)))
    else some (barStep s w block (slicePlace (b.tiles.getD tix 0) a) (barSector n))

/-! ### The words (11 R188 to R190) -/

/-- A copy command's operands (11 Table 2). -/
structure CopyArgs where
  src : Nat
  dst : Nat
  rowBytes : Nat
  rows : Nat
  sstride : Nat
  dstride : Nat
  widen : Bool
  bar : Option Nat
deriving DecidableEq, Repr

/-- The first failing byte of rows of n bytes, ascending (09 R157). -/
def rowsReason (base stride n : Nat) : Nat → Option (Nat × Nat)
  | 0 => none
  | r + 1 =>
    match rowsReason base stride n r with
    | some x => some x
    | none => rangeReason false (base + r * stride) n

/-- The checks of one range: its base, whether a field that belongs to it is misaligned, its rows. -/
def rangeCheck (base : Nat) (badField : Bool) (rows stride n : Nat) : Option (Nat × Nat) :=
  if 2 ^ 48 ≤ base then some (3, base)
  else if base % 16 ≠ 0 ∨ badField then some (9, base)
  else rowsReason base stride n rows

/-- The checks of 11 R190 in the order of 09 R157: source, destination, BAR; a misaligned length or stride is named by its base, when
no address is misaligned. -/
def copyCheck (fill : Bool) (c : CopyArgs) : Option (Nat × Nat) :=
  let len := if c.widen then 2 * c.rowBytes else c.rowBytes
  let mis := (!fill && c.src % 16 != 0) || c.dst % 16 != 0 || c.bar.any (fun b => b % 16 != 0)
  let srcBad := !mis && (c.rowBytes % 16 != 0 || c.sstride % 16 != 0)
  let dstBad := !mis && (c.dstride % 16 != 0 || (fill && c.rowBytes % 16 != 0))
  match (if fill then none else rangeCheck c.src srcBad c.rows c.sstride c.rowBytes) with
  | some x => some x
  | none =>
    match rangeCheck c.dst dstBad c.rows c.dstride len with
    | some x => some x
    | none =>
      match c.bar with
      | some b => (localReason true 16 b).map (fun r => (r, b))
      | none => none

/-- The distinct destination bytes of a copy. -/
def destBytes (rowBytes rows dstride : Nat) (widen : Bool) : Nat :=
  let len := if widen then 2 * rowBytes else rowBytes
  if rows = 0 ∨ len = 0 then 0 else if len ≤ dstride then rows * len else (rows - 1) * dstride + len

/-- A copy's destination bytes. -/
def Copy.total (c : Copy) : Nat := destBytes c.rowBytes c.rows c.dstride c.widen

/-- A copy command accepted in its issue clock, as f leaves it: the tag is taken; a copy of no bytes completes at once (11 R186, R190). -/
def startCopyAs (f : Copy → Copy) (s : State) (g : Group) (m : Mask) (kind : CopyKind) (tag : Nat) (c : CopyArgs) : Res :=
  if Config.copyPlaces ≤ enginePlaces s (tileOf s.cur) then .stall
  else
    let t := g.tagNo tag
    let s1 := tagUpd s g.env.block (tixOf s g) t Tag.take
    if destBytes c.rowBytes c.rows c.dstride c.widen = 0 then .ok (tagUpd s1 g.env.block (tixOf s g) t Tag.drop)
    else
      .ok { s1 with
        seq := s.seq + 1
        copies := s1.copies ++ [f
          { id := s.seq, gid := g.gid, who := whoOf s g m, tile := tileOf s.cur, block := g.env.block, tix := tixOf s g, kind := kind,
            tag := t, src := c.src, dst := c.dst, rowBytes := c.rowBytes, rows := c.rows, sstride := c.sstride, dstride := c.dstride,
            widen := c.widen, bar := c.bar, unit := 256, holds := g.holds.filter (fun i => (farIds s s.cur).contains i), done := [],
            bytes := 0, routes := [], sends := [], desc := 0, rstride := 0, gen := 0, space := false, own := none, marks := [], got := [] }] }

/-- A copy within the device accepted. -/
def startCopy (s : State) (g : Group) (m : Mask) (kind : CopyKind) (tag : Nat) (c : CopyArgs) : Res := startCopyAs (fun q => q) s g m kind tag c

/-- The length of `cp`, `cpfill`, `rput`, `rget`: sB[31:0], or units of 256 bytes (11 Table 1). -/
def lengthOf (s : State) (g : Group) (w : EN) : Nat :=
  match w.b with
  | .imm n => n.toInt.toNat * 256
  | _ => scalarVal s g w.b % 2 ^ 32

/-- A copy word, once its operands are known. -/
def copyWord (s : State) (g : Group) (m : Mask) (w : EN) (kind : CopyKind) (c : CopyArgs) : Res :=
  match copyCheck (match kind with | .fill _ => true | _ => false) c with
  | some (r, a) => .trap s tAddr (addrDetail false 0 r a)
  | none => startCopy s g m kind w.tag.toNat c

/-- `cp` (11 R189: a descriptor of one row). -/
def execCp (w : EN) (s : State) : Host.Outcome State Fault Refusal :=
  runWord (.cp w) s nothing (fun s g m =>
    copyWord s g m w .copy { src := scalarVal s g w.a, dst := scalarVal s g w.d, rowBytes := lengthOf s g w, rows := 1, sstride := 0,
                             dstride := 0, widen := bit w.param.toNat 16, bar := none })

/-- `cpfill`. -/
def execCpfill (w : EN) (s : State) : Host.Outcome State Fault Refusal :=
  runWord (.cpfill w) s nothing (fun s g m =>
    copyWord s g m w (.fill (BitVec.ofNat 64 (scalarVal s g w.a)))
      { src := 0, dst := scalarVal s g w.d, rowBytes := lengthOf s g w, rows := 1, sstride := 0, dstride := 0, widen := false, bar := none })

/-- The fields of a copy descriptor (11 Table 2). -/
def copyDesc (x : Nat) : CopyArgs :=
  { dst := fld x 0 64, src := fld x 64 64, rowBytes := fld x 128 32, rows := fld x 160 16, widen := bit x 176,
    sstride := fld x 192 32, dstride := fld x 224 32, bar := if bit x 177 then some (fld x 256 64) else none }

/-- A 64-byte descriptor in the near window at an address, read as a near access (11 R189, 12 R220, 14 R266). -/
def nearDesc (s : State) (w : Who) (a : Nat) : Except (Nat × Nat) (State × Option Nat) :=
  match localReason true 64 a with
  | some r => .error (r, a)
  | none =>
    match s.readAt w (slicePlace w.tile a) 64 with
    | (s1, none) => .ok (s1, none)
    | (s1, some bs) => .ok (s1, some (leVal bs))

/-- `cpd`. -/
def execCpd (w : EN) (s : State) : Host.Outcome State Fault Refusal :=
  runWord (.cpd w) s nothing (fun s g m =>
    match nearDesc s (whoOf s g m) (scalarVal s g w.a) with
    | .error (r, a) => .trap s tAddr (addrDetail false 0 r a)
    | .ok (s1, none) => .ok s1
    | .ok (s1, some x) => copyWord s1 ((s1.group?).getD g) m w .copy (copyDesc x))

/-- A page holds a byte of [a, a + n). -/
def pageIn (va a n : Nat) : Bool := decide (0 < n) && decide (a / 65536 ≤ va / 65536) && decide (va / 65536 ≤ (a + n - 1) / 65536)

/-- A copy waits on a fault of a page of [a, a + n) (23 R372). -/
def Copy.spanWaits (s : State) (c : Copy) (a n : Nat) : Bool :=
  s.faults.any (fun f => f.ctx == c.who.ctx && f.reqs.contains c.id && pageIn (f.page * 65536) a n)

/-- `tagst` (11 R195): a replay gives a logged READY once nothing is outstanding on the tag, whether or not a `tagclr` has cleared it since (13 R246, 26 R390). -/
def execTagst (w : EN) (s : State) : Host.Outcome State Fault Refusal :=
  runWord (.tagst w) s nothing (statAfter w.d (fun s g =>
    let t := g.tagNo w.tag.toNat
    tagWord s g.env.block (tixOf s g) t (s.tags.getD (tileOf s.cur * 64 + g.env.tagBase + t) Tag.fresh))
    (fun s g x => !bit x 62 || (s.tags.getD (tileOf s.cur * 64 + g.env.tagBase + g.tagNo w.tag.toNat) Tag.fresh).done))

/-- `tagclr` (11 R195). -/
def execTagclr (w : EN) (s : State) : Host.Outcome State Fault Refusal :=
  runWord (.tagclr w) s nothing (fun s g _ =>
    let m := g.tagMask (scalarVal s g w.a)
    .ok ((List.range g.env.tagSpan).foldl (fun s t =>
      if bit m t then
        let k := tileOf s.cur * 64 + g.env.tagBase + t
        let x := s.tags.getD k Tag.fresh
        if x.count = 0 then { s with tags := s.tags.set k { x with ready := false } } else s
      else s) s))

/-! ### One copy sector (11 R190 to R194) -/

/-- `Widen`: the .bf16 of equal value, NaN canonical (11 R191). -/
def widenByte (x : Nat) : Nat := (roundVal bf16 .rne (fromBits f8e4 x)).1

/-- The rows that write destination address d: how many, and the lowest. -/
def Copy.writers (c : Copy) (d : Nat) : Nat × Nat :=
  let len := if c.widen then 2 * c.rowBytes else c.rowBytes
  if d < c.dst ∨ len = 0 then (0, 0)
  else
    let o := d - c.dst
    if c.dstride = 0 then (if o < len then (c.rows, 0) else (0, 0))
    else
      let hi := min (o / c.dstride) (c.rows - 1)
      let lo := if o < len then 0 else (o - len) / c.dstride + 1
      if c.rows = 0 ∨ hi < lo ∨ len ≤ o - hi * c.dstride then (0, 0) else (hi + 1 - lo, lo)

/-- A destination byte of a sector: its address and the source address it is made from, a free choice where several rows write it (log
5). -/
def Copy.cells (c : Copy) (free b : Nat) : List (Nat × Nat) :=
  (List.range 256).filterMap (fun i =>
    let d := 256 * b + i
    let w := c.writers d
    if w.1 = 0 then none
    else
      let r := w.2 + (Config.freeByte (free + i)).toNat % w.1
      let o := d - (c.dst + r * c.dstride)
      some (d, c.src + r * c.sstride + (if c.widen then o / 2 else o)))

/-- The bytes of a sector that several rows write, with the source of each row: every row reads its own (11 R192, 23 R372). -/
def Copy.rivals (c : Copy) (b : Nat) : List (Nat × Nat) :=
  (List.range 256).flatMap (fun i =>
    let d := 256 * b + i
    let w := c.writers d
    if w.1 ≤ 1 then []
    else (List.range w.1).map (fun j =>
      let o := d - (c.dst + (w.2 + j) * c.dstride)
      (d, c.src + (w.2 + j) * c.sstride + (if c.widen then o / 2 else o))))

/-- The byte written at d from the byte read at its source. -/
def Copy.byteAt (c : Copy) (d : Nat) (x : Byte) : Byte :=
  match c.kind with
  | .fill p => BitVec.ofNat 8 (p.toNat / 2 ^ (8 * (d % 8)))
  | _ => if c.widen then BitVec.ofNat 8 (widenByte x.toNat / 2 ^ (8 * ((d - c.dst) % 2))) else x

/-- Runs of bytes written for a requester. -/
def State.writeRuns (s : State) (w : Who) (rs : List (Nat × List Byte)) : State := rs.foldl (fun s r => s.write w r.1 r.2) s

/-- The accesses to HBM4 of bytes at these places are served, each 64 bytes once (28 R407). -/
def hbmBytes (s : State) (ps : List Nat) : Option State := hbmRuns s ((((ps.filter isHbm).map (fun p => p - p % 64)).eraseDups).map (fun p => (p, 1)))

/-- The accesses of a reader come after the host atomics that have written at these places (13 R244). -/
def pastHosts (s : State) (n : Nat) (ps : List Nat) : State := ps.foldl (fun s p => s.pastHost p n) s

/-- The cells of one sector moved, the sources of `more` being read too: none while a page they touch needs a walk, an atomic of the host holds the write back, or an
access to HBM4 waits for its turn; the state alone when a source byte is consumed. -/
def moveCells (s : State) (c : Copy) (cs more : List (Nat × Nat)) : Option (State × Bool) :=
  let fill := match c.kind with | .fill _ => true | _ => false
  if cs.any (fun x => heldOff s c.tile c.who.ctx x.1 1) then none else
  match cs.mapM (fun x => placeOf s c.tile c.who.ctx x.1 1),
        (if fill then some [] else (cs ++ more).mapM (fun x => placeOf s c.tile c.who.ctx x.2 0)) with
  | some ds, some ps =>
    match hbmBytes s (ps ++ ds) with
    | none => none
    | some s0 =>
    match (pastHosts s0 1 ps).readAll c.who 1 ps with
    | (s1, none) => some (s1, false)
    | (s1, some bs) =>
      let src := if fill then cs.map (fun _ => (0 : Byte)) else bs.map (fun b => b.headD 0)
      some (s1.writeRuns c.who (runsOf ((ds.zip (cs.zip src)).map (fun x => (x.1, c.byteAt x.2.1.1 x.2.2)))), true)
  | _, _ => none

/-- A copy replaced, or taken out when it has completed on its tag (11 R186). -/
def finishCopy (s : State) (c : Copy) : State :=
  if c.total ≤ c.bytes then
    tagUpd { s with copies := s.copies.filter (fun x => x.id != c.id) } c.block c.tix c.tag Tag.drop
  else { s with copies := s.copies.map (fun x => if x.id = c.id then c else x) }

/-- The copy waits on a fault of a page that a cell touches (23 R372). -/
def Copy.waits (s : State) (c : Copy) (x : Nat × Nat) : Bool :=
  waitsFault s c.id c.who.ctx x.1 || (match c.kind with | .fill _ => false | _ => waitsFault s c.id c.who.ctx x.2)

/-- COPY_SECTOR_COMPLETE (11 R192): of copy `a`, the sector of destination block `b`; with `c` = 1 only the 8-byte pieces of `v` are
written and nothing completes (11 R192, 23 R372). A sector reads its source and writes its bytes in one step, that of its completion: 13 R234 places both between
issue and completion and does not say when (DESIGN CHOICE, log 29). -/
def execCopySectorComplete (s : State) : Host.Outcome State Fault Refusal :=
  .next (match s.copies.find? (fun c => c.id == s.inp.a) with
    | none => s
    | some c =>
      let local? := match c.kind with | .copy | .fill _ => true | _ => false
      if !local? || inFlight s c.holds || c.done.contains s.inp.b then s
      else
        let cs := c.cells s.freeCtr s.inp.b
        let more := match c.kind with | .fill _ => [] | _ => c.rivals s.inp.b
        if cs.isEmpty then s
        else if s.inp.c = 1 then
          let now (x : Nat × Nat) : Bool := bit s.inp.v.toNat (x.1 % 256 / 8) && !(cs ++ more).any (fun y => y.1 / 8 == x.1 / 8 && c.waits s y)
          match moveCells s c (cs.filter now) (more.filter now) with
          | some (s1, _) => { s1 with freeCtr := s.freeCtr + 256 }
          | none => s
        else if (cs ++ more).any (c.waits s) then s
        else
          match moveCells s c cs more with
          | none => s
          | some (s1, false) => s1
          | some (s1, true) =>
            let n := cs.length
            match (match c.bar with | some a => sectorBar s1 c.who c.block c.tix a n | none => some s1) with
            | none => s
            | some s2 =>
              let s3 := tagUpd { s2 with freeCtr := s.freeCtr + 256 } c.block c.tix c.tag (Tag.add n)
              finishCopy s3 { c with done := s.inp.b :: c.done, bytes := c.bytes + n })

end Sys2Proof.Machine
end

