-- ==== Sys2Proof/Machine/Skein.lean ====
section
/-! DEFINITION. Skeins, phase barriers and block barriers: major 0x70 and the steps of the barrier unit (11 R197 to R207). -/

namespace Sys2Proof.Machine
open Sys2Proof

/-! ### Skeins (11 R197 to R202) -/

/-- The skein a word names, as a key of the issuing tile (11 R198). -/
def skeinKey (s : State) (w : EN) : Nat := tileOf s.cur * 32 + w.index.toNat + 16 * (w.param.toNat % 2)

def Skein.none : Skein :=
  { block := 0, base := 0, entries := 1, bytes := 8, allowance := 0, reserved := 0, taken := 0, live := [], rises := 0 }

def State.skein (s : State) (k : Nat) : Skein := s.skeins.getD k Skein.none
def State.setSkein (s : State) (k : Nat) (q : Skein) : State := { s with skeins := s.skeins.set k q }

/-- The place of ring slot j mod e. -/
def Skein.slotPlace (q : Skein) (k j : Nat) : Nat := slicePlace (k / 32) (q.base + j % q.entries * q.bytes)

/-- The bytes of an entry: lanes of a vector register, active or not, as they stand; or the scalar read at issue (02 R20) and zeros (11 R199). -/
def entryBytes (g : Group) (a : Opnd) (v : W64) (n : Nat) : List Byte :=
  match a with
  | .v r => (List.range (n / 4)).flatMap (fun i => leBytes 4 (g.vreg r.toNat i).toNat)
  | _ => leBytes n v.toNat

/-- One entry reserved and written for a group (11 R199). -/
def reserve (s : State) (g : Group) (k : Nat) (a : Opnd) (v : W64) (ids : List Nat) : State :=
  let q := s.skein k
  (s.poke (q.slotPlace k q.reserved) (entryBytes g a v q.bytes)).setSkein k
    { q with allowance := q.allowance - 1, reserved := q.reserved + 1, live := q.live ++ [{ j := q.reserved, ids := ids, poppable := false }] }

/-- The groups of a tile waiting on a skein: pushes without a reservation, or pops without an entry, with the clock in which they
blocked. -/
def pushWaiters (s : State) (k : Nat) : List (Nat × Nat) :=
  s.groups.filterMap (fun x => match x.2.wait with
    | some (.qpush k' _ _ Option.none _) => if k' = k ∧ tileOf x.1 = k / 32 then some (x.2.waitNo, x.1) else Option.none
    | _ => Option.none)

def popWaiters (s : State) (k : Nat) : List (Nat × Nat) :=
  s.groups.filterMap (fun x => match x.2.wait with
    | some (.qpop k' _ _) => if k' = k ∧ tileOf x.1 = k / 32 then some (x.2.waitNo, x.1) else Option.none
    | _ => Option.none)

/-- The waiter that blocked earliest; a tie goes to the lower partition and slot (11 R201). -/
def earliest : List (Nat × Nat) → Option Nat
  | [] => Option.none
  | x :: r =>
    match earliest r with
    | Option.none => some x.2
    | some y => if r.any (fun z => z.2 == y && (decide (z.1 < x.1) || (z.1 == x.1 && decide (y < x.2)))) then some y else some x.2

/-- `qpush` (11 R199): blocked until it has reserved an entry and its release condition holds. -/
def execQpush (w : EN) (s : State) : Host.Outcome State Fault Refusal :=
  runWord (.qpush w) s nothing (fun s g _ =>
    let k := skeinKey s w
    let ids := relIds s w.scope.toNat
    let v := BitVec.ofNat 64 (scalarVal s g w.a)
    if (s.skein k).allowance = 0 ∨ !(pushWaiters s k).isEmpty then .ok (s.block g (.qpush k w.a v Option.none ids))
    else
      let j := (s.skein k).reserved
      let s1 := reserve s g k w.a v ids
      if inFlight s ids then .ok (s1.block g (.qpush k w.a v (some j) ids)) else .ok s1)

/-- The oldest entry, when it can be popped (11 R200). -/
def oldest (q : Skein) : Option SkEntry :=
  match q.live with
  | e :: _ => if e.poppable then some e else Option.none
  | [] => Option.none

/-- The take of an entry for a group (11 R200): logged in the order of takes; the group goes on in the next clock, and the bytes are on their way to D. -/
def takeEntry (s : State) (key : Nat) (g : Group) (w : Who) (k : Nat) (d : Opnd) (m : Mask) (e : SkEntry) : State :=
  let q := s.skein k
  match s.readAt w (q.slotPlace k e.j) q.bytes with
  | (s1, Option.none) => s1
  | (s1, some bs) =>
    let s2 := (logEvent s1 w 3 k e.j).setSkein k { q with taken := q.taken + 1, live := q.live.drop 1, rises := q.rises + 1 }
    { s2 with groups := s2.groups.set key { (g.released s.clock) with pops := g.pops ++ [{ d := d, m := m, bytes := bs }] } }

/-- `qpop` (11 R200): it takes the oldest entry in its issue clock when that can be popped and no other `qpop` waits, and blocks otherwise. -/
def execQpop (w : EN) (s : State) : Host.Outcome State Fault Refusal :=
  runWord (.qpop w) s nothing (fun s g m =>
    let k := skeinKey s w
    match (if (popWaiters s k).isEmpty then oldest (s.skein k) else Option.none) with
    | some e =>
      match gate s (whoOf s g m) 3 k with
      | .free => .ok (takeEntry s s.cur g (whoOf s g m) k w.d m e)
      | .wait => .stall
      | .diverge => .ok (diverged s)
    | Option.none => .ok (s.block g (.qpop k w.d m)))

/-- `qstat` (11 R202). -/
def execQstat (w : EN) (s : State) : Host.Outcome State Fault Refusal :=
  runWord (.qstat w) s nothing (statWord w.d (fun s _ =>
    let q := s.skein (skeinKey s w)
    q.allowance % 2 ^ 32 * 2 ^ 32 + (q.live.filter SkEntry.poppable).length % 2 ^ 32))

/-- `qbase`. -/
def execQbase (w : EN) (s : State) : Host.Outcome State Fault Refusal :=
  groupWord (.qbase w) s (fun s g _ => g.writeS w.d (s.skein (skeinKey s w)).base)

/-- SKEIN_RESERVE (11 R201): of skein `a`, the waiting `qpush` that blocked earliest reserves. -/
def execSkeinReserve (s : State) : Host.Outcome State Fault Refusal :=
  .next (match earliest (pushWaiters s s.inp.a) with
    | Option.none => s
    | some key =>
      match s.groups.get? key with
      | Option.none => s
      | some g =>
        match g.wait with
        | some (.qpush k a v Option.none ids) =>
          let q := s.skein k
          if q.allowance = 0 then s
          else
            let s1 := reserve s g k a v ids
            { s1 with groups := s1.groups.set key { g with wait := some (.qpush k a v (some q.reserved) ids) } }
        | _ => s)

/-- The first entry that cannot be popped becomes poppable, its release condition holding (11 R199, R200). -/
def ripen (s : State) : List SkEntry → List SkEntry
  | [] => []
  | e :: r => if e.poppable then e :: ripen s r else if inFlight s e.ids then e :: r else { e with poppable := true } :: r

/-- ENTRY_POPPABLE: on skein `a`. -/
def execEntryPoppable (s : State) : Host.Outcome State Fault Refusal :=
  .next (match s.skeins.get? s.inp.a with
    | Option.none => s
    | some q => s.setSkein s.inp.a { q with live := ripen s q.live })

/-- SKEIN_TAKE (11 R200, R201): on skein `a`, the waiting `qpop` that blocked earliest takes the oldest entry. -/
def execSkeinTake (s : State) : Host.Outcome State Fault Refusal :=
  .next (match earliest (popWaiters s s.inp.a), oldest (s.skein s.inp.a) with
    | some key, some e =>
      match s.groups.get? key with
      | Option.none => s
      | some g =>
        match g.wait with
        | some (.qpop k d m) =>
          match gate s (whoWait key g m) 3 k with
          | .free => takeEntry s key g (whoWait key g m) k d m e
          | .wait => s
          | .diverge => diverged s
        | _ => s
    | _, _ => s)

/-- The group with popped bytes in D (11 R200): active lanes below b/4, or the first 8 bytes. -/
def Group.popped (g : Group) (d : Opnd) (m : Mask) (bs : List Byte) : Group :=
  match d with
  | .v _ => g.writeV .n32 d (m &&& maskOf (fun l => decide (l < bs.length / 4))) (fun l => leVal ((bs.drop (4 * l)).take 4))
  | _ => g.writeS d (leVal (bs.take 8))

/-- QPOP_DATA: the oldest popped data on their way reach D of group `a` (11 R200). -/
def execQpopData (s : State) : Host.Outcome State Fault Refusal :=
  .next (match s.groups.get? s.inp.a with
    | some g =>
      match g.pops with
      | x :: r => { s with groups := s.groups.set s.inp.a { (g.popped x.d x.m x.bytes) with pops := r } }
      | [] => s
    | Option.none => s)

/-- ALLOWANCE_RISE: of skein `a`, two clk after a take (11 R200). -/
def execAllowanceRise (s : State) : Host.Outcome State Fault Refusal :=
  .next (match s.skeins.get? s.inp.a with
    | Option.none => s
    | some q => if q.rises = 0 then s else s.setSkein s.inp.a { q with allowance := q.allowance + 1, rises := q.rises - 1 })

/-! ### Phase barriers (11 R204, R205) -/

/-- The place of a phase barrier a word names (11 R204). -/
def barPlace (s : State) (g : Group) (o : Opnd) : Except W64 Nat :=
  let a := scalarVal s g o
  match localReason true 16 a with
  | some r => .error (addrDetail false 0 r a)
  | Option.none => .ok (slicePlace (tileOf s.cur) a)

/-- `barinit` (11 R205). -/
def execBarinit (w : EN) (s : State) : Host.Outcome State Fault Refusal :=
  runWord (.barinit w) s nothing (fun s g _ =>
    match barPlace s g w.a with
    | .error d => .trap s tAddr d
    | .ok p =>
      let n := scalarVal s g w.b % 2 ^ 16
      .ok ((noteFlip s g.env.block p (leVal (s.peek p 16)) 0).poke p (leBytes 16 (n * 2 ^ 32 + n * 2 ^ 16))))

/-- `bara`: the arrival is performed when its release condition holds (11 R205). -/
def execBara (w : EN) (s : State) : Host.Outcome State Fault Refusal :=
  runWord (.bara w) s nothing (fun s g m =>
    match barPlace s g w.a with
    | .error d => .trap s tAddr d
    | .ok p =>
      let n := scalarVal s g w.b % 2 ^ 32
      let ids := relIds s w.scope.toNat
      if inFlight s ids then .ok (s.block g (.bara p n ids)) else .ok (barStep s (whoOf s g m) g.env.block p (barArrive n)))

/-- PHASE of the barrier at a place, as the barrier unit reads it for a requester; none where the read is a consumption. -/
def phaseRead (s : State) (w : Who) (p : Nat) : State × Option Bool :=
  match s.readAt w p 8 with
  | (s1, Option.none) => (s1, Option.none)
  | (s1, some bs) => (s1, some (bit (leVal bs) 63))

/-- `barw`: blocks while PHASE equals B[0] (11 R205). -/
def execBarw (w : EN) (s : State) : Host.Outcome State Fault Refusal :=
  runWord (.barw w) s nothing (fun s g m =>
    match barPlace s g w.a with
    | .error d => .trap s tAddr d
    | .ok p =>
      let b := bit (scalarVal s g w.b) 0
      match phaseRead s (whoOf s g m) p with
      | (s1, Option.none) => .ok s1
      | (s1, some x) => if x == b then .ok (s1.block g (.barw p b)) else .ok s1)

/-- The key of a group's polls of a barrier, the flips of the barrier in this replay, and what its polls imply so far: flips, and the phase last seen. -/
def polled (s : State) (g : Group) (p x : Nat) : Nat × Nat × Nat × Bool :=
  let fl := s.ll.seen.flips.getD (g.env.block * 2 ^ 23 + p % 2 ^ 23) 0
  let key := g.gid * 2 ^ 23 + p % 2 ^ 23
  let old := s.ll.seen.polls.getD key (0, bit x 63 != (fl % 2 == 1))
  (key, fl, old)

/-- In a replay a logged poll of phase `ph` runs once the barrier has flipped as often as the group's polls up to it imply (13 R246, 26 R390); none while it has not. -/
def pollOnce (s : State) (g : Group) (p x : Nat) (ph : Bool) : Option State :=
  let r := polled s g p x
  let n := r.2.2.1 + b2n (ph != r.2.2.2)
  if r.2.1 < n then none else some { s with ll := { s.ll with seen := { s.ll.seen with polls := s.ll.seen.polls.set r.1 (n, ph) } } }

/-- `barrd`: bits [63:0] as an 8-byte near load, a STAT read (11 R205). -/
def execBarrd (w : EN) (s : State) : Host.Outcome State Fault Refusal :=
  runWord (.barrd w) s nothing (fun s g m =>
    match barPlace s g w.a with
    | .error d => .trap s tAddr d
    | .ok p =>
      match s.readAt (whoOf s g m) p 8 with
      | (s1, Option.none) => .ok s1
      | (s1, some bs) =>
        match logged? s1 (whoOf s1 g 0) 8 with
        | Option.none => statWord w.d (fun _ _ => leVal bs) s1 g m
        | some e =>
          match pollOnce s1 g p (leVal bs) (bit e.data.toNat 63) with
          | some s2 => statWord w.d (fun _ _ => leVal bs) s2 g m
          | Option.none => .stall)

/-- BARA_ARRIVAL: the arrival of the `bara` group `a` waits in (11 R205). -/
def execBaraArrival (s : State) : Host.Outcome State Fault Refusal :=
  .next (match s.groups.get? s.inp.a with
    | some g =>
      match g.wait with
      | some (.bara p n ids) =>
        if inFlight s ids then s
        else
          let s1 := barStep s (whoAt s.inp.a g 0) g.env.block p (barArrive n)
          match s1.groups.get? s.inp.a with
          | some g1 => { s1 with groups := s1.groups.set s.inp.a (g1.released s.clock) }
          | Option.none => s1
      | _ => s
    | Option.none => s)

/-! ### Block barriers (11 R206, R207) -/

/-- Lanes marked arrived on barrier k of the group's block (11 R206). -/
def markArrived (s : State) (g : Group) (k : Nat) (m : Mask) : State :=
  match s.blocks.get? g.env.block with
  | Option.none => s
  | some b =>
    let i := k * 64 + g.env.index
    { s with blocks := s.blocks.set g.env.block { b with arrived := b.arrived.set i (b.arrived.getD i 0 ||| m) } }

/-- The lanes an offset's words park, recorded until it completes. -/
def Group.recPark (g : Group) (m : Mask) (k : Nat) : Group :=
  { g with rcd := { g.rcd with parks := (lanesOf m).foldl (fun a l => Tab.set a l k) g.rcd.parks } }

/-- `barb` (11 R206): the lanes of its plane arrive once its release condition holds, and park when the offset completes. -/
def execBarb (w : EN) (s : State) : Host.Outcome State Fault Refusal :=
  runWord (.barb w) s nothing (fun s g m =>
    let k := w.index.toNat
    let ids := relIds s w.scope.toNat
    let g' := g.recPark m k
    if inFlight s ids then .ok ((s.put g').block g' (.barb k m ids)) else .ok (markArrived (s.put g') g' k m))

/-- The lanes of group i of a block that count as arrived on barrier k: arrived or exited; all of a group that has ended. -/
def arrivedLanes (s : State) (b : Block) (k i : Nat) : Mask :=
  let m := b.arrived.getD (k * 64 + i) 0
  match b.keys.getD i Option.none with
  | some key => match s.groups.get? key with | some g => m ||| g.exited | Option.none => allLanes
  | Option.none => match b.saved.get? i with | some g => m ||| g.exited | Option.none => allLanes

/-- Barrier k of a block is complete: every lane of every group has arrived or exited, and no group is still inside the offset that
parks its lanes on k. -/
def barrierDone (s : State) (b : Block) (k : Nat) : Bool :=
  (List.range b.keys.length).all (fun i => arrivedLanes s b k i == allLanes)
    && (List.range b.keys.length).any (fun i => b.arrived.getD (k * 64 + i) 0 != 0)
    && b.keys.all (fun x => match x with
        | some key => (match s.groups.get? key with | some g => parkedOn g.rcd.parks k == 0 && (g.frame.all (fun f => parkedOn f.rcd.parks k == 0)) | Option.none => true)
        | Option.none => true)

/-- The lanes of the groups of a block parked on k go on; in a handler a spill of the path table ends the context (19 R311). -/
def departAll (s : State) (bid k : Nat) : State :=
  ((s.groups.filter (fun x => x.2.env.block == bid)).map Prod.fst).eraseDups.foldl (fun s key =>
    match s.groups.get? key with
    | Option.none => s
    | some g0 =>
      let g := g0.depart s.clock k
      if g0.env.block ≠ bid then s
      else if g.frame.isSome && g.paths.any (fun e => decide (16 ≤ e.idx)) then endContext s g.env.ctx stKilled Option.none
      else s.respill key g0 g) s

/-- BLOCK_BARRIER_COMPLETE: barrier `b` of block `a` (11 R207): its arrived bits are cleared and its parked lanes go on. While groups of the block have left for
its swap slot it does not complete (log 34). -/
def execBlockBarrierComplete (s : State) : Host.Outcome State Fault Refusal :=
  .next (match s.blocks.get? s.inp.a with
    | Option.none => s
    | some b =>
      let k := s.inp.b
      if b.out || !b.saved.isEmpty || !barrierDone s b k then s
      else
        departAll { s with blocks := s.blocks.set s.inp.a { b with arrived := b.arrived.filter (fun x => x.1 / 64 != k) } } s.inp.a k)

end Sys2Proof.Machine
end

