-- ==== Sys2Proof/Machine/Matrix.lean ====
section
/-! DEFINITION. The matrix unit: gauge records, commands, batches, accumulators, major 0x78, and the steps of the needle bed and the
conversion path (12 R210 to R230). -/

namespace Sys2Proof.Machine
open Sys2Proof

/-! ### Groups by identity -/

/-- The key of a resident group by its identity. -/
def keyOf (s : State) (gid : Nat) : Option Nat := (s.groups.find? (fun x => x.2.gid == gid)).map Prod.fst

/-- The matrix status word (12 Table 5). -/
def matrixStatus (s : State) (g : Group) : Nat :=
  b2n g.merr.isSome * 2 ^ 63 + g.nerr % 128 * 2 ^ 56 + (s.mats.filter (fun c => c.gid == g.gid)).length % 256 * 2 ^ 40
    + g.bopen.toNat * 2 ^ 16 + g.bdone.toNat

/-- A group changed where it is: resident, or swapped out with its block; of a swapped-out group the matrix status and the kept report stand in its image
too (12 R230, 19 R326). -/
def updGid (s : State) (gid : Nat) (f : Group → Group) : State :=
  match s.groups.find? (fun x => x.2.gid == gid) with
  | some (k, g) => { s with groups := s.groups.set k (f g) }
  | none =>
    match s.blocks.get? (gid / 64) with
    | some b =>
      match b.saved.get? (gid % 64) with
      | some g =>
        let s1 := { s with blocks := s.blocks.set (gid / 64) { b with saved := b.saved.set (gid % 64) (f g) } }
        imagePut s1 (gid / 64) (0x8030 + 0x11000 * (gid % 64))
          (leBytes 8 (matrixStatus s1 (f g)) ++ leBytes 8 (match (f g).merr with | some x => x.2.toNat | none => 0))
      | none => s
    | none => s

/-! ### Gauge records (12 R213, R214, R220) -/

/-- A record no `gset` has loaded: 12 Table 2 gives its fields no reset value; 0, with M = N = 1 (DESIGN CHOICE, log 4). -/
def Gauge.fresh : Gauge :=
  { valid := false, inuse := 0, m := 1, n := 1, steps := 0, bord := 0, abase := 0, bbase := 0, astride := 0, bstride := 0, cstride := 0,
    cexp := 0 }

def Group.gauge (g : Group) (k : Nat) : Gauge := g.gauges.getD k Gauge.fresh

/-- The fields of a gauge descriptor (12 Table 2); INUSE is kept. -/
def gaugeOf (x inuse : Nat) : Gauge :=
  { valid := true, inuse := inuse, abase := BitVec.ofNat 64 (fld x 0 64), bbase := BitVec.ofNat 64 (fld x 64 64), astride := fld x 128 32,
    bstride := fld x 160 32, cstride := fld x 192 32, steps := fld x 224 16, cexp := sext 16 (fld x 240 16), m := fld x 256 7 + 1,
    n := fld x 264 7 + 1, bord := fld x 271 1 }

/-- The detail word of MATRIX (12 Table 6). -/
def matrixDetail (g : Group) (k : Nat) : W64 :=
  BitVec.ofNat 64 (2 ^ 56 + k % 16 * 2 ^ 52 + (if g.common then 0 else g.plane % 8) * 2 ^ 41 + g.ofs % 2 ^ 32)

/-- `gset` (12 R220). -/
def execGset (w : EN) (s : State) : Host.Outcome State Fault Refusal :=
  runWord (.gset w) s nothing (fun s g m =>
    match nearDesc s (whoOf s g m) (scalarVal s g w.a) with
    | .error (r, a) => .trap s tAddr (addrDetail false 0 r a)
    | .ok (s1, none) => .ok s1
    | .ok (s1, some x) => .ok (s1.put { g with gauges := g.gauges.set w.index.toNat (gaugeOf x (g.gauge w.index.toNat).inuse) }))

/-- One field of a record replaced by f of its old value (12 R220): ABASE, BBASE, STEPS, CEXP. -/
def Gauge.modify (r : Gauge) (field : Nat) (f : Nat → Nat) : Gauge :=
  match field with
  | 0 => { r with abase := BitVec.ofNat 64 (f r.abase.toNat) }
  | 1 => { r with bbase := BitVec.ofNat 64 (f r.bbase.toNat) }
  | 2 => { r with steps := f r.steps % 2 ^ 16 }
  | _ => { r with cexp := sext 16 (f (wrapN 16 r.cexp)) }

/-- `gmod` (12 R220). -/
def execGmod (w : EN) (s : State) : Host.Outcome State Fault Refusal :=
  runWord (.gmod w) s nothing (fun s g _ =>
    let k := w.index.toNat
    if !(g.gauge k).valid then .trap s tMatrix (matrixDetail g k)
    else
      let x := scalarVal s g w.a
      .ok (s.put { g with gauges := g.gauges.set k ((g.gauge k).modify (w.param.toNat % 8) (fun y => if bit w.param.toNat 3 then y + x else x)) }))

/-- `ginv`. -/
def execGinv (w : EN) (s : State) : Host.Outcome State Fault Refusal :=
  groupWord (.ginv w) s (fun _ g _ => { g with gauges := g.gauges.set w.index.toNat { (g.gauge w.index.toNat) with valid := false } })

/-- The value `gget` writes (12 R220). -/
def Gauge.read (r : Gauge) (field : Nat) : Nat :=
  match field with
  | 0 => r.abase.toNat
  | 1 => r.bbase.toNat
  | 2 => r.steps
  | 3 => wrapN 64 r.cexp
  | _ => r.inuse

/-- `gget`: INUSE is a STAT read. -/
def execGget (w : EN) (s : State) : Host.Outcome State Fault Refusal :=
  runWord (.gget w) s nothing (fun s g m =>
    let k := w.index.toNat
    let field := w.param.toNat % 8
    if !(g.gauge k).valid then .trap s tMatrix (matrixDetail g k)
    else if field = 4 then statAfter w.d (fun _ g => (g.gauge k).read 4) (fun _ g x => decide ((g.gauge k).read 4 ≤ x)) s g m
    else .ok (s.put (g.writeS w.d ((g.gauge k).read field))))

/-! ### Commands (12 R215, R216, R221, R223) -/

/-- Step depth by input type (12 Table 1). -/
def stepDepth (t : Ty) : Nat := if t == .f8e4 then 64 else 32

/-- Bytes of an accumulator element. -/
def accBytes (t : Ty) : Nat := if t.fullAcc then 4 else 2

/-- The accumulator type of an ACC code (12 R219). -/
def accTy (n : Nat) : Ty := match n with | 0 => .f32 | 1 => .bf16 | 2 => .f16 | _ => .rn24

/-- Gauge-buffer stage of an `mma` (12 R216). -/
def stageBytes (m n k z : Nat) : Nat := roundUp (2 * (m + n) * k * z) 1024

/-- A free queue entry and free stage bytes on a tile (12 R216). -/
def queueRoom (s : State) (tile stage : Nat) : Bool :=
  let ms := s.mats.filter (fun c => c.tile == tile)
  decide (ms.length < Config.matEntries) && decide ((ms.map MatCmd.stage).foldl (· + ·) 0 + stage ≤ Config.gaugeBytes)

/-- The power state of a tile in the present round: a new round begins at level 0 with nothing spent (28 R402, R403). -/
def powerOf (s : State) (tile : Nat) : Pow :=
  let p := s.power.getD tile Pow.idle
  let r := s.clock / 1650
  if p.round = r then p else { Pow.idle with round := r }

/-- The level of 28 Table 3 for a running count. Until the end of a round has given the tiles allowances there is none to exceed (log 21). -/
def levelFor (s : State) (tile e : Nat) : Nat :=
  let a := (s.allow.getD tile 0).toNat
  if s.pwrDone.isNone ∨ e < a then 0 else if e < a + a / 8 then 1 else 2

/-- The throttle level of a tile (28 R403): that of the running count it is known to have reached; with an allowance of 0, which every count has reached, level 2 from
the second clock of the round on. -/
def throttle (s : State) (tile : Nat) : Nat :=
  if s.clock % 1650 = 0 then (powerOf s tile).level else max (powerOf s tile).level (levelFor s tile 0)

/-- A command accepted as it issues: INUSE rises, the open batch is its batch, its acceptance is logged (12 R214, R216, R218). -/
def accept (s : State) (g : Group) (m : Mask) (k : Nat) (c : MatCmd) : Res :=
  let r := g.gauge k
  let s1 := logEvent s (whoOf s g m) 4 (tileOf s.cur) 0
  .ok { (s1.put { g with gauges := g.gauges.set k { r with inuse := r.inuse + 1 } }) with mats := s.mats ++ [c], seq := s.seq + 1 }

/-- The fields every command has. -/
def baseCmd (s : State) (g : Group) (m : Mask) (k j : Nat) (full : Bool) : MatCmd :=
  let r := g.gauge k
  { id := s.seq, gid := g.gid, who := whoOf s g m, tile := tileOf s.cur, block := g.env.block, batch := g.bopen, conv := false, rcd := k,
    half := g.env.accBase + j, full := full, m := r.m, n := r.n, steps := 0, abase := r.abase.toNat, bbase := r.bbase.toNat,
    astride := r.astride, bstride := r.bstride, bord := r.bord, ty := .none, acc := .none, rm := .rne, zero := false, dst := 0,
    cstride := r.cstride, dty := .none, exp := r.cexp, stage := 0, holds := g.holds.filter (fun i => (farIds s s.cur).contains i),
    started := false, step := 0, row := 0, bbuf := [], faulted := false }

/-- The operand checks of an `mma`, A before B (12 R221, 09 R157). -/
def mmaCheck (r : Gauge) (sN z k : Nat) : Option (Nat × Nat) :=
  let mis := r.abase.toNat % 16 != 0 || r.bbase.toNat % 16 != 0
  match rangeCheck r.abase.toNat (!mis && r.astride % 16 != 0) (if sN = 0 then 0 else r.m) r.astride (sN * k * z) with
  | some x => some x
  | none =>
    if r.bord = 0 then rangeCheck r.bbase.toNat (!mis && r.bstride % 16 != 0) (sN * k) r.bstride (r.n * z)
    else rangeCheck r.bbase.toNat (!mis && r.bstride % 16 != 0) (if sN = 0 then 0 else r.n) r.bstride (sN * k * z)

/-- `mma` (12 R221): the word issues only while the queue has room (12 R216), before any of its checks. -/
def execMma (w : EN) (s : State) : Host.Outcome State Fault Refusal :=
  runWord (.mma w) s nothing (fun s g m =>
    let k := w.index.toNat
    let p := w.param.toNat
    let r := g.gauge k
    let sN := if fld p 0 7 = 0 then r.steps else fld p 0 7
    let depth := stepDepth w.ty
    let z := bytesOf w.ty
    let acc := accTy (fld p 7 2)
    let st := stageBytes r.m r.n depth z
    if !queueRoom s (tileOf s.cur) st || decide (1 ≤ throttle s (tileOf s.cur)) then .stall
    else if !r.valid then .trap s tMatrix (matrixDetail g k)
    else
      match mmaCheck r sN z depth with
      | some (x, a) => .trap s tAddr (addrDetail false 0 x a)
      | none => accept s g m k { (baseCmd s g m k (fld p 9 4) acc.fullAcc) with
                                steps := sN, ty := w.ty, acc := acc, rm := RM.ofCode (fld p 13 3), zero := bit p 16, stage := st })

/-- `mmconv` (12 R223): B holds the accumulator tile, the record and the scope. -/
def execMmconv (w : CV) (s : State) : Host.Outcome State Fault Refusal :=
  runWord (.mmconv w) s nothing (fun s g m =>
    let b := w.b.idx
    let k := fld b 4 4
    let r := g.gauge k
    let dst := scalarVal s g w.a
    if !queueRoom s (tileOf s.cur) 0 || decide (1 ≤ throttle s (tileOf s.cur)) then .stall
    else if !r.valid then .trap s tMatrix (matrixDetail g k)
    else
      match rangeCheck dst (dst % 16 == 0 && r.cstride % 16 != 0) r.m r.cstride (r.n * bytesOf w.dty) with
      | some (x, a) => .trap s tAddr (addrDetail false 0 x a)
      | none => accept s g m k { (baseCmd s g m k (b % 16) w.ty.fullAcc) with
                                conv := true, acc := w.ty, rm := w.rm, dst := dst, dty := w.dty, exp := r.cexp + w.scale.toInt })

/-- `mmfence` (12 R222). -/
def execMmfence (w : EN) (s : State) : Host.Outcome State Fault Refusal :=
  groupWord (.mmfence w) s (fun _ g _ => { (g.writeS w.d g.bopen.toNat) with bopen := g.bopen + 1 })

/-- The byte of the accumulator store where lane l's 4 bytes of part q begin (12 R224). -/
def partOfs (g : Group) (j z q l : Nat) : Nat :=
  let rb := 128 * z
  (g.env.accBase + j) * 32768 + (if 256 ≤ rb then q / (rb / 256) % 128 * rb + q % (rb / 256) * 256 + 4 * l else q % 128 * rb + 4 * l)

/-- The part number of `mmrd`, `mmwr` for a lane: sB[7:0]. Where B is a special register whose value differs by lane, each lane takes its own (12 R224 speaks of one
part number; DESIGN CHOICE, log 28). -/
def partNo (s : State) (g : Group) (b : Opnd) (l : Nat) : Nat := laneVal s g .n32 b l % 256

/-- `mmrd` (12 R224, 16 R290). -/
def execMmrd (w : EN) (s : State) : Host.Outcome State Fault Refusal :=
  runWord (.mmrd w) s nothing (fun s g m =>
    let at? (l : Nat) : Nat := accPlace (tileOf s.cur) (partOfs g (fld w.param.toNat 9 4) (accBytes w.ty) (partNo s g w.b l) l)
    match s.readAll (whoOf s g m) 4 ((lanesOf m).map at?) with
    | (s1, none) => .ok s1
    | (s1, some bs) =>
      let xs := (lanesOf m).zip (bs.map leVal)
      .ok (s1.put (g.writeV .n32 w.d m (fun l => match xs.find? (fun x => x.1 == l) with | some x => x.2 | none => 0))))

/-- `mmwr` (12 R224): 4 bytes for each active lane. DESIGN CHOICE (log 22): each is a write of a part of its 8-byte granule, so that an uncorrected error there stays,
also where two lanes cover the granule together; 27 R396 does not say. -/
def execMmwr (w : EN) (s : State) : Host.Outcome State Fault Refusal :=
  runWord (.mmwr w) s nothing (fun s g m =>
    .ok ((lanesOf m).foldl (fun s l =>
      s.poke (accPlace (tileOf s.cur) (partOfs g (fld w.param.toNat 9 4) (accBytes w.ty) (partNo s g w.b l) l))
        (leBytes 4 (laneVal s g .n32 w.a l))) s))

/-- `mmstat` (12 R225). -/
def execMmstat (w : EN) (s : State) : Host.Outcome State Fault Refusal :=
  runWord (.mmstat w) s nothing (statAfter w.d matrixStatus (fun _ g x => reached g.bdone.toNat (x % 2 ^ 16)))

/-! ### The needle bed and the conversion path (12 R217, R221, R228) -/

/-- Half-slots a command names. -/
def MatCmd.halves (c : MatCmd) : List Nat := if c.full then [c.half, c.half + 1] else [c.half]

/-- The command may start: earlier commands of its group and on its half-slots have completed, and what holds it has (12 R217, R227). -/
def mayStart (s : State) (c : MatCmd) : Bool :=
  !inFlight s c.holds && s.mats.all (fun d => decide (c.id ≤ d.id) || !(d.gid == c.gid || (d.tile == c.tile && d.halves.any (fun h => c.halves.contains h))))

/-- The bed or path of its kind on its tile performs another command. -/
def bedBusy (s : State) (c : MatCmd) : Bool :=
  s.mats.any (fun d => d.id != c.id && d.tile == c.tile && d.conv == c.conv && d.started && !d.faulted)

def setMat (s : State) (c : MatCmd) : State := { s with mats := s.mats.map (fun d => if d.id = c.id then c else d) }
def findMat (s : State) (id : Nat) : Option MatCmd := s.mats.find? (fun c => c.id == id)

/-- The place of accumulator element (i, n). -/
def MatCmd.accAt (c : MatCmd) (i n : Nat) : Nat := accPlace c.tile (c.half * 32768 + (128 * i + n) * accBytes c.acc)

/-- MATRIX_START: command `a` starts, or resumes at its row progress, when it may, the unit is free and no older command of its kind
that may start waits; an `mma.z` zeroes its region (12 R217, R221). -/
def execMatrixStart (s : State) : Host.Outcome State Fault Refusal :=
  .next (match findMat s s.inp.a with
    | none => s
    | some c =>
      let idle (d : MatCmd) : Bool := !d.started || d.faulted
      if !idle c || !mayStart s c || bedBusy s c || faulted s c.id
          || s.mats.any (fun d => d.tile == c.tile && d.conv == c.conv && decide (d.id < c.id) && idle d && mayStart s d && !faulted s d.id) then s
      else
        let s1 := if c.zero ∧ c.started = false then
            (List.range c.m).foldl (fun s i => s.poke (c.accAt i 0) (List.replicate (c.n * accBytes c.acc) 0)) s
          else s
        setMat s1 { c with started := true, faulted := false })

/-- Addresses of b[kk][n] of a step, row by row (12 R215). -/
def MatCmd.bAddrs (c : MatCmd) : List Nat :=
  let k := stepDepth c.ty
  let z := bytesOf c.ty
  (List.range k).flatMap (fun kk => (List.range c.n).map (fun n =>
    if c.bord = 0 then c.bbase + (c.step * k + kk) * c.bstride + n * z else c.bbase + n * c.bstride + (c.step * k + kk) * z))

/-- Addresses of a[i][kk] of the row in progress. -/
def MatCmd.aAddrs (c : MatCmd) : List Nat :=
  let k := stepDepth c.ty
  (List.range k).map (fun kk => c.abase + c.row * c.astride + (c.step * k + kk) * bytesOf c.ty)

/-- The operand addresses the command needs next: B at the start of a step, then A of its row; the destination row of a conversion. -/
def MatCmd.needs (c : MatCmd) : List Nat :=
  if c.conv then (List.range c.n).map (fun n => c.dst + c.row * c.cstride + n * bytesOf c.dty)
  else if c.bbuf.isEmpty then c.bAddrs else c.aAddrs

/-- Elements read on behalf of a command: none while a page needs a walk, or an access to HBM4 waits for its turn. -/
def readElems (s : State) (c : MatCmd) (as : List Nat) : Option (State × Option (List Nat)) :=
  match as.mapM (fun a => placeOf s c.tile c.who.ctx a 0) with
  | none => none
  | some ps =>
    (hbmBytes s ps).map (fun s0 =>
      match (pastHosts s0 (bytesOf c.ty) ps).readAll c.who (bytesOf c.ty) ps with
      | (s1, none) => (s1, none)
      | (s1, some bs) => (s1, some (bs.map leVal)))

/-- One element of a row-step: the exact sum of the products added to the accumulator and rounded once, or the four channels (12 R221,
03 R48, R51, R52). -/
def macElem (c : MatCmd) (acc : Nat) (a b : List Nat) : Nat :=
  if c.acc == .rn24 then (a.zip b).foldl (fun x y => rn24Mac x y.1 y.2) acc
  else
    (sumRound (fmtOf c.acc) c.rm (fromBits (fmtOf c.acc) acc ::
      (a.zip b).map (fun y => (mulVal (fromBits (fmtOf c.ty) y.1) (fromBits (fmtOf c.ty) y.2)).1))).1

/-- Column n of B of the step as it was read. -/
def MatCmd.column (c : MatCmd) (n : Nat) : List Nat := (List.range (stepDepth c.ty)).map (fun kk => c.bbuf.getD (kk * c.n + n) 0)

/-- The place of an 8-byte granule of the stage of a command in the gauge buffer (27 Table 1). -/
def stagePart (id i : Nat) : Nat := id * 2 ^ 20 + i

/-- A latent error lies in the stage of the command. -/
def Flaw.inStage (f : Flaw) (id : Nat) : Bool := f.unit == 4 && f.place / 2 ^ 20 == id

/-- The needle bed reads the operands of a command out of its stage: a granule with a worse error is consumed, single ones are corrected and counted (27 R395,
R396; where in its stage an operand lies is not stated: every granule of the stage counts as read, log 22). -/
def stageRead (s : State) (c : MatCmd) : State × Bool :=
  match s.flaws.find? (fun f => f.inStage c.id && f.worse) with
  | some f => (consumeAt s c.who 4 f.place 0 f.syn, false)
  | none =>
    let hit := s.flaws.filter (fun f => f.inStage c.id)
    (hit.foldl (fun s _ => countCorrected s 4) { s with flaws := s.flaws.filter (fun f => !f.inStage c.id) }, true)

/-- B of the step read, or one row computed. -/
def rowStep (s : State) (c : MatCmd) : State :=
  if c.bbuf.isEmpty then
    match readElems s c c.bAddrs with
    | none => s
    | some (s1, none) => s1
    | some (s1, some bs) => setMat s1 { c with bbuf := bs }
  else
    match readElems s c c.aAddrs with
    | none => s
    | some (s1, none) => s1
    | some (s1, some as) =>
      match s1.readAll c.who (accBytes c.acc) ((List.range c.n).map (fun n => c.accAt c.row n)) with
      | (s2, none) => s2
      | (s2, some old) =>
        let row := (List.range c.n).flatMap (fun n => leBytes (accBytes c.acc) (macElem c (leVal (old.getD n [])) as (c.column n)))
        let s3 := s2.poke (c.accAt c.row 0) row
        setMat s3 (if c.row + 1 = c.m then { c with step := c.step + 1, row := 0, bbuf := [] } else { c with row := c.row + 1 })

/-- MMA_ROW_STEP: command `a` reads B of its step, or computes one row (12 R221); a tile over its allowance starts no row (28 R403). -/
def execMmaRowStep (s : State) : Host.Outcome State Fault Refusal :=
  .next (match findMat s s.inp.a with
    | none => s
    | some c =>
      if c.conv || !c.started || c.faulted || decide (c.steps ≤ c.step) || decide (1 ≤ throttle s c.tile) then s
      else
        match stageRead s c with
        | (s1, true) => rowStep s1 c
        | (s1, false) => s1)

/-- A command taken out of the queue: INUSE falls (12 R214), its entry and stage are free. -/
def retire (s : State) (c : MatCmd) : State :=
  updGid { s with mats := s.mats.filter (fun d => d.id != c.id), flaws := s.flaws.filter (fun f => !f.inStage c.id) } c.gid (fun g =>
    let r := g.gauge c.rcd
    { g with gauges := g.gauges.set c.rcd { r with inuse := r.inuse - 1 } })

/-- The accumulator windows of a block that is out are written to its swap slot once its last accepted command has completed (12 R230, 19 R324); they wait
while a page needs a walk, and a bad granule is consumed (27 R396). -/
def flushAcc (s : State) (bid : Nat) : State :=
  match s.blocks.get? bid with
  | none => s
  | some b =>
    if !b.out || !b.accDue || s.mats.any (fun c => c.block == bid) then s
    else
      let n := 32768 * hAcc b.hdr
      let w := blockWho b (b.tiles.headD 0)
      let r := (List.range b.tiles.length).foldl (fun r i =>
        match r with
        | some (s, true) =>
          let t := b.tiles.getD i 0
          match s.readAt w (accPlace t (32768 * b.accBases.getD i 0)) n with
          | (s1, none) => some (s1, false)
          | (s1, some bs) => (State.writeVia s1 w t (swapSlot s b.ctx b.slot + 0x800000 + 0x80000 * i) bs).map (fun s2 => (s2, true))
        | r => r) (some (s, true))
      match r with
      | some (s1, true) => { s1 with blocks := s1.blocks.set bid { b with accDue := false } }
      | some (s1, false) => s1
      | none => s

/-- MMA_COMPLETE: command `a` has performed its steps (12 R221). -/
def execMmaComplete (s : State) : Host.Outcome State Fault Refusal :=
  .next (match findMat s s.inp.a with
    | some c => if !c.conv && c.started && !c.faulted && decide (c.steps ≤ c.step) then flushAcc (retire s c) c.block else s
    | none => s)

/-- A value scaled by 2^e, exactly. -/
def scaleVal (x : FVal) (e : Int) : FVal := match x with | .fin n m q => .fin n m (q + e) | y => y

/-- The converted element (12 R223). -/
def convElem (c : MatCmd) (w : Nat) : Nat :=
  if c.acc == .rn24 then
    let x := (rn24Decode w).1
    if c.dty == .rn24 then rn24Reduce w
    else if c.dty == .i32 then wrapN 32 x
    else (roundVal (fmtOf c.dty) c.rm (.fin (decide (x < 0)) x.natAbs c.exp)).1
  else (roundVal (fmtOf c.dty) c.rm (scaleVal (fromBits (fmtOf c.acc) w) c.exp)).1

/-- The elements of the tile region of a conversion, in ascending row and column. -/
def MatCmd.region (c : MatCmd) : List (Nat × Nat) := (List.range c.m).flatMap (fun i => (List.range c.n).map (fun n => (i, n)))

/-- The first element of the tile region whose check fails (12 R223), with its word; nothing is found where reading the region is a consumption. -/
def badElem (s : State) (c : MatCmd) : State × Option (Option (Nat × Nat × Nat)) :=
  match s.readAll c.who 4 (c.region.map (fun x => c.accAt x.1 x.2)) with
  | (s1, none) => (s1, none)
  | (s1, some ws) =>
    (s1, some ((c.region.zip (ws.map leVal)).findSome? (fun x => if (rn24Decode x.2).2 then none else some (x.1.1, x.1.2, x.2))))

/-- A RESIDUE report kept for its `wait.batch`, or counted when one is kept already (12 R229). -/
def keepReport (s : State) (c : MatCmd) (i n w : Nat) : State :=
  let d := residueDetail 1 c.tile c.batch.toNat i n (wrapN 64 ((rn24Decode w).1 % 251)) (w / 2 ^ 24 % 256 % 251)
  updGid s c.gid (fun g =>
    match g.merr with
    | none => { g with merr := some (c.batch.toNat, d) }
    | some _ => { g with nerr := if g.nerr < 127 then g.nerr + 1 else g.nerr })

/-- Rows of a conversion written from its progress on, at most `n` of them, stopping at a row that needs a walk (12 R223, R228), that an atomic of the host holds back
(13 R244), or whose accesses to HBM4 wait for their turn. DESIGN CHOICE (log 28): an .rn24 row converts the words that stand as it is written, without their check,
and not those of the first pass, where an `mmwr` has changed them in between. -/
def convRows (s : State) (c : MatCmd) : Nat → State × MatCmd
  | 0 => (s, c)
  | k + 1 =>
    if c.m ≤ c.row then (s, c)
    else
      match (if c.needs.any (fun a => heldOff s c.tile c.who.ctx a (bytesOf c.dty)) then none else c.needs.mapM (fun a => placeOf s c.tile c.who.ctx a 1)) with
      | none => (s, c)
      | some ps =>
        match hbmBytes s ps with
        | none => (s, c)
        | some s0 =>
        match s0.readAll c.who (accBytes c.acc) ((List.range c.n).map (fun n => c.accAt c.row n)) with
        | (s1, none) => (s1, c)
        | (s1, some old) =>
          let cells := (ps.zip old).flatMap (fun x =>
            let bs := leBytes (bytesOf c.dty) (convElem c (leVal x.2))
            (List.range bs.length).map (fun i => (x.1 + i, bs.getD i 0)))
          convRows (s1.writeRuns c.who (runsOf cells)) { c with row := c.row + 1 } k

/-- MMCONV_COMPLETE: conversion `a` writes its next `b` rows (all of them for 0) and completes after the last; an .rn24 tile with a failed
check writes nothing and leaves a report (12 R223, R229). -/
def execMmconvComplete (s : State) : Host.Outcome State Fault Refusal :=
  .next (match findMat s s.inp.a with
    | none => s
    | some c =>
      if !c.conv || !c.started || c.faulted then s
      else
        match (if c.acc == .rn24 && c.row == 0 then badElem s c else (s, some none)) with
        | (s1, none) => s1
        | (s1, some (some (i, n, w))) => flushAcc (retire (keepReport s1 c i n w) c) c.block
        | (s1, some none) =>
          let r := convRows s1 c (if s.inp.b = 0 then c.m else s.inp.b)
          if r.2.m ≤ r.2.row then flushAcc (retire r.1 r.2) c.block else setMat r.1 r.2)

/-- MATRIX_FAULT_WAIT: command `a` waits on a translation fault at its row progress and frees its unit (12 R217, R228). -/
def execMatrixFaultWait (s : State) : Host.Outcome State Fault Refusal :=
  .next (match findMat s s.inp.a with
    | some c => if c.started && faulted s c.id then setMat s { c with faulted := true } else s
    | none => s)

/-- Batch n of a group: closed, its commands complete, its predecessor complete (12 R218); no batch of a context that has ended completes (12 R228). -/
def batchReady (s : State) (gid : Nat) (g : Group) : Bool :=
  (s.ctxs.getD g.env.ctx Ctx.live).status == 0 && g.bdone + 1 != g.bopen && !s.mats.any (fun c => c.gid == gid && c.batch == g.bdone + 1)

/-- BATCH_COMPLETE: DONE of group `a` (its identity) rises by one (12 R218); for a block that is out, in the group's image (19 R326). -/
def execBatchComplete (s : State) : Host.Outcome State Fault Refusal :=
  .next (updGid s s.inp.a (fun g => if batchReady s s.inp.a g then { g with bdone := g.bdone + 1 } else g))

end Sys2Proof.Machine
end

