-- ==== Sys2Proof/Machine/Path.lean ====
section
/-! DEFINITION. What happens between offsets: the completion of an offset (05 R88), loop buffers
(05 R97, 20 R339), stops (15 R284 to R286), the pre-emption taken there (19 R310), and the events OFFSET_COMPLETE,
HANDLER_ELIGIBLE and INSTRUCTION_FETCH. -/

namespace Sys2Proof.Machine
open Sys2Proof

/-! ### Stops -/

/-- The stops an offset's completion causes: entries holding a lane of a `bkpt` (15 R284), and a stepped entry (15 R286). An entry that two `bkpt` words hold makes
one stop, with the code of its lowest such lane (log 20). DESIGN CHOICE (log 20): a stepped entry whose lanes a `bkpt` of its offset holds as well, or that merges into
an entry that is held, makes no stop of code 0xFF beside that one; R286 does not say which stop it makes. -/
def completionStops (s : State) (key : Nat) (old : Group) : State :=
  match s.groups.get? key with
  | none => s
  | some g =>
    let s1 := g.paths.foldl (fun s e =>
      match (lanesOf e.lanes).findSome? (fun l => old.rcd.stops.get? l) with
      | some c => stopEntry s key e 2 c
      | none => s) s
    match old.run? with
    | some e =>
      if e.step then
        match s1.groups.get? key with
        | none => s1
        | some g1 =>
          match g1.paths.find? (fun x => some x.ofs == old.successor && !x.held) with
          | some x => stopEntry s1 key x 2 0xFF
          | none => s1
      else s1
    | none => s1

/-! ### Loop buffers (05 R97, 20 R339) -/

/-- The words of a body: one for a common offset, else one for each captured plane; none while one cannot be fetched. -/
def bodyWords (s : State) (key : Nat) (g : Group) (planes : List Nat) (t : Nat) : Nat → Option (List (Nat × Nat × Nat))
  | 0 => some []
  | n + 1 =>
    match bodyWords s key g planes (t + 1) n with
    | none => none
    | some rest =>
      match fetchAt s key g 0 t with
      | .word w =>
        if carriesCommon w then some ((t, 0, w) :: rest)
        else
          (planes.mapM (fun k => match fetchAt s key g k t with | .word x => some (t, k, x) | _ => none)).map (fun ws =>
            ws ++ (if planes.contains 0 then [] else [(t, 0, w)]) ++ rest)
      | _ => none

/-- The number of buffer words a body takes; plane 0's word is kept for its COMMON bit even where plane 0 is not captured. -/
def bodySize (planes : List Nat) (ws : List (Nat × Nat × Nat)) : Nat :=
  (ws.filter (fun x => planes.contains x.2.1 || carriesCommon x.2.2)).length

/-- A hold that has ended is dropped: the path left the body or occupies a plane that was not captured (05 R97). -/
def loopCheck (s : State) (key : Nat) : State :=
  match s.loops.get? (key / 16), s.groups.get? key with
  | some b, some g =>
    if b.group ≠ key then s
    else
      match g.run? with
      | some e =>
        if e.ofs < b.first ∨ b.last < e.ofs ∨ !((g.planesOf e.lanes).all (fun k => b.planes.contains k)) then
          { s with loops := s.loops.erase (key / 16) }
        else s
      | none => if g.ended then { s with loops := s.loops.erase (key / 16) } else s
  | some b, none => if b.group = key then { s with loops := s.loops.erase (key / 16) } else s
  | none, _ => s

/-- After the completion of offset o: a stale buffer goes at a backward branch into its body (20 R339); a body that fits is captured where the buffer has no holder
(05 R97), unless one of its words has still to be fetched (log 36). -/
def loopAfter (s : State) (key o : Nat) (branched : List Nat) : State :=
  match s.groups.get? key with
  | none => loopCheck s key
  | some g =>
    match g.run? with
    | none => loopCheck s key
    | some e =>
      let back := decide (e.ofs ≤ o) && branched.contains e.ofs
      let s1 := match s.loops.get? (key / 16) with
        | some b => if b.group = key ∧ b.stale ∧ back ∧ b.first ≤ e.ofs then { s with loops := s.loops.erase (key / 16) } else s
        | none => s
      let s2 := loopCheck s1 key
      if back && (s2.loops.get? (key / 16)).isNone && decide (o + 1 - e.ofs ≤ 48) then
        let planes := g.planesOf e.lanes
        match bodyWords s2 key { g with pre := [] } planes e.ofs (o + 1 - e.ofs) with
        | some ws =>
          if bodySize planes ws ≤ 48 then
            { ws.foldl (fun s x => fetchCorrect s key { g with pre := [] } x.2.1 x.1) s2 with loops := s2.loops.set (key / 16) { group := key, first := e.ofs, last := o, planes := planes, words := ws, stale := false } }
          else s2
        | none => s2
      else s2

/-! ### Taking PREEMPT (19 R310, R311) -/

/-- A group saved by force stops where it stands (19 R321): its save mask is everything, no PREEMPT stays pending, and it is inside the span of any handler
it was in (22 R360). -/
def Group.force (g : Group) : Group :=
  { g with saveMask := 2 ^ 16 + (2 ^ ((g.env.vregs + 15) / 16) - 1), forced := true, leaving := true, preempt := false, qhandler := false }

/-- PREEMPT taken between offsets: the resume point is the next offset of the running path, with no word; a group with no path that can run is saved by force
(19 R320). -/
def takePreempt (s : State) (key : Nat) (g : Group) : State :=
  let h := if g.run?.isNone then g.force else { (g.enter s.clock tPreempt 0 true false g.pathLanes) with preempt := false, qhandler := false }
  { s with groups := s.groups.set key h }

/-- A group whose offset has completed: its end when no lane is left (05 R93), its stops, breakpoints, a pending PREEMPT (19 R309: a breakpoint comes
first). -/
def offsetDone (s : State) (key : Nat) : State :=
  match s.groups.get? key with
  | none => s
  | some g =>
    let o := g.ofs
    let r := g.complete
    let g1 := r.1.moved s.clock r.2
    if g1.frame.isSome && g1.paths.any (fun e => decide (16 ≤ e.idx)) then endContext s g.env.ctx stKilled none
    else if g1.paths.isEmpty then
      loopCheck { s with groups := s.groups.set key { g1 with ended := true, frame := none, preempt := false, wait := none } } key
    else
      let s0 := s.respill key g g1
      if stopped s0 key g then s0
      else
      let s1 := completionStops s0 key g
      let s2 := checkBreaks (loopAfter s1 key o (g.rcd.next.map Prod.snd)) key 64
      match s2.groups.get? key with
      | none => s2
      | some g2 => if g2.preempt && g2.frame.isNone && !g2.ended then takePreempt s2 key g2 else s2

/-- OFFSET_COMPLETE: of group `a`, once every word of its offset has issued and none blocks it. -/
def execOffsetComplete (s : State) : Host.Outcome State Fault Refusal :=
  .next (match s.groups.get? s.inp.a with
    | some g => if g.todo == some [] && g.wait.isNone && g.redo.isNone && !g.ended then offsetDone s s.inp.a else s
    | none => s)

/-- HANDLER_ELIGIBLE: the first word of group `a` in a handler, or after one, may issue 8 clk after the trap or the `rte` (19 R310,
R316). -/
def execHandlerEligible (s : State) : Host.Outcome State Fault Refusal :=
  .next (match s.groups.get? s.inp.a with
    | some g => if g.busy = 2 ∧ g.ready ≤ s.clock then { s with groups := s.groups.set s.inp.a { g with busy := 0 } } else s
    | none => s)

/-! ### The next word of a group -/

/-- The words of an offset about to issue, but for those that `rte.skip` passed over there (19 R316). -/
def Group.listed (g : Group) (common : Bool) (ks : List Nat) : Group :=
  { g with common := common, todo := some (g.unskipped g.ofs ks), skips := if g.skips.any (fun x => x.1 == g.ofs) then none else g.skips }

/-- The group with the words of its running offset listed (04 R73, 05 R85): the planes whose words still issue, and whether plane 0's word
is common. None while plane 0's word cannot be fetched; where its fetch is a consumption, the word is listed, and issuing it halts the group (27 R397). -/
def beginOffset (s : State) (key : Nat) (g : Group) : Option Group :=
  match g.todo with
  | some _ => some g
  | none =>
    match codeReason g 0 g.ofs with
    | some _ => some (g.listed false (g.planesOf g.pathLanes))
    | none =>
      match fetchAt s key g 0 g.ofs with
      | .word w =>
        some (if carriesCommon w then g.listed true [0] else g.listed false (g.planesOf g.pathLanes))
      | .gone _ => some (g.listed true [0])
      | .wait => none

/-- Plane 0's word of an offset about to be listed is read, for its COMMON bit (04 R73): single errors in it are corrected and counted (27 R395). -/
def headRead (s : State) (key : Nat) (g : Group) : State :=
  if g.todo.isNone && (codeReason g 0 g.ofs).isNone then fetchCorrect s key g 0 g.ofs else s

/-- The group with its next word taken: its plane is the word's, and the later planes' words remain. -/
def Group.takeWord (g : Group) : Group :=
  match g.todo with
  | some (k :: r) => { g with plane := k, todo := some r }
  | _ => g

/-! ### Fetching ahead (20 R328, 13 R241) -/

/-- INSTRUCTION_FETCH: for group `a`, the word of plane `b` at offset `c` is read through the fetch path into its tile's instruction cache,
and with `d` = 1 also into the group's prefetched words; a refused address raises ADDR when the word issues. -/
def execInstructionFetch (s : State) : Host.Outcome State Fault Refusal :=
  .next (match s.groups.get? s.inp.a with
    | none => s
    | some g =>
      let k := s.inp.b % 8
      let o := s.inp.c % max g.env.stride 1
      if g.ended ∨ (codeReason g k o).isSome then s
      else
        let t := tileOf s.inp.a
        let a := g.codeAddr k o
        let w := whoAt s.inp.a g 0
        match fetchPiece s w a, fetchPiece s w (a + 4), fetchPiece s w (a + 8) with
        | .word x, .word y, .word z =>
          if [a, a + 4, a + 8].any (waitsFault s (fetchReq s.inp.a) g.env.ctx) then s else
          let line := [(a, x), (a + 4, y), (a + 8, z)].map (fun c => ({ tile := t, ctx := g.env.ctx, va := c.1, val := BitVec.ofNat 32 c.2 } : ICell))
          let keep := s.icache.filter (fun c => !line.any (fun d => d.tile == c.tile && d.ctx == c.ctx && d.va == c.va))
          let g1 := if s.inp.d = 1 then
              { g with pre := (o, k, x + 2 ^ 32 * y + 2 ^ 64 * z) :: g.pre.filter (fun p => !(p.1 == o && p.2.1 == k)) } else g
          { (fetchCorrect s s.inp.a { g with pre := [] } k o) with icache := line ++ keep, groups := s.groups.set s.inp.a g1 }
        | .gone s1, _, _ => s1
        | _, .gone s1, _ => s1
        | _, _, .gone s1 => s1
        | _, _, _ => s)

end Sys2Proof.Machine
end

