-- ==== Sys2Proof/Machine/System.lean ====
section
/-! DEFINITION. Major 0x90: traps and contexts (19 R313 to R319), translation and code (20 R336 to R338), grace periods (22 R365 to R370), and the
steps that belong to them: GRACE_ELAPSE, CASTOFF_RETURN, DFREE_APPEND, ICINV_COMPLETE. -/

namespace Sys2Proof.Machine
open Sys2Proof

/-! ### Traps (19) -/

/-- `trap k` (19 R314). -/
def execTrap (w : SY) (s : State) : Host.Outcome State Fault Refusal :=
  runWord (.trap w) s nothing (fun s _ _ => .trap s tUser (BitVec.ofNat 64 (w.imm.toNat % 256)))

/-- The resume point of a frame as `.resume` gives it. -/
def Frame.resume (f : Frame) : Nat := f.ofs % 2 ^ 22 + f.plane % 8 * 2 ^ 24 + b2n f.noword * 2 ^ 32

/-- The field `tinfo` writes (19 R315); 0 outside a handler. -/
def trapInfo (s : State) (g : Group) (f : Nat) : Nat :=
  match g.frame with
  | none => 0
  | some x =>
    match f with
    | 0 => x.kind + b2n g.preempt * 256
    | 1 => x.detail.toNat
    | 2 => x.resume
    | 3 => x.lanes.toNat
    | _ => match g.budget with | some e => e - s.clock | none => 0

/-- `tinfo.f`: `.budget` is a STAT read. -/
def execTinfo (f : BitVec 3) (w : SY) (s : State) : Host.Outcome State Fault Refusal :=
  runWord (.tinfo f w) s nothing (fun s g m =>
    if f = 4 then statWord w.d (fun s g => trapInfo s g 4) s g m else .ok (s.put (g.writeS w.d (trapInfo s g f.toNat))))

/-- A PREEMPT that is pending at an `rte` is taken at once (19 R311), after a breakpoint that the resumed offset meets (19 R309): the resume point is the word
the group would issue next, or the next offset with no word where the `rte.skip` completed one. Where that word has still to be fetched, the plane is the lowest
one the path occupies, past those that `rte.skip` passed over (log 26). -/
def preemptAtRte (s0 : State) (g0 : Group) : State :=
  let s := headRead (if g0.todo.isNone then checkBreaks (s0.put g0) s0.cur 64 else s0.put g0) s0.cur g0
  match s.group? with
  | none => s
  | some g =>
    if g.run?.isNone then s.put g.force
    else
      match beginOffset s s.cur g with
      | none =>
        let g2 := { g with plane := (g.unskipped g.ofs (g.planesOf g.pathLanes)).headD 0, common := false }
        s.put { (g2.enter s.clock tPreempt 0 false true g.pathLanes) with preempt := false, qhandler := false }
      | some g1 =>
        if g1.todo == some [] then offsetDone (s.put g1) s.cur
        else
          let g2 := { g1.takeWord with skips := g.skips }
          s.put { (g2.enter s.clock tPreempt 0 false g.todo.isNone g.pathLanes) with preempt := false, qhandler := false }

/-- `rte` and `rte.skip` (19 R316, R311): outside a handler a `nop`. What the table waited for acts now where no offset is in progress. -/
def returnWord (skip : Bool) (s : State) (g : Group) : Res :=
  match g.frame with
  | none => .ok s
  | some f =>
    let g0 := g.leave f s.clock skip
    let g1 := if g0.todo.isNone then g0.settleLate else g0
    let s1 := s.respill s.cur g g1
    .ok (if g1.preempt && !stopped s1 s.cur g then preemptAtRte s1 ((s1.group?).getD g1) else s1)

/-- `rte`. -/
def execRte (w : SY) (s : State) : Host.Outcome State Fault Refusal := runWord (.rte w) s nothing (fun s g _ => returnWord false s g)

/-- `rte.skip`. -/
def execRteSkip (w : SY) (s : State) : Host.Outcome State Fault Refusal := runWord (.rteSkip w) s nothing (fun s g _ => returnWord true s g)

/-- The group is in the handler of a PREEMPT. -/
def Group.inPreempt (g : Group) : Bool := match g.frame with | some f => f.kind == tPreempt | none => false

/-- `save m` (19 R317). -/
def execSave (w : SY) (s : State) : Host.Outcome State Fault Refusal :=
  groupWord (.save w) s (fun _ g _ => if g.inPreempt then { g with saveMask := g.saveMask ||| (w.imm.toNat % 2 ^ 17) } else g)

/-- The pre-emption that raised the group's PREEMPT is in progress (19 R318): one is raised for its block, and it is not the one still
pending. -/
def yieldBlocks (s : State) (g : Group) : Bool :=
  g.inPreempt && !g.preempt && (match s.blocks.get? g.env.block with | some b => b.raised.isSome | none => false)

/-- `yield` (19 R318). -/
def execYield (w : SY) (s : State) : Host.Outcome State Fault Refusal :=
  runWord (.yield w) s nothing (fun s g _ => .ok (if yieldBlocks s g then s.block { g with leaving := true } .yield else s))

/-! ### Posting work (19 R319, 18 R308) -/

/-- The registers of a queue (18 Table 4). -/
def queueWin (q : Nat) : Nat := 0x1000 + 32 * q

def qctl (s : State) (q : Nat) : Nat := (s.reg (queueWin q + 8)).toNat

/-- Slots of a queue's ring; queue 48 holds 65,536 task records (18 Table 5). -/
def ringSlots (s : State) (q : Nat) : Nat := if q = 48 then 65536 else 2 ^ fld (qctl s q) 0 5

def qstOf (s : State) (q : Nat) : Qst := s.queues.getD q Qst.fresh

/-- What a posting answers: 0 appended, 1 ring full, 2 not enabled or another context's. -/
def postResult (s : State) (ctx q n : Nat) : Nat :=
  if !bit (qctl s q) 63 ∨ fld (qctl s q) 8 8 ≠ ctx then 2 else if ringSlots s q < (qstOf s q).used + n then 1 else 0

/-- A record of n 64-byte blocks appended to a queue: QTAIL rises, its slots are taken, and it can be taken once its ids have completed. -/
def appendPost (s : State) (w : Who) (q n : Nat) (bs : List Byte) (ids : List Nat) : State :=
  let st := qstOf s q
  let tail := s.reg (queueWin q + 0x18)
  let s1 := logEvent s w 5 q tail.toNat
  let p : Post := { queue := q, bytes := bs, slot := st.wslot, ids := ids, who := w }
  let took (x : Qst) : Qst := { x with wslot := (x.wslot + n) % ringSlots s q, used := x.used + n }
  manifestUpd { (s1.setReg (queueWin q + 0x18) (tail + 1)) with posts := s1.posts ++ [p], queues := s1.queues.set q (took st) } w
    (fun m => { m with posts := m.posts ++ [{ p with ids := [] }], rings := m.rings.set q (took (m.rings.getD q Qst.fresh)),
                       queues := m.queues.map (fun x => if x.1 = queueWin q + 0x18 then (x.1, x.2 + 1) else x) })

/-- The record at sA in the near window: its bytes, or the ADDR detail word (19 R319). -/
def nearRecord (s : State) (w : Who) (a : Nat) (sized : Bool) : Except W64 (State × Option (List Byte)) :=
  match localReason true 64 a with
  | some r => .error (addrDetail false 0 r a)
  | none =>
    match s.readAt w (slicePlace w.tile a) 64 with
    | (s1, none) => .ok (s1, none)
    | (s1, some h) =>
      let x := leVal h
      let n := if sized then 64 * (1 + fld x 117 2 + fld x 112 5) else 64
      match rangeReason true a n with
      | some (r, b) => .error (addrDetail false 0 r b)
      | none => .ok (s1.readAt w (slicePlace w.tile a) n)

/-- What a posting answers; during a replay what it answered, once the queue has room for a record that was appended (26 R390). -/
def postAnswer (s : State) (g : Group) (q n : Nat) : Option Nat :=
  let r := postResult s g.env.ctx q n
  match logged? s (whoOf s g 0) 8 with
  | some e => if e.data = 0 ∧ r ≠ 0 then none else some e.data.toNat
  | none => some r

/-- `launch` and `tpost`: read, append, and write the answer, a STAT value. -/
def postWord (q : Nat) (sized : Bool) (w : SY) (s : State) (g : Group) (m : Mask) : Res :=
  let who := whoOf s g m
  match nearRecord s who (scalarVal s g w.a) sized with
  | .error d => .trap s tAddr d
  | .ok (s1, none) => .ok s1
  | .ok (s1, some bs) =>
    let n := bs.length / 64
    match postAnswer s1 g q n with
    | none => .stall
    | some 0 =>
      if s1.records who && s1.ll.replay.isNone && !roomFor s1 2 then .stall
      else match gate s1 who 5 q with
      | .wait => .stall
      | .diverge => .ok (diverged s1)
      | .free => statWord w.d (fun _ _ => 0) (appendPost s1 who q n bs (farIds s1 s1.cur)) ((s1.group?).getD g) m
    | some r => statWord w.d (fun _ _ => r) s1 ((s1.group?).getD g) m

/-- `launch` to queue 32 + q. -/
def execLaunch (w : SY) (s : State) : Host.Outcome State Fault Refusal :=
  runWord (.launch w) s nothing (postWord (32 + w.imm.toNat % 16) true w)

/-- `tpost` to queue 48. -/
def execTpost (w : SY) (s : State) : Host.Outcome State Fault Refusal :=
  runWord (.tpost w) s nothing (postWord 48 false w)

/-! ### Translation and code (20 R336 to R338) -/

/-- Steps 3 and 4 of 20 R337 for a context, in one tile or everywhere; a walk of this model takes one step and is never in flight. -/
def flushXlate (s : State) (ctx : Nat) (tile : Option Nat) : State :=
  match tile with
  | some t => { s with trans := s.trans.filter (fun x => !(x.ctx == ctx && x.tile == t)) }
  | none => { s with trans := s.trans.filter (fun x => x.ctx != ctx), walks := s.walks.filter (fun x => x.ctx != ctx) }

/-- Some of these invalidations have not completed. -/
def icPending (s : State) (ids : List Nat) : Bool := s.icinvs.any (fun c => ids.contains c.id)

/-- The release of a `tfence` of the group with this key: the translations of its instance go, and its prefetched words. -/
def tfenceRelease (s : State) (key : Nat) (g : Group) (dev : Bool) : State :=
  let s1 := flushXlate s g.env.ctx (if dev then none else some (tileOf key))
  { s1 with groups := s1.groups.set key { g with wait := none, pre := [] } }

/-- `tfence`. -/
def execTfence (w : SY) (s : State) : Host.Outcome State Fault Refusal :=
  runWord (.tfence w) s nothing (fun s g _ =>
    let ids := farIds s s.cur
    let ics := (s.icinvs.filter (fun c => c.group == g.gid)).map IcInv.id
    let dev := decide (2 ≤ w.scope.toNat)
    .ok (if inFlight s ids || icPending s ics then s.block g (.tfence dev ids ics) else tfenceRelease s s.cur g dev))

/-- `icinv`. -/
def execIcinv (w : SY) (s : State) : Host.Outcome State Fault Refusal :=
  runWord (.icinv w) s nothing (fun s g _ =>
    let a := scalarVal s g w.a
    let n := scalarVal s g w.b
    if 2 ^ 48 ≤ a then .trap s tAddr (addrDetail false 0 3 a)
    else if 2 ^ 48 ≤ a + n then .trap s tAddr (addrDetail false 0 3 (a + n))
    else if n = 0 then .ok s
    else
      .ok { s with seq := s.seq + 1
                   icinvs := s.icinvs ++ [{ id := s.seq, group := g.gid, tile := tileOf s.cur, dev := decide (2 ≤ w.scope.toNat), lo := a, len := n }] })

/-- A captured word of a loop buffer holds a byte of [lo, lo + len). -/
def loopCovers (s : State) (b : LoopBuf) (lo len : Nat) : Bool :=
  match s.groups.get? b.group with
  | some g => b.words.any (fun w => let a := g.codeAddr w.2.1 w.1; decide (a < lo + len) && decide (lo < a + 12))
  | none => false

/-- The code bytes of [lo, lo + len) invalidated in one tile or everywhere (20 R338): the lines of 128 bytes that hold one go, and the words that groups have
fetched ahead; loop buffers that hold one become stale. -/
def invalidate (s : State) (tile : Option Nat) (lo len : Nat) : State :=
  let here (t : Nat) : Bool := match tile with | some x => t == x | none => true
  let hit (a n : Nat) : Bool := decide (a < lo + len) && decide (lo < a + n)
  { s with
    icache := s.icache.filter (fun x => !(here x.tile && hit (x.va - x.va % 128) 128))
    groups := s.groups.map (fun x => if here (tileOf x.1) then (x.1, { x.2 with pre := x.2.pre.filter (fun w => !hit (x.2.codeAddr w.2.1 w.1) 12) }) else x)
    loops := s.loops.map (fun x => if here (x.1 / 4) && loopCovers s x.2 lo len then (x.1, { x.2 with stale := true }) else x) }

/-- ICINV_COMPLETE: `b` = 0: invalidation `a` (its id) has reached the tiles of its scope. `b` = 1: the service cores' own, of `d` bytes from address `c` on, in
every tile (20 R344). -/
def execIcinvComplete (s : State) : Host.Outcome State Fault Refusal :=
  .next (if s.inp.b = 1 then invalidate s none s.inp.c s.inp.d
    else
      match s.icinvs.find? (fun c => c.id == s.inp.a) with
      | none => s
      | some c => invalidate { s with icinvs := s.icinvs.filter (fun x => x.id != c.id) } (if c.dev then none else some c.tile) c.lo c.len)

/-! ### Grace periods (22) -/

/-- A far word leaves flight: waits, quiescent points and posts that needed it may take the present clock (22 R360, R367, R368). -/
def latch (s : State) : State :=
  { s with
    groups := s.groups.map (fun x =>
      let g := x.2
      let g1 := match g.wait with
        | some (.grace ids none l) => if inFlight s ids then g else { g with wait := some (.grace ids (some s.clock) l) }
        | some (.dfree d obj k ids none l) => if inFlight s ids then g else { g with wait := some (.dfree d obj k ids (some s.clock) l) }
        | _ => g
      (x.1, if g1.qpend.any (fun ids => !inFlight s ids) then
              { g1 with quiet := some s.clock, qpend := g1.qpend.filter (fun ids => inFlight s ids) } else g1))
    castoffs := s.castoffs.map (fun c => if c.since.isNone && !inFlight s c.ids then { c with since := some s.clock } else c) }

/-- A far word taken out of flight. -/
def dropFar (s : State) (id : Nat) : State := latch { s with far := s.far.filter (fun o => o.id != id) }

/-- `quiesce` (22 R366). -/
def execQuiesce (w : SY) (s : State) : Host.Outcome State Fault Refusal :=
  groupWord (.quiesce w) s (fun s g _ =>
    let ids := farIds s s.cur
    let g1 := { g with qhandler := g.qhandler || g.inPreempt }
    if ids.isEmpty then { g1 with quiet := some s.clock } else { g1 with qpend := g1.qpend ++ [ids] })

/-- `grace.wait` (22 R367). -/
def execGraceWait (w : SY) (s : State) : Host.Outcome State Fault Refusal :=
  runWord (.graceWait w) s nothing (fun s g m =>
    let ids := farIds s s.cur
    .ok (s.block g (.grace ids (if ids.isEmpty then some s.clock else none) (lowLane m))))

/-- The register of allocator k of a context (22 R364). -/
def allocWin (ctx k : Nat) : Nat := 0x8000 + 128 * ctx + 8 * k

/-- The groups blocked in `dfree`, with the clock in which they blocked. -/
def dfreeWaiters (s : State) : List (Nat × Nat) :=
  s.groups.filterMap (fun x => match x.2.wait with | some (.dfree _ _ _ _ _ _) => some (x.2.waitNo, x.1) | _ => none)

/-- A cast-off entry posted for a requester: its start clock where it is known, else the far words it waits for. -/
def castOff (s : State) (w : Who) (k : Nat) (obj : W64) (ids : List Nat) (since : Option Nat) : State :=
  let c : Cast := { who := w, k := k, obj := obj, ids := ids, since := since, list := none, prog := 0, head := 0 }
  manifestUpd { s with castoffs := s.castoffs ++ [c] } w (fun m => { m with castoffs := m.castoffs ++ [c] })

/-- A cast-off entry is gone, returned or discarded. -/
def castGone (s : State) (e : Cast) : State :=
  manifestUpd { s with castoffs := s.castoffs.erase e } e.who (fun m => { m with castoffs := m.castoffs.filter (fun c => !(c.who == e.who && c.obj == e.obj)) })

/-- `dfree` (22 R368); a replay answers what was logged (26 R390). -/
def execDfree (w : SY) (s : State) : Host.Outcome State Fault Refusal :=
  runWord (.dfree w) s nothing (fun s g m =>
    let a := scalarVal s g w.a
    let k := w.imm.toNat % 16
    let al := (s.reg (allocWin g.env.ctx k)).toNat
    let link := a + 8 * fld al 48 8
    let ids := farIds s s.cur
    let since := if ids.isEmpty then some s.clock else none
    if 2 ^ 48 ≤ a then .trap s tAddr (addrDetail false 0 3 a)
    else if a % 8 ≠ 0 then .trap s tAddr (addrDetail false 0 9 a)
    else
      match localReason false 8 link with
      | some r => .trap s tAddr (addrDetail false 0 r link)
      | none =>
        let refused := match logged? s (whoOf s g 0) 8 with | some e => e.data != 0 | none => !bit al 63
        if refused then statWord w.d (fun _ _ => 2) s g m
        else if Config.castoffMax ≤ s.castoffs.length || !(dfreeWaiters s).isEmpty then
          .ok (s.block g (.dfree w.d (BitVec.ofNat 64 a) k ids since (lowLane m)))
        else statWord w.d (fun _ _ => 0) (castOff s (whoOf s g m) k (BitVec.ofNat 64 a) ids since) g m)

/-- DFREE_APPEND: the `dfree` that blocked earliest appends once an entry is free, and writes sD (22 R368). -/
def execDfreeAppend (s : State) : Host.Outcome State Fault Refusal :=
  .next (if Config.castoffMax ≤ s.castoffs.length then s
    else
      match earliest (dfreeWaiters s) with
      | none => s
      | some key =>
        match s.groups.get? key with
        | none => s
        | some g =>
          match g.wait with
          | some (.dfree d obj k ids since l) =>
            let w := { whoWait key g 0 with lane := l }
            match postGate s w with
            | .wait => s
            | .diverge => diverged s
            | .free =>
              let s1 := logEvent (castOff s w k obj ids since) w 8 0 0
              { s1 with groups := s1.groups.set key ((g.writeS d 0).released s.clock) }
          | _ => s)

/-- The group passes a quiescent point at or after c (22 R360); `out` when it is swapped out. -/
def pointAfter (g : Group) (c : Nat) (out : Bool) : Bool :=
  g.still || (match g.quiet with | some q => decide (c ≤ q) || (out && g.qhandler) | none => false)
    || (match g.wait with | some (.grace _ _ _) => true | _ => false)

/-- The group holds open a period of its context that began at c. -/
def holdsOpen (g : Group) (ctx c : Nat) (out : Bool) : Bool := g.env.ctx == ctx && decide (g.env.born ≤ c) && !pointAfter g c out

/-- A swapped-out group holds open a period. -/
def outHolds (s : State) (ctx c : Nat) : Bool := s.blocks.any (fun x => x.2.saved.any (fun y => holdsOpen y.2 ctx c true))

/-- A period of the context that began at c has elapsed (22 R361). -/
def elapsed (s : State) (ctx c : Nat) : Bool := s.groups.all (fun x => !holdsOpen x.2 ctx c false) && !outHolds s ctx c

/-- The start clocks of the periods a waiter or a cast-off entry of a context needs. -/
def periods (s : State) (ctx : Nat) : List Nat :=
  s.groups.filterMap (fun x => match x.2.wait with | some (.grace _ (some c) _) => if x.2.env.ctx = ctx then some c else none | _ => none)
    ++ s.castoffs.filterMap (fun e => if e.who.ctx = ctx then e.since else none)

/-- The grace status word (22 Table 4). -/
def graceStatus (s : State) (g : Group) : Nat :=
  let ctx := g.env.ctx
  b2n ((periods s ctx).any (fun c => outHolds s ctx c)) * 2 ^ 63
    + at' (s.groups.filter (fun x => x.2.env.ctx == ctx && (match x.2.wait with | some (.grace _ _ _) => true | _ => false))).length 32 16
    + at' (s.castoffs.filter (fun e => e.who.ctx == ctx)).length 16 13 + at' s.castoffs.length 0 13

/-- `gracest` (22 R370). -/
def execGracest (w : SY) (s : State) : Host.Outcome State Fault Refusal :=
  runWord (.gracest w) s nothing (statWord w.d graceStatus)

/-- GRACE_ELAPSE: the `grace.wait` of group `a` is released once its period has elapsed (22 R361, R362; its order is logged, R371). The
last clock in which it was blocked is a quiescent point. -/
def execGraceElapse (s : State) : Host.Outcome State Fault Refusal :=
  .next (match s.groups.get? s.inp.a with
    | none => s
    | some g =>
      match g.wait with
      | some (.grace _ (some c) l) =>
        if !elapsed s g.env.ctx c then s
        else
          let w := { whoWait s.inp.a g 0 with lane := l }
          match gate s w 10 0 with
          | .wait => s
          | .diverge => diverged s
          | .free =>
            let s1 := logEvent s w 10 0 0
            { s1 with groups := s1.groups.set s.inp.a { (g.released s.clock) with quiet := some s.clock } }
      | _ => s)

/-- A cast-off entry replaced. -/
def castUpd (s : State) (e f : Cast) : State := { s with castoffs := s.castoffs.map (fun x => if x = e then f else x) }

/-- The next step of the return of a cast-off entry by the copy engine of the posting tile (22 R369), at the place p it needs: the head of the list read, the object
linked to it, the compare-and-swap, which alone is indivisible and begins the loop again where the head has changed. The return is logged as it succeeds (26 Table
5). -/
def returnStep (s : State) (e : Cast) (p : Nat) (sys : Bool) : State :=
  match e.prog with
  | 0 =>
    match s.readAt e.who p 8 with
    | (s1, none) => s1
    | (s1, some bs) => castUpd s1 e { e with prog := 1, head := BitVec.ofNat 64 (leVal bs) }
  | 1 => castUpd (s.write e.who p (leBytes 8 e.head.toNat)) e { e with prog := 2 }
  | _ =>
    match s.readAt e.who p 8 with
    | (s1, none) => s1
    | (s1, some bs) =>
      let swap (s : State) : State := s.atomicAt e.who p 8 sys none (fun b => if leVal b = e.head.toNat then leBytes 8 e.obj.toNat else b)
      if leVal bs = e.head.toNat then swap (logEvent (castGone s1 e) e.who 11 e.obj.toNat e.k) else castUpd (swap s1) e { e with prog := 0 }

/-- The address a step of a return needs, with its access kind: the head, read; the link, written; the head, swapped. -/
def Cast.needs (e : Cast) (a hd : Nat) : Nat × Nat := match e.prog with | 0 => (hd, 0) | 1 => (a, 1) | _ => (hd, 1)

/-- The entry was posted before the cut that a replay of its context starts from, with an epoch below s: the log says nothing of its return (26 R390). -/
def Cast.older (s : State) (e : Cast) : Bool :=
  s.ll.replay.isSome && llCtx s == e.who.ctx && decide (e.who.epoch < (fld (s.reg (llWin + 0x48)).toNat 0 32 : Int))

/-- What a replay says of a return (22 R371): it waits for its turn, and one that had not come about as the log ended waits for the end of the replay; nothing is said
of an entry that a manifest has brought. -/
def returnGate (s : State) (e : Cast) : Gate := if e.older s then .free else gate s e.who 11 e.obj.toNat

/-- What a replay knows of a return whose entry the recording discarded: none is logged for it, and one is for an entry of its context posted later (22 R369, R371). -/
def neverReturned (s : State) (e : Cast) : Bool :=
  match s.ll.replay with
  | none => false
  | some es =>
    let back (c : Cast) : Bool := es.any (fun x => x.kind == 11 && x.byWho c.who)
    llCtx s == e.who.ctx && !e.older s && !back e && ((s.castoffs.filter (fun c => c.who.ctx == e.who.ctx)).drop 1).any back

/-- The return of an entry begins: ALLOC is read. -/
def returnStart (s : State) (e : Cast) : State :=
  let al := (s.reg (allocWin e.who.ctx e.k)).toNat
  let a := e.obj.toNat + 8 * fld al 48 8
  let hd := fld al 3 45 * 8
  if !bit al 63 || neverReturned s e then castGone s e
  else if (localReason false 8 a).isSome || (localReason false 8 hd).isSome then endContext (castGone s e) e.who.ctx stKilled none
  else castUpd s e { e with list := some (a, hd) }

/-- CASTOFF_RETURN: the first entry of context `a` whose period has elapsed goes one step further on its way to its free list (22 R369). -/
def execCastoffReturn (s : State) : Host.Outcome State Fault Refusal :=
  .next (match s.castoffs.find? (fun e => e.who.ctx == s.inp.a) with
    | none => s
    | some e =>
      match e.since with
      | none => s
      | some c =>
        if !elapsed s e.who.ctx c then s
        else
          match e.list with
          | none => returnStart s e
          | some (a, hd) =>
            match returnGate s e with
            | .wait => s
            | .diverge => diverged s
            | .free =>
              let n := e.needs a hd
              match xlate s e.who.tile e.who.ctx n.1 n.2 with
              | some (p, sys) =>
                if n.2 = 1 ∧ heldOff s e.who.tile e.who.ctx n.1 8 then s
                else match hbmRun s p 8 with
                  | some s1 => returnStep s1 e p sys
                  | none => s
              | none => s)

end Sys2Proof.Machine
end

