-- ==== Sys2Proof/Machine/Lifeline.lean ====
section
/-! DEFINITION. The Lifeline engine (26): cuts, their seal, the order log's staging ring and its drain, replay, and the Lifeline window. The part of a write that
belongs to a cut stands in Access.lean (lifeWrite), the recording and matching of events in Ops.lean (gate, logEvent). -/

namespace Sys2Proof.Machine
open Sys2Proof

/-! ### Registers (26 Tables 1 to 3) -/

def llOn (s : State) : Bool := bit (s.reg llWin).toNat 63
def llst (s : State) : Nat := (s.reg (llWin + 0x28)).toNat

/-- Clocks in a millisecond (01 R7: the clk of 1.65 GHz). -/
def msClk : Nat := 1650000

/-- PERIOD in clocks. -/
def llPeriod (s : State) : Nat := fld (s.reg llWin).toNat 0 14 * msClk

/-! ### Cuts (26 R382, R383) -/

/-- Valid entries of a page table of n entries at t, as the engine reads them; none where a granule is consumed (27 R395 to R397). -/
def tableEntries (s : State) (w : Who) (t n : Nat) : State × Option (List Nat) :=
  match s.readAt w (hbmPlace t) (8 * n) with
  | (s1, none) => (s1, none)
  | (s1, some bs) => (s1, some (((List.range n).map (fun i => leVal ((bs.drop (8 * i)).take 8))).filter (fun e => bit e 0)))

/-- The 64 KiB frames of a table of n entries. -/
def framesFrom (a n : Nat) : List Nat := (List.range ((a % 65536 + n + 65535) / 65536)).map (fun i => a / 65536 + i)

/-- HBM4 frames a leaf of a size maps. -/
def leafFrames (e size : Nat) : List Nat := if bit e 5 then [] else framesFrom (fld e 12 36 * 4096) size

/-- What a reader gathers over several entries, in order; none where it consumes one. -/
def gather (f : State → Nat → State × Option (List Nat)) (s : State) : List Nat → State × Option (List Nat)
  | [] => (s, some [])
  | e :: r =>
    match f s e with
    | (s1, none) => (s1, none)
    | (s1, some xs) =>
      match gather f s1 r with
      | (s2, none) => (s2, none)
      | (s2, some ys) => (s2, some (xs ++ ys))

/-- The frames under one entry of level 1, 2 or 3: of the page it maps, or of the next table and what its entries map. -/
def entryFrames (w : Who) (lvl : Nat) : Nat → State → Nat → State × Option (List Nat)
  | 0, s, _ => (s, some [])
  | n + 1, s, e =>
    if lvl = 3 then (s, some (leafFrames e (if bit e 6 then 2 ^ 21 else 65536)))
    else if bit e 1 then (s, some (if lvl = 2 then leafFrames e (2 ^ 30) else []))
    else
      let t := fld e 12 36 * 4096
      let k := if lvl = 1 then 512 else 16384
      match tableEntries s w t k with
      | (s1, none) => (s1, none)
      | (s1, some es) => match gather (entryFrames w (lvl + 1) n) s1 es with | (s2, r) => (s2, r.map (fun xs => framesFrom t (8 * k) ++ xs))

/-- Every frame the context's page tables map in HBM4, with the frames of the tables (26 R383); none where an uncorrected error in a table is consumed. -/
def mappedFrames (s : State) (ctx : Nat) : State × Option (List Nat) :=
  let root := (s.reg (ctxWin ctx + 0x10)).toNat
  if !bit root 0 then (s, some [])
  else
    let t := fld root 12 36 * 4096
    match tableEntries s (lifeWho ctx (asideAcc 0)) t 512 with
    | (s1, none) => (s1, none)
    | (s1, some es) =>
      match gather (entryFrames (lifeWho ctx (asideAcc 0)) 1 4) s1 es with
      | (s2, r) => (s2, r.map (fun xs => (framesFrom t 4096 ++ xs).eraseDups))

/-! ### The manifest (26 Table 4) -/

/-- The key of a record in a manifest: its queue and its number there. -/
def recordKey (q num : Nat) : Nat := q * 2 ^ 64 + num

/-- A record taken, as a manifest lists it: header, declarations, arguments, and the next block to place. -/
def Job.manifest (j : Job) : List Byte :=
  leBytes 64 j.hdr ++ j.decls.flatMap (fun d => leBytes 8 (at' d.1 0 8 + at' d.2.1 8 16 + at' d.2.2 24 16)) ++ j.args.flatMap (fun a => leBytes 8 a.toNat)
    ++ leBytes 8 j.next

/-- The records of a host ring that are not taken, n of them from a slot on. -/
def hostRecords (s : State) (q num slot : Nat) : Nat → List (Nat × List Byte)
  | 0 => []
  | n + 1 =>
    let base := (s.reg (queueWin q)).toNat
    let block (i : Nat) : List Byte := s.peek (hostPlace (base + 64 * ((slot + i) % ringSlots s q))) 64
    let h := leVal (block 0)
    let m := 1 + hQb h + hArgb h
    (recordKey q num, (List.range m).flatMap block) :: hostRecords s q (num + 1) ((slot + m) % ringSlots s q) n

/-- Records of a ring between QHEAD and QTAIL, no more than it has slots. -/
def ringRecords (s : State) (q : Nat) : Nat :=
  min ((s.reg (queueWin q + 0x18)).toNat - (s.reg (queueWin q + 0x10)).toNat) (ringSlots s q)

/-- The queues of a context. -/
def queuesOf (s : State) (ctx : Nat) : List Nat := (List.range 49).filter (fun q => bit (qctl s q) 63 && fld (qctl s q) 8 8 == ctx)

/-- The version counters of a context once every publication that has been handed over has advanced them: those are before accesses already (10 R183, 26 Table 4). -/
def versionsOf (s : State) (ctx : Nat) : Tab W64 :=
  (s.pubs.filter (fun p => p.ctx == ctx && bit (s.reg (ctxWin ctx + 0x18)).toNat 0)).foldl
    (fun t p => Tab.set t (ctx * 16 + p.k) (t.getD (ctx * 16 + p.k) 0 + 1)) (s.vers.filter (fun x => x.1 / 16 == ctx))

/-- What a manifest lists of a context as it stands. -/
def manifestOf (s : State) (ctx : Nat) : Manifest :=
  { queues := (queuesOf s ctx).flatMap (fun q => [0, 8, 0x10, 0x18].map (fun r => (queueWin q + r, s.reg (queueWin q + r))))
    rings := s.queues.filter (fun x => (queuesOf s ctx).contains x.1)
    jobs := s.jobs.filter (fun j => j.ctx == ctx)
    host := ((queuesOf s ctx).filter (fun q => decide (q < 32))).flatMap (fun q =>
      hostRecords s q (s.reg (queueWin q + 0x10)).toNat (qstOf s q).rslot (ringRecords s q))
    posts := (s.posts.filter (fun p => p.who.ctx == ctx)).map (fun p => { p with ids := [] })
    allocs := (List.range 16).map (fun k => s.reg (allocWin ctx k))
    castoffs := s.castoffs.filter (fun e => e.who.ctx == ctx)
    pcs := s.pcs
    gens := s.gens
    vers := versionsOf s ctx }

/-- The unplaced records of a manifest: those taken that have blocks left, with their next block, and those not taken, but for tasks. -/
def Manifest.records (m : Manifest) : List (Nat × List Byte) :=
  (m.jobs.filter (fun j => !j.finished && j.status == 0 && decide (j.next < j.blocks))).map (fun j => (recordKey j.queue j.num, j.manifest)) ++ m.host
    ++ (m.posts.filter (fun p => p.queue != 48)).map (fun p => (recordKey p.queue p.slot, p.bytes))

/-- The completion bitmaps that records may still name. -/
def Manifest.bitmaps (m : Manifest) : List (Nat × Nat) := (m.jobs.filter (fun j => !j.task)).map (fun j => (recordKey j.queue j.num, j.bitmap))

/-- The task records not taken. -/
def Manifest.tasks (m : Manifest) : List (Nat × List Byte) := (m.posts.filter (fun p => p.queue == 48)).map (fun p => (recordKey p.queue p.slot, p.bytes))

/-- A counted list of records. -/
def recordList (xs : List (Nat × List Byte)) : List Byte := leBytes 8 xs.length ++ xs.flatMap (fun x => leBytes 16 x.1 ++ leBytes 8 x.2.length ++ x.2)

/-- A counted list of 8-byte words. -/
def wordList (xs : List Nat) : List Byte := leBytes 8 xs.length ++ xs.flatMap (leBytes 8)

/-- The bytes of a manifest: its lists in the order of 26 Table 4, each after its length; the layout is not stated (DESIGN CHOICE, log 30). -/
def Manifest.bytes (m : Manifest) : List Byte :=
  wordList (m.queues.flatMap (fun x => [x.1, x.2.toNat]))
    ++ recordList m.records
    ++ leBytes 8 m.bitmaps.length ++ m.bitmaps.flatMap (fun x => leBytes 16 x.1 ++ leBytes 8 (bitLen x.2) ++ leBytes ((bitLen x.2 + 7) / 8) x.2)
    ++ recordList m.tasks ++ wordList (m.allocs.map BitVec.toNat) ++ wordList (m.castoffs.flatMap (fun x => [x.k, x.obj.toNat])) ++ wordList (m.pcs.flatMap (fun x => [x.1, x.2.toNat]))
    ++ wordList (m.gens.flatMap (fun x => [x.1, x.2.toNat])) ++ wordList (m.vers.flatMap (fun x => [x.1, x.2.toNat]))

/-! ### Taking a cut (26 R382) -/

/-- Cut k is taken in this clock: the frames written since the last cut are held for it. NOW reads 0 from then on. While the staging ring is full no cut is in
progress: this one is abandoned at once (26 R387). -/
def takeCut (s : State) (k : Nat) (held : List Nat) : State :=
  let c : Cut := { k := k, at_ := s.clock, confirmed := false, held := held, taken := s.ll.taken, manifest := manifestOf s (llCtx s) }
  let ll := { s.ll with cut := k, at_ := s.clock, cuts := s.ll.cuts ++ [c], wrote := [] }
  let ctl := (s.reg llWin).toNat
  let t := setLlst (setLlst (({ s with ll := ll }.setReg (llWin + 0x30) (BitVec.ofNat 64 s.clock)).setReg llWin (BitVec.ofNat 64 (setFld ctl 62 1 0))) 63 1)
    61 0
  if logFull s then abandonCut t k else t

/-- Cuts can be taken: recording, the target not full, no replay. -/
def mayCut (s : State) : Bool := llOn s && !bit (llst s) 62 && s.ll.replay.isNone

/-- The next cut. -/
def nextCut (s : State) : State := takeCut s (s.ll.cut + 1) s.ll.wrote

/-- CUT: PERIOD has passed since the latest cut, which is sealed or abandoned; or NOW is asked for, and none is unsealed (26 R382). -/
def execCut (s : State) : Host.Outcome State Fault Refusal :=
  .next (if mayCut s && ((decide (s.ll.at_ + llPeriod s ≤ s.clock) && !s.ll.cuts.any (fun c => c.k == s.ll.cut))
      || (bit (s.reg llWin).toNat 62 && s.ll.cuts.isEmpty)) then nextCut s else s)

/-- An access or packet of epoch e of the context arrives: every cut up to e is taken before it is performed, whether or not an earlier one is unsealed (26
R382). -/
def arriveEpoch (s : State) (ctx : Nat) (e : Int) : State :=
  if mayCut s && llCtx s == ctx then (List.range (e - s.ll.cut).toNat).foldl (fun s _ => nextCut s) s else s

/-- A write of 1 to NOW (26 Table 2): the cut is taken when none is unsealed; otherwise NOW stands until the next cut is taken, and until recording is enabled. -/
def setNow (s : State) : State :=
  if mayCut s && s.ll.cuts.isEmpty then nextCut s else s.setReg llWin (BitVec.ofNat 64 (setFld (s.reg llWin).toNat 62 1 1))

/-- LLCTL_NOW. -/
def execLlctlNow (s : State) : Host.Outcome State Fault Refusal := .next (setNow s)

/-- The epochs of a context's blocks that were resident when EN rose: -1 (26 R381), in everything that carries them; no record taken before has a number in the
new recording (26 R389). -/
def noEpoch (s : State) (ctx : Nat) : State :=
  let w (x : Who) : Who := if x.ctx = ctx then { x with epoch := -1 } else x
  { s with
    blocks := s.blocks.map (fun x => if x.2.ctx = ctx then
      (x.1, { x.2 with epoch := -1, saved := x.2.saved.map (fun y => (y.1, { y.2 with env := { y.2.env with epoch := -1 } })) }) else x)
    groups := s.groups.map (fun x => if x.2.env.ctx = ctx then (x.1, { x.2 with env := { x.2.env with epoch := -1 } }) else x)
    far := s.far.map (fun o => { o with who := w o.who })
    copies := s.copies.map (fun c => { c with who := w c.who })
    mats := s.mats.map (fun c => { c with who := w c.who })
    shadows := s.shadows.map (fun c => { c with who := w c.who })
    watches := s.watches.map (fun c => { c with who := w c.who })
    posts := s.posts.map (fun p => { p with who := w p.who })
    castoffs := s.castoffs.map (fun c => { c with who := w c.who })
    jobs := s.jobs.map (fun j => if j.ctx = ctx then { j with launch := 0 } else j) }

/-! ### The staging ring (26 R387 to R389) -/

/-- The 32 bytes of an entry (26 Table 6). -/
def LogEntry.bytes (e : LogEntry) : List Byte :=
  leBytes 32 (e.data.toNat * 2 ^ 192 + e.obj.toNat * 2 ^ 128 + at' e.serial 96 32 + at' e.block 64 32 + at' e.launch 44 20 + at' e.group 38 6
    + at' e.lane 32 6 + at' (wrapN 24 e.epoch) 8 24 + at' e.kind 0 8)

/-- The entry that 32 bytes hold. -/
def LogEntry.ofBytes (bs : List Byte) : LogEntry :=
  let x := leVal bs
  { data := BitVec.ofNat 64 (fld x 192 64), obj := BitVec.ofNat 64 (fld x 128 64), serial := fld x 96 32, block := fld x 64 32, launch := fld x 44 20,
    group := fld x 38 6, lane := fld x 32 6, epoch := sext 24 (fld x 8 24), kind := fld x 0 8 }

/-- Where the i-th entry since EN rose stands in the staging ring. -/
def stagePlace (s : State) (i : Nat) : Nat :=
  let r := (s.reg (llWin + 0x20)).toNat
  hbmPlace (fld r 20 28 * 2 ^ 20 + 32 * i % 2 ^ fld r 0 5)

/-- Staged entries written to the ring in HBM4, oldest first. -/
def stageLog (s : State) : State :=
  let s1 := (List.range (s.ll.staged.length - s.ll.inRing)).foldl (fun t j =>
    match s.ll.staged[s.ll.inRing + j]? with
    | some e => t.engineWrite (stagePlace s (s.ll.durable.length + s.ll.inRing + j)) e.bytes
    | none => t) s
  { s1 with ll := { s1.ll with inRing := s.ll.staged.length } }

/-! ### The target (26 R386) -/

def logHalf (s : State) : Nat := (s.reg (llWin + 0x10)).toNat / 2
def llTarget (s : State) : Nat := (s.reg (llWin + 0x8)).toNat

/-- The target is given by a global address. -/
def farTarget (s : State) : Bool := bit (llTarget s) 63

/-- The place of an entry in the log half: its ring offset in the target (26 R386, R388). -/
def logOfs (s : State) (pos : Nat) : Nat := logHalf s + (if logHalf s = 0 then 0 else pos % logHalf s)

/-- Bytes the engine writes from an address of the enrolled context up; none while a page needs a walk, an atomic of the host holds the write back (13 R244), or an
access to HBM4 waits for its turn. -/
def lifePoke (s : State) (a : Nat) (bs : List Byte) : Option State :=
  let ps := pieces a bs (bs.length / 65536 + 2)
  if ps.any (fun p => heldOff s midTile (llCtx s) p.1 p.2.length) then none else
  (ps.mapM (fun p => placeOf s midTile (llCtx s) p.1 1)).bind (fun qs =>
    (hbmRuns s ((qs.zip ps).map (fun x => (x.1, x.2.2.length)))).map (fun s1 => (qs.zip ps).foldl (fun s x => s.engineWrite x.1 x.2.2) s1))

/-- Bytes written to a local target at an offset. -/
def toTarget (s : State) (ofs : Nat) (bs : List Byte) : Option State := lifePoke s (llTarget s + ofs) bs

/-- A fabric copy of the engine begun (26 R386): its bytes go out in packets of 4,096 bytes, the spray unit it uses (log 30). None where the target's address is
refused. -/
def sendLife (s : State) (isLog : Bool) (ofs : Nat) (bs : List Byte) : Option State :=
  match resolveGlobal s 1 bs.length 16 (llTarget s) ofs 0 with
  | .error _ => none
  | .ok t =>
    let c : Copy :=
      { id := s.seq, gid := 2 ^ 62, who := lifeWho (llCtx s) 0, tile := midTile, block := 2 ^ 62, tix := 0, kind := .life isLog, tag := 0, src := 0, dst := t.addr,
        rowBytes := bs.length, rows := 1, sstride := 0, dstride := 0, widen := false, bar := none, unit := 4096, holds := [], done := [], bytes := 0,
        routes := (match t.rank, t.route with | some r, some x => [(r, x)] | _, _ => []), sends := [], desc := 0, rstride := 0, gen := 0, space := false, own := none,
        marks := [], got := memStore [] 0 bs }
    some { s with seq := s.seq + 1, copies := s.copies ++ [c] }

/-- A fabric copy of the engine of this sort is in flight. -/
def lifeBusy (s : State) (isLog : Bool) : Bool := s.copies.any (fun c => c.kind == .life isLog)

/-- LOGPOS of the latest sealed slot. -/
def sealedPos (s : State) : Nat := match s.ll.slots.getLast? with | some x => x.logpos | none => 0

/-- The oldest staged entry, read back from the ring: single errors in it are corrected; a worse one is consumed by the engine (27 R397). -/
def readStaged (s : State) : State × Option LogEntry :=
  match s.readAt (lifeWho (llCtx s) (entryAcc s.ll.durable.length)) (stagePlace s s.ll.durable.length) 32 with
  | (s1, some bs) => (s1, some (LogEntry.ofBytes bs))
  | (s1, none) => (s1, none)

/-- The oldest staged entry has reached the target as e: LLLOGD rises. -/
def becomeDurable (s : State) (e : LogEntry) : State :=
  { s with ll := { s.ll with staged := s.ll.staged.drop 1, inRing := s.ll.inRing - 1, durable := s.ll.durable ++ [e] } }.setReg (llWin + 0x38)
    (BitVec.ofNat 64 (32 * (s.ll.durable.length + 1)))

/-- Staged entries, oldest first, drained to the log half; false when the half has no byte to overwrite: FULL (26 R388). Towards a global target one entry
is on its way at a time. -/
def drainLog (s : State) : Nat → State × Bool
  | 0 => (s, true)
  | n + 1 =>
    if s.ll.staged.isEmpty then (s, true)
    else
      let pos := 32 * s.ll.durable.length
      if logHalf s < pos + 32 - sealedPos s then (setLlst s 62 1, false)
      else
        match readStaged s with
        | (s1, none) => (s1, true)
        | (s1, some e) =>
          if farTarget s then (if lifeBusy s true then s else (sendLife s1 true (logOfs s pos) e.bytes).getD s, true)
          else
            match toTarget s1 (logOfs s pos) e.bytes with
            | none => (s, true)
            | some s2 => drainLog (becomeDurable s2 e) n

/-- Recording ends (26 R388): the unsealed cuts are abandoned, a replay is over. -/
def endRecording (s : State) : State :=
  let s1 := setLlst (abandonCuts s) 60 0
  ({ s1 with ll := { s1.ll with replay := none } }).setReg llWin (BitVec.ofNat 64 (setFld (s1.reg llWin).toNat 63 1 0))

/-- LOG_DRAIN: the staged entries are written to their ring; then, unless `b` is 1, up to `a` of them drain (all for 0). A log half without room ends recording,
and what is still staged is lost with it. -/
def execLogDrain (s : State) : Host.Outcome State Fault Refusal :=
  let s0 := stageLog s
  let r := if s.inp.b = 1 then (s0, true) else drainLog s0 (if s.inp.a = 0 then s.ll.staged.length else s.inp.a)
  .next (if r.2 then r.1 else let t := endRecording r.1; { t with ll := { t.ll with staged := [], inRing := 0 } })

/-- A value as LLCTL stores it (26 Table 2). -/
def llctlStored (old v : Nat) : Nat :=
  let p := fld v 0 14
  at' (fld v 63 1) 63 1 + at' (if bit old 63 then fld old 48 8 else fld v 48 8) 48 8 + (if p < 10 then 10 else if 10000 < p then 10000 else p)

/-- An LLCTL write: raising EN takes cut 0 (26 R381); clearing it abandons, drains and ends recording (26 R388); an entry whose target page
needs a walk drains after that (LOG_DRAIN). -/
def writeLlctl (s : State) (v : Nat) : State :=
  let old := (s.reg llWin).toNat
  let x := llctlStored old v
  let y := BitVec.ofNat 64 (x + at' (b2n (bit old 62 || bit v 62)) 62 1)
  if bit x 63 && !bit old 63 then
    let ctx := fld x 48 8
    let s1 := noEpoch ((s.setReg llWin y).setReg (llWin + 0x38) 0) ctx
    let s2 := setLlst { s1 with ll := Lifeline.idle, copies := s1.copies.filter (fun c => !c.ofLife) } 62 0
    match mappedFrames s2 ctx with
    | (s3, some fs) => takeCut s3 0 fs
    | (s3, none) => abandonCut (takeCut s3 0 []) 0
  else if !bit x 63 && bit old 63 then
    let s1 := (drainLog (stageLog (abandonCuts s)) s.ll.staged.length).1
    (endRecording s1).setReg llWin y
  else if bit v 62 then setNow (s.setReg llWin y)
  else s.setReg llWin y

/-- LLCTL_EN: an LLCTL write of `v`. -/
def execLlctlEn (s : State) : Host.Outcome State Fault Refusal := .next (writeLlctl s s.inp.v.toNat)

/-! ### The seal (26 R384, R386) -/

/-- An LLSEAL write: the service cores confirm the cut on every device. -/
def writeLlseal (s : State) (v : Nat) : State :=
  { s with ll := { s.ll with cuts := s.ll.cuts.map (fun c => if c.k = fld v 0 32 then { c with confirmed := true } else c) } }

/-- LLSEAL: value `v`. -/
def execLlseal (s : State) : Host.Outcome State Fault Refusal := .next (writeLlseal s s.inp.v.toNat)

/-- The images of the held frames of cut k (26 R383): the aside copy of each, otherwise its live contents; none where an uncorrected error is consumed (27
R397). -/
def frameImages (s : State) (k : Nat) : List Nat → State × Option (List Byte)
  | [] => (s, some [])
  | f :: r =>
    let p := match s.ll.aside.find? (fun a => a.2.1 == k && a.2.2 == f) with | some a => asidePlace s a.1 | none => hbmPlace (f * 65536)
    match s.readAt (lifeWho (llCtx s) (sealAcc k)) p 65536 with
    | (s1, none) => (s1, none)
    | (s1, some bs) =>
      match frameImages s1 k r with
      | (s2, none) => (s2, none)
      | (s2, some rest) => (s2, some (bs ++ rest))

/-- The log byte at which entries of epoch k or more begin. -/
def logPos (s : State) (k : Nat) : Nat :=
  let es := s.ll.durable ++ s.ll.staged
  32 * ((es.findIdx? (fun e => decide ((k : Int) ≤ e.epoch))).getD es.length)

/-- BASE of the next slot. -/
def baseSeq (s : State) : Nat := match s.ll.slots.getLast? with | some x => x.seq | none => 0

/-- The slot of a cut (26 Table 4), with the images of its frames. -/
def slotBytes (s : State) (c : Cut) (images : List Byte) : List Byte :=
  let n := c.held.length
  let head := leBytes 8 c.k ++ leBytes 8 c.at_ ++ leBytes 8 (if c.k = 0 then 0 else baseSeq s) ++ leBytes 8 n ++ leBytes 8 (logPos s c.k)
    ++ leBytes 8 (0x1000 + 8 * n) ++ List.replicate 4048 0
  let body := head ++ c.held.flatMap (fun f => leBytes 8 (f * 65536)) ++ c.manifest.bytes
  body ++ List.replicate (roundUp body.length 65536 - body.length) 0 ++ images

/-- A slot published (26 R384): the cut is sealed and its aside copies are free. -/
def publishSlot (s : State) (x : Slot) : State :=
  let ll := { s.ll with cuts := s.ll.cuts.filter (fun c => c.k != x.seq), aside := s.ll.aside.filter (fun a => a.2.1 != x.seq), sealing := none,
                        slots := s.ll.slots ++ [x], next := x.stop }
  let st := (s.reg (llWin + 0x28)).toNat
  { s with ll := ll }.setReg (llWin + 0x28) (BitVec.ofNat 64 (setFld (setFld st 63 1 (b2n (!ll.cuts.isEmpty))) 0 32 x.seq))

/-- SEAL: the `a`-th unsealed cut is confirmed and every before block has ended: the engine copies its frames and manifest to the target, and the slot is published
(26 R384); towards a global target, once its packets are acknowledged. A full staging ring abandons it instead (26 R387). -/
def execSeal (s : State) : Host.Outcome State Fault Refusal :=
  .next (match s.ll.cuts[s.inp.a]? with
    | none => s
    | some c =>
      if logFull s then abandonCut s c.k
      else if !c.confirmed || beforeLeft s c.k || s.ll.sealing.isSome then s
      else
        match frameImages s c.k c.held with
        | (s1, none) => abandonCut s1 c.k
        | (s1, some images) =>
          let bs := slotBytes s1 c images
          let ofs := roundUp (llTarget s % 2 ^ 41 + s.ll.next) 65536 - llTarget s % 2 ^ 41
          let slot : Slot := { seq := c.k, instant := c.at_, base := baseSeq s, frames := c.held, logpos := logPos s c.k, stop := ofs + bs.length,
                               taken := c.taken, manifest := c.manifest }
          if logHalf s < ofs + bs.length then abandonCut (setLlst s 62 1) c.k
          else if farTarget s then
            match sendLife s1 false ofs bs with
            | none => s
            | some s2 => { s2 with ll := { s2.ll with sealing := some slot } }
          else
            match toTarget s1 ofs bs with
            | none => s
            | some s2 => publishSlot s2 slot)

/-- A fabric copy of the engine has been acknowledged whole. -/
def lifeDone (s : State) (c : Copy) : State :=
  let s1 : State := { s with copies := s.copies.filter (fun x => x.id != c.id) }
  match c.kind, s.ll.sealing with
  | .life true, _ => becomeDurable s1 (LogEntry.ofBytes (memBytes c.got 0 32))
  | .life false, some x => publishSlot s1 x
  | _, _ => s1

/-! ### Replay (26 R390, R392) -/

/-- The durable entries from the i-th on, n of them: as the bytes of a local target hold them, where its tables, walked for where they must be, lead there (26 R386: a
slot and its log are ordinary memory); none where a worse error in them is consumed by the engine (27 R396). -/
def durableFrom (s : State) (i : Nat) : Nat → State × Option (List LogEntry)
  | 0 => (s, some [])
  | n + 1 =>
    let w := lifeWho (llCtx s) (entryAcc (s.clock * 2 ^ 40 + i))
    let held := if farTarget s then (s, none) else walkedPlace s w midTile (llTarget s + logOfs s (32 * i)) 0
    match (match held.2 with
      | some p => let r := (held.1.pastHost p 32).readAt w p 32; (r.1, r.2.map LogEntry.ofBytes)
      | none => (held.1, some ((s.ll.durable[i]?).getD (LogEntry.ofBytes [])))) with
    | (s1, none) => (s1, none)
    | (s1, some e) =>
      match durableFrom s1 (i + 1) n with
      | (s2, none) => (s2, none)
      | (s2, some es) => (s2, some (e :: es))

/-- The manifest of a slot loaded by the system software into the distributor, the I/O die and the allocators (26 R390 step 3). -/
def loadManifest (s : State) (m : Manifest) : State :=
  let ctx := llCtx s
  let s1 := (List.range m.allocs.length).foldl (fun s k => s.setReg (allocWin ctx k) (m.allocs.getD k 0)) s
  let s2 := (m.queues.filter (fun x => x.1 % 32 != 8)).foldl (fun s x => s.setReg x.1 x.2) s1
  { s2 with
    queues := m.rings.foldl (fun t x => Tab.set t x.1 x.2) s2.queues
    jobs := s2.jobs.filter (fun j => j.ctx != ctx) ++ m.jobs
    posts := s2.posts.filter (fun p => p.who.ctx != ctx) ++ m.posts
    castoffs := s2.castoffs.filter (fun c => c.who.ctx != ctx) ++ m.castoffs
    pcs := m.pcs
    gens := m.gens
    vers := m.vers.foldl (fun t x => Tab.set t x.1 x.2) s2.vers }

/-- An LLREP write: with GO it starts replay from a sealed slot whose log bytes are still held; one that names any other slot is ignored. The log that is replayed
ends with what is staged now, which drains meanwhile (26 R392). -/
def writeLlrep (s : State) (v : Nat) : State :=
  match s.ll.slots.find? (fun x => x.seq == fld v 0 32) with
    | none => s
    | some x =>
      if !bit v 63 then s.setReg (llWin + 0x48) (BitVec.ofNat 64 (v % 2 ^ 32))
      else if logHalf s + x.logpos < 32 * s.ll.durable.length then s
      else
        let s := abandonCuts s
        let i := x.logpos / 32
        match durableFrom s i (s.ll.durable.length - i) with
        | (s1, none) => s1
        | (s1, some ds) =>
          let es := (ds ++ s1.ll.staged.drop (i - s1.ll.durable.length)).filter (fun e => decide ((x.seq : Int) ≤ e.epoch))
          ({ s1 with ll := { s1.ll with replay := some es, seen := Seen.none, cut := x.seq, wrote := [], taken := x.taken } }.setReg (llWin + 0x48)
            (BitVec.ofNat 64 (v % 2 ^ 32 + 2 ^ 63))).setReg (llWin + 0x28) (BitVec.ofNat 64 (setFld (setFld (llst s1) 59 1 0) 60 1 1))

/-- LLREP: value `v`; with `b` = 1 the system software has first loaded the manifest of the slot that `v` names (26 R390). -/
def execLlrep (s : State) : Host.Outcome State Fault Refusal :=
  let v := s.inp.v.toNat
  .next (match (if s.inp.b = 1 then s.ll.slots.find? (fun x => x.seq == fld v 0 32) else none) with
    | some x => writeLlrep (loadManifest s x.manifest) v
    | none => writeLlrep s v)

/-- REPLAY_END: the durable log is used up: REPLAY falls, cut s' + 1 is taken and recording goes on; later slots are gone (26 R392). -/
def execReplayEnd (s : State) : Host.Outcome State Fault Refusal :=
  .next (match s.ll.replay with
    | some [] =>
      let kept := s.ll.slots.filter (fun x => decide (x.seq ≤ s.ll.cut))
      let s1 : State := { s with ll := { s.ll with
        replay := none
        slots := kept
        next := match kept.getLast? with | some x => x.stop | none => s.ll.next } }
      let sq := match kept.getLast? with | some x => x.seq | none => fld (llst s) 0 32
      let s2 := s1.setReg (llWin + 0x28) (BitVec.ofNat 64 (setFld (setFld (llst s1) 60 1 0) 0 32 sq))
      if llOn s2 then nextCut (abandonCuts s2) else s2
    | _ => s)

end Sys2Proof.Machine
end

