-- ==== Sys2Proof/Machine/Far.lean ====
section
/-! DEFINITION. Far words at the homes of their elements, and what comes back (10 R168 to R177, 14 R250 to R252, 13 R233): FAR_ACCESS_AT_HOME,
FAR_LOAD_LAND, STORE_ACK, and the publication of version counters (10 R183, 21 R358). -/

namespace Sys2Proof.Machine
open Sys2Proof

/-- A sum at a home: integers wrap, floats round once under .rne, element by element (10 R173, R177, 14 R252). -/
def addAt (t : Ty) (m d : Nat) : Nat :=
  if t.float then
    joinElems t (((elems t m).zip (elems t d)).map (fun x => (sumRound (fmtOf t) .rne [fromBits (fmtOf t) x.1, fromBits (fmtOf t) x.2]).1))
  else (m + d) % 2 ^ t.bits

/-- The new value of an element holding m after one operation with operand d and expected value c (10 Table 2, 14 R252). -/
def FarKind.apply (k : FarKind) (t : Ty) (m d c : Nat) : Nat :=
  match k with
  | .load => m
  | .store => d
  | .atom 0 => addAt t m d
  | .atom 1 => minOf t m d
  | .atom 2 => maxOf t m d
  | .atom 3 => m &&& d
  | .atom 4 => m ||| d
  | .atom 5 => m ^^^ d
  | .atom 6 => d
  | .atom _ => if m = c then d else m
  | .red 0 => addAt t m d
  | .red 1 => minOf t m d
  | .red _ => maxOf t m d
  | .vatom => addAt t m d

/-- Bytes of one element of a far word. -/
def FarOp.size (o : FarOp) : Nat := bytesOf o.ty

/-- The access kind of 21 Table 7: 0 load, 1 store, 2 atomic. -/
def FarKind.access : FarKind → Nat
  | .load => 0
  | .store => 1
  | _ => 2

/-- Its operations are order-log events of kind 1. -/
def FarKind.atomic : FarKind → Bool
  | .load | .store => false
  | _ => true

/-- The location an element names: its place on this device, whatever address leads there (13 R232), or the rank and address; none while its page refuses the word's
access, so that it waits for what the page will lead to (20 R340). -/
def FarOp.spot (o : FarOp) (s : State) (e : El) : Option (Nat × Nat) :=
  match e.rank with
  | some r => some (r + 1, e.addr)
  | none => (homeOf s o.who.tile o.who.ctx e.addr (min o.kind.access 1)).map (fun p => (0, p))

/-- The same, where an address that leads nowhere stands for itself. -/
def FarOp.home (o : FarOp) (s : State) (e : El) : Nat × Nat := (o.spot s e).getD (0, e.addr)

/-- Two elements share a byte, or may come to share one: a page that leads nowhere yet may get the other's frame, and keeps the low 16 bits of its addresses (20
R331, R340: the order stands through the wait; log 29). -/
def sharesByte (s : State) (o : FarOp) (e : El) (p : FarOp) (x : El) : Bool :=
  match o.spot s e, p.spot s x with
  | some a, some b => a.1 == b.1 && meets a.2 o.size b.2 p.size
  | a, b =>
    e.rank.isNone && x.rank.isNone && (match a with | some q => decide (2 ^ 48 ≤ q.2) | none => true) && (match b with | some q => decide (2 ^ 48 ≤ q.2) | none => true)
      && meets (e.addr % 65536) o.size (x.addr % 65536) p.size

/-- An earlier far word of the group still has to perform an element that shares a byte with this one (10 R172 rule 2). -/
def earlierShares (s : State) (o : FarOp) (e : El) : Bool :=
  s.far.any (fun p => p.group == o.group && decide (p.id < o.id)
    && p.els.any (fun x => !x.performed && sharesByte s o e p x))

def setFar (s : State) (o : FarOp) : State := { s with far := s.far.map (fun p => if p.id = o.id then o else p) }

/-- The elements of a far word that name the location of e and are performed with it, in ascending lane order (10 R164, R175, R378). -/
def FarOp.same (o : FarOp) (s : State) (e : El) : List El := o.els.filter (fun x => !x.performed && o.home s x == o.home s e)

/-- The operations of lanes on one value, in order: the value each lane receives, and the value left. -/
def applyAll (k : FarKind) (t : Ty) (m : Nat) : List El → List (Nat × Nat) × Nat
  | [] => ([], m)
  | e :: r =>
    let q := applyAll k t (k.apply t m e.data e.cmp) r
    ((e.lane, m) :: q.1, q.2)

/-- Elements marked performed with the values they returned. -/
def FarOp.done (o : FarOp) (s : State) (vals : List (Nat × Nat)) (e : El) (acked : Bool) : FarOp :=
  { o with els := o.els.map (fun x =>
      if !x.performed && o.home s x == o.home s e then
        { x with performed := true, acked := acked, val := match vals.find? (fun v => v.1 == x.lane) with | some v => v.2 | none => 0 }
      else x) }

/-- The line an event of kind 1 names: the 128-byte line of a `vatom.add`, the element otherwise. -/
def FarOp.object (o : FarOp) (a : Nat) : Nat := match o.kind with | .vatom => a - a % 128 | _ => a

/-- The word has an event at this object already. -/
def FarOp.logged (o : FarOp) (e : El) : Bool := o.els.any (fun x => x.performed && x.rank == e.rank && o.object x.addr == o.object e.addr)

/-- An element on this device performed at its home, in HBM4 once its pseudo-channel serves it (28 R407). A store or an atomic on a SYS page waits for a host atomic in progress there, and the host sees the result of
an atomic at once (21 R359); elsewhere, with `stale`, an atomic that overlaps a host atomic may act on the value from before it (13 R244). An atomic is logged as it
is performed, not where what it reads is consumed (26 R387, 27 R397). -/
def performHere (s : State) (o : FarOp) (e : El) (stale : Bool) : State :=
  match xlate s o.who.tile o.who.ctx e.addr (if o.kind.access = 0 then 0 else 1) with
  | none => s
  | some (p, sys) =>
    let ev := o.kind.atomic && !o.logged e
    if sys && isHost p && o.kind.access != 0 && hostHolds s p o.size then s
    else
    match (if ev then gate s o.who 1 (o.object e.addr) else Gate.free), hbmRun s p o.size with
    | .wait, _ | .free, none => s
    | .diverge, _ => diverged s
    | .free, some s =>
      let noted (s : State) : State := if ev then logEvent s o.who 1 (o.object e.addr) 0 else s
      if o.kind.access = 1 then
        let v := (applyAll o.kind o.ty 0 (o.same s e)).2
        setFar ((noted s).write o.who p (leBytes o.size v)) (o.done s [] e true)
      else
        match s.readAt o.who p o.size with
        | (s1, none) => s1
        | (s1, some bs) =>
          let old := if stale && o.kind.atomic then staleAt s p o.size sys else none
          let r := applyAll o.kind o.ty (leVal (old.getD bs)) (o.same s e)
          let s2 := (noted s1).observe o.who p o.size
          let s3 := if o.kind.access = 0 then s2.pastHost p o.size
            else s2.atomicAt o.who p o.size sys old (fun b => leBytes o.size (applyAll o.kind o.ty (leVal b) (o.same s e)).2)
          setFar s3 (o.done s r.1 e true)

/-- The index of the request of a pod or remote word that carries an element: its rank and 128-byte line (14 R258). -/
def lineOf (e : El) : Nat := e.rank.getD 0 * 2 ^ 39 + e.addr / 128

/-- FAR_ACCESS_AT_HOME: element `b` of far word `a` (its id) is performed, unless it waits on a fault of its page. An element of another rank is performed there
once its request is sent: the value it returns is `v` (log 6). On this device, `c` = 1 lets an atomic act on the value from
before a host atomic that overlaps it. -/
def execFarAccessAtHome (s : State) : Host.Outcome State Fault Refusal :=
  .next (match s.far.find? (fun o => o.id == s.inp.a) with
    | none => s
    | some o =>
      match o.els[s.inp.b]? with
      | none => s
      | some e =>
        if e.performed || inFlight s o.holds || earlierShares s o e then s
        else
          match e.rank with
          | none => if (o.same s e).any (fun x => waitsFault s o.id o.who.ctx x.addr) then s else performHere s o e (s.inp.c == 1)
          | some _ =>
            if !o.sends.any (fun x => x.x == lineOf e) then s
            else
              let r := applyAll o.kind o.ty (s.inp.v.toNat % 2 ^ (8 * o.size)) (o.same s e)
              setFar s (o.done s r.1 e false))

/-- A register value as a landing leaves it: the lane of D, or the pair. -/
def landedVals (g : Group) (o : FarOp) (n : Nat) (ls : List Nat) : List RegVal := g.opened o.ty o.dest ls n

/-- FAR_LOAD_LAND: the lanes `m` of far load or atomic `a` whose data have come back land in D; when all have, its arrival counter rises and its
slot is free (10 R168, 14 R248, R29: the lanes land one by one). A lane stays open: any of its values may be read (02 R29). The write of a re-execution in progress
comes before the landing, or after it with `b` = 2. With `b` = 1, of group `a`: its next word reads the open lanes that `nums` picks with the values listed
for them. -/
def execFarLoadLand (s : State) : Host.Outcome State Fault Refusal :=
  .next (if s.inp.b = 1 then
      match s.groups.get? s.inp.a with
      | some g => { s with groups := s.groups.set s.inp.a { g with view := s.inp.nums.filterMap (fun i => g.opens[i]?) } }
      | none => s
    else
    match s.far.find? (fun o => o.id == s.inp.a) with
    | none => s
    | some o =>
      match o.ac, s.groups.get? o.group with
      | some n, some g =>
        let now := o.els.filter (fun e => e.acked && !e.landed && lane s.inp.m e.lane)
        let g0 := if now.isEmpty then g else g.loaded o.ty o.dest (now.map (fun e => (e.lane, e.val)))
        let vs := landedVals g0 o n (now.map El.lane)
        let keep (r : Retry) : Retry := { r with regs := r.regs.filter (fun x => !x.overlaps vs) }
        let g1 : Group := { g0 with opens := g0.opens ++ vs.filter (fun x => !g0.opens.contains x), fills := g0.fills ++ vs, look := if now.isEmpty then g0.look else s.clock, redo := if s.inp.b = 2 then g0.redo else g0.redo.map keep }
        let o1 := { o with els := o.els.map (fun e => if e.acked && lane s.inp.m e.lane then { e with landed := true } else e) }
        if o1.els.all El.landed then dropFar { s with groups := s.groups.set o.group (g1.landed n) } o.id
        else setFar { s with groups := s.groups.set o.group g1 } o1
      | some _, none => dropFar s o.id
      | none, _ => s)

/-- STORE_ACK: every element of far store, reduction or `vatom.add` `a` has been performed and acknowledged: the outstanding-store counter
falls (10 R169, R177, 14 R252). -/
def execStoreAck (s : State) : Host.Outcome State Fault Refusal :=
  .next (match s.far.find? (fun o => o.id == s.inp.a) with
    | none => s
    | some o =>
      if o.ac.isNone && o.els.all El.acked then
        let s1 := match s.groups.get? o.group with
          | some g => { s with groups := s.groups.set o.group { g with stores := g.stores - 1 } }
          | none => s
        dropFar s1 o.id
      else s)

/-! ### Publication (10 R183, 21 R358) -/

/-- VERBASE of a context. -/
def verbase (s : State) (ctx : Nat) : Nat := (s.reg (ctxWin ctx + 0x18)).toNat

/-- A version counter with a value, and its 8 bytes in host memory as one write, which the host sees at once: it never reads an older value there again (21 R358). -/
def setVersion (s : State) (ctx k : Nat) (v : W64) : State :=
  let p := hostPlace (fld (verbase s ctx) 10 38 * 1024 + 64 * k)
  ((({ s with vers := s.vers.set (ctx * 16 + k) v } : State).pastHost p 8).poke p (leBytes 8 v.toNat)).shown p (leBytes 8 v.toNat)

/-- A publication covers a write: its group made it before, or its launch did (18 R295), or its group read it, or observed it through a completion or a release, which the schedule says of the writes that
`also` names, since the model follows no chain of them (10 R183, 13 R238; log 25). -/
def Pub.covers (p : Pub) (also : Bool) (v : Veil) : Bool :=
  decide (v.at_ ≤ p.at_) && ((p.job.isSome && v.job == p.job) || p.gid.any (fun g => v.gid == some g || v.seen.any (fun x => x.1 == g && decide (x.2 ≤ p.at_))) || (also && decide (v.at_ ≤ p.look)))

/-- The values that the host may still read, each with whether the schedule counts it as observed. -/
def chosen (s : State) : List (Bool × Veil) := (s.veils.zip (List.range s.veils.length)).map (fun x => (s.inp.nums.contains x.2, x.1))

/-- What the host may still read once a publication is done: nothing older than a write it covers (13 R243). -/
def unveil (p : Pub) : List (Bool × Veil) → List Veil
  | [] => []
  | v :: r => if p.covers v.1 v.2 || r.any (fun x => x.2.place == v.2.place && p.covers x.1 x.2) then unveil p r else v.2 :: unveil p r

/-- PUBLISH_VERSION_ADVANCE: the `a`-th publication that waits at the I/O die: the writes it covers are visible to the host, and its counter advances unless
VERBASE.EN is 0. `nums` lists the values, by their place among those the host may still read, whose writes its group has observed through others. -/
def execPublishVersionAdvance (s : State) : Host.Outcome State Fault Refusal :=
  .next (match s.pubs[s.inp.a]? with
    | none => s
    | some p =>
      let s1 : State := { s with pubs := s.pubs.eraseIdx s.inp.a, veils := unveil p (chosen s) }
      if bit (verbase s p.ctx) 0 then setVersion s1 p.ctx p.k (s.vers.getD (p.ctx * 16 + p.k) 0 + 1) else s1)

/-- A VERBASE write: raising EN sets the 16 counters to 0 and writes them. -/
def writeVerbase (s : State) (ctx v : Nat) : State :=
  let x := fld v 10 38 * 1024 + v % 2
  let s1 := s.setReg (ctxWin ctx + 0x18) (BitVec.ofNat 64 x)
  if bit v 0 && !bit (verbase s ctx) 0 then (List.range 16).foldl (fun s k => setVersion s ctx k 0) s1 else s1

/-- VERBASE_WRITE: context `a`, value `v`. -/
def execVerbaseWrite (s : State) : Host.Outcome State Fault Refusal := .next (writeVerbase s (s.inp.a % 256) s.inp.v.toNat)

end Sys2Proof.Machine
end

