-- ==== Sys2Proof/Machine/Fabric.lean ====
section
/-! DEFINITION. Fabric copies, counters, generations and gathers, major 0x81 (14 R251 to R269), the sending, acknowledging and resending of packets and
words (14 R257 to R260, 24 R376), what arrives from other ranks (21 R351), and the fabric's registers (21 R345 to R354). -/

namespace Sys2Proof.Machine
open Sys2Proof

/-! ### Routes and round-trip estimates (14 R254, R258, R259, 21 R347, R349, 24 R376) -/

/-- RTO from a pair of estimates, in clocks. -/
def rtoOf (e : Nat × Nat) : Nat := min (max (e.1 + 4 * e.2) 13200) 3300000

/-- The starting estimates. -/
def rttStart : Nat × Nat := (33000, 8250)

/-- Estimates after a sample S: RTTVAR first, from the old SRTT; div rounds toward minus infinity. -/
def rttSample (e : Nat × Nat) (sm : Nat) : Nat × Nat :=
  let dev : Int := (((sm : Int) - (e.1 : Int)).natAbs : Int)
  (((e.1 : Int) + ((sm : Int) - (e.1 : Int)) / 8).toNat, ((e.2 : Int) + (dev - (e.2 : Int)) / 4).toNat)

/-- The cache entry of a pod. -/
def rtEntry (s : State) (pod : Nat) : Option RtEntry := s.rtcache.find? (fun e => e.pod == pod)

/-- The estimates in force for a route; none while its pod has no cache entry. -/
def rttOf (s : State) (r : Route) : Option (Nat × Nat) :=
  match r with
  | .pod st => some (s.peerRtt.getD st rttStart)
  | .port p _ _ => some (s.portRtt.getD p rttStart)
  | .net pod _ _ => (rtEntry s pod).map (fun e => (e.srtt, e.rttvar))

/-- A sample taken for a route. -/
def takeSample (s : State) (r : Route) (sm : Nat) : State :=
  match r with
  | .pod st => { s with peerRtt := s.peerRtt.set st (rttSample (s.peerRtt.getD st rttStart) sm) }
  | .port p _ _ => { s with portRtt := s.portRtt.set p (rttSample (s.portRtt.getD p rttStart) sm) }
  | .net pod _ _ =>
    { s with rtcache := s.rtcache.map (fun e =>
        if e.pod = pod then { e with srtt := (rttSample (e.srtt, e.rttvar) sm).1, rttvar := (rttSample (e.srtt, e.rttvar) sm).2 } else e) }

/-- The physical plane of a logical plane. -/
def planeMap (s : State) (p : Nat) : Nat := fld s.pmap (2 * p) 2

/-- The planes the lines of [a, a + n) use, as a mask. -/
def planesUsed (s : State) (a n : Nat) : Nat :=
  ((List.range ((a % 128 + n + 127) / 128)).foldl (fun (m : Nat) i => m ||| 2 ^ planeMap s ((a / 128 + i) % 4)) 0)

/-- The path of the r-th resend of piece i: its planes inside the pod, an entropy value beyond it, the port's one path. -/
def pathOf (s : State) (rt : Route) (i r a n : Nat) : Nat :=
  match rt with
  | .pod _ => planesUsed s a n
  | .port _ _ _ => 0
  | .net _ _ (some raw) => (i + r) % (fld raw 106 4 + 1)
  | .net _ _ none => 0

/-- The most recently used pod first. -/
def touchPod (s : State) (rt : Route) : State :=
  match rt with
  | .net pod _ _ => match rtEntry s pod with | some e => { s with rtcache := e :: s.rtcache.filter (fun x => x.pod != pod) } | none => s
  | _ => s

/-! ### Packets of a copy (14 R257) -/

/-- The packet size U. -/
def sprayUnit (code : Nat) : Nat := 64 * 2 ^ min code 6

/-- Packets of n bytes from region offset b, cut at every multiple of u. -/
def packetCount (b n u : Nat) : Nat := if n = 0 then 0 else (b % u + n + u - 1) / u

/-- Where packet i begins, from the copy's start, and its bytes. -/
def packetAt (b n u i : Nat) : Nat × Nat :=
  let lo := if i = 0 then 0 else (b / u + i) * u - b
  (lo, min n ((b / u + i + 1) * u - b) - lo)

/-- The address whose offset cuts the packets: the destination of an `rput` and of the Lifeline engine's copies, the source of the others. -/
def Copy.cutBase (c : Copy) : Nat := match c.kind with | .put _ | .life _ => c.dst | _ => c.src % 2 ^ 46

/-- The packets of one source or of the copy, and packet numbers: source i's packet j is i x 2^27 + j (2^32 bytes in packets of 64 make up to 2^26 + 1 of them). -/
def Copy.packets (c : Copy) : Nat := packetCount c.cutBase c.rowBytes c.unit
def Copy.sources (c : Copy) : Nat := match c.kind with | .gather => c.rows | _ => 1
def Copy.validPacket (c : Copy) (x : Nat) : Bool := decide (x / 2 ^ 27 < c.sources) && decide (x % 2 ^ 27 < c.packets)
/-- The mark of a packet of an `rget` whose reply has arrived; its bytes stand in `got`. -/
def replyMark (x : Nat) : Nat := x * 2 ^ 41 + 2 ^ 40

def Copy.packet (c : Copy) (x : Nat) : Nat × Nat := packetAt c.cutBase c.rowBytes c.unit (x % 2 ^ 27)

/-- The rank of the far side of a packet, when it is another device's. -/
def Copy.rankOf (c : Copy) (x : Nat) : Nat := match c.kind with | .gather => c.src / 2 ^ 46 + x / 2 ^ 27 * c.rstride | _ => 0
def Copy.route (c : Copy) (x : Nat) : Option Route :=
  match c.kind with
  | .gather => (c.routes.find? (fun r => r.1 == c.rankOf x)).map Prod.snd
  | _ => (c.routes.head?).map Prod.snd

def findCopy (s : State) (id : Nat) : Option Copy := s.copies.find? (fun c => c.id == id)
def setCopy (s : State) (c : Copy) : State := { s with copies := s.copies.map (fun d => if d.id = c.id then c else d) }

/-! ### The words of major 0x81 -/

/-- A word of major 0x81 that issues marks its context, whatever it does then (21 R345). -/
def fabricWord (i : Instr) (s : State) (body : State → Group → Mask → Res) : Host.Outcome State Fault Refusal :=
  runWord i s (fun s g => markFabric s g.env.ctx) (fun s g m => body (markFabric s g.env.ctx) g m)

/-- The first byte of a global range that lies beyond its region (09 R157): bits [47:0] of its address. -/
def beyondRegion (s : State) (base : Nat) : Nat :=
  let size := match regionOf s (fld base 41 5) with | some d => d.size | none => 0
  base % 2 ^ 48 + (size - fld base 0 41)

/-- The checks of a global range of n bytes (14 R256, 09 R157): a misaligned length, where no address is, is named by its base; the first byte beyond
the region, or in a hole, by its own address. DESIGN CHOICE (log 32): a range of no bytes whose base lies in a hole or a reserved range of this device is refused by
reason 1 or 2 like any other; R157 speaks of the first byte, and it has none. -/
def globalRange (s : State) (k n base : Nat) (badLen : Bool) : Except (Nat × Nat) Target :=
  match resolveGlobal s k n 16 base 0 0 with
  | .error (r, a) => .error (if badLen && r < 3 then (9, base % 2 ^ 48) else (r, if r = 7 then beyondRegion s base else a))
  | .ok t =>
    if badLen then .error (9, base % 2 ^ 48)
    else
      match t.rank with
      | some _ => .ok t
      | none => match rangeReason false t.addr n with | some x => .error (x.1, base % 2 ^ 48 + (x.2 - t.addr)) | none => .ok t

/-- The checks of a local range. -/
def localRange (n base : Nat) (badLen : Bool) : Except (Nat × Nat) Target :=
  match rangeCheck base badLen 1 0 n with
  | some x => .error x
  | none => .ok { addr := base, rank := none, route := none }

/-- A fabric copy accepted (14 R256, R262): its tag is taken; one of no bytes completes at once. -/
def startFabric (s : State) (g : Group) (m : Mask) (kind : CopyKind) (w : EN) (src dst n region : Nat) (widen : Bool)
    (routes : List (Nat × Route)) : Res :=
  startCopyAs (fun c => { c with unit := sprayUnit (w.param.toNat % 16), routes := routes, desc := region }) s g m kind w.tag.toNat
    { src := src, dst := dst, rowBytes := n, rows := 1, sstride := 0, dstride := 0, widen := widen, bar := none }

/-- The routes of one target. -/
def Target.routes (t : Target) : List (Nat × Route) := match t.rank, t.route with | some r, some x => [(r, x)] | _, _ => []

/-- `rput` (14 R256). DESIGN CHOICE (log 32): GLOB of the ADDR detail is 0 for the words of major 0x81, which have no GLOB field, whatever address fails (09 Table 4
speaks of the GLOB of the word). -/
def execRput (w : EN) (s : State) : Host.Outcome State Fault Refusal :=
  fabricWord (.rput w) s (fun s g m =>
    let n := lengthOf s g w
    let d := scalarVal s g w.d
    let a := scalarVal s g w.a
    let bad := n % 16 != 0 && a % 16 == 0 && d % 16 == 0
    match localRange n a bad with
    | .error (r, x) => .trap s tAddr (addrDetail false 0 r x)
    | .ok src =>
      match globalRange s 1 n d false with
      | .error (r, x) => .trap s tAddr (addrDetail false 0 r x)
      | .ok t => startFabric s g m (.put w.index.toNat) w src.addr t.addr n (fld d 41 5) false t.routes)

/-- `rget` (14 R262). -/
def execRget (w : EN) (s : State) : Host.Outcome State Fault Refusal :=
  fabricWord (.rget w) s (fun s g m =>
    let n := lengthOf s g w
    let d := scalarVal s g w.d
    let a := scalarVal s g w.a
    let widen := bit w.param.toNat 16
    let bad := n % 16 != 0 && a % 16 == 0 && d % 16 == 0
    match globalRange s 0 n a bad with
    | .error (r, x) => .trap s tAddr (addrDetail false 0 r x)
    | .ok t =>
      match localRange (if widen then 2 * n else n) d false with
      | .error (r, x) => .trap s tAddr (addrDetail false 0 r x)
      | .ok dst => startFabric s g m .get w t.addr dst.addr n 0 widen t.routes)

/-- The fields of a gather descriptor (14 Table 3): DST, SRC, BYTES, COUNT, W, RSTRIDE, GEN, SPRAY. -/
structure GathDesc where
  dst : Nat
  src : Nat
  bytes : Nat
  count : Nat
  widen : Bool
  rstride : Nat
  gen : Nat
  spray : Nat
deriving DecidableEq, Repr

def gathDesc (x : Nat) : GathDesc :=
  { dst := fld x 0 64, src := fld x 64 64, bytes := fld x 128 32, count := fld x 160 16, widen := bit x 176, rstride := fld x 192 32,
    gen := fld x 224 32, spray := fld x 256 4 }

def GathDesc.total (d : GathDesc) : Nat := d.count * d.bytes * (if d.widen then 2 else 1)

/-- The targets of the sources from i on, n of them; the first that fails decides. -/
def gathSources (s : State) (d : GathDesc) (bad : Bool) (i : Nat) : Nat → Except (Nat × Nat) (List Target)
  | 0 => .ok []
  | n + 1 =>
    let rank := fld d.src 46 17 + i * d.rstride
    let base := (if bit d.src 63 then 2 ^ 63 else 0) + min rank (2 ^ 17 - 1) * 2 ^ 46 + d.src % 2 ^ 46
    match (if 2 ^ 17 ≤ rank then (.error (5, (rank * 2 ^ 46 + d.src % 2 ^ 46) % 2 ^ 48) : Except (Nat × Nat) Target)
      else globalRange s 0 d.bytes base bad) with
    | .error e => .error e
    | .ok t =>
      match gathSources s d bad (i + 1) n with
      | .error e => .error e
      | .ok r => .ok (t :: r)

/-- `gath` (14 R266): its descriptor is checked, CODE and STALEIDX are cleared, and the collective engine takes it. -/
def execGath (w : EN) (s : State) : Host.Outcome State Fault Refusal :=
  fabricWord (.gath w) s (fun s g m =>
    let a := scalarVal s g w.a
    match nearDesc s (whoOf s g m) a with
    | .error (r, x) => .trap s tAddr (addrDetail false 0 r x)
    | .ok (s1, none) => .ok s1
    | .ok (s1, some x) =>
      let d := gathDesc x
      let g1 := (s1.group?).getD g
      let bad := d.bytes % 16 != 0 && d.src % 16 == 0 && d.dst % 16 == 0
      match (if d.count = 0 ∧ (d.src % 16 ≠ 0 ∨ bad) then .error (9, d.src % 2 ^ 48) else gathSources s1 d bad 0 d.count) with
      | .error (r, y) => .trap s1 tAddr (addrDetail false 0 r y)
      | .ok ts =>
        match localRange d.total d.dst false with
        | .error (r, y) => .trap s1 tAddr (addrDetail false 0 r y)
        | .ok _ =>
          if Config.copyPlaces ≤ enginePlaces s1 (tileOf s1.cur) then .stall
          else
            let t := g1.tagNo w.tag.toNat
            let p := slicePlace (tileOf s1.cur) a
            let s2 := (s1.poke (p + 56) [0]).poke (p + 60) [0, 0, 0, 0]
            let s3 := tagUpd s2 g.env.block (tixOf s1 g1) t Tag.take
            .ok { s3 with
              seq := s.seq + 1
              copies := s3.copies ++
                [{ id := s.seq, gid := g.gid, who := whoOf s1 g1 m, tile := tileOf s1.cur, block := g.env.block, tix := tixOf s1 g1, kind := .gather,
                   tag := t, src := d.src % 2 ^ 63, dst := d.dst, rowBytes := d.bytes, rows := d.count, sstride := 0, dstride := 0,
                   widen := d.widen, bar := none, unit := sprayUnit d.spray, holds := g.holds.filter (fun i => (farIds s1 s1.cur).contains i),
                   done := [], bytes := 0, routes := (ts.flatMap Target.routes).eraseDups, sends := [], desc := a, rstride := d.rstride,
                   gen := d.gen, space := false, own := ts.findSome? (fun t => if t.rank.isNone then some t.addr else none), marks := [], got := [] }] })

/-- CODE of the descriptor at a near address of a tile, set. -/
def setCode (s : State) (tile a code : Nat) : State := s.poke (slicePlace tile a + 56) (leBytes 1 code)

/-- The place of a 64-byte granule of what a gather has staged in the pool (14 R267): outside every other place, since the pool's layout is not stated. -/
def poolPart (id i : Nat) : Nat := 2 ^ 60 + id * 2 ^ 26 + i

/-- A latent error lies in what a gather has staged. -/
def Flaw.inPool (f : Flaw) (id : Nat) : Bool := f.unit == 6 && decide (2 ^ 60 ≤ f.place) && (f.place - 2 ^ 60) / 2 ^ 26 == id

/-- The staged bytes read from the pool: single errors are corrected and counted, a worse one is consumed (27 R395, R396). -/
def readPool (s : State) (sh : Shadow) : State × Option (List Byte) :=
  match s.flaws.find? (fun f => f.inPool sh.id && f.worse) with
  | some f => (consumeAt s sh.who 6 f.place (recordAddr f.place) f.syn, none)
  | none =>
    let hit := s.flaws.filter (fun f => f.inPool sh.id)
    (hit.foldl (fun s _ => countCorrected s 6) { s with flaws := s.flaws.filter (fun f => !f.inPool sh.id) }, some (memBytes sh.got 0 sh.size))

/-- The bytes of a shadow written at DST in one step; none while a page needs a walk; nothing where reading them is a consumption. -/
def publishShadow (s : State) (sh : Shadow) : Option State :=
  match readPool s sh with
  | (s1, none) => some s1
  | (s1, some bs) => s1.writeVia sh.who sh.tile sh.dst bs

/-- The shadows held for a descriptor of a context on a tile, oldest first. -/
def Shadow.is (h : Shadow) (ctx tile a : Nat) : Bool := h.tile == tile && h.desc == a && h.ctx == ctx && !h.due

/-- The oldest shadow of a descriptor handed to the collective engine for its publication; the others of the descriptor are freed. -/
def handOut (s : State) (ctx tile a : Nat) : State :=
  match s.shadows.find? (fun h => h.is ctx tile a) with
  | none => s
  | some h => { s with shadows := s.shadows.filter (fun x => !x.is ctx tile a) ++ [{ h with due := true }] }

/-- `publish.shadow` and `publish.shadow.drop` (14 R268): the answer is a STAT value. The bytes are written by the collective engine in the same clock, once the near
accesses of the clock have been performed (09 R159: `publishAll`). Where a descriptor was used again while its earlier shadow was still held, the
oldest is published and the others are freed with it; a CODE of 1 that software wrote, with no shadow held, publishes nothing, answers 0 and becomes 3 (DESIGN
CHOICE, log 32: 13 R239 and 14 R268 speak of one shadow). During a replay CODE is what it was once the logged answer can come about (26 R390). -/
def execPublishShadow (w : EN) (s : State) : Host.Outcome State Fault Refusal :=
  fabricWord (.publishShadow w) s (fun s g m =>
    let a := scalarVal s g w.a
    let t := tileOf s.cur
    match nearDesc s (whoOf s g m) a with
    | .error (r, x) => .trap s tAddr (addrDetail false 0 r x)
    | .ok (s1, none) => .ok s1
    | .ok (s1, some x) =>
      let g1 := (s1.group?).getD g
      let code := fld x 448 8
      let now := if code = 0 then 2 else if code = 1 then 0 else 1
      let ans := match logged? s1 (whoOf s1 g1 m) 8 with | some e => e.data.toNat | none => now
      let rest : State := { s1 with shadows := s1.shadows.filter (fun h => !h.is g.env.ctx t a) }
      if ans = 2 then statWord w.d (fun _ _ => 2) s1 g1 m
      else if ans ≠ now then .stall
      else if code ≠ 1 then statWord w.d (fun _ _ => 1) s1 g1 m
      else if bit w.param.toNat 0 then statWord w.d (fun _ _ => 0) (setCode rest t a 4) g1 m
      else statWord w.d (fun _ _ => 0) (setCode (handOut s1 g.env.ctx t a) t a 3) g1 m)

/-- The collective engine performs a publication handed to it, every byte in one step (14 R268, 13 R239), unless a page of the destination waits on a walk or a fault
(20 Table 5). -/
def publishOne (s : State) (h : Shadow) : State :=
  if s.faults.any (fun f => f.ctx == h.ctx && f.reqs.contains (agentReq 4 h.tile h.id (f.page * 65536)) && pageIn (f.page * 65536) h.dst h.size) then s
  else (publishShadow { s with shadows := s.shadows.filter (fun x => x.id != h.id) } h).getD s

/-- Every publication that can be performed is, in the order in which they were handed over: in their clock, as it ends, or once their pages lead somewhere. -/
def publishAll (s : State) : State := (s.shadows.filter Shadow.due).foldl publishOne s

/-- The `i`-th publication the collective engine holds. -/
def publishDue (s : State) (i : Nat) : State := match (s.shadows.filter Shadow.due)[i]? with | none => s | some h => publishOne s h

/-- The region a form names, or ADDR with reason 6 (14 R263). -/
def regionForm (s : State) (w : EN) (f : Nat → Res) : Res :=
  let n := w.param.toNat % 32
  match regionOf s n with
  | none => .trap s tAddr (addrDetail false 0 6 (n * 2 ^ 41))
  | some _ => f n

/-- A placement counter. -/
def State.pc (s : State) (n k : Nat) : W64 := s.pcs.getD (n * 16 + k) 0

/-- A placement counter has reached a threshold (14 R263). -/
def pcReached (x thr : W64) : Bool := decide ((x - thr).toNat < 2 ^ 63)

/-- A placement counter changed by d for a requester: an armed watch whose threshold it reaches will complete, wherever the counter goes then (14 R263, R264). -/
def addPc (s : State) (w : Who) (i : Nat) (d : W64) : State :=
  let x := s.pcs.getD i 0 + d
  let s := if s.ll.replay.isSome then
      { s with ll := { s.ll with seen := { s.ll.seen with highs := s.ll.seen.highs.set i (s.ll.seen.highs.getD i (s.pcs.getD i 0) + (if d.toNat < 2 ^ 63 then d else 0)) } } }
    else s
  manifestUpd { s with pcs := s.pcs.set i x, watches := s.watches.map (fun y => if y.ctr = i ∧ pcReached x y.thr then { y with met := true } else y) } w
    (fun m => { m with pcs := m.pcs.set i (m.pcs.getD i 0 + d) })

/-- `pcarm` (14 R263): a tile holds 64 armed watches. -/
def execPcarm (w : EN) (s : State) : Host.Outcome State Fault Refusal :=
  fabricWord (.pcarm w) s (fun s g m =>
    regionForm s w (fun n =>
      if Config.watches ≤ (s.watches.filter (fun x => x.tile == tileOf s.cur)).length then .stall
      else
        let t := g.tagNo w.tag.toNat
        let s1 := tagUpd s g.env.block (tixOf s g) t Tag.take
        let thr := BitVec.ofNat 64 (scalarVal s g w.a)
        .ok { s1 with watches := s1.watches ++ [{ who := whoOf s g m, gid := g.gid, block := g.env.block, tix := tixOf s g, tile := tileOf s.cur,
                                                  tag := t, ctr := n * 16 + w.index.toNat, thr := thr, met := pcReached (s.pc n w.index.toNat) thr }] }))

/-- A placement counter as its raises alone would have left it in this replay. -/
def State.pcHigh (s : State) (n k : Nat) : W64 := s.ll.seen.highs.getD (n * 16 + k) (s.pc n k)

/-- `pcrd` reads its counter in its issue clock (DESIGN CHOICE, log 29: 14 R263 lets it read in any clock up to its result). A replay waits until the counter has been raised as far as the logged value says (13 R246, 26 R390). -/
def execPcrd (w : EN) (s : State) : Host.Outcome State Fault Refusal :=
  fabricWord (.pcrd w) s (fun s g m =>
    regionForm s w (fun n => statAfter w.d (fun s _ => (s.pc n w.index.toNat).toNat) (fun s _ x => pcReached (s.pcHigh n w.index.toNat) (BitVec.ofNat 64 x)) s g m))

/-- `pcadd`. -/
def execPcadd (w : EN) (s : State) : Host.Outcome State Fault Refusal :=
  fabricWord (.pcadd w) s (fun s g m =>
    regionForm s w (fun n => .ok (addPc s (whoOf s g m) (n * 16 + w.index.toNat) (BitVec.ofNat 64 (scalarVal s g w.a)))))

/-- `genst` (14 R265). -/
def execGenst (w : EN) (s : State) : Host.Outcome State Fault Refusal :=
  fabricWord (.genst w) s (fun s g m =>
    regionForm s w (fun n =>
      let x := BitVec.ofNat 32 (scalarVal s g w.a)
      let s1 : State := if s.ll.replay.isSome then { s with ll := { s.ll with seen := { s.ll.seen with gens := s.ll.seen.gens ++ [(n, x)] } } } else s
      .ok (manifestUpd { s1 with gens := s.gens.set n x } (whoOf s g m) (fun l => { l with gens := l.gens.set n x }))))

/-- `genrd`: a replay waits until the generation has had the logged value. -/
def execGenrd (w : EN) (s : State) : Host.Outcome State Fault Refusal :=
  fabricWord (.genrd w) s (fun s g m =>
    regionForm s w (fun n => statAfter w.d (fun s _ => (s.gens.getD n 0).toNat) (fun s _ x =>
      x == (s.gens.getD n 0).toNat || s.ll.seen.gens.contains (n, BitVec.ofNat 32 x)) s g m))

/-- The fabric status word (14 Table 4). -/
def fabricStatus (s : State) : Nat :=
  at' s.pmap 56 8 + at' s.dead 52 4 + at' (freeSlots s s.cur) 32 8 + min (s.retx.getD (tileOf s.cur) 0) 0xFFFF

/-- `fabst`. -/
def execFabst (w : EN) (s : State) : Host.Outcome State Fault Refusal :=
  fabricWord (.fabst w) s (fun s g m => statWord w.d (fun s _ => fabricStatus s) s g m)

/-- PCARM_COMPLETE: the counter of the `a`-th armed watch has reached its threshold, and the watch completes on its tag (14 R263). -/
def execPcarmComplete (s : State) : Host.Outcome State Fault Refusal :=
  .next (match s.watches[s.inp.a]? with
    | none => s
    | some x =>
      if x.met then
        tagUpd { s with watches := s.watches.eraseIdx s.inp.a } x.block x.tix x.tag Tag.drop
      else s)

/-! ### Sending (14 R257, R258) -/

/-- A piece counted as sent now on a route. -/
def sendOf (s : State) (rt : Route) (x i r a n : Nat) : Option Send :=
  (rttOf s rt).map (fun e => { x := x, resends := r, at_ := s.clock, rto := rtoOf e, path := pathOf s rt i r a n, moved := false, alt := none })

/-- No plane is live, and the route needs one (14 R255). -/
def noPlane (s : State) (rt : Route) : Bool := match rt with | .pod _ => s.dead == 15 | _ => false

/-- The elements of a far word on a line. -/
def FarOp.onLine (o : FarOp) (x : Nat) : List El := o.els.filter (fun e => e.rank.isSome && lineOf e == x)

/-- The route of a line of a far word. -/
def FarOp.route (o : FarOp) (x : Nat) : Option Route :=
  match o.onLine x with
  | e :: _ => (o.routes.find? (fun r => some r.1 == e.rank)).map Prod.snd
  | [] => none

/-- A word in flight has been moved off a plane that failed, and the line is on its logical plane: the remap is under way there (14 R255). -/
def remapping (s : State) (x : Nat) : Bool := s.far.any (fun p => p.sends.any (fun y => y.moved && y.x % 4 == x % 4))

/-- An earlier word to the same line keeps this one back until its reply: of the group, always beyond the pod (13 R237), and inside it while it has not
been sent; of any group while the line's plane is being remapped (14 R255). -/
def lineHeld (s : State) (o : FarOp) (x : Nat) (rt : Route) : Bool :=
  s.far.any (fun p => decide (p.id < o.id) && (p.onLine x).any (fun e => !e.acked)
    && (match rt with
        | .pod _ => remapping s x || (p.group == o.group && !p.sends.any (fun y => y.x == x))
        | _ => p.group == o.group))

/-- A gather's destination bytes. -/
def Copy.gathTotal (c : Copy) : Nat := c.rows * c.rowBytes * (if c.widen then 2 else 1)

/-- Pool space held by gathers and shadows (14 R267). -/
def poolUsed (s : State) : Nat :=
  ((s.copies.filter Copy.space).map Copy.gathTotal).foldl (· + ·) 0 + (s.shadows.map Shadow.size).foldl (· + ·) 0

/-- The reply of a piece carried poison, which the requester's word or copy has consumed (27 R396): the piece is answered. -/
def poisoned (s : State) (w : Who) (x : Nat) : Bool := (s.ctxs.getD w.ctx Ctx.live).spent.contains (w, 6, 2 ^ 60 + x)

/-- The consumption of a reply that carries poison (27 R396, R397). -/
def consumeReply (s : State) (w : Who) (x : Nat) : State := consumeAt s w 6 (2 ^ 60 + x) 0 0

/-- An `rput` packet's source is read; false where a page of it needs a walk or waits on a fault (23 R372), or the read is a consumption. -/
def readPut (s : State) (c : Copy) (x : Nat) : State × Bool :=
  match c.kind with
  | .put _ =>
    let p := c.packet x
    if c.spanWaits s (c.src + p.1) p.2 then (s, false)
    else
      match s.readVia c.who c.tile (c.src + p.1) p.2 with
      | none => (s, false)
      | some (s1, none) => (s1, false)
      | some (s1, some _) => (s1, true)
  | _ => (s, true)

/-- PACKET_SEND: of far word, fabric copy or gather `a` (its id), the request or packet `b` leaves on its path or plane: an `rput` packet after its
source is read; a gather first takes its pool space. With no plane live, the context of a pod transfer ends (14 R255). -/
def execPacketSend (s : State) : Host.Outcome State Fault Refusal :=
  let x := s.inp.b
  .next (match s.far.find? (fun o => o.id == s.inp.a) with
    | some o =>
      match o.route x with
      | none => s
      | some rt =>
        if inFlight s o.holds || o.sends.any (fun y => y.x == x) || poisoned s o.who x || !(o.onLine x).any (fun e => !e.acked) || lineHeld s o x rt then s
        else if noPlane s rt then dropFar (endContext s o.who.ctx stFabfail none) o.id
        else
          match sendOf s rt x (x % 2 ^ 34) 0 (x % 2 ^ 39 * 128) 128 with
          | none => s
          | some sd => touchPod (setFar s { o with sends := o.sends ++ [sd] }) rt
    | none =>
      match findCopy s s.inp.a with
      | none => s
      | some c =>
        if c.kind == .gather && !c.space then
          if decide (2 ^ 30 < c.gathTotal) || decide (2 ^ 30 < poolUsed s + c.gathTotal) then s else setCopy s { c with space := true }
        else if inFlight s c.holds || c.done.contains x || c.sends.any (fun y => y.x == x) || c.marks.contains (replyMark x) && c.kind == .get
            || poisoned s c.who x || !c.validPacket x then s
        else
          match c.route x with
          | none => s
          | some rt =>
            let p := c.packet x
            if noPlane s rt then endContext s c.who.ctx stFabfail none
            else
            match sendOf s rt x (x % 2 ^ 27) 0 (c.cutBase + p.1) p.2 with
            | none => s
            | some sd =>
              match readPut s c x with
              | (s1, true) => touchPod (setCopy s1 { c with sends := c.sends ++ [sd] }) rt
              | (s1, false) => s1)

/-- A round trip ends: a sample when the piece was sent once. -/
def sampleSend (s : State) (rt : Route) (sd : Send) : State := if sd.resends = 0 then takeSample s rt (s.clock - sd.at_) else s

/-- A fabric copy of the Lifeline engine with one packet more acknowledged (26 R386). -/
def finishLife (s : State) (c : Copy) : State := if c.rowBytes ≤ c.bytes then lifeDone s c else setCopy s c

/-- PACKET_ACK: of far word, `rput` or copy of the Lifeline engine `a`, the acknowledgement or reply of request or packet `b` arrives: its elements have come back, or its bytes
are added to the tag (14 R257), and the estimates take a sample (14 R259, 24 R376). With `c` = 2 the reply of a far word carries poison, which is consumed (27 R396). -/
def execPacketAck (s : State) : Host.Outcome State Fault Refusal :=
  let x := s.inp.b
  .next (match s.far.find? (fun o => o.id == s.inp.a) with
    | some o =>
      match o.sends.find? (fun y => y.x == x), o.route x with
      | some sd, some rt =>
        if s.inp.c = 2 then consumeReply (setFar (sampleSend s rt sd) { o with sends := o.sends.filter (fun y => y.x != x) }) o.who x
        else if (o.onLine x).all El.performed then
          let o1 := { o with sends := o.sends.filter (fun y => y.x != x)
                             els := o.els.map (fun e => if e.rank.isSome && lineOf e == x then { e with acked := true } else e) }
          setFar (sampleSend s rt sd) o1
        else s
      | _, _ => s
    | none =>
      match findCopy s s.inp.a with
      | none => s
      | some c =>
        match c.kind, c.sends.find? (fun y => y.x == x), c.route x with
        | .put _, some sd, some rt =>
          let n := (c.packet x).2
          let s1 := tagUpd (sampleSend s rt sd) c.block c.tix c.tag (Tag.add n)
          finishCopy s1 { c with sends := c.sends.filter (fun y => y.x != x), done := x :: c.done, bytes := c.bytes + n }
        | .life _, some sd, some rt => finishLife (sampleSend s rt sd) { c with sends := c.sends.filter (fun y => y.x != x), done := x :: c.done,
                                                                                 bytes := c.bytes + (c.packet x).2 }
        | _, _, _ => s)

/-- RETX of a tile raised by n, saturating (14 Table 4). -/
def addRetx (s : State) (tile n : Nat) : State := if n = 0 then s else { s with retx := s.retx.set tile (min (s.retx.getD tile 0 + n) 0xFFFF) }

/-- A resend of a piece on its route, or on the cache path of its rank since its port went down; the failure of its sixteenth sending ends the context (14 R259,
R260), and `fail` takes the piece's word out. -/
def resend (s : State) (ctx tile : Nat) (rt : Route) (sd : Send) (i a n : Nat) (put : State → Send → State) (fail : State → State) : State :=
  if s.clock < sd.at_ + sd.rto then s
  else if 15 ≤ sd.resends then fail (endContext s ctx stFabfail none)
  else
    match sendOf s (sd.alt.getD rt) sd.x i (sd.resends + 1) a n with
    | none => s
    | some sd1 => put (addRetx s tile 1) { sd1 with moved := sd.moved, alt := sd.alt }

/-- RTO_EXPIRY: piece `b` of far word, copy or gather `a` is resent alone when no reply came within its RTO; a resent `rput` packet reads its source
again (14 R261). -/
def execRtoExpiry (s : State) : Host.Outcome State Fault Refusal :=
  let x := s.inp.b
  .next (match s.far.find? (fun o => o.id == s.inp.a) with
    | some o =>
      match o.sends.find? (fun y => y.x == x), o.route x with
      | some sd, some rt =>
        resend s o.who.ctx o.who.tile rt sd (x % 2 ^ 34) (x % 2 ^ 39 * 128) 128 (fun s sd1 =>
          setFar s { o with sends := o.sends.map (fun y => if y.x = x then sd1 else y) }) (fun s => dropFar s o.id)
      | _, _ => s
    | none =>
      match findCopy s s.inp.a with
      | none => s
      | some c =>
        match c.sends.find? (fun y => y.x == x), c.route x with
        | some sd, some rt =>
          let p := c.packet x
          if s.clock < sd.at_ + sd.rto then s else
          match readPut s c x with
          | (s0, true) => resend s0 c.who.ctx c.tile rt sd (x % 2 ^ 27) (c.cutBase + p.1) p.2 (fun s sd1 =>
              setCopy s { c with sends := c.sends.map (fun y => if y.x = x then sd1 else y) }) (fun s => s)
          | (s0, false) => if 15 ≤ sd.resends then resend s c.who.ctx c.tile rt sd (x % 2 ^ 27) (c.cutBase + p.1) p.2 (fun s _ => s) (fun s => s) else s0
        | _, _ => s)

/-! ### Placing (14 R257, R262, R267; 21 R351) -/

/-- Bytes as they land: widened when W is 1 (11 R191). -/
def widened (w : Bool) (bs : List Byte) : List Byte := if w then bs.flatMap (fun b => leBytes 2 (widenByte b.toNat)) else bs

/-- A packet of an `rput` to the device's own rank: its bytes are performed, then counted, then reported to the tag; it waits on the faults of its pages (23 R372). -/
def placePut (s : State) (c : Copy) (k x : Nat) : State :=
  let p := c.packet x
  if c.spanWaits s (c.src + p.1) p.2 || c.spanWaits s (c.dst + p.1) p.2 then s else
  match s.readVia c.who c.tile (c.src + p.1) p.2 with
  | none => s
  | some (s1, none) => s1
  | some (s1, some bs) =>
    match s1.writeVia c.who c.tile (c.dst + p.1) bs with
    | none => s
    | some s2 =>
      let s3 := addPc s2 c.who (c.desc * 16 + k) (BitVec.ofNat 64 p.2)
      finishCopy (tagUpd s3 c.block c.tix c.tag (Tag.add p.2)) { c with done := x :: c.done, bytes := c.bytes + p.2 }

/-- Sectors of [a, a + n): the 256-byte blocks. -/
def sectorsOf (a n : Nat) : List Nat := (List.range ((a % 256 + n + 255) / 256)).map (fun i => a / 256 + i)

/-- The part of a run of bytes from a up that lies in block b. -/
def inSector (a : Nat) (bs : List Byte) (b : Nat) : Nat × List Byte :=
  let lo := max a (256 * b)
  (lo, (bs.drop (lo - a)).take (256 * b + 256 - lo))

/-- Data of an `rget` packet placed: all its sectors that are not placed yet, or one of them (11 R192 sector by sector), each adding its bytes to the tag (14 R262);
packet x's sector b is marked as x * 2^41 + b until the packet is whole. A sector waits on the faults of its pages (23 R372). -/
def placeGet (s : State) (c : Copy) (x : Nat) (bs : List Byte) (only : Option Nat) : State :=
  let z := if c.widen then 2 else 1
  let a := c.dst + z * (c.packet x).1
  let data := widened c.widen bs
  let mark (b : Nat) : Nat := x * 2 ^ 41 + b
  let left := (sectorsOf a data.length).filter (fun b => !c.marks.contains (mark b))
  let todo := left.filter (fun b => match only with | some o => o == b | none => true)
  if todo.any (fun b => c.spanWaits s (inSector a data b).1 (inSector a data b).2.length) then s else
  let s1? := todo.foldl (fun (r : Option State) b =>
    match r with | none => none | some s => (inSector a data b |> fun y => s.writeVia c.who c.tile y.1 y.2)) (some s)
  match s1? with
  | none => s
  | some s1 =>
    let n := (todo.map (fun b => (inSector a data b).2.length)).foldl (· + ·) 0
    let s2 := tagUpd s1 c.block c.tix c.tag (Tag.add n)
    if todo.length = left.length then finishCopy s2 { c with done := x :: c.done, bytes := c.bytes + n, marks := c.marks.filter (fun y => y / 2 ^ 41 != x) }
    else setCopy s2 { c with marks := c.marks ++ todo.map mark, bytes := c.bytes + n }

/-- The reply to packet x of an `rget` arrives: the estimates take their sample (24 R376), and the request is answered. -/
def replyGet (s : State) (c : Copy) (x : Nat) (bs : List Byte) : State × Copy :=
  let s1 := match c.sends.find? (fun y => y.x == x), c.route x with | some sd, some rt => sampleSend s rt sd | _, _ => s
  let c1 : Copy := { c with sends := c.sends.filter (fun y => y.x != x), marks := c.marks ++ [replyMark x], got := memStore c.got (c.packet x).1 bs }
  (setCopy s1 c1, c1)

/-- A reply with poison arrives: it ends the round trip like any other (24 R376), and is consumed. -/
def poisonReply (s : State) (c : Copy) (x : Nat) : State :=
  let s1 := match c.sends.find? (fun y => y.x == x), c.route x with | some sd, some rt => sampleSend s rt sd | _, _ => s
  consumeReply (setCopy s1 { c with sends := c.sends.filter (fun y => y.x != x) }) c.who x

/-- A packet of a gather staged in its shadow, with the generation its owner read (14 R267). -/
def placeGather (s : State) (c : Copy) (x : Nat) (bs : List Byte) (gen : Nat) : State :=
  let p := c.packet x
  let z := if c.widen then 2 else 1
  let i := x / 2 ^ 27
  let s1 := match c.sends.find? (fun y => y.x == x), c.route x with | some sd, some rt => sampleSend s rt sd | _, _ => s
  setCopy s1 { c with got := memStore c.got (z * (i * c.rowBytes + p.1)) (widened c.widen bs), done := x :: c.done,
                      marks := if gen = c.gen || c.marks.contains i then c.marks else c.marks ++ [i],
                      sends := c.sends.filter (fun y => y.x != x) }

/-- A copy of the Lifeline engine to the device's own rank, with one packet more on its way: its bytes are written with the last one, at one instant (13 R239), and
never where its cut is abandoned; it waits while a page needs a walk. -/
def lifeHere (s : State) (c : Copy) : State :=
  if c.bytes < c.rowBytes then setCopy s c
  else match lifePoke s c.dst (memBytes c.got 0 c.rowBytes) with | none => s | some s1 => lifeDone s1 c

/-- A packet of this device's own fabric copy or gather: performed here where the far side is this device, else placed with the bytes that came. -/
def placeOwn (s : State) (c : Copy) (x : Nat) : State :=
  if inFlight s c.holds || c.done.contains x || !c.validPacket x then s
  else
    let p := c.packet x
    match c.kind, c.route x with
    | .put k, none => placePut s c k x
    | .get, none =>
      if c.spanWaits s (c.src + p.1) p.2 then s else
      match s.readVia c.who c.tile (c.src + p.1) p.2 with
      | none => s
      | some (s1, none) => s1
      | some (s1, some bs) => placeGet s1 c x bs (if s.inp.d = 0 then none else some (s.inp.d - 1))
    | .gather, none =>
      match c.own.map (fun a => a + p.1) with
      | none => s
      | some a =>
        if !c.space || c.spanWaits s a p.2 then s
        else
          match s.readVia c.who c.tile a p.2 with
          | none => s
          | some (s1, none) => s1
          | some (s1, some bs) => placeGather s1 c x bs (s1.gens.getD (c.src / 2 ^ 41 % 32) 0).toNat
    | .life _, none => lifeHere s { c with done := x :: c.done, bytes := c.bytes + p.2 }
    | k, some _ =>
      if k == .get && c.marks.contains (replyMark x) then placeGet s c x (memBytes c.got p.1 p.2) (if s.inp.d = 0 then none else some (s.inp.d - 1))
      else if !c.sends.any (fun y => y.x == x) then s
      else if s.inp.nums == [1] then poisonReply s c x
      else if s.inp.bytes.length ≠ p.2 then s
      else
        match k with
        | .get => let r := replyGet s c x s.inp.bytes; placeGet r.1 r.2 x s.inp.bytes (if s.inp.d = 0 then none else some (s.inp.d - 1))
        | .gather => placeGather s c x s.inp.bytes (s.inp.v.toNat % 2 ^ 32)
        | _ => s
    | _, none => s

/-- One sender's part of an arrival: its rank, the number of its packet, and what the packet says of the word that sent it: %block, %group, serial number, launch,
lane (26 R389). -/
structure Sender where
  rank : Nat
  ident : Nat
  linear : Nat
  index : Nat
  serial : Nat
  launch : Nat
  lane : Nat
deriving DecidableEq, Repr

/-- The requester of something that arrives from another rank, with the epoch it carries (26 R381, R389). -/
def Sender.who (x : Sender) (ctx : Nat) (epoch : Int) : Who :=
  { agentWho ctx midTile with epoch := epoch, linear := x.linear, index := x.index, serial := x.serial, launch := x.launch, lane := x.lane }

/-- The same in an ARRIVE entry, whose BLOCK is the sender's rank (26 Table 6). -/
def Sender.arrives (x : Sender) (ctx : Nat) (epoch : Int) : Who := { x.who ctx epoch with linear := x.rank }

/-- Its packet, as the record of placed packets names it. -/
def Sender.packet (x : Sender) : Nat × Nat := (x.rank, x.ident)

/-- Senders listed seven numbers each. -/
def sendersOf : List Nat → List Sender
  | r :: i :: l :: g :: n :: u :: e :: t => { rank := r, ident := i, linear := l, index := g, serial := n, launch := u, lane := e } :: sendersOf t
  | _ => []

/-- What an arrival does: 0 packet of an `rput` on counter k, 1 load or copy read (k = 1: a gather's, which also reads the generation), 2 store, 3 atomic k, 4
reduction k, 5 `vatom.add`, 6 a merged update of a reduction window. An arrival of 3 to 6 is for one element: the operations of a word's lanes that name it, in
ascending order (10 R175); the elements of a request or line arrive one by one. `senders` are the sender's word, and those of the other contributions that a merged
update holds, all of one epoch. -/
structure Arrival where
  what : Nat
  k : Nat
  ty : Ty
  epoch : Int
  global : Nat
  n : Nat
  senders : List Sender
deriving DecidableEq, Repr

def arrivalOf (x : Inp) : Arrival :=
  let ty := Ty.ofCode (x.nums.getD 2 0 % 16)
  let what := x.nums.getD 0 0
  { what := what, k := x.nums.getD 1 0, ty := ty, epoch := (x.nums.getD 3 0 : Int) - 1, global := x.v.toNat % 2 ^ 46,
    n := if what = 1 then x.nums.getD 4 0 else if 3 ≤ what ∧ what ≤ 6 then bytesOf ty else x.bytes.length,
    senders := sendersOf (x.a :: x.b :: (List.range 5).map (fun i => x.nums.getD (5 + i) 0) ++ (if what = 6 then x.nums.drop 10 else [])) }

/-- The kind of operation of an arriving word. -/
def Arrival.kind (a : Arrival) : FarKind := match a.what with | 3 => .atom a.k | 4 => .red a.k | 5 => .vatom | _ => .store

/-- It operates on one element. -/
def Arrival.atomic (a : Arrival) : Bool := a.what == 3 || a.what == 4 || a.what == 5

/-- The operations of an arriving word on its element, in order: operand, and expected value for an atomic that returns one. -/
def Arrival.ops (ar : Arrival) (bs : List Byte) : List El :=
  let z := if ar.what = 3 then 2 * ar.n else ar.n
  (List.range (bs.length / max z 1)).map (fun i =>
    let x := (bs.drop (z * i)).take z
    { lane := i, addr := 0, rank := none, data := leVal (x.take ar.n), cmp := leVal (x.drop ar.n), performed := false, val := 0, acked := false, landed := false })

/-- A merged update of an element holding m: the contributions' exact sum rounded once, then added; or each integer contribution once (14 R253). -/
def Arrival.merge (ar : Arrival) (bs : List Byte) (m : Nat) : Nat :=
  let ds := (List.range (bs.length / ar.n)).map (fun i => leVal ((bs.drop (ar.n * i)).take ar.n))
  if ar.ty.float then addAt ar.ty m (sumRound (fmtOf ar.ty) .rne (ds.map (fromBits (fmtOf ar.ty)))).1
  else ds.foldl (fun m d => (FarKind.red ar.k).apply ar.ty m d 0) m

/-- n bytes read from a local address up for a requester that is not this device's: none while a page needs a walk; no bytes where one is poisoned. -/
def readSoftVia (s : State) (ctx a n : Nat) : Option (State × Option (List Byte)) :=
  let ps := pieces a (List.replicate n 0) (n / 65536 + 2)
  (ps.mapM (fun p => placeOf s midTile ctx p.1 0)).bind (fun qs => (hbmRuns s ((qs.zip ps).map (fun x => (x.1, x.2.2.length)))).map (fun s =>
    (qs.zip ps).foldl (fun r x =>
      match r with
      | (s, none) => (s, none)
      | (s, some acc) =>
        match (s.pastHost x.1 x.2.2.length).readSoft x.1 x.2.2.length with
        | (s1, none) => (s1, none)
        | (s1, some bs) => (s1, some (acc ++ bs))) (s, some [])))

/-- An arrival performed at address a of this device: the state and the reply, none for one that carries poison (27 R396). None while it waits: for a walk, or for
an atomic of the host on a SYS page (21 R359). With `d` = 1 an atomic acts on the value from before a host atomic that overlaps it (13 R244). -/
def performArrival (s : State) (w : Who) (ar : Arrival) (a : Nat) : Option (State × Option (List Byte)) :=
  if ar.what = 1 then
    (readSoftVia s w.ctx a ar.n).map (fun r =>
      (r.1, r.2.map (fun bs => if ar.k = 1 then bs ++ leBytes 4 (s.gens.getD (ar.global / 2 ^ 41 % 32) 0).toNat else bs)))
  else if ar.what = 0 ∨ ar.what = 2 then (s.writeVia w midTile a s.inp.bytes).map (fun s1 => (s1, some []))
  else
    match xlate s midTile w.ctx a 1 with
    | none => none
    | some (p, sys) =>
      if sys && isHost p && hostHolds s p ar.n then none
      else
        (hbmRun s p ar.n).bind (fun s =>
        match s.readSoft p ar.n with
        | (s1, none) => some (s1, none)
        | (s1, some bs) =>
          let old := if s.inp.d = 1 then staleAt s p ar.n sys else none
          let r := applyAll ar.kind ar.ty (leVal (old.getD bs)) (ar.ops s.inp.bytes)
          let value (m : Nat) : Nat := if ar.what = 6 then ar.merge s.inp.bytes m else (applyAll ar.kind ar.ty m (ar.ops s.inp.bytes)).2
          some (s1.atomicAt w p ar.n sys old (fun b => leBytes ar.n (value (leVal b))), some (if ar.what = 3 then r.1.flatMap (fun x => leBytes ar.n x.2) else [])))

/-- The order-log events of an arrival at address a of this device, for global address obj (26 Table 5): ARRIVE, with ATOM at the element or line of an atomic; or
MERGE for each contribution; each with the word that caused it. -/
def Arrival.events (ar : Arrival) (ctx a obj : Nat) : List (Nat × Nat × Who) :=
  if ar.what = 6 then ar.senders.map (fun x => (2, a, x.who ctx ar.epoch))
  else
    ar.senders.flatMap (fun x =>
      (7, obj, x.arrives ctx ar.epoch) :: (if ar.atomic then [(1, if ar.what = 5 then a - a % 128 else a, x.who ctx ar.epoch)] else []))

/-- A rank lies in this device's pod (21 R346). -/
def inPod (s : State) (r : Nat) : Bool := match resolveRank s r with | .ok none | .ok (some (.pod _)) => true | _ => false

/-- The gate of several events of a requester. -/
def gates (s : State) (w : Who) (es : List (Nat × Nat × Who)) : Gate :=
  if s.ll.replay.isNone && s.records w && !roomFor s es.length then .wait
  else
    let gs := es.map (fun e => gate s e.2.2 e.1 e.2.1)
    if gs.contains .diverge then .diverge else if gs.contains .wait then .wait else .free

/-- The acknowledgement or reply of packets sent once more (14 R259). -/
def answerAgain (s : State) (sender ident : Nat) : State :=
  match s.answers.find? (fun x => x.1 == sender && x.2.1 == ident) with
  | some x => { s with answers := s.answers ++ [x] }
  | none => s

/-- A packet or word from another rank, checked against this device's own descriptor (21 R351), placed at most once and answered (14 R259), counted (14 R264) and
logged (26 Table 5). Contributions are merged only where they come from this pod (14 R253). A merged update that names a contribution placed already, which a switch
merged once more, or the same one twice, is discarded whole and unacknowledged, so that its other contributions are sent again (DESIGN CHOICE, log 29: 14 R253 is
silent). -/
def placeArrival (s : State) (sender ident : Nat) : State :=
  let ar := arrivalOf s.inp
  match regionOf s (ar.global / 2 ^ 41 % 32) with
  | none => s
  | some d =>
    let o := ar.global % 2 ^ 41
    let a := d.base + o
    let from_ := ar.senders.map Sender.packet
    let badMerge := !d.redwin || s.inp.bytes.length != ar.n * from_.length || !ar.senders.all (fun x => inPod s x.rank) || from_.eraseDups.length != from_.length
    if d.size < o + ar.n ∨ a < 0x800000 ∨ (rangeReason false a ar.n).isSome ∨ (ar.what = 6 ∧ badMerge) then s
    else if s.placed.contains (sender, ident) then answerAgain s sender ident
    else if from_.any (fun x => s.placed.contains x) then s
    else
      let w : Who := { agentWho d.ctx midTile with epoch := ar.epoch }
      let s := arriveEpoch s d.ctx ar.epoch
      let obj := 2 ^ 63 + rankOf s * 2 ^ 46 + ar.global
      let evs := ar.events d.ctx a obj
      match gates s w evs with
      | .wait => s
      | .diverge => diverged s
      | .free =>
        match performArrival (evs.foldl (fun s e => passEvent s e.2.2 e.1 e.2.1) s) w ar a with
        | none => s
        | some (s1, reply) =>
          let i := ar.global / 2 ^ 41 % 32 * 16 + ar.k % 16
          let s2 := if ar.what = 0 then addPc s1 w i (BitVec.ofNat 64 ar.n) else s1
          let data (k : Nat) : Nat := if k = 2 then s.seq else if k = 7 ∧ ar.what = 0 then (s2.pcs.getD i 0).toNat else 0
          let s3 := evs.foldl (fun s e => logEvent s e.2.2 e.1 e.2.1 (data e.1)) s2
          { s3 with
            placed := s3.placed ++ from_
            answers := s3.answers ++ from_.map (fun x => (x.1, x.2, reply.getD [], reply.isNone))
            seq := if ar.what = 6 then s3.seq + 1 else s3.seq }

/-- PACKET_PLACE: `c` = 0: packet `b` of this device's fabric copy or gather `a` is placed (for a far source with the bytes `bytes`, generation `v`; `d` > 0
places only destination block d - 1 of an `rget`; `nums` = [1] says the reply carries poison). `c` = 1: packet or word `b` of rank `a` arrives, for
the global address `v`; `nums` say what it does (Arrival), `bytes` are its data. `c` = 2: the collective engine performs the `a`-th publication it holds. -/
def execPacketPlace (s : State) : Host.Outcome State Fault Refusal :=
  .next (if s.inp.c = 1 then placeArrival s s.inp.a s.inp.b
    else if s.inp.c = 2 then publishDue s s.inp.a
    else match findCopy s s.inp.a with | some c => placeOwn s c s.inp.b | none => s)

/-- GATHER_COMPLETE: gather `a` ends (14 R267): too large, stale, or complete with its shadow held; CODE is written before the tag completes. -/
def execGatherComplete (s : State) : Host.Outcome State Fault Refusal :=
  .next (match findCopy s s.inp.a with
    | none => s
    | some c =>
      if c.kind != .gather then s
      else
        let total := c.gathTotal
        let out := { s with copies := s.copies.filter (fun d => d.id != c.id) }
        let fin (s : State) : State := tagUpd s c.block c.tix c.tag Tag.drop
        if 2 ^ 30 < total then fin (setCode out c.tile c.desc 5)
        else
          match c.marks with
          | i :: r =>
            let low := r.foldl min i
            fin (setCode (out.poke (slicePlace c.tile c.desc + 60) (leBytes 4 low)) c.tile c.desc 2)
          | [] =>
            if c.done.length < c.rows * c.packets then s
            else
              let sh : Shadow := { id := c.id, due := false, ctx := c.who.ctx, tile := c.tile, desc := c.desc, dst := c.dst, size := total, who := c.who, got := c.got }
              fin (tagUpd { (setCode out c.tile c.desc 1) with shadows := s.shadows ++ [sh] } c.block c.tix c.tag (Tag.add total)))

/-! ### Planes, ports and tables (14 R255, 21 R345 to R354) -/

/-- The plane a logical plane moves to when q fails. -/
def remap (dead p : Nat) : Nat :=
  if !bit dead (p ^^^ 1) then p ^^^ 1 else ((List.range 4).find? (fun x => !bit dead x)).getD p

/-- A piece is in flight on physical plane q. -/
def onPlane (q : Nat) (rt : Route) (sd : Send) : Bool := match rt with | .pod _ => bit sd.path q | _ => false

/-- The pieces in flight that `hit` picks sent again by `f`: RETX counts them, and an `rput` packet reads its source again (14 R261). One whose source needs a walk, and
one that has been sent 16 times (14 R260), are not sent now, but as `late` leaves them at their RTO. -/
def resendHits (s : State) (hit : Route → Send → Bool) (f : Route → Send → Nat → Nat → Nat → Send) (late : Route → Send → Send) : State :=
  let far (o : FarOp) (sd : Send) : Send :=
    match o.route sd.x with
    | some rt => if !hit rt sd then sd else if sd.resends < 15 then f rt sd (sd.x % 2 ^ 34) (sd.x % 2 ^ 39 * 128) 128 else late rt sd
    | none => sd
  let cop (c : Copy) (sd : Send) : Send :=
    match c.route sd.x with
    | some rt =>
      if !hit rt sd then sd
      else if sd.resends < 15 && (readPut s c sd.x).2 then f rt sd (sd.x % 2 ^ 27) (c.cutBase + (c.packet sd.x).1) (c.packet sd.x).2 else late rt sd
    | none => sd
  let count (g : Send → Send) (xs : List Send) : Nat := (xs.filter (fun sd => (g sd).resends != sd.resends)).length
  let s1 := s.far.foldl (fun t o => addRetx t o.who.tile (count (far o) o.sends)) s
  let s2 := s.copies.foldl (fun t c => addRetx t c.tile (count (cop c) c.sends)) s1
  let s3 := s.copies.foldl (fun t c => (c.sends.filter (fun sd => (cop c sd).resends != sd.resends)).foldl (fun t sd => (readPut t c sd.x).1) t) s2
  { s3 with far := s3.far.map (fun o => { o with sends := o.sends.map (far o) }), copies := s3.copies.map (fun c => { c with sends := c.sends.map (cop c) }) }

/-- PLANE_FAIL: physical plane `a` fails: DEAD and PMAP, the pieces on it resent, an error record of class 5; with no plane live, every context that
uses the pod ends with FABFAIL. -/
def execPlaneFail (s : State) : Host.Outcome State Fault Refusal :=
  let q := s.inp.a % 4
  .next (if bit s.dead q then s
    else
      let dead := s.dead + 2 ^ q
      let s1 := errRecord { s with dead := dead } 5 9 0 0 0xFF q 0
      if dead = 15 then
        s1.ctxs.foldl (fun s x =>
          let pod (r : Nat × Route) : Bool := match r.2 with | .pod _ => true | _ => false
          if x.2.fabric && (s.far.any (fun o => o.who.ctx == x.1 && o.routes.any pod) || s.copies.any (fun c => c.who.ctx == x.1 && c.routes.any pod)) then
            endContext s x.1 stFabfail none else s) s1
      else
        let pm := (List.range 4).foldl (fun m p => if fld m (2 * p) 2 = q then setFld m (2 * p) 2 (remap dead q) else m) s.pmap
        let s2 : State := { s1 with pmap := pm }
        resendHits s2 (onPlane q) (fun rt sd i a n => match sendOf s2 rt sd.x i (sd.resends + 1) a n with | some y => { y with moved := true } | none => sd)
          (fun _ sd => sd))

/-- A transfer in flight uses a pod's entry. -/
def podUsed (s : State) (pod : Nat) : Bool :=
  let on (r : Route) : Bool := match r with | .net p _ _ => p == pod | _ => false
  s.far.any (fun o => o.routes.any (fun r => on r.2) || o.sends.any (fun y => y.alt.any on))
    || s.copies.any (fun c => c.routes.any (fun r => on r.2) || c.sends.any (fun y => y.alt.any on))

/-- An entry leaves the cache: its estimates go to its pod group. -/
def evict (s : State) (e : RtEntry) : State :=
  { s with rtcache := s.rtcache.filter (fun x => x.pod != e.pod), podRtt := s.podRtt.set (e.pod / 64) (e.srtt, e.rttvar) }

/-- A route that waits on a miss of this pod, with the entry a fill gives (21 R346). -/
def Route.filled (pod raw : Nat) : Route → Route
  | .net p d none => .net p d (if p = pod then some raw else none)
  | r => r

/-- A fill of the cache (21 R347), held while no entry can leave for it. -/
def fillPod (s : State) (raw : Nat) : State :=
  let pod := fld raw 110 17
  let hold := { s with rtwait := s.rtwait ++ [raw] }
  match rtEntry s pod with
  | some e =>
    if bit raw 127 then { s with rtcache := { e with raw := raw } :: s.rtcache.filter (fun x => x.pod != pod), rtmiss := s.rtmiss.filter (· != pod) }
    else if podUsed s pod then hold else evict s e
  | none =>
    if !bit raw 127 then s
    else
      let fillS (y : Send) : Send := { y with alt := y.alt.map (Route.filled pod raw) }
      let add (s : State) : State :=
        let est := s.podRtt.getD (pod / 64) rttStart
        { s with
            rtcache := { pod := pod, raw := raw, srtt := est.1, rttvar := est.2 } :: s.rtcache, rtmiss := s.rtmiss.filter (· != pod)
            far := s.far.map (fun o => { o with routes := o.routes.map (fun r => (r.1, r.2.filled pod raw)), sends := o.sends.map fillS })
            copies := s.copies.map (fun c => { c with routes := c.routes.map (fun r => (r.1, r.2.filled pod raw)), sends := c.sends.map fillS }) }
      if s.rtcache.length < Config.rtcacheMax then add s
      else
        match s.rtcache.reverse.find? (fun e => !podUsed s e.pod) with
        | some e => add (evict s e)
        | none => hold

/-- RTFILL: a write of RTFILLHI with `v` (RTFILLLO as it stands); with `a` = 1 the oldest held fill is tried again. -/
def execRtfill (s : State) : Host.Outcome State Fault Refusal :=
  .next (if s.inp.a = 1 then
      match s.rtwait with
      | raw :: r => fillPod { s with rtwait := r } raw
      | [] => s
    else fillPod s ((s.reg (jobWin + 0x10)).toNat + s.inp.v.toNat * 2 ^ 64))

/-- A route that waits for the entry of a pod. -/
def Route.misses (s : State) (r : Route) : Option Nat := match r with | .net p _ _ => if (rtEntry s p).isNone then some p else none | _ => none

/-- RTMISS: the pod of a route of far word, copy or gather `a` has no entry: the word waits and the pod is reported; with `b` = 1 the service cores find
the pod absent and end the context with FABFAIL: its words that wait on the pod, from their issue or since a port went down, fail with it, and the miss is answered
(21 R348, 14 R260). -/
def execRtmiss (s : State) : Host.Outcome State Fault Refusal :=
  let look (ctx : Nat) (rs : List Route) : State :=
    match rs.findSome? (Route.misses s) with
    | none => s
    | some p =>
      if s.inp.b = 1 then
        let s1 := endContext s ctx stFabfail none
        let waits (o : FarOp) : Bool := o.routes.any (fun r => r.2.misses s == some p) || o.sends.any (fun y => y.alt.any (fun r => r.misses s == some p))
        latch { s1 with far := s1.far.filter (fun o => !(o.who.ctx == ctx && waits o)), rtmiss := s1.rtmiss.filter (· != p) }
      else if s.rtmiss.contains p then s else { s with rtmiss := s.rtmiss ++ [p] }
  .next (match s.far.find? (fun o => o.id == s.inp.a) with
    | some o => look o.who.ctx (o.routes.map Prod.snd ++ o.sends.filterMap Send.alt)
    | none => match findCopy s s.inp.a with | some c => look c.who.ctx (c.routes.map Prod.snd ++ c.sends.filterMap Send.alt) | none => s)

/-- A context has a fabric transfer, watch, gather or shadow in flight (21 R345). -/
def fabricBusy (s : State) (ctx : Nat) : Bool :=
  s.far.any (fun o => o.who.ctx == ctx && !o.routes.isEmpty) || s.watches.any (fun x => x.who.ctx == ctx) || s.shadows.any (fun x => x.ctx == ctx)
    || s.copies.any (fun c => c.who.ctx == ctx && (match c.kind with | .put _ | .get | .gather | .life _ => true | _ => false))

/-- A JOBCTL write (21 R345, R349). -/
def writeJobctl (s : State) (v : Nat) : State :=
  let old := (s.reg jobWin).toNat
  let x := setFld v 10 1 0
  let s1 := s.setReg jobWin (BitVec.ofNat 64 x)
  if bit x 63 && !bit old 63 then
    { s1 with peerRtt := [], portRtt := [], podRtt := [], ctxs := s1.ctxs.map (fun c => (c.1, { c.2 with fabric := false })) }
  else if !bit x 63 && bit old 63 then
    (List.range 256).foldl (fun s ctx =>
      if (s.ctxs.getD ctx Ctx.live).fabric || fabricBusy s ctx || (List.range 32).any (fun n => match regionOf s n with | some d => d.ctx == ctx | none => false)
      then endContext s ctx stKilled none else s) s1
  else s1

/-- JOBCTL_WRITE: value `v`. -/
def execJobctlWrite (s : State) : Host.Outcome State Fault Refusal := .next (writeJobctl s s.inp.v.toNat)

/-- A descriptor write of four words (21 R350): while V is 1 only V changes; raising V clears the region's counters and generation, which may meet
the threshold of an armed watch (14 R263). -/
def writeRegion (s : State) (n : Nat) (ws : List Nat) : State :=
  let a := jobWin + 0x3000 + 32 * n
  let old := (s.reg a).toNat
  let w0 := ws.getD 0 0
  if bit old 0 then s.setReg a (BitVec.ofNat 64 (setFld old 0 1 w0))
  else
    let put (s : State) (i v : Nat) : State := s.setReg (a + 8 * i) (BitVec.ofNat 64 v)
    let s1 := put (put (put (put s 0 (w0 - at' (fld w0 13 3) 13 3)) 1 (ws.getD 1 0 % 2 ^ 42)) 2 0) 3 0
    if bit w0 0 then
      { s1 with
        pcs := (List.range 16).foldl (fun t k => Tab.set t (n * 16 + k) 0) s1.pcs
        gens := s1.gens.set n 0
        watches := s1.watches.map (fun y => if y.ctr / 16 = n ∧ pcReached 0 y.thr then { y with met := true } else y) }
    else s1

/-- REGION_VALID: descriptor `a` is written with the four words `nums`. -/
def execRegionValid (s : State) : Host.Outcome State Fault Refusal := .next (writeRegion s (s.inp.a % 32) s.inp.nums)

/-- A TORUSDIM write: the pieces in flight on a port whose PDOWN bit rises are sent again on the cache path of the pod and device resolved at issue, with their resend
count kept, or as soon as their pod has an entry; what has not been sent keeps its port (21 R346, R354). -/
def writeTorus (s : State) (v : Nat) : State :=
  let old := (s.reg (jobWin + 0x8)).toNat
  let x := setFld v 48 8 0
  let rose (p : Nat) : Bool := bit x (56 + p) && !bit old (56 + p)
  let s1 := (List.range 8).foldl (fun s p => if rose p then errRecord s 5 10 0 0 0xFF p 0 else s) (s.setReg (jobWin + 0x8) (BitVec.ofNat 64 x))
  resendHits s1 (fun rt sd => sd.alt.isNone && (match rt with | .port p _ _ => rose p | _ => false)) (fun rt sd i a n =>
    match rt with
    | .port _ pod dev =>
      let path := Route.net pod dev ((rtEntry s pod).map RtEntry.raw)
      match sendOf s1 path sd.x i (sd.resends + 1) a n with
      | some y => { y with moved := sd.moved, alt := some path }
      | none => { sd with alt := some path }
    | _ => sd) (fun rt sd =>
    match rt with
    | .port _ pod dev => { sd with alt := some (.net pod dev ((rtEntry s1 pod).map RtEntry.raw)) }
    | _ => sd)

/-- TORUS_PORT_DOWN: TORUSDIM is written with `v`. -/
def execTorusPortDown (s : State) : Host.Outcome State Fault Refusal := .next (writeTorus s s.inp.v.toNat)

/-! ### The host (21 R356, R357, 13 R244) -/

/-- The value of the aligned 8 bytes at a place that the host reads: as they stand, or the j-th value that no publication has covered yet (21 R357). -/
def hostSees (s : State) (p j : Nat) : Nat :=
  match j with
  | 0 => memVal s.mem p 8
  | j + 1 => match (s.veils.filter (fun v => v.place == p))[j]? with | some v => v.old.toNat | none => memVal s.mem p 8

/-- Bytes [p, p + n) as the host reads them, `picks` choosing for each aligned 8 bytes. -/
def hostBytes (s : State) (p n : Nat) (picks : List Nat) : List Byte :=
  ((List.range ((p % 8 + n + 7) / 8)).flatMap (fun i => leBytes 8 (hostSees s (p - p % 8 + 8 * i) (picks.getD i 0)))).drop (p % 8) |>.take n

/-- Bytes the host writes: it sees them at once, and its earlier atomics there are past. -/
def hostStore (s : State) (p : Nat) (bs : List Byte) : State := ((s.pastHost p bs.length).poke p bs).shown p bs

/-- A store of the host: it does not fall inside an atomic of its own side, but may inside one of the device's, which then acts on the value from before it (13
R244). -/
def hostPoke (s : State) (p : Nat) (bs : List Byte) : State :=
  if hostHolds s p bs.length then s
  else
    let t := hostStore s p bs
    { t with hostAts := t.hostAts ++ [{ place := p, size := bs.length, op := 6, data := leVal bs, cmp := 0, old := leVal (s.peek p bs.length), wrote := true }] }

/-- The atomic of the host that `nums` names (size, operation of 10 Table 2, operand, expected value) begins at a place: it reads the old value, unless one of its own
side is in progress there (13 R244), or the granule is poisoned (27 R397). -/
def hostBegin (s : State) (p : Nat) : State :=
  let n := min (s.inp.nums.getD 0 8) 8
  if hostHolds s p n then s
  else
    match s.readSoft p n with
    | (s1, none) => { s1 with poison := true, reply := [] }
    | (s1, some bs) =>
      { s1 with poison := false, reply := bs,
                hostAts := s1.hostAts ++ [{ place := p, size := n, op := s.inp.nums.getD 1 0, data := s.inp.nums.getD 2 0, cmp := s.inp.nums.getD 3 0,
                                            old := leVal bs, wrote := false }] }

/-- It writes its result. -/
def hostWrite (s : State) (i : Nat) : State :=
  match s.hostAts[i]? with
  | none => s
  | some h =>
    let v := (FarKind.atom h.op).apply (if h.size = 4 then .n32 else .n64) h.old h.data h.cmp
    if h.wrote then s
    else
      let t := hostStore { s with hostAts := s.hostAts.eraseIdx i } h.place (leBytes h.size v)
      { t with hostAts := t.hostAts ++ [{ h with wrote := true }] }

/-- HOST_ACCESS: at address `a`: `b` = 0 reads `c` bytes of HBM4 through CXL.mem, 1 writes `bytes` there; 2 and 3 are the host's accesses to its own
memory; `nums` picks for a read what it sees of each aligned 8 bytes. 4 and 5 begin an atomic in HBM4 or in host memory; 6 lets the `c`-th one in progress write,
and 7 ends one that has written. The top 1 GiB of HBM4 reads all ones and discards writes; a poisoned granule gives the CXL poison indication (27 R397). -/
def execHostAccess (s : State) : Host.Outcome State Fault Refusal :=
  let a := s.inp.a
  let n := s.inp.c
  let top := 383 * 2 ^ 30
  .next (match s.inp.b with
    | 0 =>
      match s.readSoft (hbmPlace a) (min n (top - a)) with
      | (s1, none) => { s1 with poison := true, reply := [] }
      | (s1, some _) => { s1 with poison := false, reply := hostBytes s (hbmPlace a) (min n (top - a)) s.inp.nums ++ List.replicate (n - (top - a)) 0xFF }
    | 1 => hostPoke s (hbmPlace a) (s.inp.bytes.take (top - a))
    | 2 => { s with poison := false, reply := hostBytes s (hostPlace a) n s.inp.nums }
    | 3 => if 2 ^ 49 ≤ a + s.inp.bytes.length then s else hostPoke s (hostPlace a) s.inp.bytes
    | 4 => if a + 8 ≤ top then hostBegin s (hbmPlace a) else s
    | 5 => if a + 8 ≤ 2 ^ 49 then hostBegin s (hostPlace a) else s
    | 6 => hostWrite s n
    | _ => if s.hostAts[n]?.any HostAt.wrote then { s with hostAts := s.hostAts.eraseIdx n } else s)

end Sys2Proof.Machine
end

