-- ==== Sys2Proof/Machine/Groups.lean ====
section
/-! DEFINITION. A group as its placement starts it, its way out of a wait (08 R146, R150, 12 R229; GROUP_UNBLOCKED), how its slot becomes free (05 R93), and a
word that is refused (ILLEGAL, 04 R63 to R66). -/

namespace Sys2Proof.Machine
open Sys2Proof

/-- An environment of no block: one general group of one plane in tile 0's near window at byte 0, with every register, skein and window. -/
def Env.blank : Env :=
  { block := 0, ctx := 0, index := 0, count := 1, linear := 0, role := 0, vregs := 256, codeBase := 0, planes := 1, stride := 16, handler := 0,
    skeins := 2 ^ 32 - 1, accBase := 0, span := 16, tagBase := 0, tagSpan := 64, epoch := -1, launch := 0, born := 0 }

/-- A group as its block's placement starts it (08 R137): one path entry at offset 0 with every lane in plane 0, registers and predicates
zero, scalars as given, counters at their starts; it owes a MARKER (15 R279). -/
def newGroup (e : Env) (args : Tab W64) : Group :=
  { env := e, v := [], s := args, p := [], ac := [], gauges := [], status := 0, stores := 0,
    paths := [{ idx := 0, ofs := 0, stamp := 0, lanes := allLanes, held := false, step := false, pass := false, stops := [] }], stamp := 1, planes := [],
    exited := 0, parked := [], plane := 0, common := false, todo := none, skips := none, follow := none, rcd := Rec.empty, late := [], wait := none, waitNo := 0, ready := e.born + 1,
    busy := 0, delayed := 0, issued := none, stalled := false, frame := none, budget := none, preempt := false, saveMask := 0, leaving := false, forced := false,
    abandoned := false, ended := false, holds := [], bopen := 1, bdone := 0, merr := none, nerr := 0, quiet := none, qpend := [],
    qhandler := false, still := false, look := e.born, trace := true, owes := true, lastMark := e.born, serial := 0, pre := [], bad := [],
    opens := [], view := [], fills := [], pops := [], struck := none, redo := none, halted := false }

/-- The group with this key goes on: it is eligible in the clock after its condition holds (08 R146). -/
def goOn (s : State) (key : Nat) (g : Group) : State := { s with groups := s.groups.set key (g.released s.clock) }

/-- What a blocked group does once the condition of its word holds: its effect on release, or the trap that takes its place. -/
def unblock (s : State) (key : Nat) (g : Group) (w : Wait) : State :=
  match w with
  | .ac n thr => if waitHolds s key g w then goOn s key (g.covered s key n thr) else s
  | .tagAny _ | .tagAll _ | .st | .fence _ => if waitHolds s key g w then goOn s key g else s
  | .batch n =>
    if !waitHolds s key g w then s
    else
      match g.report n with
      | some d =>
        let g1 := { g with merr := none }
        takeTrap { s with cur := key, groups := s.groups.set key g1 } g1 tResidue d g.wordLanes
      | none => goOn s key g
  | .publish k ids => if inFlight s ids then s else handPublish (goOn s key g) (whoWait key g 0) k g.look none
  | .qpush _ _ _ (some _) ids => if inFlight s ids then s else goOn s key g
  | .barb k m ids => if inFlight s ids then s else markArrived (goOn s key g) g k m
  | .barw a p =>
    match phaseRead s (whoAt key g 0) a with
    | (s1, none) => s1
    | (s1, some x) => if x == p then s1 else goOn s1 key g
  | .tfence dev ids ics => if inFlight s ids || icPending s ics then s else tfenceRelease s key (g.released s.clock) dev
  | .qpush _ _ _ none _ | .qpop _ _ _ | .bara _ _ _ | .grace _ _ _ | .dfree _ _ _ _ _ _ | .yield => s

/-- The release of a group whose wait's condition holds. -/
def unblockGroup (s : State) (key : Nat) : State :=
  match s.groups.get? key with
  | none => s
  | some g =>
    match g.wait with
    | some w => if g.ended then s else unblock s key g w
    | none => s

/-- Every group whose wait has come to hold is released, so that no condition lapses unseen (08 R146, R150). -/
def unblockAll (s : State) : State := { (Tab.keys s.groups).foldl unblockGroup s with cur := s.cur }

/-- GROUP_UNBLOCKED: group `a`; the waits that end with a step of their own (SKEIN_TAKE, BARA_ARRIVAL, GRACE_ELAPSE, DFREE_APPEND, GROUP_LEAVE) end there. -/
def execGroupUnblocked (s : State) : Host.Outcome State Fault Refusal := .next (unblockGroup s s.inp.a)

/-- An element that waits on a translation the cache does not hold. -/
def FarOp.untranslated (s : State) (o : FarOp) : Bool :=
  o.els.any (fun e => !e.performed && e.rank.isNone && (placeOf s o.who.tile o.who.ctx e.addr (if o.kind.access = 0 then 0 else 1)).isNone)

/-- Far words of an ended context that wait on a translation are discarded with its fault entries (20 R343), and those whose read was a consumption, which will never
be performed (27 R397). -/
def dropDead (s : State) (key : Nat) (g : Group) : State :=
  let c := s.ctxs.getD g.env.ctx Ctx.live
  if c.status = 0 then s
  else latch { s with far := s.far.filter (fun o => !(o.group == key && (o.untranslated s || c.spent.any (fun x => x.1 == o.who)))) }

/-- The slot, registers and spill area of a group are free (05 R93); a RESIDUE report it keeps is handed over (12 R229, 27 R399). DESIGN CHOICE (log 20): the
stops of its held entries, which 15 R285 lets only DBGCMD release, are over with it. -/
def freeGroup (s : State) (key : Nat) (g : Group) : State :=
  let s1 := match g.merr with
    | some (_, d) => errRecord s 4 5 0 g.env.ctx (tileOf key) (partOf key) d
    | none => s
  { s1 with
    groups := s1.groups.erase key
    loops := match s1.loops.get? (key / 16) with | some b => if b.group = key then s1.loops.erase (key / 16) else s1.loops | none => s1.loops
    dbgs := s1.dbgs.map (fun x => (x.1, { x.2 with stops := x.2.stops.filter (fun r => r.2.1 != g.gid) }))
    blocks := match s1.blocks.get? g.env.block with
      | some b => s1.blocks.set g.env.block { b with keys := b.keys.set g.env.index none, gone := b.gone ++ [g.env.index] }
      | none => s1.blocks }

/-- ILLEGAL: a word whose opcode is unassigned, a literal word, or a word that breaks another rule of its form (04 R63, R66); State.inp.a holds its
bits, for its guard. A literal word has none: its lanes are those of its plane (log 13). -/
def execIllegal (r n maj mi : Nat) (s : State) : Host.Outcome State Fault Refusal :=
  match s.group? with
  | none => .fault .noGroup
  | some g => .next (takeTrap s g tIllegal (illegalDetail g r n maj mi) (if maj = 0xFE then g.wordLanes else g.active (unpack s.inp.a).hd))

end Sys2Proof.Machine
end

