-- ==== Sys2Proof/Machine/Faults.lean ====
section
/-! DEFINITION. Fault entries, the fault queue and its answers, and XLINV (20 R329 to R343, 23 R372, R373). -/

namespace Sys2Proof.Machine
open Sys2Proof

/-! ### Fault entries (20 R340 to R342) -/

/-- A fault of a requester: it joins the pending entry of its context and page, or makes a new one (20 R342, 23 R372, R373). -/
def addFault (s : State) (ctx va kind lvl pte : Nat) (wr : Bool) (agent tile req : Nat) : State :=
  let page := va / 65536
  if s.faults.any (fun f => f.ctx == ctx && f.page == page) then
    { s with faults := s.faults.map (fun f =>
        if f.ctx = ctx ∧ f.page = page ∧ !f.reqs.contains req then
          { f with reqs := f.reqs ++ [req], count := if f.written then f.count else min (f.count + 1) 255 }
        else f) }
  else
    { s with faults := s.faults ++ [{ ctx := ctx, page := page, kind := kind, lvl := lvl, pte := BitVec.ofNat 64 pte, wr := wr, agent := agent,
                                      tile := tile, count := 1, written := false, reqs := [req] }] }

/-- The agent of a requester (20 Table 7); `other` for one that is no far word, copy, command or fetch. -/
def agentOf (s : State) (req other : Nat) : Nat :=
  if 2 ^ 61 ≤ req then other
  else if 2 ^ 60 ≤ req then 3
  else if s.far.any (fun o => o.id == req) then 1
  else if s.mats.any (fun c => c.id == req) then 2
  else
    match s.copies.find? (fun c => c.id == req) with
    | some c => if c.kind == .gather then 4 else 1
    | none => other

/-! ### The fault queue (20 R341 to R343) -/

def fqWin : Nat := 0x4000
def fqctl (s : State) : Nat := (s.reg (fqWin + 8)).toNat
def fqSize (s : State) : Nat := 2 ^ fld (fqctl s) 0 5

/-- The 32 bytes of a fault entry (20 Table 7). -/
def FaultEntry.bytes (f : FaultEntry) (sq : Nat) : List Byte :=
  leBytes 32 (f.pte.toNat * 2 ^ 192 + at' (f.page * 65536) 128 48 + at' sq 64 64 + at' f.ctx 56 8 + at' f.tile 48 8 + at' f.count 40 8
    + at' f.kind 36 4 + at' f.lvl 34 2 + at' (b2n f.wr) 33 1 + at' f.agent 24 8)

/-- FAULT_ENTRY_WRITE: the `a`-th entry that waits in the walker is written, once the ring has room and EN is 1. -/
def execFaultEntryWrite (s : State) : Host.Outcome State Fault Refusal :=
  let head := (s.reg (fqWin + 0x10)).toNat
  let tail := (s.reg (fqWin + 0x18)).toNat
  .next (match (s.faults.filter (fun f => !f.written))[s.inp.a]? with
    | none => s
    | some f =>
      if !bit (fqctl s) 63 ∨ (tail + 2 ^ 64 - head) % 2 ^ 64 = fqSize s then s
      else
        let p := hbmPlace (fld (s.reg fqWin).toNat 0 48 + 32 * (tail % fqSize s))
        let s1 := (s.engineWrite p (f.bytes tail)).setReg (fqWin + 0x18) (BitVec.ofNat 64 (tail + 1))
        { s1 with faults := s1.faults.map (fun x => if x = f then { x with written := true } else x) })

/-- The pending entry an FQACK value names. -/
def acked (s : State) (v : Nat) : Option FaultEntry := s.faults.find? (fun f => f.ctx == fld v 24 8 && f.page == fld v 32 32)

/-- What an FQACK write does (20 R343): its requesters walk again (PAGE_WALK), or their context ends. Values that name no pending entry, or ACTION 0, have
no effect. -/
def ackFault (s : State) (v : Nat) : State :=
  match acked s v with
  | none => s
  | some f =>
    match fld v 0 2 with
    | 1 => { s with faults := s.faults.filter (fun x => x != f) }
    | 2 => endContext s f.ctx stNomem none
    | 3 => endContext s f.ctx stKilled none
    | _ => s

/-- FQACK_RETRY: an FQACK value `v` with ACTION 1. -/
def execFqackRetry (s : State) : Host.Outcome State Fault Refusal := .next (if fld s.inp.v.toNat 0 2 = 1 then ackFault s s.inp.v.toNat else s)

/-- FQACK_NOMEM: ACTION 2. -/
def execFqackNomem (s : State) : Host.Outcome State Fault Refusal := .next (if fld s.inp.v.toNat 0 2 = 2 then ackFault s s.inp.v.toNat else s)

/-- FQACK_KILLED: an FQACK value `v` with ACTION 3; with `b` = 1 the service cores end the context `v` names, for which a consumption stands, as that write does
(27 R397, step 4). -/
def execFqackKilled (s : State) : Host.Outcome State Fault Refusal :=
  let v := s.inp.v.toNat
  .next (if s.inp.b = 1 then (if (s.ctxs.getD (fld v 24 8) Ctx.live).doomed then endContext s (fld v 24 8) stKilled none else s)
    else if fld v 0 2 = 3 then ackFault s v else s)

/-- An XLINV write: with GO, steps 3 and 4 of 20 R337 for its context in every cache. -/
def writeXlinv (s : State) (v : Nat) : State := if bit v 0 then flushXlate s (fld v 24 8) none else s

/-- XLINV: value `v`. -/
def execXlinv (s : State) : Host.Outcome State Fault Refusal := .next (writeXlinv s s.inp.v.toNat)

/-- An FQBASE write: ignored where the ring would reach the shadow pool (20 R333). -/
def writeFqbase (s : State) (v : Nat) : State :=
  let x := v % 2 ^ 48
  if outsidePool x (32 * fqSize s) then s.setReg fqWin (BitVec.ofNat 64 x) else s

/-- An FQCTL write: FSIZE is clamped; raising EN sets FQHEAD and FQTAIL to 0 (20 Table 6). -/
def writeFqctl (s : State) (v : Nat) : State :=
  let n := fld v 0 5
  let size := if n < 4 then 4 else if 16 < n then 16 else n
  if !outsidePool (s.reg fqWin).toNat (32 * 2 ^ size) then s
  else
    let s1 := s.setReg (fqWin + 8) (BitVec.ofNat 64 (at' (fld v 63 1) 63 1 + size))
    if bit v 63 && !bit (fqctl s) 63 then (s1.setReg (fqWin + 0x10) 0).setReg (fqWin + 0x18) 0 else s1

/-- FQCTL_WRITE: value `v`. -/
def execFqctlWrite (s : State) : Host.Outcome State Fault Refusal := .next (writeFqctl s s.inp.v.toNat)

end Sys2Proof.Machine
end

