-- ==== Sys2Proof/Machine/Launch.lean ====
section
/-! DEFINITION. Records, their admission, and the distributor's registers (18 R292 to R297, R306): queues, doorbells, the checks of 18 Table 3, the end of
a launch (18 R295, R301). -/

namespace Sys2Proof.Machine
open Sys2Proof

/-! ### Roles and declarations of a record (18 R293) -/

/-- Role entry r: role, allotment, group count (18 R293). -/
def hRole (h r : Nat) : Nat × Nat × Nat :=
  let e := fld h (128 + 12 * r) 12
  (fld e 0 2, (fld e 2 3 + 1) * 32, fld e 5 7)

def hRoles (h : Nat) : List (Nat × Nat × Nat) := (List.range (hNroles h)).map (hRole h)

/-- The role and allotment of %group i: general with 64 registers where the record gives no role (18 R293, 04 R83). -/
def roleFrom (i : Nat) : List (Nat × Nat × Nat) → Nat × Nat
  | [] => (3, 64)
  | (r, v, n) :: t => if i < n then (r, v) else roleFrom (i - n) t

def roleOf (h i : Nat) : Nat × Nat := roleFrom i (hRoles h)

/-- Skein declarations of the queue blocks: skein, entries, bytes (18 R293). -/
def declsOf (qb : List Byte) : List (Nat × Nat × Nat) :=
  (List.range (qb.length / 4)).filterMap (fun i =>
    let e := leVal ((qb.drop (4 * i)).take 4)
    if bit e 31 then some (fld e 0 5, 2 ^ fld e 5 4, 8 * fld e 9 6) else none)

/-- Ring bytes of declarations, each ring rounded up to 256 (11 R197). -/
def ringBytes (ds : List (Nat × Nat × Nat)) : Nat := (ds.map (fun d => roundUp (d.2.1 * d.2.2) 256)).foldl (· + ·) 0

/-! ### The checks (18 Table 3) -/

/-- An allotment that a role permits (02 Table 3). -/
def allotOk (role v : Nat) : Bool :=
  match role with
  | 0 => v == 32
  | 1 => v == 64
  | 2 => v == 128
  | _ => decide (64 ≤ v)

/-- A byte of a completion word lies in the tile window or the translated range (18 Table 3). -/
def doneByteOk (a : Nat) : Bool := decide (0x100000000 ≤ a) && decide (a < 2 ^ 48) && (areaReason a).isNone

/-- A nonzero DONEADDR that is refused: not 16-byte aligned, or a byte of its word outside the ranges of 18 Table 3. -/
def badDone (h : Nat) : Bool := hDone h != 0 && (hDone h % 16 != 0 || !doneByteOk (hDone h) || !doneByteOk (hDone h + 15))

def badRec (h : Nat) : Bool :=
  fld h 416 96 != 0 || fld h 368 16 != 0 || fld h 330 6 != 0 || fld h 230 26 != 0 || fld h 187 5 != 0 || bit h 127 || fld h 57 7 != 0 || bit h 51
    || decide (16 < hArgb h) || decide (2 < hQb h) || badDone h

def badCode (h : Nat) : Bool := decide (hPslog h < 4) || decide (22 < hPslog h) || hCode h % 2 ^ (hPslog h + 7) != 0

def badShape (h : Nat) : Bool :=
  hT h == 0 || hG h == 0 || decide (64 < hG h) || hG h % hT h != 0 || decide (4 < fld h 108 3) || hTaglog h == 7

def badRole (h : Nat) : Bool :=
  decide (4 < hNroles h)
    || (hNroles h != 0 && ((((hRoles h).map (fun r => r.2.2)).foldl (· + ·) 0 != hG h) || !(hRoles h).all (fun r => allotOk r.1 r.2.1)))

/-- Declarations outside 04 Table 7, twice the same skein, rings above 4 MiB, or a reserved bit. -/
def badQueue (qb : List Byte) : Bool :=
  let ds := declsOf qb
  (List.range (qb.length / 4)).any (fun i => let e := leVal ((qb.drop (4 * i)).take 4); bit e 31 && fld e 15 16 != 0)
    || ds.any (fun d => decide (d.2.1 < 2) || decide (1024 < d.2.1) || decide (d.2.2 < 8) || decide (256 < d.2.2))
    || (ds.map Prod.fst).eraseDups.length != ds.length || decide (4 * 2 ^ 20 < ringBytes ds)

/-- The producer of a record: DEPDIST places earlier in the queue (18 R301), taken since its context began (18 Table 3); `id` is the record's own, above that of every
record before it, and a queue enabled again counts its records anew. -/
def producerOf (s : State) (q id num h : Nat) : Option Job :=
  if num < hDepdist h then none
  else s.jobs.reverse.find? (fun j => j.queue == q && decide (j.id < id) && decide ((s.ctxs.getD j.ctx Ctx.live).born ≤ j.id) && j.num == num - hDepdist h && !j.task)

/-- The status of the first check a record fails; 0 when it passes (18 R294). `num` is its number in the queue. -/
def admission (s : State) (q num h : Nat) (qb : List Byte) : Nat :=
  if badRec h then 1
  else if badCode h then 2
  else if badShape h then 3
  else if badRole h then 4
  else if badQueue qb then 5
  else if bit h 111 && !torusOn s then 6
  else if hMkind h = 0 then 0
  else if hMkind h = 3 ∨ hDepdist h = 0 ∨ 4 < hDepdist h then 7
  else
    match producerOf s q s.seq num h with
    | none => 7
    | some p => if 2 ^ 24 < p.blocks then 7 else if p.status ≠ 0 then 8 else 0

/-! ### Queue registers (18 R296) -/

/-- The host may ring doorbells: BOOTST.READY is 1 (28 R409). -/
def booted (s : State) : Bool := bit (s.reg (bootWin + 8)).toNat 63

/-- QTAIL_DOORBELL: the host writes QTAIL of queue `a` (0 to 31) with `v`; one written before READY is discarded. -/
def execQtailDoorbell (s : State) : Host.Outcome State Fault Refusal :=
  .next (if s.inp.a < 32 && booted s then s.setReg (queueWin s.inp.a + 0x18) s.inp.v else s)

/-- A QCTL write: RSIZE is clamped; raising EN sets QHEAD and QTAIL to 0 and the ring to its start (18 Table 5), and begins its context anew when that one
has ended (log 16). During a replay of the context, what a manifest has loaded stands (26 R390; log 30). -/
def writeQctl (s : State) (q v : Nat) : State :=
  let n := fld v 0 5
  let ctx := fld v 8 8
  let x := at' (fld v 63 1) 63 1 + at' (fld v 16 2) 16 2 + at' ctx 8 8 + (if n < 6 then 6 else if 20 < n then 20 else n)
  let up := bit v 63 && !bit (qctl s q) 63
  let s1 := s.setReg (queueWin q + 8) (BitVec.ofNat 64 x)
  let fresh := if (s1.ctxs.getD ctx Ctx.live).status = 0 then s1.ctxs else s1.ctxs.set ctx { Ctx.live with born := s1.seq }
  if !up then s1
  else if s.ll.replay.isSome && llCtx s == ctx then
    { s1 with ctxs := if (s1.ctxs.getD ctx Ctx.live).status = 0 then s1.ctxs else s1.ctxs.set ctx { Ctx.live with born := (s1.ctxs.getD ctx Ctx.live).born } }
  else
    let s2 := (s1.setReg (queueWin q + 0x10) 0).setReg (queueWin q + 0x18) 0
    { s2 with queues := s2.queues.set q Qst.fresh
              posts := s2.posts.filter (fun p => p.queue != q)
              ctxs := fresh }

/-- QCTL_WRITE: queue `a`, value `v`. -/
def execQctlWrite (s : State) : Host.Outcome State Fault Refusal := .next (if s.inp.a ≤ 48 then writeQctl s s.inp.a s.inp.v.toNat else s)

/-! ### Taking a record (18 R294, R296, R297) -/

/-- The records of a queue's window: the oldest with a block unplaced, and those after it (18 R297). -/
def windowOf (s : State) (q : Nat) : List Job :=
  (s.jobs.filter (fun j => j.queue == q && j.status == 0)).dropWhile (fun j => decide (j.blocks ≤ j.next))

/-- The bytes of n slots of a ring from a slot on: in host memory for a host queue, otherwise through the tables of the queue's context; none while a page
needs a walk. -/
def slotsRead (s : State) (q slot n : Nat) : Option (State × Option (List Byte)) :=
  let base := (s.reg (queueWin q)).toNat
  let ctx := fld (qctl s q) 8 8
  (List.range n).foldl (fun r i =>
    match r with
    | some (s, some acc) =>
      let a := base + 64 * ((slot + i) % ringSlots s q)
      if q < 32 then some (s, some (acc ++ s.peek (hostPlace a) 64))
      else
        match s.readVia { agentWho ctx midTile with acc := (s.reg (queueWin q + 0x10)).toNat + 1 } midTile a 64 with
        | some (s1, some bs) => some (s1, some (acc ++ bs))
        | some (s1, none) => some (s1, none)
        | none => none
    | r => r) (some (s, some []))

/-- The bytes of an appended record placed in its ring; none while a page needs a walk. -/
def slotsWrite (s : State) (p : Post) : Option State :=
  let base := (s.reg (queueWin p.queue)).toNat
  (List.range (p.bytes.length / 64)).foldl (fun r i =>
    match r with
    | some s => s.writeVia p.who midTile (base + 64 * ((p.slot + i) % ringSlots s p.queue)) ((p.bytes.drop (64 * i)).take 64)
    | none => none) (some s)

/-- The epoch of what the distributor does for a context: the latest cut of the enrolled one. -/
def epochNow (s : State) (ctx : Nat) : Int := if llOn s && llCtx s == ctx then (s.ll.cut : Int) else -1

/-- The distributor as a requester (26 R389: its requester fields are zero). -/
def distWho (s : State) (ctx : Nat) : Who := { agentWho ctx midTile with epoch := epochNow s ctx }

/-- The same in the completion action of a launch. -/
def doneWho (s : State) (j : Job) : Who := { distWho s j.ctx with acc := j.id + 1 }

/-- The order-log entries of a record taken: QREC, and RECORD for each 16 bytes of a host record (26 Table 5). -/
def logRecord (s : State) (q num : Nat) (bs : List Byte) : State :=
  let w := distWho s (fld (qctl s q) 8 8)
  let s1 := logEvent s w 5 q num
  if 32 ≤ q then s1
  else (List.range (bs.length / 16)).foldl (fun s i => logEvent s w 6 (leVal ((bs.drop (16 * i)).take 8)) (leVal ((bs.drop (16 * i + 8)).take 8))) s1

/-- The staging ring has room for n entries, while recording. -/
def logRoom (s : State) (w : Who) (n : Nat) : Bool :=
  !s.records w || roomFor s n

/-- The number of the next record taken, among those taken for the enrolled context since EN rose (26 R389). -/
def launchNo (s : State) (ctx : Nat) : Nat := if llOn s && llCtx s == ctx then s.ll.taken + 1 else 0

/-- A record taken out of its ring: QHEAD rises and its slots are free. -/
def tookRecord (s : State) (q n : Nat) : State :=
  let st := qstOf s q
  let ctx := fld (qctl s q) 8 8
  let s1 := s.setReg (queueWin q + 0x10) (s.reg (queueWin q + 0x10) + 1)
  { s1 with queues := s1.queues.set q { st with rslot := (st.rslot + n) % ringSlots s q, used := if 32 ≤ q then st.used - n else st.used }
            ll := if llOn s1 && llCtx s1 == ctx then { s1.ll with taken := s1.ll.taken + 1 } else s1.ll }

/-- Launches and tasks that no record can name any more are dropped: they ended more than four records ago, outside the window, and every consumer of theirs has
ended. -/
def pruneJobs (s : State) (q num : Nat) : List Job :=
  s.jobs.filter (fun j => !(j.queue == q && j.finished && decide (j.num + 4 < num) && !(windowOf s q).any (fun x => x.id == j.id)
    && !s.jobs.any (fun x => x.queue == q && !x.finished && hMkind x.hdr != 0 && j.num + hDepdist x.hdr == x.num)))

/-- The status of a record of queue q as it is taken: that of its context, once it has ended (18 R294: with every other launch and task), otherwise its own. -/
def endedStatus (s : State) (q own : Nat) : Nat :=
  let c := (s.ctxs.getD (fld (qctl s q) 8 8) Ctx.live).status
  if c = 0 then own else c

/-- A launch record that enters its window: checked, and failed with its status or ready to place (18 R294). -/
def enterRecord (s : State) (q : Nat) (bs : List Byte) : State :=
  let h := leVal (bs.take 64)
  let qb := (bs.drop 64).take (64 * hQb h)
  let ab := (bs.drop (64 + 64 * hQb h)).take (64 * hArgb h)
  let num := (s.reg (queueWin q + 0x10)).toNat
  let st := endedStatus s q (admission s q num h qb)
  let job : Job :=
    { id := s.seq, queue := q, num := num, ctx := fld (qctl s q) 8 8, launch := launchNo s (fld (qctl s q) 8 8), hdr := h, decls := declsOf qb,
      args := (List.range (ab.length / 8)).map (fun i => BitVec.ofNat 64 (leVal ((ab.drop (8 * i)).take 8))), blocks := hBlocks h, next := 0, ended := 0,
      bitmap := 0, status := st, finished := false, task := false, haddr := 0, home := 0 }
  { s with seq := s.seq + 1, jobs := pruneJobs s q num ++ [job] }

/-- A page of an ended context, whose walk for an access kind finds a fault: no request of it is retried (20 R343). -/
def deadPage (s : State) (ctx a k : Nat) : Bool :=
  (s.ctxs.getD ctx Ctx.live).status != 0 && (placeOf s midTile ctx a k).isNone
    && (match walk s (agentWho ctx midTile) midTile a k with | (_, .fault _ _ _) => true | _ => false)

/-- The ring slots of a posting lie in a page of an ended context that leads nowhere, or refuses the write of its bytes: it is taken all the same, and ends with its context's status (18 R294). -/
def deadRing (s : State) (p : Post) : Bool :=
  let ctx := fld (qctl s p.queue) 8 8
  (List.range (p.bytes.length / 64)).any (fun i => deadPage s ctx ((s.reg (queueWin p.queue)).toNat + 64 * ((p.slot + i) % ringSlots s p.queue)) 1)

/-- The oldest record of a queue that can be taken: a host queue's next, or the first posting whose release condition holds (18 R308). -/
def nextBytes (s : State) (q : Nat) : Option (State × List Byte) :=
  if q < 32 then
    if s.reg (queueWin q + 0x10) = s.reg (queueWin q + 0x18) then none
    else
      match slotsRead s q (qstOf s q).rslot 1 with
      | some (s1, some h) =>
        match slotsRead s1 q (qstOf s q).rslot (1 + hQb (leVal h) + hArgb (leVal h)) with
        | some (s2, some bs) => some (s2, bs)
        | _ => none
      | _ => none
  else
    match s.posts.find? (fun p => p.queue == q) with
    | none => none
    | some p =>
      if inFlight s p.ids then none
      else if deadRing s p then some ({ s with posts := s.posts.erase p }, p.bytes)
      else
        match slotsWrite s p with
        | none => none
        | some s1 =>
          match slotsRead { s1 with posts := s1.posts.erase p } q p.slot (p.bytes.length / 64) with
          | some (s2, some bs) => some (s2, bs)
          | _ => none

/-- A record may be taken from a queue: enabled, its window not full. One of a context that has ended is taken too, and ends with its status. -/
def mayTake (s : State) (q : Nat) : Bool := bit (qctl s q) 63 && decide ((windowOf s q).length < 4)

/-- RECORD_ADMISSION: of launch queue `a`, the next record enters the window (18 R294, R297). -/
def execRecordAdmission (s : State) : Host.Outcome State Fault Refusal :=
  let q := s.inp.a
  .next (if 48 ≤ q || !mayTake s q then s
    else
      match nextBytes s q with
      | none => s
      | some (s1, bs) =>
        let w := distWho s (fld (qctl s q) 8 8)
        if !logRoom s w (1 + (if q < 32 then bs.length / 16 else 0)) then s
        else
          match gate s w 5 q with
          | .wait => s
          | .diverge => diverged s
          | .free =>
            let s2 := logRecord s1 q (s.reg (queueWin q + 0x10)).toNat bs
            tookRecord (enterRecord s2 q bs) q (bs.length / 64))

/-! ### The end of blocks and launches (18 R295, R301, R302) -/

/-- Every group of a block has ended and freed its slot, and no accumulator window of it is still to be written. -/
def Block.over (b : Block) : Bool := decide (b.keys.length ≤ b.gone.length)

def findJob (s : State) (id : Nat) : Option Job := s.jobs.find? (fun j => j.id == id)
def setJob (s : State) (j : Job) : State := { s with jobs := s.jobs.map (fun x => if x.id = j.id then j else x) }

/-- BLOCK_END: block `a` has ended: its completion bit is set, and its windows and skeins are free (18 R302, 11 R187, 08 R138). -/
def execBlockEnd (s : State) : Host.Outcome State Fault Refusal :=
  .next (match s.blocks.get? s.inp.a with
    | none => s
    | some b =>
      if !b.over || s.mats.any (fun c => c.block == s.inp.a) then s
      else
        let s1 := { s with blocks := s.blocks.erase s.inp.a, skeins := s.skeins.filter (fun x => x.2.block != s.inp.a)
                           resvs := s.resvs.filter (fun r => !(r.job == b.job && r.block == b.linear)) }
        match findJob s1 b.job with
        | some j =>
          let fin (x : Job) : Job := if x.id = j.id then { x with ended := x.ended + 1, bitmap := x.bitmap ||| 2 ^ b.linear } else x
          manifestUpd { s1 with jobs := s1.jobs.map fin } (blockWho b 0) (fun m => { m with jobs := m.jobs.map fin })
        | none => s1)

/-- The producer blocks block b needs, in order (18 R301). -/
def neededBlocks (h b p : Nat) : List Nat :=
  let first : Int := ((b * hMscale h / 2 ^ hMshift h : Nat) : Int) + hMofs h
  if hMkind h = 0 then []
  else
    ((List.range (hMwidth h)).filterMap (fun i =>
      let j := first + (i : Int)
      if hMkind h = 1 then (if 0 ≤ j ∧ j < (p : Int) then some j.toNat else none) else some (j % (p : Int)).toNat)).eraseDups

/-- DEPENDENCE_TAG_READY: the dependence tag of early block `a` counts down once every block it needs has ended (18 R303), while the block has a group left. -/
def execDependenceTagReady (s : State) : Host.Outcome State Fault Refusal :=
  .next (match s.blocks.get? s.inp.a with
    | none => s
    | some b =>
      match findJob s b.job with
      | none => s
      | some j =>
        match producerOf s j.queue j.id j.num j.hdr with
        | none => s
        | some p =>
          if !b.early || b.over || !b.needs.all (fun x => bit p.bitmap x) then s
          else
            let s1 := { s with blocks := s.blocks.set s.inp.a { b with early := false, needs := [] } }
            (List.range b.tiles.length).foldl (fun s i => tagUpd s s.inp.a i (hSpan b.hdr - 1) Tag.drop) s1)

/-- A launch or task has no block left to run: all have ended, or it failed and those that were placed have ended. -/
def Job.over (s : State) (j : Job) : Bool :=
  !s.blocks.any (fun x => x.2.job == j.id) && (j.status != 0 || decide (j.blocks ≤ j.ended))

/-- An atomic of the distributor on 64 bits at an address (18 R295); none while the page needs a walk, its order-log entry has no room, an atomic of the host
holds the place (21 R359), or its pseudo-channel serves another access first (28 R407). -/
def distAtomic (s : State) (w : Who) (a : Nat) (f : Nat → Nat) : Option State :=
  match (if gate s w 1 a = .free then xlate s midTile w.ctx a 1 else none) with
  | none => none
  | some (p, sys) =>
    if sys && isHost p && hostHolds s p 8 then none
    else
      (hbmRun s p 8).map fun s => match s.readAt w p 8 with
      | (s1, none) => s1
      | (s1, some _) => ((logEvent s1 w 1 a 0).atomicAt w p 8 sys none (fun b => leBytes 8 (f (leVal b))))

/-- The completion action; none while it waits for a walk. A DONEADDR that admission refused names no word to update (log 31). -/
def completion (s : State) (j : Job) : Option State :=
  let w := doneWho s j
  let d := hDone j.hdr
  let s1 := if d = 0 ∨ badDone j.hdr then some s else (distAtomic s w d (fun x => (x + 1) % 2 ^ 64)).bind (fun s => distAtomic s w (d + 8) (fun x => x ||| 2 ^ j.status))
  s1.map (fun s => if hPub j.hdr then handPublish s w (hPubk j.hdr) s.clock (some j.id) else s)

/-- Consumers of a failed producer that are still in its queue end with DEPFAIL (18 R301). -/
def failConsumers (s : State) (p : Job) : State :=
  if p.status = 0 ∨ p.task then s
  else
    { s with jobs := s.jobs.map (fun j =>
        if !j.task ∧ j.status = 0 ∧ j.next < j.blocks ∧ hMkind j.hdr ≠ 0 ∧ (producerOf s j.queue j.id j.num j.hdr).any (fun x => x.id == p.id) then { j with status := 8 } else j) }

/-- The completion action of a job waits on a fault of its page. -/
def completionFaults (s : State) (j : Job) : Bool :=
  hDone j.hdr != 0 && !badDone j.hdr && (placeOf s midTile j.ctx (hDone j.hdr) 1).isNone
    && (match walk s (agentWho j.ctx midTile) midTile (hDone j.hdr) 1 with | (_, .fault _ _ _) => true | _ => false)

/-- LAUNCH_COMPLETE: launch or task `a` has ended: its completion action (18 R295). The action of a context that has ended is discarded where it waits on a
fault. -/
def execLaunchComplete (s : State) : Host.Outcome State Fault Refusal :=
  .next (match findJob s s.inp.a with
    | none => s
    | some j =>
      if j.finished || !j.over s then s
      else
        let fin (s : State) : State := failConsumers (setJob { s with resvs := s.resvs.filter (fun r => r.job != j.id) } { j with finished := true }) j
        match completion s j with
        | some s1 => fin s1
        | none => if (s.ctxs.getD j.ctx Ctx.live).status ≠ 0 ∧ completionFaults s j then fin s else s)

end Sys2Proof.Machine
end

