-- ==== Sys2Proof/Machine/Place.lean ====
section
/-! DEFINITION. Where blocks go: tile sets, partitions and windows (08 R135 to R138, 11 R185, R197, 12 R211), the distributor's choice and its search (18
R298, R299), early blocks and reservations (18 R303, R304), tasks (18 R306 to R308). -/

namespace Sys2Proof.Machine
open Sys2Proof

/-! ### Tiles (08 R134, 09 R160) -/

def tileX (t : Nat) : Nat := t % 16
def tileY (t : Nat) : Nat := t % 128 / 16
def tileDie (t : Nat) : Nat := t / 128

def absDiff (a b : Nat) : Nat := (a - b) + (b - a)

/-- Mesh hops between two tiles; across the dies through the bridge of (x, 7) and (x, 0) (09 R160). -/
def hops (a b : Nat) : Nat :=
  let dx := absDiff (tileX a) (tileX b)
  if tileDie a = tileDie b then dx + absDiff (tileY a) (tileY b)
  else if tileDie a = 0 then dx + (7 - tileY a) + tileY b + 1
  else dx + (7 - tileY b) + tileY a + 1

/-- The tile set of an origin (08 R135); none where the origin does not serve T. -/
def tileSet (t o : Nat) : Option (List Nat) :=
  match t with
  | 1 => some [o]
  | 2 => if tileX o % 2 = 0 then some [o, o + 1] else none
  | 4 => if tileX o % 2 = 0 ∧ tileY o % 2 = 0 then some [o, o + 1, o + 16, o + 17] else none
  | _ => none

/-! ### What a place needs, and what is taken -/

/-- A place held for a block that is not resident: its header and where. -/
structure Held where
  hdr : Nat
  place : Place
deriving DecidableEq, Repr

/-- %group numbers of block tile i. -/
def groupsOn (h i : Nat) : List Nat := (List.range (hG h / hT h)).map (fun j => i * (hG h / hT h) + j)

/-- Allotments and groups that a block's shape puts on partition p of block tile i with base b; `live` says which groups count (19 R323). -/
def demand (h i b p : Nat) (live : Nat → Bool) : Nat × Nat :=
  ((List.range (hG h / hT h)).filter (fun j => (b + j) % 4 = p && live (i * (hG h / hT h) + j))).foldl
    (fun a j => (a.1 + (roleOf h (i * (hG h / hT h) + j)).2, a.2 + 1)) (0, 0)

/-- Registers and groups in use on a partition: resident groups, and held places. -/
def inUse (s : State) (hs : List Held) (t p : Nat) : Nat × Nat :=
  let a := (s.groups.filter (fun x => x.1 / 16 == t * 4 + p)).foldl (fun a x => (a.1 + x.2.env.vregs, a.2 + 1)) (0, 0)
  hs.foldl (fun a x =>
    match x.place.tiles.findIdx? (· == t) with
    | none => a
    | some i => let d := demand x.hdr i (x.place.bases.getD i 0) p (fun _ => true); (a.1 + d.1, a.2 + d.2)) a

/-- The partitions of a tile take a block's groups with base b (08 R136, 02 R28). -/
def baseServes (s : State) (hs : List Held) (h t i b : Nat) (live : Nat → Bool) : Bool :=
  (List.range 4).all (fun p =>
    let u := inUse s hs t p
    let d := demand h i b p live
    decide (u.1 + d.1 ≤ 1024) && decide (u.2 + d.2 ≤ 16))

/-- The windows of size spans on a tile that are taken: of resident blocks, of blocks whose accumulators wait to be written (12 R230), and held. -/
def windows (s : State) (hs : List Held) (t : Nat) (acc : Bool) : List (Nat × Nat) :=
  s.blocks.filterMap (fun x =>
    let b := x.2
    if b.over || (b.out && !(acc && b.accDue)) then none
    else
      match b.tiles.findIdx? (· == t) with
      | none => none
      | some i => some (if acc then (b.accBases.getD i 0, hAcc b.hdr) else (b.tagBases.getD i 0, hSpan b.hdr)))
    ++ hs.filterMap (fun x =>
      match x.place.tiles.findIdx? (· == t) with
      | none => none
      | some i => some (if acc then (x.place.accs.getD i 0, hAcc x.hdr) else (x.place.tags.getD i 0, hSpan x.hdr)))

/-- The lowest free window of a span, at a multiple of it, among `total`. -/
def freeWindow (ws : List (Nat × Nat)) (total span : Nat) : Option Nat :=
  if span = 0 then some 0
  else
    (List.range (total / span)).findSome? (fun i =>
      let b := i * span
      if ws.all (fun w => decide (w.1 + w.2 ≤ b) || decide (b + span ≤ w.1)) then some b else none)

/-- A block holds the skeins it declares on a tile of its own until its last group there has ended, or it is swapped out, the image of its rings being written (08
R138, 19 R322). -/
def Block.keepsSkeins (b : Block) (t : Nat) : Bool :=
  !b.out && (match b.tiles.findIdx? (· == t) with | some i => (groupsOn b.hdr i).any (fun n => !b.gone.contains n) | none => false)

/-- The skeins a block declares are free on a tile (08 R138). -/
def skeinsFree (s : State) (hs : List Held) (t : Nat) (ds : List (Nat × Nat × Nat)) (held : Held → List (Nat × Nat × Nat)) : Bool :=
  let uses (d : Nat × Nat × Nat) (xs : List (Nat × Nat × Nat)) : Bool := xs.any (fun x => x.1 == d.1)
  ds.all (fun d =>
    !s.blocks.any (fun x => x.2.keepsSkeins t && uses d x.2.decls)
      && !hs.any (fun x => x.place.tiles.contains t && uses d (held x)))

/-- A tile is out of service (27 R400). -/
def tileOff (s : State) (t : Nat) : Bool := bit (s.reg (errWin + 0x40 + 8 * (t / 64))).toNat (t % 64)

/-- Watts a block declares on one tile (28 R405): (2c + 2) for each 16 groups there. -/
def watts (h : Nat) : Nat := if hEclass h = 0 then 0 else (2 * hEclass h + 2) * ((hG h / hT h + 15) / 16)

/-- Committed power of a tile. -/
def committed (s : State) (t : Nat) : Nat :=
  (s.blocks.filter (fun x => !x.2.out && !x.2.over && x.2.tiles.contains t)).foldl (fun a x => a + watts x.2.hdr) 0

/-- The energy rule lets the block on the tile. -/
def powerServes (s : State) (h t : Nat) : Bool :=
  committed s t == 0 || decide (committed s t + watts h ≤ fld (s.reg pwrWin).toNat 32 8)

/-- What a search needs to know of a block: header, declarations, the groups that take resources, whether it is early and of which job, whether the
energy rule bounds it (28 R405; a reservation need not meet it, 18 R304). -/
structure Want where
  hdr : Nat
  decls : List (Nat × Nat × Nat)
  live : List Nat
  early : Bool
  job : Nat
  power : Bool
deriving DecidableEq, Repr

/-- A held place with its declarations. -/
abbrev Hold := Held × List (Nat × Nat × Nat)

/-- Group slots on a tile of early blocks of a launch (18 R304). -/
def earlySlots (s : State) (job t : Nat) : Nat :=
  (s.blocks.filter (fun x => x.2.job == job && x.2.early)).foldl (fun a x =>
    a + (x.2.keys.filter (fun k => match k with | some k => tileOf k == t | none => false)).length) 0

/-- Early blocks of a launch leave room for another of this shape on the tile (18 R304). -/
def earlyRoom (s : State) (h job t : Nat) : Bool := decide (earlySlots s job t + hG h / hT h ≤ hEarly h)

/-- Tile t serves as block tile i: its partition base and windows (08 R136, R138, 11 R185, 12 R211, 18 R299, R304). -/
def tileServes (s : State) (hs : List Hold) (w : Want) (t i : Nat) : Option (Nat × Nat × Nat) :=
  let held := hs.map Prod.fst
  let declared (x : Held) : List (Nat × Nat × Nat) := match hs.find? (fun y => y.1 == x) with | some y => y.2 | none => []
  if tileOff s t || (w.power && !powerServes s w.hdr t) || !skeinsFree s held t w.decls declared || (w.early && !earlyRoom s w.hdr w.job t) then none
  else
    match (List.range 4).find? (fun b => baseServes s held w.hdr t i b (fun j => w.live.contains j)),
          freeWindow (windows s held t false) 64 (hSpan w.hdr), freeWindow (windows s held t true) 16 (hAcc w.hdr) with
    | some b, some tg, some ac => some (b, tg, ac)
    | _, _, _ => none

/-- The set of origin o serves. -/
def setServes (s : State) (hs : List Hold) (w : Want) (o : Nat) : Option Place :=
  match tileSet (hT w.hdr) o with
  | none => none
  | some ts =>
    ((List.range ts.length).mapM (fun i => tileServes s hs w (ts.getD i 0) i)).map (fun xs =>
      { tiles := ts, bases := xs.map Prod.fst, tags := xs.map (fun x => x.2.1), accs := xs.map (fun x => x.2.2) })

/-- Origins in the order of the search: after the origin placed last, wrapping at 256; from 0 after a reset (18 R299). -/
def searchOrder (s : State) : List Nat :=
  let first := match s.lastTile with | some t => t + 1 | none => 0
  (List.range 256).map (fun i => (first + i) % 256)

/-- The first of some origins that serves. -/
def firstServes (s : State) (hs : List Hold) (w : Want) (os : List Nat) : Option Place := os.findSome? (setServes s hs w)

/-! ### Blocks that may be placed (18 R297, R301 to R304) -/

/-- The next block of a record as a search sees it. -/
def wantOf (j : Job) (early : Bool) : Want :=
  { hdr := j.hdr, decls := j.decls, live := List.range (hG j.hdr), early := early, job := j.id, power := true }

/-- The places held by reservations, except those of one block (18 R299). -/
def heldPlaces (s : State) (job block : Nat) : List Hold :=
  s.resvs.filterMap (fun r =>
    if r.job = job ∧ r.block = block then none
    else match findJob s r.job with | some j => some ({ hdr := j.hdr, place := r.place }, j.decls) | none => none)

/-- A producer block is placed: resident or ended; a swapped-out one counts as unplaced, and so does one on its way out (18 R305). -/
def placedBlock (s : State) (p : Job) (x : Nat) : Bool :=
  bit p.bitmap x || (decide (x < p.next) && !s.blocks.any (fun y => y.2.job == p.id && y.2.linear == x && (y.2.out || y.2.raised.isSome)))

/-- Reservations for the needed producer blocks that are neither placed nor hold one, beside the places held already; none when one cannot be
given (18 R304). -/
def reserveAll (s : State) (p : Job) (hs : List Hold) : List Nat → Option (List Resv)
  | [] => some []
  | x :: r =>
    if placedBlock s p x || s.resvs.any (fun v => v.job == p.id && v.block == x) then reserveAll s p hs r
    else
      match firstServes s hs { wantOf p false with power := false } (searchOrder s) with
      | none => none
      | some pl => (reserveAll s p (hs ++ [({ hdr := p.hdr, place := pl }, p.decls)]) r).map (fun t => { job := p.id, block := x, place := pl } :: t)

/-- What a placement does: its block, place, whether it is early and for which producer blocks, and the reservations it creates. -/
structure Choice where
  job : Job
  place : Place
  early : Bool
  needs : List Nat
  resvs : List Resv
deriving DecidableEq, Repr

/-- SERIAL holds a record back while an earlier record of its queue has not ended (18 R297). -/
def serialHeld (s : State) (j : Job) : Bool :=
  hSerial j.hdr && s.jobs.any (fun x => x.queue == j.queue && decide (x.id < j.id) && !x.finished && !x.over s)

/-- The logged placement of a block, in a replay of its context (26 R390). -/
def loggedPlace (s : State) (j : Job) : Option LogEntry :=
  match s.ll.replay with
  | none => none
  | some es => es.find? (fun e => e.kind == 12 && e.block == j.next % 2 ^ 32 && e.launch == j.launch % 2 ^ 20)

/-- Replay is in progress for a context. -/
def replaying (s : State) (ctx : Nat) : Bool := s.ll.replay.isSome && llCtx s == ctx

/-- The local address that a task's HADDR names: its own, or what a global address of this rank resolves to; none for 0 and for another rank's (18 R307). -/
def hintAddr (s : State) (j : Job) : Option Nat :=
  let ha := j.haddr.toNat
  if ha = 0 then none
  else if bit ha 63 then
    (if fld ha 46 17 = rankOf s then (regionOf s (fld ha 41 5)).bind (fun d => if fld ha 0 41 < d.size then some (d.base + fld ha 0 41) else none) else none)
  else some ha

/-- The tile a task prefers (18 R307): by the translation that hintWalks has brought, where HADDR needs one. -/
def preferredTile (s : State) (j : Job) : Option Nat :=
  match hintAddr s j with
  | none => none
  | some a =>
    if a < 0x800000 then some j.home
    else if 0x100000000 ≤ a ∧ a < 0x180000000 then some ((a - 0x100000000) / 0x800000)
    else if a < 0x200000000 ∨ 2 ^ 48 ≤ a then none
    else
      match placeOf s midTile j.ctx a 0 with
      | some p =>
        if isHbm p then
          let st := stackOf (p - 2 ^ 48)
          let i := fld a 16 3
          let x := 4 * (st % 4) + i % 4
          some (if st < 4 then i / 4 * 16 + x else 128 + (7 - i / 4) * 16 + x)
        else none
      | none => none

/-- The walks that the HADDRs of the tasks in the window need: each reads protected memory like any other (27 R395), and a miss raises no fault (18 R307). -/
def hintWalks (s : State) : State :=
  (windowOf s 48).foldl (fun s j =>
    match hintAddr s j with
    | some a =>
      if a < 0x200000000 ∨ 2 ^ 48 ≤ a ∨ (s.ctxs.getD j.ctx Ctx.live).status ≠ 0 then s
      else (walkedPlace s { agentWho j.ctx midTile with acc := j.id + 1 } midTile a 0).1
    | none => s) s

/-- Insertion by distance from a tile, ties to the lower number. -/
def byHops (o : Nat) (t : Nat) : List Nat → List Nat
  | [] => [t]
  | x :: r => if hops o t < hops o x then t :: x :: r else x :: byHops o t r

/-- The origins a record's next block is tried on, in order (18 R299, R307). -/
def originsFor (s : State) (j : Job) : List Nat :=
  if !j.task then searchOrder s
  else match preferredTile s j with | none => searchOrder s | some o => (List.range 256).foldl (fun xs t => byHops o t xs) []

/-- The place of a record's next block among held places: the logged one in a replay (26 R390), otherwise by the search. -/
def placeFor (s : State) (j : Job) (early : Bool) : Option Place :=
  let hs := heldPlaces s j.id j.next
  if replaying s j.ctx then
    match loggedPlace s j with
    | some e =>
      (setServes s hs (wantOf j early) e.obj.toNat).bind (fun p =>
        let bs := (List.range p.tiles.length).map (fun i => fld e.data.toNat (2 * i) 2)
        if (List.range p.tiles.length).all (fun i =>
            baseServes s (hs.map Prod.fst) j.hdr (p.tiles.getD i 0) i (bs.getD i 0) (fun _ => true)) then some { p with bases := bs } else none)
    | none => none
  else firstServes s hs (wantOf j early) (originsFor s j)

/-- The producer of a record and the blocks of it that its next block still needs; none where it needs none (18 R301). -/
def openNeeds (s : State) (j : Job) : Option (Job × List Nat) :=
  match (if hMkind j.hdr = 0 then none else producerOf s j.queue j.id j.num j.hdr) with
  | none => none
  | some p =>
    let needs := (neededBlocks j.hdr j.next p.blocks).filter (fun x => !bit p.bitmap x)
    if needs.isEmpty then none else some (p, needs)

/-- A record has a next block that nothing of its queue holds back (18 R297). -/
def hasNext (s : State) (j : Job) : Bool := j.status == 0 && (s.ctxs.getD j.ctx Ctx.live).status == 0 && decide (j.next < j.blocks) && !serialHeld s j

/-- The next block of a record is admissible, wherever it may go (18 R300, R304): for an early one some tile set keeps to EARLY, and the producer blocks
it needs are placed, hold a reservation or can be given one. -/
def admissible (s : State) (j : Job) : Bool :=
  hasNext s j &&
    match openNeeds s j with
    | none => true
    | some (p, needs) =>
      (List.range 256).any (fun o => (tileSet (hT j.hdr) o).any (fun ts => ts.all (earlyRoom s j.hdr j.id)))
        && (reserveAll s p (heldPlaces s j.id j.next) needs).isSome

/-- The next block of a record, when it is admissible and a place serves it (18 R297, R303, R304). -/
def candidate (s : State) (j : Job) : Option Choice :=
  if !hasNext s j then none
  else
    match openNeeds s j with
    | none => (placeFor s j false).map (fun p => { job := j, place := p, early := false, needs := [], resvs := [] })
    | some (p, needs) =>
      match placeFor s j true with
      | none => none
      | some pl =>
        (reserveAll s p (heldPlaces s j.id j.next ++ [({ hdr := j.hdr, place := pl }, j.decls)]) needs).map (fun rs =>
          { job := j, place := pl, early := true, needs := needs, resvs := rs })

/-- The first admissible block of a queue's window that a place serves. -/
def queueChoice (s : State) (q : Nat) : Option Choice := (windowOf s q).findSome? (candidate s)

/-- The queue's window has held an admissible block for 1 ms (18 R298). -/
def agedNow (s : State) (st : Qst) : Bool := st.aged || st.since.any (fun c => decide (c + msClk ≤ s.clock))

/-- PRIO of a queue, 3 once it has aged (18 R298). -/
def prioOf (s : State) (q : Nat) : Nat := if agedNow s (qstOf s q) then 3 else fld (qctl s q) 16 2

/-- The queues in the order they are served: descending PRIO, round-robin after the queue served last. -/
def queueOrder (s : State) : List Nat :=
  let ring := (List.range 49).map (fun i => (s.lastQ + 1 + i) % 49)
  [3, 2, 1, 0].flatMap (fun p => ring.filter (fun q => prioOf s q == p))

/-- A swapped-out block is due for restore: it holds open a grace period (22 R363). -/
def restoreDue (s : State) (b : Block) : Bool :=
  b.out && b.saved.any (fun y => (periods s b.ctx).any (fun c => holdsOpen y.2 b.ctx c true))

/-- Where a block may be restored, and the reservations this creates: on the set it left under NEARPIN, otherwise on any (19 R323). An early one keeps to
EARLY, and the producer blocks it still waits for are placed or reserved (18 R304). -/
def restorePlace (s : State) (bid : Nat) (b : Block) : Option (Place × List Resv) :=
  let w : Want := { hdr := b.hdr, decls := b.decls, live := Tab.keys b.saved, early := b.early, job := b.job, power := true }
  let hs := heldPlaces s b.job b.linear
  let s' := { s with blocks := s.blocks.erase bid }
  let pl? := if bit (s.reg (ctxWin b.ctx + 8)).toNat 63 then setServes s' hs w (b.tiles.headD 0) else firstServes s' hs w (searchOrder s)
  match pl? with
  | none => none
  | some pl =>
    match (if b.early then (findJob s b.job).bind (fun j => producerOf s j.queue j.id j.num j.hdr) else none) with
    | none => some (pl, [])
    | some p =>
      (reserveAll s' p (hs ++ [({ hdr := b.hdr, place := pl }, b.decls)]) (b.needs.filter (fun x => !bit p.bitmap x))).map (fun rs => (pl, rs))

/-- The oldest reservation whose producer block can be placed: the placement, or the swapped-out block to restore, which counts as unplaced (18 R298,
R305). -/
def reservedChoice (s : State) : Option (Choice ⊕ Nat) :=
  s.resvs.findSome? (fun r =>
    match findJob s r.job with
    | none => none
    | some j =>
      if j.next = r.block then (candidate s j).map Sum.inl
      else
        (s.blocks.find? (fun x => x.2.job == r.job && x.2.linear == r.block && x.2.out && !x.2.accDue && (restorePlace s x.1 x.2).isSome)).map
          (fun x => Sum.inr x.1))

/-- The swapped-out blocks that are due for restore and that a set serves. -/
def dueBlocks (s : State) : List Nat :=
  (s.blocks.filter (fun x => restoreDue s x.2 && !x.2.accDue && (restorePlace s x.1 x.2).isSome)).map Prod.fst

/-- The block the distributor places (18 R298): a producer block with a reservation, oldest first; then none while a swapped-out block is due for
restore and a set serves it (RESTORE); then one of the queues. -/
def choose (s : State) : Option Choice :=
  match reservedChoice s with
  | some (.inl c) => some c
  | some (.inr _) => none
  | none => if (dueBlocks s).isEmpty then (queueOrder s).findSome? (queueChoice s) else none

/-- Nothing the distributor must do first stands before the restore of this block: step 1 of 18 R298, and a block that is due. -/
def mayRestore (s : State) (bid : Nat) : Bool :=
  match reservedChoice s with
  | some (.inl _) => false
  | some (.inr k) => k == bid
  | none => (dueBlocks s).isEmpty || (dueBlocks s).contains bid

/-- The reservation of a block is gone once it is placed, on its reserved place or on any other, and those its own admission creates are held (18 R304). -/
def State.reserve (s : State) (job block : Nat) (rs : List Resv) : State :=
  { s with resvs := s.resvs.filter (fun v => !(v.job == job && v.block == block)) ++ rs }

/-! ### Placing (08 R137, 02 R14, 11 R197, 12 R211) -/

/-- Zero bytes from a place up. -/
def State.clear (s : State) (p n : Nat) : State :=
  { s with mem := s.mem.filter (fun c => !(decide (p ≤ c.1) && decide (c.1 < p + n)))
           flaws := s.flaws.filter (fun f => !f.inRange p n) }

/-- The lowest free slot of a partition, as a key. -/
def freeKey (groups : Tab Group) (t p : Nat) : Nat :=
  let b := t * 64 + p * 16
  b + ((List.range 16).find? (fun i => (groups.get? (b + i)).isNone)).getD 0

/-- The rings of declared skeins, downward from 0x7F0000 in ascending k (11 R197): skein, base, entries, bytes. -/
def ringsFrom (top : Nat) (ds : List (Nat × Nat × Nat)) : Nat → List (Nat × Nat × Nat × Nat)
  | 0 => []
  | n + 1 =>
    let k := 31 - n
    match ds.find? (fun d => d.1 == k) with
    | none => ringsFrom top ds n
    | some d => let b := top - roundUp (d.2.1 * d.2.2) 256; (k, b, d.2.1, d.2.2) :: ringsFrom b ds n

/-- The context of a group of a block (02 R14, 04 R83, 18 R293). -/
def envOf (s : State) (j : Job) (bid i : Nat) (pl : Place) (epoch : Int) : Env :=
  let x := i / (hG j.hdr / hT j.hdr)
  let r := roleOf j.hdr i
  { block := bid, ctx := j.ctx, index := i, count := hG j.hdr, linear := j.next, role := r.1, vregs := r.2, codeBase := hCode j.hdr,
    planes := hPlanes j.hdr, stride := 2 ^ hPslog j.hdr, handler := hHandler j.hdr, skeins := j.decls.foldl (fun a d => a ||| 2 ^ d.1) 0,
    accBase := pl.accs.getD x 0, span := hAcc j.hdr, tagBase := pl.tags.getD x 0, tagSpan := hSpan j.hdr, epoch := epoch, launch := j.launch,
    born := s.clock }

/-- The groups of a block on block tile x set into their slots, from %group i on, n of them; their keys. -/
def seat (mk : Nat → Group) (t base lo : Nat) (live : Nat → Bool) (groups : Tab Group) (j : Nat) : Nat → Tab Group × List (Option Nat)
  | 0 => (groups, [])
  | n + 1 =>
    if live (lo + j) then
      let k := freeKey groups t ((base + j) % 4)
      let r := seat mk t base lo live (groups.set k (mk (lo + j))) (j + 1) n
      (r.1, some k :: r.2)
    else
      let r := seat mk t base lo live groups (j + 1) n
      (r.1, none :: r.2)

/-- All of a block's groups seated, tile by tile. -/
def seatAll (h : Nat) (mk : Nat → Group) (pl : Place) (live : Nat → Bool) (groups : Tab Group) : Tab Group × List (Option Nat) :=
  (List.range (hT h)).foldl (fun a x =>
    let n := hG h / hT h
    let r := seat mk (pl.tiles.getD x 0) (pl.bases.getD x 0) (x * n) live a.1 0 n
    (r.1, a.2 ++ r.2)) (groups, [])

/-- Windows of a block opened on block tile x: accumulators zero, tags as placement leaves them, skeins with empty rings. -/
def openTile (s : State) (h bid : Nat) (ds : List (Nat × Nat × Nat)) (pl : Place) (x : Nat) : State :=
  let t := pl.tiles.getD x 0
  let tb := pl.tags.getD x 0
  let s1 := s.clear (accPlace t (32768 * pl.accs.getD x 0)) (32768 * hAcc h)
  let s2 := { s1 with tags := s1.tags.filter (fun y => !(decide (t * 64 + tb ≤ y.1) && decide (y.1 < t * 64 + tb + hSpan h))) }
  (ringsFrom 0x7F0000 ds 32).foldl (fun s r =>
    s.setSkein (t * 32 + r.1) { block := bid, base := r.2.1, entries := r.2.2.1, bytes := r.2.2.2, allowance := r.2.2.1, reserved := 0,
                                taken := 0, live := [], rises := 0 }) s2

/-- Per-tile partition bases as the PLACE entry records them: two bits for each block tile index (log 17). -/
def packBases (bs : List Nat) : Nat := bs.foldr (fun b a => b % 4 + 4 * a) 0

/-- On whose behalf the distributor places the next block of a record (26 R389). -/
def placeWho (s : State) (j : Job) : Who := { distWho s j.ctx with linear := j.next, launch := j.launch }

/-- The chosen block placed (08 R137): its groups start with an empty spill area, and with a MARKER each while tracing. -/
def placeBlock (s : State) (c : Choice) : State :=
  let j := c.job
  let bid := s.seq
  let origin := c.place.tiles.headD 0
  let epoch := match (if replaying s j.ctx then loggedPlace s j else none) with | some e => e.epoch | none => epochNow s j.ctx
  let args : Tab W64 := (List.range j.args.length).map (fun i => (i, j.args.getD i 0))
  let s0 := logEvent s { placeWho s j with epoch := epoch } 12 origin (packBases c.place.bases)
  let r := seatAll j.hdr (fun i => newGroup (envOf s j bid i c.place epoch) args) c.place (fun _ => true) s0.groups
  let b : Block :=
    { job := j.id, ctx := j.ctx, linear := j.next, hdr := j.hdr, decls := j.decls, epoch := epoch, launch := j.launch, tiles := c.place.tiles,
      bases := c.place.bases, keys := r.2, gone := [], arrived := [], tagBases := c.place.tags, accBases := c.place.accs, needs := c.needs,
      early := c.early, raised := none, slot := 0, out := false, accDue := false, saved := [], otags := [], orecs := [], oskeins := [], owed := [] }
  let s1 := setJob { s0 with seq := s0.seq + 1, groups := r.1, blocks := s0.blocks.set bid b } { j with next := j.next + 1 }
  let s2 := (List.range c.place.tiles.length).foldl (fun s x => openTile s j.hdr bid j.decls c.place x) s1
  let s3 := if c.early then
      (List.range c.place.tiles.length).foldl (fun s x => tagUpd s bid x (hSpan j.hdr - 1) (fun _ => { count := 1, ready := false, bytes := 0 })) s2
    else s2
  let st := qstOf s3 j.queue
  let s4 := { s3.reserve j.id j.next c.resvs with
    lastQ := j.queue, lastTile := some origin, queues := s3.queues.set j.queue { st with since := none, aged := false } }
  (r.2.filterMap id).foldl (fun s k =>
    let s' := s.clear (spillPlace k) 1024
    if tenOn s' (tileOf k) then marker s' k 0 s'.clock else s') s4

/-- A choice carried out, unless the order log holds it back, or an earlier logged placement at its tile (26 R388, R390). -/
def carryOut (s : State) (c : Choice) : State :=
  match gate s (placeWho s c.job) 12 (c.place.tiles.headD 0) with
  | .wait => s
  | .diverge => diverged s
  | .free => placeBlock s c

/-- BLOCK_PLACE: the distributor places the block it chooses (18 R298). -/
def execBlockPlace (s : State) : Host.Outcome State Fault Refusal :=
  let s1 := hintWalks s
  .next (match choose s1 with | some c => carryOut s1 c | none => s1)

/-- The distributor's clock of a queue as things stand now: it starts when the window holds an admissible block, whether or not a place serves it, and stops when it
holds none; after 1 ms the queue counts as PRIO 3 until one of its blocks is placed (18 R298). -/
def Qst.age (s : State) (q : Nat) (st : Qst) : Qst :=
  if agedNow s st then { st with aged := true }
  else if (windowOf s q).any (admissible s) then { st with since := some (st.since.getD s.clock) }
  else { st with since := none }

/-- Every queue's clock, after each turn, so that no lapse goes unseen. -/
def ageAll (s : State) : State := { s with queues := s.queues.map (fun x => (x.1, x.2.age s x.1)) }

/-- QUEUE_AGING: the clock of queue `a`. -/
def execQueueAging (s : State) : Host.Outcome State Fault Refusal :=
  .next (if 48 < s.inp.a then s else { s with queues := s.queues.set s.inp.a ((qstOf s s.inp.a).age s s.inp.a) })

/-! ### Tasks (18 R306 to R308) -/

/-- A task record admitted: its template supplies the launch record (18 R306); none while the template's pages need a walk. A template address that is not
64-byte aligned ends the task with BADREC (log 18); a template that cannot be read ends it with the status of its context. -/
def enterTask (s : State) (bs : List Byte) (home : Nat) : Option State :=
  let q := 48
  let ctx := fld (qctl s q) 8 8
  let x := leVal bs
  let a := fld x 0 64
  let num := (s.reg (queueWin q + 0x10)).toNat
  let job (h st : Nat) (qb : List Byte) : Job :=
    { id := s.seq, queue := q, num := num, ctx := ctx, launch := launchNo s ctx, hdr := h, decls := declsOf qb,
      args := (List.range 6).map (fun i => BitVec.ofNat 64 (fld x (128 + 64 * i) 64)), blocks := 1, next := 0, ended := 0, bitmap := 0, status := st,
      finished := false, task := true, haddr := BitVec.ofNat 64 (fld x 64 64), home := home }
  let add (s : State) (j : Job) : State := { s with seq := s.seq + 1, jobs := pruneJobs s q num ++ [j] }
  let w := { agentWho ctx midTile with tile := home, acc := num + 1 }
  if a % 64 ≠ 0 ∨ (areaReason a).isSome ∨ 2 ^ 48 ≤ a then some (add s (job 0 (endedStatus s q 1) []))
  else if deadPage s ctx (canon home a) 0 then some (add s (job 0 (endedStatus s q 1) []))
  else
    match s.readVia w midTile (canon home a) 64 with
    | none => none
    | some (s1, none) => some (add s1 (job 0 (endedStatus s1 q stKilled) []))
    | some (s1, some hb) =>
      let h := leVal hb
      match s1.readVia w midTile (canon home (a + 64)) (64 * hQb h) with
      | none => if (List.range (hQb h)).any (fun i => deadPage s1 ctx (canon home (a + 64 + 64 * i)) 0) then some (add s1 (job h (endedStatus s1 q 0) [])) else none
      | some (s2, none) => some (add s2 (job h (endedStatus s2 q stKilled) []))
      | some (s2, some qb) =>
        let bad := hBlocks h != 1 || hT h != 1 || hArgb h != 0 || hMkind h != 0 || hSerial h
        some (add s2 (job h (endedStatus s2 q (if bad then 3 else admission s2 q num h qb)) qb))

/-- TASK_TAKE: the next task record whose posting is released is taken and, where the distributor's choice falls on it, placed at its preferred tile or
the nearest that serves (18 R307, R308). -/
def execTaskTake (s : State) : Host.Outcome State Fault Refusal :=
  .next (if !mayTake s 48 then s
    else
      match s.posts.find? (fun p => p.queue == 48), nextBytes s 48 with
      | some p, some (s1, bs) =>
        let w := distWho s (fld (qctl s 48) 8 8)
        if !logRoom s w 1 then s
        else
          match gate s w 5 48 with
          | .wait => s
          | .diverge => diverged s
          | .free =>
            match enterTask (logRecord s1 48 (s.reg (queueWin 48 + 0x10)).toNat bs) bs p.who.tile with
            | none => s
            | some s2 =>
              let s3 := hintWalks (tookRecord s2 48 1)
              match choose s3 with
              | some c => if c.job.queue = 48 then carryOut s3 c else s3
              | none => s3
      | _, _ => s)

end Sys2Proof.Machine
end

