-- ==== Sys2Proof/Machine/Preempt.lean ====
section
/-! DEFINITION. Pre-emption, images and restore (19 R320 to R326, 22 R363, 25 R380): PREEMPT_RAISE, FORCED_SAVE, GROUP_LEAVE, RESTORE, the retirement of
a tile (27 R400), the end of a group (GROUP_END, 05 R93), and which addresses are walked for whom (PAGE_WALK, 20 R331 to R342). -/

namespace Sys2Proof.Machine
open Sys2Proof

/-! ### Raising PREEMPT (19 R320, R321) -/

/-- Swap slots of a context: none for a SWAPBASE below the translated range (19 R324). -/
def swapSlots (s : State) (ctx : Nat) : Nat :=
  if fld (s.reg (ctxWin ctx)).toNat 0 48 < 0x200000000 then 0 else fld (s.reg (ctxWin ctx + 8)).toNat 0 16

/-- The lowest free swap slot: no block of the context is out or on its way out in it. -/
def freeSlot (s : State) (ctx : Nat) : Option Nat :=
  (List.range (swapSlots s ctx)).find? (fun k => !s.blocks.any (fun x => x.2.ctx == ctx && (x.2.out || x.2.raised.isSome) && x.2.slot == k))

/-- A resident early consumer waits for this block (18 R305). -/
def consumerWaits (s : State) (b : Block) : Bool :=
  match findJob s b.job with
  | none => false
  | some p =>
    s.blocks.any (fun x => x.2.early && !x.2.out && x.2.needs.contains b.linear
      && (findJob s x.2.job).any (fun c => (producerOf s c.queue c.id c.num c.hdr).any (fun y => y.id == p.id)))

/-- The word a wait belongs to completes before its group is saved (19 R320, R321). -/
def Wait.completes : Wait → Bool
  | .qpush _ _ _ (some _) _ | .bara _ _ _ | .barb _ _ _ => true
  | _ => false

/-- A blocked group with its word abandoned: the word is the one to issue next; a `grace.wait` left is a quiescent point (22 R360). -/
def Group.abandon (g : Group) (clock : Nat) : Group :=
  match g.wait with
  | none => g
  | some w =>
    { g with wait := none, todo := some (g.plane :: g.todo.getD []), abandoned := true,
             quiet := match w with | .grace _ _ _ => some clock | _ => g.quiet }

/-- Saved by force at a clock: a group still at the quiescent point it left with is inside a span from there on (22 R360). -/
def Group.forceAt (g : Group) (clock : Nat) : Group := if g.still then { g.force with quiet := some clock, still := false } else g.force

/-- A forced save of one group (19 R321): at once, or after the word, or the re-execution, that must complete (19 R320). -/
def Group.save (g : Group) (clock : Nat) : Group :=
  let later : Group := { g with forced := true, preempt := false }
  match g.wait with
  | some w => if w.completes then later else (g.abandon clock).forceAt clock
  | none => if g.redo.isSome then later else g.forceAt clock

/-- The group waits for the fetch of its next word, or of a literal that this word loads, and that fetch waits on a fault (20 Table 5). -/
def fetchFaulted (s : State) (key : Nat) (g : Group) : Bool :=
  match beginOffset s key g with
  | none => fetchStuck s key g 0 g.ofs
  | some g1 =>
    if g1.todo = some [] then false
    else
      let g2 := g1.takeWord
      match fetchAt s key g2 g2.wordPlane g2.ofs with
      | .word w =>
        match decode g2.limits w with
        | .ldl x => (g2.planesOf (g2.active x.hd)).any (fun k => fetchStuck s key g2 k (((g2.ofs : Int) + x.imm.toInt).toNat))
        | _ => false
      | _ => fetchStuck s key g2 g2.wordPlane g2.ofs

/-- PREEMPT taken at once: the resume point is the word the group would issue next, or its offset where none has issued. -/
def Group.takeNow (g : Group) (clock : Nat) : Group :=
  let h := match g.todo with
    | none => g.enter clock tPreempt 0 true false g.pathLanes
    | some _ => let x := g.takeWord; x.enter clock tPreempt 0 false false g.pathLanes
  { h with preempt := false, qhandler := false }

/-- The group at an offset no word of which has issued, with the words of the offset unlisted: its resume point then has no word (20 Table 5). -/
def Group.unissued (g : Group) : Group :=
  if g.todo = some (if g.common then [0] else g.planesOf g.pathLanes) then { g with todo := none } else g

/-- What a raised PREEMPT does to one group (19 R320). DESIGN CHOICE (log 34): in a handler every entry of which is held, two rows of R320 apply, and the one of the
handler is taken: PREEMPT stays pending until p + B. -/
def raiseIn (s : State) (key : Nat) (g : Group) (budget : Nat) : Group :=
  let g := { g with budget := some (s.clock + 64 * budget) }
  if g.frame.isSome then (if budget = 0 then g.save s.clock else { g with preempt := true })
  else if g.env.handler = 0 ∨ budget = 0 ∨ g.run?.isNone then g.save s.clock
  else
    match g.wait with
    | some w => if w.completes then { g with preempt := true } else (g.abandon s.clock).takeNow s.clock
    | none => if g.redo.isNone && fetchFaulted s key g then g.unissued.takeNow s.clock else { g with preempt := true }

/-- PREEMPT raised in every group of a block in this clock, when its context has a free swap slot (19 R320); never for a producer that a resident early
consumer waits for (18 R305). -/
def raisePreempt (s : State) (bid : Nat) : State :=
  match s.blocks.get? bid with
  | none => s
  | some b =>
    match freeSlot s b.ctx with
    | none => s
    | some k =>
      if b.out || b.raised.isSome || b.over || (s.ctxs.getD b.ctx Ctx.live).status != 0 || consumerWaits s b then s
      else
        { s with
          blocks := s.blocks.set bid { b with raised := some s.clock, slot := k }
          groups := s.groups.map (fun x => if x.2.env.block = bid ∧ !x.2.ended then (x.1, raiseIn s x.1 x.2 (hBudget b.hdr)) else x) }

/-- PREEMPT_RAISE: block `a`. -/
def execPreemptRaise (s : State) : Host.Outcome State Fault Refusal := .next (raisePreempt s s.inp.a)

/-- FORCED_SAVE: the groups of block `a` that have not yielded by p + B, and those whose last word has completed since, are saved by force (19 R321). -/
def execForcedSave (s : State) : Host.Outcome State Fault Refusal :=
  .next (match s.blocks.get? s.inp.a with
    | none => s
    | some b =>
      match b.raised with
      | none => s
      | some p =>
        let due := decide (p + 64 * hBudget b.hdr ≤ s.clock)
        { s with groups := s.groups.map (fun x =>
            if x.2.env.block = s.inp.a ∧ !x.2.ended ∧ !x.2.leaving ∧ (due ∨ x.2.forced) then (x.1, x.2.save s.clock) else x) })

/-! ### Images (19 R324 to R326, 02 R26) -/

/-- Pieces of an image written from a base up; none while a page needs a walk. -/
def writeParts (s : State) (w : Who) (tile base : Nat) : List (Nat × List Byte) → Option State
  | [] => some s
  | x :: r => (State.writeVia s w tile (base + x.1) x.2).bind (fun s1 => writeParts s1 w tile base r)

/-- A gauge record in the layout of 12 Table 2, with VALID in bit 511. -/
def Gauge.bytes (r : Gauge) : List Byte :=
  leBytes 64 (r.abase.toNat + r.bbase.toNat * 2 ^ 64 + at' r.astride 128 32 + at' r.bstride 160 32 + at' r.cstride 192 32 + at' r.steps 224 16
    + at' (wrapN 16 r.cexp) 240 16 + at' (r.m - 1) 256 7 + at' (r.n - 1) 264 7 + at' r.bord 271 1 + b2n r.valid * 2 ^ 511)

/-- Planes of the lanes, 3 bits each. -/
def planeBytes (t : Tab Nat) : List Byte := leBytes 24 (lanes.foldl (fun a l => a + t.getD l 0 % 8 * 2 ^ (3 * l)) 0)

/-- The path records of the entries in the table of a group, by index. -/
def tableBytes (s : State) (key : Nat) (g : Group) : List Byte :=
  (List.range 16).flatMap (fun i =>
    match g.paths.find? (fun e => e.idx == i) with
    | some e => leBytes 16 (g.record key e (entryPlane s key g e) 0 0)
    | none => leBytes 16 0)

/-- The group with the path table and the words to issue of a trap frame. -/
def Group.inFrame (g : Group) (f : Frame) : Group :=
  { g with paths := f.paths, planes := f.planes, parked := f.parked, common := f.common, plane := f.plane, skips := f.skips
           todo := if f.noword || f.fresh then none else some (f.plane :: f.todo) }

/-- Where a group outside a handler stopped, as a resume point: the word it issues next, or its offset with no word (19 R321, 25 R380). -/
def stoppedAt (s : State) (key : Nat) (g : Group) : Nat :=
  g.ofs % 2 ^ 22 + (if g.todo.isNone then 2 ^ 32 else nextPlane s key g * 2 ^ 24)

/-- A group's image: the parts that are always written, and those its save mask selects (19 Table 4). Outside a handler the frame's resume point and lane mask
say where the group stopped (log 34). -/
def groupImage (s : State) (key : Nat) (g : Group) : List (Nat × List Byte) :=
  let fr := g.frame
  let flags := b2n fr.isSome + 4 * b2n g.trace + 8 * b2n g.abandoned
  let frame := match fr with
    | some f => leBytes 8 f.kind ++ leBytes 8 f.detail.toNat ++ leBytes 8 f.resume ++ leBytes 8 f.lanes.toNat
    | none => leBytes 16 0 ++ leBytes 8 (stoppedAt s key g) ++ leBytes 8 g.pathLanes.toNat
  let fplanes := match fr with | some f => planeBytes f.planes | none => leBytes 24 0
  let fpaths := match fr with | some f => tableBytes s key (g.inFrame f) | none => List.replicate 256 0
  let fixed := leBytes 8 (g.saveMask % 2 ^ 17 + b2n g.forced * 2 ^ 63) ++ leBytes 8 g.status.toNat
    ++ (List.range 16).flatMap (fun i => leBytes 2 (g.ac.getD i 0).toNat) ++ leBytes 8 (matrixStatus s g)
    ++ leBytes 8 (match g.merr with | some x => x.2.toNat | none => 0) ++ (List.range 16).flatMap (fun i => leBytes 8 (g.pred i).toNat)
    ++ planeBytes g.planes ++ leBytes 8 flags ++ frame ++ tableBytes s key g
    ++ (List.range 16).flatMap (fun i => (g.gauge i).bytes) ++ fpaths ++ fplanes ++ List.replicate 232 0
  let scalars := if bit g.saveMask 16 then [(0x800, (List.range 192).flatMap (fun i => leBytes 8 (g.sreg i).toNat))] else []
  let chunks := ((List.range 16).filter (fun c => bit g.saveMask c)).map (fun c =>
    (0x1000 + 4096 * c, (List.range 16).flatMap (fun r => if 16 * c + r < g.env.vregs then (List.range 64).flatMap (fun l => leBytes 4 (g.vreg (16 * c + r) l).toNat)
      else List.replicate 256 0)))
  (0, fixed) :: scalars ++ chunks

/-- The image of a group's spill area: the area with the next stamp, which a swap-out writes (02 R26); none when reading it is a consumption. -/
def spillImage (s : State) (key : Nat) (g : Group) : State × Option (List Byte) :=
  match s.readAt (whoAt key g 0) (spillPlace key) 1024 with
  | (s1, none) => (s1, none)
  | (s1, some bs) => (s1, some (bs.take 960 ++ leBytes 2 g.stamp ++ bs.drop 962))

/-- The tag window of block tile i as it stands. -/
def windowTags (s : State) (b : Block) (i : Nat) : Tab Tag :=
  let lo := b.tiles.getD i 0 * 64 + b.tagBases.getD i 0
  (List.range (hSpan b.hdr)).map (fun t => (i * 64 + t, s.tags.getD (lo + t) Tag.fresh))

/-- The skein rings of a block, read from its slices; none when one read is a consumption. -/
def ringImages (s : State) (b : Block) : List (Nat × Nat × Nat) → State × Option (List (Nat × List Byte))
  | [] => (s, some [])
  | d :: r =>
    let t := b.tiles.getD d.1 0
    let q := s.skein (t * 32 + d.2.1)
    match s.readAt (blockWho b t) (slicePlace t q.base) d.2.2 with
    | (s1, none) => (s1, none)
    | (s1, some bs) =>
      match ringImages s1 b r with
      | (s2, none) => (s2, none)
      | (s2, some xs) => (s2, some ((0x1000000 + 0x400000 * d.1 + (q.base + 0x400000 - 0x7F0000), bs) :: xs))

/-- The rings of a block: block tile index, skein, bytes. -/
def Block.rings (b : Block) : List (Nat × Nat × Nat) :=
  (List.range b.tiles.length).flatMap (fun i => b.decls.map (fun d => (i, d.1, roundUp (d.2.1 * d.2.2) 256)))

/-- The barrier image of a block as it goes out: 64 tag words, arrived bits, no sector record (19 R326). The bytes of a skein's state have no stated layout: free
values (log 5). -/
def barrierParts (s : State) (bid : Nat) (b : Block) : List (Nat × List Byte) :=
  let ts := (List.range b.tiles.length).flatMap (fun i => (List.range (hSpan b.hdr)).map (fun t =>
    leBytes 8 (tagWord s bid i t (s.tags.getD (b.tiles.getD i 0 * 64 + b.tagBases.getD i 0 + t) Tag.fresh))))
  let arrived := (List.range 16).flatMap (fun k => (List.range 64).flatMap (fun g => leBytes 8 (b.arrived.getD (k * 64 + g) 0).toNat))
  let sk := (List.range (512 * b.tiles.length)).map (fun i => Config.freeByte (s.freeCtr + i))
  [(0, (ts.take 64).flatten ++ List.replicate (8 * (64 - ts.length)) 0), (0x200, arrived), (0x2200, leBytes 8 0), (0x6400, sk)]

/-- The block is out once its last group has left: its barrier image and rings are written, its tags, skeins and barriers live in the image, and its
accumulator windows are written when no command runs (19 R322, R324, R326). Ended groups need no image. None while a page needs a walk. -/
def blockOut (s : State) (bid : Nat) : Option State :=
  match s.blocks.get? bid with
  | none => some s
  | some b =>
    if b.raised.isNone || b.out || b.saved.isEmpty || !b.keys.all Option.isNone then some s
    else
      match ringImages s b (b.rings.filter (fun d => (s.skein (b.tiles.getD d.1 0 * 32 + d.2.1)).block == bid)) with
      | (s1, none) => some s1
      | (s1, some rings) =>
        (writeParts s1 (blockWho b (b.tiles.headD 0)) (b.tiles.headD 0) (swapSlot s1 b.ctx b.slot) (barrierParts s1 bid b ++ rings)).map (fun s2 =>
          let ix := List.range b.tiles.length
          let b1 : Block :=
            { b with out := true, raised := none, accDue := decide (0 < hAcc b.hdr), otags := ix.flatMap (windowTags s2 b),
                     oskeins := ix.flatMap (fun i => (s2.skeins.filter (fun y => y.2.block == bid && y.1 / 32 == b.tiles.getD i 0)).map (fun y =>
                       (i * 32 + y.1 % 32, y.2))) }
          flushAcc { s2 with blocks := s2.blocks.set bid b1, freeCtr := s2.freeCtr + 512 * b.tiles.length,
                             skeins := s2.skeins.filter (fun y => y.2.block != bid) } bid)

/-- The latent errors in the registers an image holds. -/
def savedFlaws (g : Group) : List RegFlaw := g.bad.filter (fun x => if x.scalar then bit g.saveMask 16 else bit g.saveMask (x.reg / 16))

/-- Nothing of the group is in progress that must end before it leaves (19 R320, R322): a far word, a popped entry's data, a re-execution, a move of its path
table, an offset whose words have all issued. -/
def mayLeave (s : State) (key : Nat) (g : Group) : Bool :=
  (farIds s key).isEmpty && g.pops.isEmpty && g.redo.isNone && !(g.busy == 11 && decide (s.clock < g.ready)) && (g.wait.isSome || g.todo != some [])

/-- GROUP_LEAVE: group `a` has yielded or been forced, and its far words have completed: its image is written and its slot, registers and spill area are
free (19 R322). The write of the image reads its registers: single errors are corrected and counted, a worse one is consumed (27 R395, R396). -/
def execGroupLeave (s : State) : Host.Outcome State Fault Refusal :=
  let key := s.inp.a
  .next (match s.groups.get? key with
    | none => s
    | some g =>
      match s.blocks.get? g.env.block with
      | none => s
      | some b =>
        if !g.leaving || g.ended || b.raised.isNone || !mayLeave s key g then s
        else
          match (savedFlaws g).find? RegFlaw.worse with
          | some x => consume s (whoAt key g 0) (if x.scalar then 2 else 1) (x.reg * 256 + (if x.scalar then 0 else x.lane)) x.syn
          | none =>
            let s0 := match savedFlaws g with
              | [] => s
              | xs => xs.foldl (fun s x => countCorrected s (if x.scalar then 2 else 1)) { s with groups := s.groups.set key { g with bad := g.bad.filter (fun x => !xs.contains x) } }
            match spillImage s0 key g with
            | (s1, none) => s1
            | (s1, some spill) =>
              let i := g.env.index
              let parts := (groupImage s1 key g).map (fun x => (0x8000 + 0x11000 * i + x.1, x.2)) ++ [(0x480000 + 1024 * i, spill)]
              match writeParts s1 (whoAt key g 0) (tileOf key) (swapSlot s b.ctx b.slot) parts with
              | none => s
              | some s2 =>
                let s3 := { s2 with
                  groups := s2.groups.erase key
                  loops := match s2.loops.get? (key / 16) with | some l => if l.group = key then s2.loops.erase (key / 16) else s2.loops | none => s2.loops
                  blocks := s2.blocks.set g.env.block { b with keys := b.keys.set i none
                                                               saved := b.saved.set i { g with opens := [], view := [], struck := none, bad := [] } } }
                (blockOut s3 g.env.block).getD s)

/-- GROUP_END: group `a` has ended, and its far words, copies and commands have completed (05 R93, 11 R187, 12 R230). The last group to go lets a block that
is being swapped out be out (19 R322). -/
def execGroupEnd (s : State) : Host.Outcome State Fault Refusal :=
  .next (match s.groups.get? s.inp.a with
    | none => s
    | some g =>
      if !g.ended then s
      else
        let s1 := dropDead s s.inp.a g
        let busy := !(farIds s1 s.inp.a).isEmpty || !g.pops.isEmpty || s1.copies.any (fun c => c.gid == g.gid) || s1.mats.any (fun c => c.gid == g.gid)
        if busy then s1
        else (blockOut (freeGroup s1 s.inp.a ((s1.groups.get? s.inp.a).getD g)) g.env.block).getD s1)

/-! ### Restore (19 R323, R326, 02 R25) -/

/-- A read that follows another; none while a page needs a walk, and no value once one is consumed. -/
def thenRead {α β : Type} (r : Option (State × Option α)) (f : State → α → Option (State × Option β)) : Option (State × Option β) :=
  match r with
  | none => none
  | some (s, none) => some (s, none)
  | some (s, some x) => f s x

/-- n bytes at an offset of an image, as a number. -/
def cut (bs : List Byte) (ofs n : Nat) : Nat := leVal ((bs.drop ofs).take n)

/-- The saved registers read back from an image: the chunks and scalars its SAVEMASK selects; the others are 0. -/
def imageRegs (s : State) (w : Who) (tile base vregs mask : Nat) : Option (State × Option (Tab (List W32) × Tab W64)) :=
  let sv := if bit mask 16 then State.readVia s w tile (base + 0x800) 1536 else some (s, some [])
  thenRead sv (fun s1 sb =>
    let regs := (List.range vregs).filter (fun r => bit mask (r / 16))
    let r := regs.foldl (fun (r : Option (State × Option (Tab (List W32)))) x =>
      thenRead r (fun s t => thenRead (State.readVia s w tile (base + 0x1000 + 256 * x) 256) (fun s1 bs =>
        some (s1, some (t ++ [(x, (List.range 64).map (fun l => BitVec.ofNat 32 (cut bs (4 * l) 4)))]))))) (some (s1, some []))
    thenRead r (fun s2 v => some (s2, some (v, (List.range (sb.length / 8)).map (fun i => (i, BitVec.ofNat 64 (cut sb (8 * i) 8)))))))

/-- A path entry read back; what the record does not hold of it (held, stepped) is the saved entry's. -/
def imageEntry (olds : List Entry) (idx ofs stamp : Nat) (m : Mask) : Option Entry :=
  let o := olds.find? (fun e => e.idx == idx && e.ofs == ofs)
  if m = 0 then none
  else some { idx := idx, ofs := ofs, stamp := stamp, lanes := m, held := o.any Entry.held, step := o.any Entry.step, pass := o.any Entry.pass, stops := (o.map Entry.stops).getD [] }

/-- The path table at an offset of an image. -/
def tableFrom (olds : List Entry) (bs : List Byte) (ofs : Nat) : List Entry :=
  (List.range 16).filterMap (fun i => let x := cut bs (ofs + 16 * i) 16; imageEntry olds i (fld x 75 22) 0 (BitVec.ofNat 64 (fld x 0 64)))

/-- The entries of a spill area's image (02 R26). -/
def spillFrom (olds : List Entry) (sp : List Byte) : List Entry :=
  (List.range 48).filterMap (fun k =>
    let x := cut sp (16 * k) 16
    if fld x 104 8 = 1 then imageEntry olds (16 + k) (cut sp (768 + 4 * k) 4) (fld x 80 16) (BitVec.ofNat 64 (fld x 0 64)) else none)

/-- Lane planes at an offset of an image. -/
def planesFrom (bs : List Byte) (ofs : Nat) : Tab Nat :=
  let x := cut bs ofs 24
  lanes.filterMap (fun l => if fld x (3 * l) 3 = 0 then none else some (l, fld x (3 * l) 3))

/-- The planes above k of the running path, whose words follow the one of plane k. -/
def Group.above (g : Group) (k : Nat) : List Nat := if g.common then [] else (g.planesOf g.pathLanes).filter (fun x => decide (k < x))

/-- A trap frame read back. -/
def Frame.fromImage (f : Frame) (g : Group) (bs sp : List Byte) : Frame :=
  let r := cut bs 0xF0 8
  let f1 : Frame :=
    { f with kind := cut bs 0xE0 8, detail := BitVec.ofNat 64 (cut bs 0xE8 8), ofs := fld r 0 22, plane := fld r 24 3, noword := bit r 32,
             lanes := BitVec.ofNat 64 (cut bs 0xF8 8), paths := tableFrom f.paths bs 0x600 ++ spillFrom f.paths sp, planes := planesFrom bs 0x700 }
  { f1 with todo := if f1.noword || f1.fresh then [] else (g.inFrame f1).above f1.plane }

/-- A saved group with everything its images hold read from them (19 R323, Table 4). -/
def Group.fromImage (g : Group) (bs sp : List Byte) : Group :=
  let flags := cut bs 0xD8 8
  let ms := cut bs 0x30 8
  let inside := bit flags 0 && g.frame.isSome
  let rep := cut bs 0x38 8
  let g1 : Group :=
    { g with
      status := BitVec.ofNat 64 (cut bs 8 8)
      ac := (List.range 16).map (fun i => (i, BitVec.ofNat 16 (cut bs (0x10 + 2 * i) 2)))
      p := (List.range 16).map (fun i => (i, BitVec.ofNat 64 (cut bs (0x40 + 8 * i) 8)))
      merr := if bit ms 63 then some (fld rep 36 16, BitVec.ofNat 64 rep) else none
      nerr := fld ms 56 7
      bopen := BitVec.ofNat 16 (fld ms 16 16)
      bdone := BitVec.ofNat 16 (fld ms 0 16)
      planes := planesFrom bs 0xC0
      trace := bit flags 2
      abandoned := bit flags 3
      paths := tableFrom g.paths bs 0x100 ++ (if inside then [] else spillFrom g.paths sp)
      stamp := cut sp 960 2
      gauges := (List.range 16).map (fun k =>
        let x := cut bs (0x200 + 64 * k) 64
        (k, { gaugeOf x (g.gauge k).inuse with valid := bit x 511 }))
      frame := if inside then g.frame.map (fun f => f.fromImage g bs sp) else none }
  let k := if inside then (match g1.run? with | some e => fld (cut bs (0x100 + 16 * e.idx) 16) 97 3 | none => 0) else fld (cut bs 0xF0 8) 24 3
  let words := some (k :: g1.above k)
  { g1 with todo := if inside then (match g.todo with | none => none | some [] => some [] | some _ => words)
                    else if bit (cut bs 0xF0 8) 32 then none else words }

/-- Fresh stamps for the table entries in ascending index (02 R25). -/
def restamp (paths : List Entry) (stamp : Nat) : List Entry × Nat :=
  (List.range 16).foldl (fun a i =>
    if a.1.any (fun e => e.idx == i) then (a.1.map (fun e => if e.idx = i then { e with stamp := a.2 } else e), (a.2 + 1) % 2 ^ 16) else a) (paths, stamp)

/-- A saved group as it goes on after its block's restore (19 R318, R321, R323): the entries its tables hold are younger than every spilled one (02 R25). -/
def Group.back (g : Group) (clock : Nat) (v : Tab (List W32)) (sc : Tab W64) (accBase tagBase : Nat) : Group :=
  let r := restamp g.paths g.stamp
  let rf := match g.frame with | some f => restamp f.paths r.2 | none => ([], r.2)
  { g with env := { g.env with accBase := accBase, tagBase := tagBase }, v := v, s := sc, paths := r.1, stamp := rf.2,
           frame := g.frame.map (fun f => { f with paths := rf.1 }), wait := none, ready := clock + 1, busy := 0,
           stalled := false, budget := none, preempt := false, saveMask := 0, leaving := false, forced := false, pre := [], bad := [], owes := true,
           holds := [], still := g.still || g.qhandler, qhandler := false }

/-- The groups of a block read back from their images, in ascending %group, each with its spill area; none while a page needs a walk. -/
def restoreGroups (s : State) (b : Block) (pl : Place) (slot : Nat) : Tab Group → Option (State × Option (Tab (Group × List Byte)))
  | [] => some (s, some [])
  | x :: r =>
    let i := x.1 / (hG b.hdr / hT b.hdr)
    let t := pl.tiles.getD i 0
    let w := blockWho b t
    let base := slot + 0x8000 + 0x11000 * x.1
    thenRead (State.readVia s w t base 0x800) (fun s1 bs =>
      thenRead (State.readVia s1 w t (slot + 0x480000 + 1024 * x.1) 1024) (fun s2 sp =>
        thenRead (imageRegs s2 w t base x.2.env.vregs (cut bs 0 8)) (fun s3 y =>
          thenRead (restoreGroups s3 b pl slot r) (fun s4 rest =>
            some (s4, some ((x.1, (x.2.fromImage bs sp).back s.clock y.1 y.2 (pl.accs.getD i 0) (pl.tags.getD i 0), sp) :: rest))))))

/-- A tag read from its word of the barrier image (11 Table 3). -/
def tagFrom (x : Nat) : Tag := { count := fld x 32 9, ready := bit x 62, bytes := fld x 0 32 }

/-- The tag window of block tile i restored from the barrier image; the tags past its 64 words are the saved ones (log 34). -/
def restoreTags (s : State) (b : Block) (pl : Place) (bs : List Byte) (i : Nat) : State :=
  let tb := pl.tiles.getD i 0 * 64 + pl.tags.getD i 0
  { s with tags := (List.range (hSpan b.hdr)).foldl (fun a x =>
      let n := i * hSpan b.hdr + x
      Tab.set a (tb + x) (if n < 64 then tagFrom (cut bs (8 * n) 8) else b.otags.getD (i * 64 + x) Tag.fresh)) s.tags }

/-- The skeins of block tile i with their rings, then its accumulator window. None while a page needs a walk. -/
def restoreTile (s : State) (w : Who) (slot : Nat) (b : Block) (pl : Place) (i : Nat) : Option (State × Option Unit) :=
  let t := pl.tiles.getD i 0
  let sk := b.oskeins.filter (fun y => y.1 / 32 == i)
  let s1 := sk.foldl (fun s y => s.setSkein (t * 32 + y.1 % 32) y.2) s
  let rings := sk.map (fun y => (0x1000000 + 0x400000 * i + (y.2.base + 0x400000 - 0x7F0000), slicePlace t y.2.base, roundUp (y.2.entries * y.2.bytes) 256))
  let acc := if hAcc b.hdr = 0 then [] else [(0x800000 + 0x80000 * i, accPlace t (32768 * pl.accs.getD i 0), 32768 * hAcc b.hdr)]
  (rings ++ acc).foldl (fun r x =>
    thenRead r (fun s _ => thenRead (State.readVia s w t (slot + x.1) x.2.2) (fun s1 bs => some (s1.poke x.2.1 bs, some ())))) (some (s1, some ()))

/-- The arrived lanes of the block barriers in a barrier image. -/
def arrivedFrom (b : Block) (bs : List Byte) : Tab Mask :=
  (List.range 16).flatMap (fun k => (List.range b.keys.length).filterMap (fun g =>
    let x := cut bs (0x200 + 512 * k + 8 * g) 8
    if x = 0 then none else some (k * 64 + g, BitVec.ofNat 64 x)))

/-- A block restored to a place: group images and spill areas, skeins and accumulator windows, then the barrier image with its sector records in order; its
groups issue from the next clock (19 R323, R326). DESIGN CHOICE (log 20): STOPREC and STOPS of the tile it left keep the stops of its held entries, under their
old GROUP. None while a page needs a walk. -/
def restoreBlock (s : State) (bid : Nat) (b : Block) (pl : Place) : Option State :=
  let slot := swapSlot s b.ctx b.slot
  let t := pl.tiles.headD 0
  let w := blockWho b t
  let read := thenRead (restoreGroups s b pl slot b.saved) (fun s1 gs =>
    thenRead (State.readVia s1 w t slot 0x2208) (fun s2 bs =>
      thenRead (State.readVia s2 w t (slot + 0x2208) (16 * min (cut bs 0x2200 8) 1024)) (fun s3 rs =>
        thenRead ((List.range pl.tiles.length).foldl (fun r i => thenRead r (fun s _ => restoreTile s w slot b pl i)) (some (s3, some ()))) (fun s4 _ =>
          some (s4, some (gs, bs, rs))))))
  match read with
  | none => none
  | some (s1, none) => some s1
  | some (s1, some (gs, bs, rs)) =>
    let r := seatAll b.hdr (fun i => match gs.get? i with | some x => x.1 | none => newGroup Env.blank []) pl
      (fun i => (Tab.keys b.saved).contains i) s1.groups
    let b1 : Block :=
      { b with tiles := pl.tiles, bases := pl.bases, tagBases := pl.tags, accBases := pl.accs, out := false, raised := none, saved := [], otags := [],
               orecs := [], oskeins := [], arrived := arrivedFrom b bs,
               keys := (List.range b.keys.length).map (fun i => match r.2.getD i none with | some k => some k | none => b.keys.getD i none) }
    let s2 := (List.range pl.tiles.length).foldl (fun s i => restoreTags s b pl bs i) { s1 with groups := r.1, blocks := s1.blocks.set bid b1 }
    let s3 := (List.range (rs.length / 16)).foldl (fun s i =>
      let x := cut rs (16 * i) 16
      barStep s w bid (slicePlace (pl.tiles.getD (fld x 96 2) 0) (fld x 0 64)) (barSector (fld x 64 32))) s2
    some ((List.range b.keys.length).foldl (fun s i =>
      match r.2.getD i none, gs.get? i with
      | some k, some x =>
        let s' := s.poke (spillPlace k) x.2
        if tenOn s' (tileOf k) then marker s' k (nextPlane s' k x.1) s'.clock else s'
      | _, _ => s) s3)

/-- The writes to a block's swap slot that waited for a translation are made, in order; none while one still waits. -/
def payOwed (s : State) (bid : Nat) : Option State :=
  match s.blocks.get? bid with
  | none => some s
  | some b =>
    let t := b.tiles.headD 0
    if b.owed.isEmpty then some s
    else (writeParts s (blockWho b t) t (swapSlot s b.ctx b.slot) b.owed).map (fun s1 => { s1 with blocks := s1.blocks.set bid { b with owed := [] } })

/-- RESTORE: swapped-out block `a` is restored where a set serves it, when nothing comes before it (18 R298, 19 R323); its own reservation is gone and those its
admission creates are held (18 R304). -/
def execRestore (s : State) : Host.Outcome State Fault Refusal :=
  let s0 := flushAcc s s.inp.a
  .next (match payOwed s0 s.inp.a with
    | none => s0
    | some s1 =>
      match s1.blocks.get? s.inp.a with
      | none => s1
      | some b =>
        if !b.out || b.accDue || b.over || b.saved.isEmpty || (s1.ctxs.getD b.ctx Ctx.live).status != 0 || !mayRestore s1 s.inp.a then s1
        else
          match restorePlace s1 s.inp.a b with
          | none => s1
          | some (pl, rs) => ((restoreBlock s1 s.inp.a b pl).map (fun t => t.reserve b.job b.linear rs)).getD s1)

/-! ### Retirement of a tile (27 R400) -/

/-- A TILEOFF register written: blocks resident on a tile that is newly out of service are pre-empted, or their pinned context ends. -/
def writeTileoff (s : State) (i v : Nat) : State :=
  let old := (s.reg (errWin + 0x40 + 8 * i)).toNat
  let s1 := s.setReg (errWin + 0x40 + 8 * i) (BitVec.ofNat 64 v)
  let off (t : Nat) : Bool := t / 64 == i && bit v (t % 64) && !bit old (t % 64)
  s1.blocks.foldl (fun s x =>
    if !x.2.out && !x.2.over && x.2.tiles.any off then
      (if bit (s.reg (ctxWin x.2.ctx + 8)).toNat 63 then endContext s x.2.ctx stKilled none else raisePreempt s x.1)
    else s) s1

/-- TILEOFF_WRITE: register `a` (0 to 3), value `v`. -/
def execTileoffWrite (s : State) : Host.Outcome State Fault Refusal := .next (writeTileoff s (s.inp.a % 4) s.inp.v.toNat)

/-! ### Walks (20 R330 to R342) -/

/-- Two addresses lie in one 64 KiB page. -/
def samePage (a b : Nat) : Bool := a / 65536 == b / 65536

/-- A page holds a byte of n rows. -/
def pageInRows (va base stride len rows : Nat) : Bool := (List.range rows).any (fun r => pageIn va (base + r * stride) len)

/-- A copy reaches a page with an access kind: the rows it reads and writes here (11 R190, 14 R257, R262, R267, 26 R386). -/
def Copy.reaches (s : State) (c : Copy) (va k : Nat) : Bool :=
  let z := if c.widen then 2 else 1
  let src := k == 0 && pageInRows va c.src c.sstride c.rowBytes c.rows
  let dst := k == 1 && pageInRows va c.dst c.dstride (z * c.rowBytes) c.rows
  !inFlight s c.holds &&
  match c.kind with
  | .copy => src || dst
  | .fill _ => dst
  | .life _ => dst && c.routes.isEmpty
  | .put _ => src || (dst && c.routes.isEmpty)
  | .get => dst || (src && c.routes.isEmpty)
  | .gather => k == 0 && c.own.any (fun a => pageIn va a c.rowBytes)

/-- Slots and rings of a context's device queues: the distributor reads and writes them (18 R296, R308, R319). -/
def inRings (s : State) (ctx va : Nat) : Bool :=
  (queuesOf s ctx).any (fun q => decide (32 ≤ q) && pageIn va (s.reg (queueWin q)).toNat (64 * ringSlots s q))

/-- A task record's template holds an address: its header, and once that can be read the QB blocks after it (18 R306). -/
def templateReaches (s : State) (p : Post) (va : Nat) : Bool :=
  let a := fld (leVal p.bytes) 0 64
  pageIn va a 64 || (match s.readVia (agentWho p.who.ctx midTile) midTile a 64 with
    | some (_, some hb) => pageIn va (a + 64) (64 * hQb (leVal hb))
    | _ => false)

/-- The parts of a block's image, by offset and length: the barrier image, each group's image as its save mask selects it and its spill area, the accumulator
windows and the skein rings (19 R324, Table 4). -/
def imageSpans (s : State) (b : Block) : List (Nat × Nat) :=
  let group (i : Nat) : List (Nat × Nat) :=
    match (match b.keys.getD i none with | some k => s.groups.get? k | none => b.saved.get? i) with
    | none => []
    | some g =>
      let base := 0x8000 + 0x11000 * i
      (base, 0x800) :: (0x480000 + 1024 * i, 1024) :: (if bit g.saveMask 16 then [(base + 0x800, 1536)] else [])
        ++ ((List.range 16).filter (bit g.saveMask)).map (fun c => (base + 0x1000 + 4096 * c, 4096))
  let ring (d : Nat × Nat × Nat) : Nat × Nat :=
    let q := if b.out then (b.oskeins.get? (d.1 * 32 + d.2.1)).getD (s.skein 0) else s.skein (b.tiles.getD d.1 0 * 32 + d.2.1)
    (0x1000000 + 0x400000 * d.1 + (q.base + 0x400000 - 0x7F0000), d.2.2)
  (0, 0x6400 + 512 * b.tiles.length) :: (List.range b.keys.length).flatMap group
    ++ (List.range b.tiles.length).map (fun i => (0x800000 + 0x80000 * i, 32768 * hAcc b.hdr)) ++ b.rings.map ring

/-- The copy engine reaches an address of a block's swap slot: from a tile the block lies on to write its image, from a tile it can be restored to, to read it. -/
def imageReaches (s : State) (bid : Nat) (b : Block) (tile va k : Nat) : Bool :=
  let here : Bool :=
    if k == 1 then (b.out || b.raised.isSome) && b.tiles.contains tile
    else k == 0 && b.out && (match restorePlace s bid b with | some (pl, _) => pl.tiles.contains tile | none => false)
  here && (imageSpans s b).any (fun x => pageIn va (swapSlot s b.ctx b.slot + x.1) x.2)

/-- An address that an agent outside the words, copies and commands reaches for a context from a tile's cache, with an access kind (20 Table 7): 1 the copy engine
with a swap slot or the next step of a cast-off return, 4 a shadow's publication, 5 Lifeline's target, 6 an arriving packet, 7 the distributor. -/
def agentReaches (s : State) (agent obj tile ctx va k : Nat) : Bool :=
  match agent with
  | 1 =>
    s.blocks.any (fun x => x.2.ctx == ctx && imageReaches s x.1 x.2 tile va k)
      || s.castoffs.any (fun e => e.who.ctx == ctx && e.who.tile == tile && (match e.list with
          | some (a, hd) => let n := e.needs a hd; k == n.2 && samePage va n.1
          | none => false))
  | 4 => s.shadows.any (fun h => h.due && h.id == obj && h.ctx == ctx && h.tile == tile && k == 1 && pageIn va h.dst h.size)
  | 5 => tile == midTile && k == 1 && llCtx s == ctx && !farTarget s && pageIn va (llTarget s) (2 * logHalf s)
  | 6 => tile == midTile && k != 2 && (List.range 32).any (fun n => match regionOf s n with | some d => d.ctx == ctx && pageIn va d.base d.size | none => false)
  | 7 =>
    tile == midTile && ((k != 2 && inRings s ctx va)
      || (k == 1 && s.jobs.any (fun j => j.ctx == ctx && !j.finished && hDone j.hdr != 0 && samePage va (hDone j.hdr)))
      || (k == 0 && s.posts.any (fun p => p.queue == 48 && p.who.ctx == ctx && templateReaches s p va)))
  | _ => false

/-- The requester a walk is made for: on whose behalf it reads. It reaches this address with this kind and lacks its translation, it does not wait on a fault of the
page, and of 512 walk places one is free (20 R334, R340, R342). For a context that has ended only the distributor and Lifeline's engine walk (18 R294, 26 R386). -/
def needsWalk (s : State) (tile ctx va k req other obj : Nat) : Option Who :=
  let engine : Bool := decide (2 ^ 61 ≤ req) && (other == 5 || other == 7) || s.copies.any (fun c => c.id == req && c.ofLife)
  if ((s.ctxs.getD ctx Ctx.live).status ≠ 0 ∧ !engine) ∨ va < 0x200000000 ∨ 2 ^ 48 ≤ va ∨ (placeOf s tile ctx va k).isSome
      ∨ waitsFault s req ctx va ∨ 512 ≤ (s.faults.filter (fun f => !f.written)).length then none
  else if 2 ^ 61 ≤ req then
    if agentReaches s other obj tile ctx va k then some { agentWho ctx tile with tile := if tile = midTile then 0xFF else tile, acc := req } else none
  else if 2 ^ 60 ≤ req then
    match s.groups.get? (req - 2 ^ 60) with
    | some g =>
      if g.env.ctx = ctx ∧ tile = tileOf (req - 2 ^ 60) ∧ k = 2 ∧ pageIn va g.env.codeBase (12 * g.env.planes * g.env.stride) then some (whoAt (req - 2 ^ 60) g 0)
      else none
    | none => none
  else
    match s.far.find? (fun o => o.id == req) with
    | some o =>
      if o.who.ctx = ctx ∧ o.who.tile = tile ∧ k = min o.kind.access 1 ∧ !inFlight s o.holds
          ∧ o.els.any (fun e => !e.performed && e.rank.isNone && samePage va e.addr) then some o.who else none
    | none =>
      match s.mats.find? (fun c => c.id == req) with
      | some c => if c.who.ctx = ctx ∧ c.tile = tile ∧ k = b2n c.conv ∧ c.started ∧ !c.faulted ∧ c.needs.any (samePage va) then some c.who else none
      | none =>
        match s.copies.find? (fun c => c.id == req) with
        | some c => if c.who.ctx = ctx ∧ c.tile = tile ∧ c.reaches s va k then some c.who else none
        | none => none

/-- What an agent walks for, of several things it acts for: the publication or the arriving packet, by its sender and identity, that the schedule names; each is a
requester of its own, so that a fault joins an entry once for it (20 R342). -/
def walkObject (nums : List Nat) : Nat :=
  match nums.headD 0 with
  | 4 => nums.getD 3 0
  | 6 => nums.getD 3 0 * 2 ^ 64 + nums.getD 4 0 % 2 ^ 64
  | _ => 0

/-- PAGE_WALK: for the translation cache of tile `a` (256 for the agents outside the tiles), context `b`, address `v`, access kind `c` (0 read, 1 write or
atomic, 2 fetch), on behalf of requester `d`: the id of a far word, copy or matrix command, 2^60 + key for a group's fetch, 2^61 for agent
`nums`[0] of 20 Table 7, with `nums`[3] and [4] for what it acts for. `m` not 0: the walk cache has dropped its entries first; `nums`[1] = 1 or 2 drops one leaf or one pointer, number `nums`[2], and walks nothing
(20 R334: a cache may drop an entry at any time). A walk that faults leaves no entry in either
cache. A fetch that waits on a fault lets a raised PREEMPT be
taken at once (20 R340: PREEMPT_RAISE). A fault of the distributor for a context that has ended makes no entry (18 R295). -/
def execPageWalk (s : State) : Host.Outcome State Fault Refusal :=
  let tile := s.inp.a
  let ctx := s.inp.b % 256
  let va := s.inp.v.toNat
  let k := s.inp.c % 3
  let other := s.inp.nums.headD 0
  let obj := walkObject s.inp.nums
  let req := if 2 ^ 61 ≤ s.inp.d then agentReq other tile obj va else s.inp.d
  .next (if s.inp.nums.getD 1 0 = 1 then { s with trans := s.trans.eraseIdx (s.inp.nums.getD 2 0) }
    else if s.inp.nums.getD 1 0 = 2 then { s with walks := s.walks.eraseIdx (s.inp.nums.getD 2 0) }
    else
      match needsWalk s tile ctx va k req other obj with
      | none => s
      | some w =>
        let s0 : State := if s.inp.m = 0 then s else { s with walks := [] }
        match walk s0 { w with ctx := ctx } tile va k with
        | (s1, .ok t) => holdTrans s1 t
        | (s1, .gone) => s1
        | (s1, .fault kind lvl pte) =>
          let s1 : State := { s1 with walks := s0.walks }
          if (s.ctxs.getD ctx Ctx.live).status ≠ 0 then s1
          else addFault s1 ctx va kind lvl pte (k == 1) (agentOf s req other) (min tile 0xFF) req)

end Sys2Proof.Machine
end

