-- ==== Sys2Proof/Machine/Power.lean ====
section
/-! DEFINITION. Errors that arise, scrubbing and the error counters (27), the power arbiter (28 R402 to R404), the HBM4 controller (28 R406 to R408), and
reset with bring-up (28 R409). -/

namespace Sys2Proof.Machine
open Sys2Proof

/-! ### Soft errors and scrubbing (27 R395 to R399) -/

/-- An error arises in the granule of a place; a second one there makes it worse than a single error. -/
def addFlaw (s : State) (f : Flaw) : State :=
  match s.flaws.find? (fun x => x.unit == f.unit && x.place == f.place) with
  | none => { s with flaws := s.flaws ++ [f] }
  | some x => { s with flaws := s.flaws.map (fun y => if y = x then { y with worse := true, syn := f.syn } else y) }

/-- An error arises in a register of a group. -/
def addRegFlaw (g : Group) (f : RegFlaw) : Group :=
  match g.bad.find? (fun x => x.scalar == f.scalar && x.reg == f.reg && x.lane == f.lane) with
  | none => { g with bad := g.bad ++ [f] }
  | some x => { g with bad := g.bad.map (fun y => if y = x then { y with worse := true, syn := f.syn } else y) }

/-- SOFT_ERROR in unit `a` of 27 Table 4: 1 and 2, register `c` div 256 (lane `c` mod 256) of group `b`; 3, 5 and 6, the granule of place `b`, which in the
shadow pool poolPart names; 4, the
`c`-th granule of the stage of matrix command `b`; 7, the line of the instruction cache at tile `c`, address `b`, refetched (`d` = 1: the loop buffer of partition `b`, which is dropped); 8, the
`b`-th cached translation (`d` = 1: pointer of the walk cache), walked again; 9 and 10, a flit or packet of a UALink plane or an Ultra Ethernet port that fails its link
CRC and is retried. Elsewhere `d` = 1 is worse than a single error, with syndrome `v`. -/
def execSoftError (s : State) : Host.Outcome State Fault Refusal :=
  let x := s.inp
  let worse := x.d == 1
  let syn := x.v.toNat % 256
  .next (match x.a with
    | 1 | 2 =>
      match s.groups.get? x.b with
      | none => s
      | some g =>
        let f : RegFlaw := { scalar := x.a == 2, reg := x.c / 256, lane := if x.a = 2 then 0 else x.c % 64, worse := worse, syn := syn }
        { s with groups := s.groups.set x.b (addRegFlaw g f) }
    | 6 =>
      if x.b < 2 ^ 48 then s
      else if x.b < 2 ^ 60 then (if unitOf x.b = 6 then addFlaw s { unit := 6, place := granule x.b, worse := worse, syn := syn, known := false } else s)
      else if s.shadows.any (fun h => h.id == (x.b - 2 ^ 60) / 2 ^ 26 && decide (64 * (x.b % 2 ^ 26) < h.size)) then addFlaw s { unit := 6, place := x.b, worse := worse, syn := syn, known := false } else s
    | 3 | 5 => if unitOf x.b = x.a then addFlaw s { unit := x.a, place := granule x.b, worse := worse, syn := syn, known := false } else s
    | 4 => if s.mats.any (fun c => c.id == x.b && decide (8 * x.c < c.stage)) then addFlaw s { unit := 4, place := stagePart x.b x.c, worse := worse, syn := syn, known := false } else s
    | 7 =>
      if x.d = 1 then (if (s.loops.get? x.b).isSome then countCorrected { s with loops := s.loops.erase x.b } 7 else s)
      else
      let hit (c : ICell) : Bool := c.tile == x.c && c.va / 128 == x.b / 128
      if s.icache.any hit then countCorrected { s with icache := s.icache.filter (fun c => !hit c) } 7 else s
    | 8 =>
      if x.d = 1 then (if x.b < s.walks.length then countCorrected { s with walks := s.walks.eraseIdx x.b } 8 else s)
      else if x.b < s.trans.length then countCorrected { s with trans := s.trans.eraseIdx x.b } 8 else s
    | 9 | 10 => countCorrected s x.a
    | _ => s)

/-- SCRUB reads the granule of the `a`-th latent error, while SCRUB.EN is 1: a single one is corrected and counted; a worse one is recorded in class 3. -/
def execScrub (s : State) : Host.Outcome State Fault Refusal :=
  .next (if !bit (s.reg (errWin + 0x28)).toNat 63 then s
    else
      match s.flaws[s.inp.a]? with
      | none => s
      | some f =>
        if f.unit ≠ 3 ∧ f.unit ≠ 6 then s
        else if !f.worse then countCorrected { s with flaws := s.flaws.eraseIdx s.inp.a } f.unit
        else if f.known then s
        else
          let s1 := { s with flaws := s.flaws.map (fun x => if x = f then { x with known := true } else x) }
          errRecord s1 3 f.unit (recordAddr f.place) 0 (if f.unit = 3 then (f.place - 0x100000000) / 0x800000 % 256 else 0xFF)
            (if f.unit = 6 then stackOf (recordAddr f.place) else 0) (BitVec.ofNat 64 f.syn))

/-- A register that a read clears. -/
def readClear (s : State) (a : Nat) : State := { (s.setReg a 0) with reply := leBytes 8 (s.reg a).toNat }

/-- CECNT_READ: unit `a`, 1 to 11. -/
def execCecntRead (s : State) : Host.Outcome State Fault Refusal :=
  .next (if 1 ≤ s.inp.a ∧ s.inp.a ≤ 11 then readClear s (errWin + 0x100 + 8 * s.inp.a) else s)

/-- ERRLOST_READ. -/
def execErrlostRead (s : State) : Host.Outcome State Fault Refusal := .next (readClear s (errWin + 0x20))

/-- Bytes of the error ring for an ERRCTL value. -/
def errBytes (ctl : Nat) : Nat := 32 * 2 ^ fld ctl 0 5

/-- An ERRCTL write: ERRSIZE is kept in its range; raising EN sets ERRHEAD, ERRTAIL and ERRLOST to 0; a ring that would reach the shadow pool is
refused (20 R333). -/
def writeErrctl (s : State) (v : Nat) : State :=
  let n := fld v 0 5
  let x := at' (fld v 63 1) 63 1 + (if n < 4 then 4 else if 12 < n then 12 else n)
  if !outsidePool (s.reg (errWin + 8)).toNat (errBytes x) then s
  else
    let s1 := s.setReg errWin (BitVec.ofNat 64 x)
    if bit x 63 && !bit (s.reg errWin).toNat 63 then ((s1.setReg (errWin + 0x10) 0).setReg (errWin + 0x18) 0).setReg (errWin + 0x20) 0 else s1

/-- ERRCTL_WRITE: value `v`. -/
def execErrctlWrite (s : State) : Host.Outcome State Fault Refusal := .next (writeErrctl s s.inp.v.toNat)

/-! ### Energy and the power arbiter (28 R402 to R404) -/

/-- The weight of a tile at the end of a round, in units of 2^-16 mJ / 8000, from its energy and whether it was throttled. -/
def powerWeight (ctl e : Nat) (thr : Bool) : Nat := max (e * (if thr then 9000 else 8000)) (fld ctl 16 16 * 65536 * 8)

/-- What the tiles share in a round, in the same units. -/
def powerAvail (ctl u : Nat) : Nat := fld ctl 0 16 * 65536 * 8 - u * 8000

/-- The allowance of a tile for the next round, in units of 2^-16 mJ. With a sum of weights of 0 the manual states none: a free value (log 5). -/
def allowance (avail w sum : Nat) (free : Nat) : Nat := if sum = 0 then free else avail * w / sum / 8000

/-- Energy a tile has spent in the round: what `nums` names, and not less than what its running count reached. -/
def roundEnergy (s : State) (t : Nat) : Nat := max (powerOf s t).e (s.inp.nums.getD t 0)

/-- The tile was throttled in the round: its running count reached its allowance. -/
def throttledIn (s : State) (t e : Nat) : Bool := (powerOf s t).thr || decide (1 ≤ levelFor s t e)

/-- The end of the present round, with the tiles' energies and U: the pending PWRCTL takes effect, energies rise, allowances are computed (28 R402 to R404). The
levels stand until the clock leaves the round. `ctr` numbers the free values that stand in for the allowances where the weights sum to 0. -/
def closeRound (s : State) (ctr : Nat) (e : Nat → Nat) (u : Nat) : State :=
  let s1 := match s.pwrNext with | some v => { (s.setReg pwrWin v) with pwrNext := none } | none => s
  let ctl := (s1.reg pwrWin).toNat
  let thr (t : Nat) : Bool := throttledIn s t (e t)
  let tiles := List.range 256
  let w (t : Nat) : Nat := powerWeight ctl (e t) (thr t)
  let sum := (tiles.map w).foldl (· + ·) 0
  let st := at' ((tiles.filter thr).length) 48 16 + u % 2 ^ 32
  { (s1.setReg (pwrWin + 8) (BitVec.ofNat 64 st)) with
    energy := tiles.map (fun t => (t, s.energy.getD t 0 + BitVec.ofNat 64 (e t)))
    allow := tiles.map (fun t => (t, if tileOff s t then 0 else BitVec.ofNat 64 (allowance (powerAvail ctl u) (w t) sum (Config.freeWord (ctr + t)).toNat)))
    freeCtr := if sum = 0 then s.freeCtr + 256 else s.freeCtr
    pwrDone := some (s.clock / 1650) }

/-- The present clock is the last of a round whose end has still to be reckoned. -/
def roundDue (s : State) : Bool := s.clock % 1650 == 1649 && s.pwrDone != some (s.clock / 1650)

/-- POWER_ROUND: at the last clock of a round, with the tiles' energies `nums` and U = `c`. -/
def execPowerRound (s : State) : Host.Outcome State Fault Refusal :=
  .next (if roundDue s then closeRound s s.freeCtr (roundEnergy s) s.inp.c else s)

/-- The round ends with its last clock also where no POWER_ROUND names its energies: they and U are free values (log 21). -/
def roundOver (s : State) : State :=
  if roundDue s then
    closeRound { s with freeCtr := s.freeCtr + 257 } (s.freeCtr + 257) (fun t => max (powerOf s t).e (Config.freeWord (s.freeCtr + t)).toNat)
      (Config.freeWord (s.freeCtr + 256)).toNat
  else s

/-- THROTTLE: the running count of tile `a` reaches `b`; its level follows 28 Table 3. Nothing is spent in a round once its end has been reckoned. -/
def execThrottle (s : State) : Host.Outcome State Fault Refusal :=
  let t := s.inp.a % 256
  let p := powerOf s t
  let e := max p.e s.inp.b
  let level := levelFor s t e
  .next (if s.pwrDone = some (s.clock / 1650) then s
    else { s with power := s.power.set t { round := p.round, e := e, level := level, thr := p.thr || decide (1 ≤ level) } })

/-- A value as PWRCTL stores it (28 Table 2). -/
def pwrctlStored (v : Nat) : Nat := at' (fld v 32 8) 32 8 + at' (fld v 16 16) 16 16 + min (fld v 0 16) 2000

/-- PWRCTL_WRITE: value `v`, in effect from the next round boundary (28 R404). -/
def execPwrctlWrite (s : State) : Host.Outcome State Fault Refusal := .next { s with pwrNext := some (BitVec.ofNat 64 (pwrctlStored s.inp.v.toNat)) }

/-! ### The HBM4 controller (28 R406 to R408) -/

/-- The next n requests a pseudo-channel serves, in order, as they would go now. -/
def nextRequests (s : State) (pc : Nat) : Nat → List (Nat × Nat)
  | 0 => []
  | n + 1 => match nextRequest s pc with | some r => r :: nextRequests (served s r) pc n | none => []

/-- An activate for the request k column slots ahead, at most four: its row opens, unless the bank's open row still has a request (28 R407). -/
def activateAhead (s : State) (pc k : Nat) : State :=
  match (nextRequests s pc 5)[k]? with
  | none => s
  | some r => if queuedHit s s.hqueue (bankOf r.1) then s else { s with rows := s.rows.set (bankOf r.1) (rowOf r.1, s.clock) }

/-- HBM_REQUEST: with `c` = 0 the request of an access to physical address `a` enters its pseudo-channel's queue; the access is performed when the queue serves it
(hbmServe). With `c` = 1 pseudo-channel `b` serves its next one, for an access whose requester has gone or which the model does not follow; with `c` = 2 it posts the
activate of the one `a` column slots ahead. -/
def execHbmRequest (s : State) : Host.Outcome State Fault Refusal :=
  .next (if s.inp.c = 0 then
      let p := s.inp.a
      if 384 * 2 ^ 30 ≤ p ∨ 32 ≤ (s.hqueue.filter (fun r => pseudoChannel r.1 == pseudoChannel p)).length then s
      else { s with hqueue := s.hqueue ++ [(p, s.clock)] }
    else if s.inp.c = 2 then activateAhead s s.inp.b s.inp.a
    else match nextRequest s s.inp.b with | none => s | some r => served s r)

/-- An HCTL write of stack k: AGEMAX is clamped (28 Table 5). A row whose timer has reached the IDLE that stood until now is closed; one that is still open has at most
reached the new IDLE now, so that a request queued by now keeps it open (28 R408). -/
def writeHctl (s : State) (k v : Nat) : State :=
  let now (r : Nat × Nat) : Nat × Nat := (r.1, max r.2 (s.clock - fld v 0 16))
  { s with rows := (s.rows.filter (fun x => x.1 / 1024 != k || rowOpen s x.1 x.2) : Tab (Nat × Nat)).map (fun (x : Nat × (Nat × Nat)) => if x.1 / 1024 = k then (x.1, now x.2) else x) }.setReg (hbmWin k)
    (BitVec.ofNat 64 (at' (max (fld v 16 16) 64) 16 16 + fld v 0 16))

/-- IDLE_PRECHARGE: the idle timer of bank `a` has reached IDLE and no request to its open row is queued: the row closes. -/
def execIdlePrecharge (s : State) : Host.Outcome State Fault Refusal :=
  .next (match s.rows.get? s.inp.a with
    | none => s
    | some r =>
      if r.2 + idleOf s s.inp.a ≤ s.clock ∧ !queuedHit s s.hqueue s.inp.a then { s with rows := s.rows.erase s.inp.a } else s)

/-- REFRESH of bank `a`: its row closes, and its stack counts it. -/
def execRefresh (s : State) : Host.Outcome State Fault Refusal :=
  let h := hbmWin (s.inp.a / 1024 % 8) + 8
  let v := (s.reg h).toNat
  .next ({ s with rows := s.rows.erase s.inp.a }.setReg h (BitVec.ofNat 64 (setFld v 0 32 (v + 1))))

/-! ### Reset and bring-up (28 R409) -/

/-- The cells of host memory, which a reset of the device does not touch. -/
def hostCells (m : List Host.Cell) : List Host.Cell := m.filter (fun c => isHost c.1)

/-- BOOTST with the step reached and the BOOTSEL strap; READY from step 5 on. -/
def bootst (n strap : Nat) : W64 := BitVec.ofNat 64 (at' (b2n (decide (5 ≤ n))) 63 1 + at' n 56 7 + strap % 4)

/-- One step of 28 R409, with the BOOTSEL strap. Step 1 ends everything and gives every register its reset value; the bytes of SRAM and HBM4 stand until
step 4 writes zeros. -/
def bootStep (s : State) (strap n : Nat) : State :=
  let s1 : State :=
    match n with
    | 1 => { State.reset with sched := s.sched, inp := s.inp, freeCtr := s.freeCtr, seeds := s.seeds, mem := s.mem, flaws := s.flaws }
    | 3 => (List.range 8).foldl (fun s k => s.setReg (hbmWin k + 8) (s.reg (hbmWin k + 8) ||| 0x8000000000000000)) s
    | 4 => { s with mem := hostCells s.mem, flaws := [] }
    | _ => s
  s1.setReg (bootWin + 8) (bootst n strap)

/-- Every step of a reset, or the single step n of it: a step follows the one before. -/
def bringUp (s : State) (strap n : Nat) : State :=
  if n = 0 then [1, 2, 3, 4, 5].foldl (fun s k => bootStep s strap k) s
  else if n = 1 then bootStep s strap 1
  else if n ≤ 5 ∧ fld (s.reg (bootWin + 8)).toNat 56 7 + 1 = n then bootStep s (fld (s.reg (bootWin + 8)).toNat 0 2) n
  else s

/-- COLD_RESET: BOOTSEL strap `a`; `b` = 0 runs every step, otherwise step `b` alone. -/
def execColdReset (s : State) : Host.Outcome State Fault Refusal := .next (bringUp s s.inp.a s.inp.b)

/-- WARM_RESET: a write of 1 to BOOTCTL.RST runs the same steps; the strap stands. -/
def execWarmReset (s : State) : Host.Outcome State Fault Refusal := .next (bringUp s (fld (s.reg (bootWin + 8)).toNat 0 2) s.inp.b)

end Sys2Proof.Machine
end

