-- ==== Sys2Proof/Machine/Sample.lean ====
section
/-! DEFINITION. What keeps a fetched word from issuing (08 R141, 04 R69, 10 R184, 11 R196, 12 R216, 14 R248, 26 R388, 28 R403), and the samples that say so (15 R273,
R274). -/

namespace Sys2Proof.Machine
open Sys2Proof

/-! ### The registers of a word -/

/-- The registers of an operand, `wide` for a pair: scalar or not, and the index. -/
def operandRegs (wide : Bool) (o : Opnd) : List (Bool × Nat) :=
  match o with
  | .v r => if wide then [(false, r.toNat), (false, r.toNat + 1)] else [(false, r.toNat)]
  | .s n => if n.toNat < 192 then [(true, n.toNat)] else []
  | _ => []

/-- The registers a word reads. -/
def sourceRegs (i : Instr) : List (Bool × Nat) :=
  match fieldsOf i with
  | none => []
  | some f =>
    let w := f.ty.wide
    let mem := f.major == 0x50 || f.major == 0x51 || f.major == 0x80
    operandRegs (if mem then true else w) f.a ++ operandRegs (w && (f.major != 0x50 && f.major != 0x80)) f.b
      ++ (if f.major = 0x21 ∨ f.major = 0x30 ∨ f.major = 0x32 then operandRegs w f.c else [])
      ++ (if readsDest i then operandRegs w f.d else [])

/-- The word reads or writes a register that popped data have still to reach: the interlock holds it (scheduling hints of 04, 11 R200). -/
def interlocked (g : Group) (i : Instr) : Bool :=
  let rs := sourceRegs i ++ (match fieldsOf i with | some f => operandRegs true f.d | none => [])
  g.pops.any (fun p => (operandRegs false p.d).any (fun x => rs.contains x))

/-! ### What keeps a word from issuing -/

/-- Words of the vector pipe (08 Table 1): all of major 0x49 but `rseed` (07 R133). -/
def vectorPipe (major minor : Nat) : Bool :=
  (major == 0x20 && minor != 0xA) || major == 0x21 || major == 0x30 || major == 0x31 || major == 0x32 || major == 0x40 || major == 0x48
    || (major == 0x49 && minor != 4)

/-- Words that take a place of the tile copy engine (10 R184, 11 R196). -/
def engineWord (i : Instr) : Bool :=
  match i with
  | .ldf _ | .stf _ | .atomAdd _ | .atomMin _ | .atomMax _ | .atomAnd _ | .atomOr _ | .atomXor _ | .atomExch _ | .atomCas _ | .vatomAdd _
  | .redAdd _ | .redMin _ | .redMax _ | .cp _ | .cpfill _ | .cpd _ | .rput _ | .rget _ | .gath _ => true
  | _ => false

/-- A far load or an atomic that names another rank needs a response slot (14 R248). -/
def needsSlot (i : Instr) (s : State) (g : Group) (m : Mask) : Bool :=
  let remote (r : Except W64 (List (Nat × Target))) : Bool := match r with | .ok ts => !(mkRoutes ts).isEmpty | .error _ => false
  match i with
  | .ldf w => w.glob && remote (targets s g m w false 0)
  | .atomAdd w | .atomMin w | .atomMax w | .atomAnd w | .atomOr w | .atomXor w | .atomExch w | .atomCas w => w.glob && remote (atomTargets s g m w)
  | _ => false

/-- A matrix word finds no queue entry or no room in the stage (12 R216). -/
def noMatrixRoom (i : Instr) (s : State) (g : Group) : Bool :=
  match i with
  | .mma w =>
    let r := g.gauge w.index.toNat
    !queueRoom s (tileOf s.cur) (stageBytes r.m r.n (stepDepth w.ty) (bytesOf w.ty))
  | .mmconv _ => !queueRoom s (tileOf s.cur) 0
  | _ => false

/-- The entry of the record that a `launch` or `tpost` will append, beside its STAT entry (26 Table 5). -/
def postEntries (s : State) (g : Group) (m : Mask) (q : Nat) (sized : Bool) (w : SY) : Nat :=
  match nearRecord s (whoOf s g m) (scalarVal s g w.a) sized with
  | .ok (s1, some bs) => if postResult s1 g.env.ctx q (bs.length / 64) = 0 then 1 else 0
  | _ => 0

/-- A word finds no place in the copy engine, no watch, or no room in the staging ring of the order log (10 R184, 11 R196, 14 R263, 26 R388). -/
def noMemoryRoom (i : Instr) (s : State) (g : Group) (m : Mask) : Bool :=
  (engineWord i && decide (Config.copyPlaces ≤ enginePlaces s (tileOf s.cur)))
    || (match i with | .pcarm _ => decide (Config.watches ≤ (s.watches.filter (fun x => x.tile == tileOf s.cur)).length) | _ => false)
    || (s.ll.replay.isNone && s.records (whoOf s g m) && !roomFor s (wordEntries i + (match i with
      | .qpop w => if (popWaiters s (skeinKey s w)).isEmpty && (oldest (s.skein (skeinKey s w))).isSome then 1 else 0
      | .launch w => postEntries s g m (32 + w.imm.toNat % 16) true w
      | .tpost w => postEntries s g m 48 false w
      | _ => 0)))

/-- A literal load waits for a literal to be fetched (05 R103, 20 R340). -/
def literalWaits (i : Instr) (s : State) (g : Group) (m : Mask) : Bool :=
  match i with
  | .ldl w => (lanesOf m).any (fun l => litAt s g (g.planeOf l) ((g.ofs : Int) + w.imm.toInt) == .wait)
  | _ => false

/-- The lowest stall reason that keeps the word i of a group, fetched as w, from issuing now (15 Table 2, 14 to 19); none when it may. The group stands at
the word. -/
def heldBy (s : State) (key : Nat) (g : Group) (i : Instr) (w : Nat) : Option Nat :=
  let s' : State := { s with cur := key, groups := s.groups.set key g }
  let m := g.active (hdOf i)
  let acts := (illegalOf g.limits i).isNone && (m != 0 || maskIndependent i)
  let f := unpack w
  let engine := match i with | .mma _ | .mmconv _ => true | _ => false
  if acts && literalWaits i s' g m then some 14
  else if acts && needsSlot i s' g m && freeSlots s' key == 0 then some 15
  else if interlocked g i then some 16
  else if acts && noMatrixRoom i s' g then some 17
  else if acts && noMemoryRoom i s' g m then some 18
  else if (vectorPipe f.major f.minor && decide (2 ≤ throttle s (tileOf key))) || (engine && decide (1 ≤ throttle s (tileOf key))) then some 19
  else none

/-! ### Stall reasons and samples (15 R273, R274) -/

/-- The group as it stands once the offset whose words have all issued is complete (05 R88). -/
def Group.past (g : Group) : Group := if g.todo = some [] ∧ g.wait = none ∧ g.redo = none then g.complete.1 else g

/-- The running path has moved to an offset that does not follow the last one completed: its first word may wait for its fetch (16 R288). -/
def Group.jumped (g : Group) : Bool := g.todo.isNone && g.follow != some g.ofs

/-- The reason of a group that waits for nothing, by its next word: 14 while it cannot be fetched, what keeps it from issuing, else one of the conditions of
timing that the model leaves out, as the schedule gives it: 16, 20, 21, or 14 after a move to another offset whose word no loop buffer holds (log 8). A group that
a consumption has halted (27 R397), for which Table 2 has no code, shows the one of its next word (log 27). -/
def wordReason (s : State) (key : Nat) (g : Group) (other : Nat) : Nat :=
  match beginOffset s key g with
  | none => 14
  | some g1 =>
    let g2 := g1.takeWord
    let k := if g2.common then 0 else g2.plane
    let t := if other = 16 ∨ other = 20 ∨ (other = 14 ∧ g.jumped ∧ (loopWord s key k g2.ofs).isNone) then other else 21
    match (if (codeReason g2 k g2.ofs).isSome then Fetch.word 0 else fetchAt s key g2 k g2.ofs) with
    | .word w => if (codeReason g2 k g2.ofs).isSome then t else match heldBy s key g2 (decode g2.limits w) w with | some r => min r t | none => t
    | _ => 14

/-- The lowest-numbered stall reason that holds (15 R274). In the clock in which the condition of its wait comes to hold a group is blocked still (08 R146). Table 2
has no code for a group whose entries are partly held and partly parked, here 8, and none for one that a forced save has stopped between two words, here 2 (DESIGN
CHOICE, log 27). A group whose last words have issued is taken as their offset's completion leaves it. -/
def stallReason (s : State) (key : Nat) (g0 : Group) (other : Nat) : Nat :=
  let g := g0.past
  let still := decide (s.clock < g.ready)
  if !g.paths.isEmpty && g.paths.all Entry.held then 1
  else if (g.busy = 2 ∧ still) ∨ (g.leaving ∧ !g.forced) ∨ g.wait = some .yield then 2
  else if g.ended ∨ g.paths.isEmpty then 3
  else
    match g.wait with
    | some w => waitReason w
    | none =>
      if still && decide (4 ≤ g.busy) && decide (g.busy ≤ 10) then g.busy
      else if !g.paths.isEmpty && g.run?.isNone then 8
      else if g.busy = 11 ∧ still then 11
      else if g.redo.isSome then 12
      else if s.clock < g.delayed then 13
      else if g.leaving then 2
      else wordReason s key g other

/-- The first of the occupied slots after the one picked last, modulo 16. -/
def pickSlot (occ : List Nat) (last : Nat) : Option Nat := ((List.range 16).map (fun i => (last + 1 + i) % 16)).find? (fun x => occ.contains x)

/-- One port's sample: the SAMPLE packet of the group in a slot (15 R273, R279). -/
def sampleOf (s : State) (t part port slot other : Nat) : List Due :=
  let key := t * 64 + part * 16 + slot
  match s.groups.get? key with
  | none => []
  | some g =>
    let on := g.issued == some s.clock
    let next := nextPlane s key g
    let plane := if on then g.wordPlane else next
    [{ clock := s.clock, key := key, rank := 3, ty := 5, mark := if tenOn s t then g.markBytes key plane s.clock else []
       payload := leBytes 16 (g.pathNow key plane) ++ leBytes 1 ((if on then 0 else stallReason s key g other) + b2n on * 32 + port * 64) }]

/-- The slots of a partition that hold a group. -/
def occupied (s : State) (t part : Nat) : List Nat := (s.groups.filter (fun x => x.1 / 16 == t * 4 + part)).map (fun x => slotOf x.1)

/-- The slots that port 1 chooses from once port 0 has picked one. -/
def otherSlots (occ : List Nat) (a : Nat) : List Nat := if occ.length = 1 then occ else occ.filter (fun x => x != a)

/-- The samples of both ports of a partition, and the slots picked; `others` holds a reason of timing for each port of the tile. -/
def sampleParts (s : State) (t part : Nat) (others : List Nat) (picks : Tab Nat) : List Due × Tab Nat :=
  match pickSlot (occupied s t part) (picks.getD (part * 2) 15) with
  | none => ([], picks)
  | some a =>
    let first := sampleOf s t part 0 a (others.getD (part * 2) 21)
    match pickSlot (otherSlots (occupied s t part) a) (picks.getD (part * 2 + 1) 7) with
    | none => (first, picks.set (part * 2) a)
    | some b => (first ++ sampleOf s t part 1 b (others.getD (part * 2 + 1) 21), (picks.set (part * 2) a).set (part * 2 + 1) b)

/-- Both ports of every partition of a tile take their one sample of a clock that N divides, while SEN is 1. -/
def sampleTile (s : State) (t : Nat) (others : List Nat) : State :=
  if !senOn s t ∨ s.clock % 2 ^ (fld (trcctl s t) 8 4 + 8) ≠ 0 ∨ (s.dbg t).sampled = some s.clock then s
  else
    let s1 := settleTrace s t
    let d := s1.dbg t
    let r := (List.range 4).foldl (fun a part => let x := sampleParts s1 t part others a.2; (a.1 ++ x.1, x.2)) (([] : List Due), d.picks)
    s1.setDbg t { d with due := r.1.foldl (fun ds x => insertDue x ds) d.due, picks := r.2, sampled := some s.clock }

/-- SAMPLE: the samples of tile `a` in this clock; `nums` holds a reason of timing for each port. As the clock rises, a tile that has taken none takes it. -/
def execSample (s : State) : Host.Outcome State Fault Refusal := .next (sampleTile s s.inp.a s.inp.nums)

/-- The tiles that sample. -/
def sampling (s : State) : List Nat :=
  s.regs.filterMap (fun x => let t := (x.1 - dbgWin 0) / 256; if dbgWin 0 ≤ x.1 && x.1 == dbgWin t && bit x.2.toNat 62 then some t else none)

/-- Every sample of the present clock is taken (15 R273). -/
def sampleAll (s : State) : State := (sampling s).foldl (fun s t => sampleTile s t []) s

end Sys2Proof.Machine
end

