-- ==== Sys2Proof/Machine/Registers.lean ====
section
/-! DEFINITION. The register windows as the host and the service cores reach them (28 R401): what a write of 64 bits to each offset stores or does, and
what a read returns; and the stores of the service cores (23 R374, R375). -/

namespace Sys2Proof.Machine
open Sys2Proof

/-- A value stored. -/
def putReg (s : State) (a v : Nat) : State := s.setReg a (BitVec.ofNat 64 v)

/-! ### The distributor window -/

/-- Register r of queue q (18 Table 4). -/
def writeQueueReg (s : State) (q r v : Nat) : State :=
  match r with
  | 0x00 => putReg s (queueWin q) (v - v % 64)
  | 0x08 => writeQctl s q v
  | 0x18 => if q < 32 && booted s then putReg s (queueWin q + 0x18) v else s
  | _ => s

/-- Register r of a context (19 Table 3, 20 R329, 21 R358). -/
def writeCtxReg (s : State) (ctx r v : Nat) : State :=
  match r with
  | 0x00 => putReg s (ctxWin ctx) (fld v 25 23 * 2 ^ 25)
  | 0x08 => putReg s (ctxWin ctx + 8) (at' (fld v 63 1) 63 1 + fld v 0 16)
  | 0x10 => putReg s (ctxWin ctx + 0x10) (at' (fld v 12 36) 12 36 + v % 2)
  | _ => writeVerbase s ctx v

/-- A fault queue register (20 Table 6). -/
def writeFaultReg (s : State) (r v : Nat) : State :=
  match r with
  | 0x00 => writeFqbase s v
  | 0x08 => writeFqctl s v
  | 0x10 => putReg s (fqWin + 0x10) v
  | 0x20 => ackFault s v
  | 0x28 => writeXlinv s v
  | _ => s

/-- The distributor window. -/
def writeDistributor (s : State) (a v : Nat) : State :=
  if 0x1000 ≤ a ∧ a < 0x1000 + 32 * 49 then writeQueueReg s ((a - 0x1000) / 32) (a % 32) v
  else if 0x2000 ≤ a ∧ a < 0x4000 then writeCtxReg s ((a - 0x2000) / 32) (a % 32) v
  else if 0x4000 ≤ a ∧ a < 0x4040 then writeFaultReg s (a - 0x4000) v
  else if 0x8000 ≤ a ∧ a < 0x10000 then putReg s a (at' (fld v 63 1) 63 1 + at' (fld v 48 8) 48 8 + at' (fld v 3 45) 3 45)
  else s

/-! ### The I/O die -/

/-- One word of region descriptor n, as the write of the descriptor with that word replaced (21 R350, 28 R401). -/
def writeRegionWord (s : State) (n i v : Nat) : State :=
  let word (k : Nat) : Nat := if k = i then v else (s.reg (jobWin + 0x3000 + 32 * n + 8 * k)).toNat
  writeRegion s n [word 0, word 1, word 2, word 3]

/-- The job window (21 Table 1). -/
def writeJobReg (s : State) (r v : Nat) : State :=
  if r = 0 then writeJobctl s v
  else if r = 0x8 then writeTorus s v
  else if r = 0x10 then putReg s (jobWin + 0x10) v
  else if r = 0x18 then fillPod s ((s.reg (jobWin + 0x10)).toNat + v * 2 ^ 64)
  else if 0x100 ≤ r ∧ r < 0x900 then putReg s (jobWin + r) (if r % 16 = 8 then setFld v 58 4 0 else at' (fld v 63 1) 63 1)
  else if 0x1000 ≤ r ∧ r < 0x3000 then putReg s (jobWin + r) (at' (fld v 63 1) 63 1 + fld v 0 10)
  else if 0x3000 ≤ r ∧ r < 0x3400 then writeRegionWord s ((r - 0x3000) / 32) (r % 32 / 8) v
  else s

/-- The Lifeline window (26 Table 1). -/
def writeLifeReg (s : State) (r v : Nat) : State :=
  match r with
  | 0x00 => writeLlctl s v
  | 0x08 => putReg s (llWin + 8) v
  | 0x10 => putReg s (llWin + 0x10) (v - v % 65536)
  | 0x18 => if outsidePool (fld v 16 32 * 65536) (65536 * fld v 0 16) then putReg s (llWin + 0x18) (v % 2 ^ 48) else s
  | 0x20 =>
    let n := fld v 0 5
    let n := if n < 20 then 20 else if 30 < n then 30 else n
    if outsidePool (fld v 20 28 * 2 ^ 20) (2 ^ n) then
      let s1 := putReg s (llWin + 0x20) (at' (fld v 20 28) 20 28 + n)
      if llOn s1 && logFull s1 then abandonCuts s1 else s1
    else s
  | 0x40 => writeLlseal s v
  | 0x48 => writeLlrep s v
  | _ => s

/-- A value as SCRUB stores it (27 Table 3). -/
def scrubStored (v : Nat) : Nat := at' (fld v 63 1) 63 1 + at' (min (max (fld v 16 16) 1) 168) 16 16 + min (max (fld v 0 16) 100) 60000

/-- The error window (27 Table 2). -/
def writeErrReg (s : State) (r v : Nat) : State :=
  match r with
  | 0x00 => writeErrctl s v
  | 0x08 => if outsidePool (v % 2 ^ 48) (errBytes (s.reg errWin).toNat) then putReg s (errWin + 8) (v % 2 ^ 48) else s
  | 0x10 => putReg s (errWin + 0x10) v
  | 0x28 => putReg s (errWin + 0x28) (scrubStored v)
  | 0x40 => writeTileoff s 0 v
  | 0x48 => writeTileoff s 1 v
  | 0x50 => writeTileoff s 2 v
  | 0x58 => writeTileoff s 3 v
  | _ => s

/-- The window of HBM4 stack k (28 Table 5). -/
def writeHbmReg (s : State) (k r v : Nat) : State :=
  if r = 0 then writeHctl s k v else s

/-- The boot window (28 Table 6): writing 1 to RST starts a warm reset. -/
def writeBootReg (s : State) (r v : Nat) : State :=
  if r ≠ 0 then s
  else if bit v 63 then bringUp s (fld (s.reg (bootWin + 8)).toNat 0 2) 0
  else putReg s bootWin (v % 2 ^ 48)

/-- A DBGCMD value on tile t (15 Table 7). -/
def writeDbgcmd (s : State) (t v : Nat) : State :=
  match namedGroup t v, fld v 0 2 with
  | some key, 1 => releaseHeld s key (some (fld v 28 22)) (bit v 27)
  | some key, 2 => releaseHeld s key none (bit v 27)
  | _, _ => s

/-- The debug block of tile t (15 Table 3, Table 6). -/
def writeDebugReg (s : State) (t r v : Nat) : State :=
  if r = 0 then writeTrcctl s t v
  else if r = 0x8 then (if outsidePool (v % 2 ^ 48) (ringSize s t) then putReg s (dbgWin t + 8) (v % 2 ^ 48) else s)
  else if r = 0x18 then putReg s (dbgWin t + 0x18) v
  else if 0x40 ≤ r ∧ r < 0x80 then putReg s (dbgWin t + r) (if r % 16 = 0 then at' (fld v 50 14) 50 14 + v % 2 else v)
  else if r = 0x80 then writeDbgcmd s t v
  else s

/-! ### The whole space -/

/-- A 64-bit write at an offset from BAR0. Offsets not shown, and accesses that are not aligned, have no effect. -/
def registerWrite (s : State) (a v : Nat) : State :=
  if a % 8 ≠ 0 then s
  else if a < 0x10000 then writeDistributor s a v
  else if a < 0x14000 then writeJobReg s (a - jobWin) v
  else if a < 0x14100 then writeLifeReg s (a - llWin) v
  else if a < 0x14300 then writeErrReg s (a - errWin) v
  else if a = pwrWin then { s with pwrNext := some (BitVec.ofNat 64 (pwrctlStored v)) }
  else if 0x19000 ≤ a ∧ a < 0x19800 then writeHbmReg s ((a - 0x19000) / 256) (a % 256) v
  else if 0x1A000 ≤ a ∧ a < 0x1A100 then writeBootReg s (a - bootWin) v
  else if 0x20000 ≤ a ∧ a < 0x30000 then writeDebugReg s ((a - 0x20000) / 256) (a % 256) v
  else s

/-- What a read at an offset returns where it is not simply the register stored there: registers that only another field of the state shows, and those
that are write only. `temp` is a stack's temperature, which comes from outside. -/
def registerValue (s : State) (a temp : Nat) : Nat :=
  if a = fqWin + 0x20 ∨ a = fqWin + 0x28 ∨ a = fqWin + 0x30 ∨ a = jobWin + 0x10 ∨ a = jobWin + 0x18 ∨ a = llWin + 0x40 then 0
  else if a = jobWin + 0x20 then (match s.rtmiss with | p :: _ => 2 ^ 63 + p % 2 ^ 17 | [] => 0)
  else if a = pwrWin then (match s.pwrNext with | some v => v.toNat | none => (s.reg pwrWin).toNat)
  else if pwrWin + 0x100 ≤ a ∧ a < pwrWin + 0x900 then (s.energy.getD ((a - pwrWin - 0x100) / 8) 0).toNat
  else if 0x19000 ≤ a ∧ a < 0x19800 ∧ a % 256 = 8 then setFld (s.reg a).toNat 32 8 temp
  else if 0x20000 ≤ a ∧ a < 0x30000 then
    let t := (a - 0x20000) / 256
    match a % 256 with
    | 0x20 => dbgst s t
    | 0x30 => stopRec s t % 2 ^ 64
    | 0x38 => stopRec s t / 2 ^ 64
    | _ => (s.reg a).toNat
  else (s.reg a).toNat

/-- A 64-bit read at an offset: its value goes to `reply`; a counter that a read clears is cleared (27 Table 2). -/
def registerRead (s : State) (a temp : Nat) : State :=
  if a % 8 ≠ 0 then { s with reply := leBytes 8 0 }
  else if a = errWin + 0x20 ∨ (errWin + 0x108 ≤ a ∧ a ≤ errWin + 0x158) then readClear s a
  else { s with reply := leBytes 8 (registerValue s a temp) }

/-- The offset of a service core's physical address in the register windows, which lie from 0x4000_0000 (28 R401). -/
def serviceOffset (a : Nat) : Option Nat := if 0x40000000 ≤ a ∧ a < 0x40030000 then some (a - 0x40000000) else none

/-- REGISTER_WRITE: offset `a` from BAR0, value `v`; with `b` = 1 a read of it, `c` being the temperature an HSTAT read finds. With `b` = 2 and 3 the same of a
service core, at its physical address `a`. -/
def execRegisterWrite (s : State) : Host.Outcome State Fault Refusal :=
  let x := s.inp
  .next (match x.b, serviceOffset x.a with
    | 1, _ => registerRead s x.a x.c
    | 2, some o => registerWrite s o x.v.toNat
    | 3, some o => registerRead s o x.c
    | 2, none | 3, none => s
    | _, _ => registerWrite s x.a x.v.toNat)

/-- SERVICE_CORE_STORE: `bytes` at address `a` (23 R374, R375): `b` = 0 of HBM4 (28 R406), 1 of host memory, 2 of the tile windows; `b` = 3 a store of 64 bits at a
service core's physical address, to a register (28 R401). -/
def execServiceCoreStore (s : State) : Host.Outcome State Fault Refusal :=
  let n := s.inp.bytes.length
  let a := s.inp.a
  .next (match s.inp.b with
    | 0 => if a + n ≤ 384 * 2 ^ 30 then s.engineWrite (hbmPlace a) s.inp.bytes else s
    | 1 => if a + n ≤ 2 ^ 48 then s.engineWrite (hostPlace a) s.inp.bytes else s
    | 3 => match serviceOffset a with | some o => if n = 8 then registerWrite s o (leVal s.inp.bytes) else s | none => s
    | _ => if 0x100000000 ≤ a ∧ a + n ≤ 0x180000000 then s.poke a s.inp.bytes else s)

end Sys2Proof.Machine
end

