-- ==== Sys2Proof/Machine/Retry.lean ====
section
/-! DEFINITION. The mod-3 check of the vector units and the re-execution of a word whose check fails (03 R55, R56, 06 R121, 07 R132). -/

namespace Sys2Proof.Machine
open Sys2Proof

/-- The words of the checked units (03 Table 7): integer adder and multiplier, floating-point significand path (not the sign forms, 06 R114), and the additions and
comparisons of reductions, scans and `vtopk` (07 R132), not the logic of a reduction or a scan. -/
def mod3Checked (i : Instr) : Bool :=
  match i with
  | .vaddInt _ | .vsubInt _ | .vmulInt _ | .vmulhi _ | .vminInt _ | .vmaxInt _ | .vnegInt _ | .vabsInt _ | .vcmp _ _ | .vmad _ _ | .vclamp _ | .vdp4 _
  | .vfma _ | .vfms _ | .vfnma _ | .vfnms _ | .vfclamp _ | .vdot2 _ | .vaddFloat _ | .vsubFloat _ | .vmulFloat _ | .vdiv _ | .vminFloat _ | .vmaxFloat _
  | .vminn _ | .vmaxn _ | .vfcmp _ _ | .vtopk _ _ | .vtopkNorm _ _ => true
  | .vredlog o _ | .vscan o _ | .vscanx o _ => decide (o.toNat < 5)
  | _ => false

/-- The type of the elements a checked word forms: `vdp4` and `vdot2` form one of 32 bits in a lane. -/
def checkedTy (i : Instr) : Ty :=
  match i with
  | .vdp4 w => dp4Ty w.ty
  | .vdot2 _ => .f32
  | _ => match fieldsOf i with | some f => f.ty | none => .none

/-- The exact sum, least or greatest of integer elements (07 Table 2); with none, the identity. -/
def exactReduce (op : Nat) (t : Ty) (xs : List Int) : Int :=
  match op with
  | 0 => xs.foldl (· + ·) 0
  | 1 => xs.foldl min (hiOf t)
  | _ => xs.foldl max (loOf t)

/-- The exact results of the element positions of an integer reduction or scan over the lanes `ls` (07 R125, R126); a floating-point one has none. -/
def exactOver (op : Nat) (s : State) (g : Group) (w : R3) (ls : List Nat) : List Int :=
  if w.ty.float then [] else (positions w.ty).map (fun j => exactReduce op w.ty (ls.map (fun k => readInt w.ty (elemAt w.ty j (laneVal s g w.ty w.a k)))))

/-- The exact results of the packed elements of one lane, for the forms whose exact result is an integer of the operands (06 Tables 1 and 2, 07 R125, R126). -/
def exactResults (i : Instr) (s : State) (g : Group) (m : Mask) (l : Nat) : List Int :=
  let vals (t : Ty) (o : Opnd) : List Int := (elems t (laneVal s g t o l)).map (readInt t)
  let two (w : R3) (f : Int → Int → Int) : List Int := (vals w.ty w.a).zipWith f (vals w.ty w.b)
  match i with
  | .vaddInt w => two w (· + ·)
  | .vsubInt w => two w (· - ·)
  | .vmulInt w | .vmulhi w => two w (· * ·)
  | .vminInt w => two w min
  | .vmaxInt w => two w max
  | .vclamp w => ((vals w.ty w.a).zipWith max (vals w.ty w.b)).zipWith min (vals w.ty w.c)
  | .vdp4 w => [((vals w.ty w.a).zipWith (· * ·) (vals w.ty w.b)).foldl (· + ·) (readInt (dp4Ty w.ty) (laneVal s g (dp4Ty w.ty) w.c l))]
  | .vnegInt w => (vals w.ty w.a).map (fun a => -a)
  | .vabsInt w => (vals w.ty w.a).map (fun a => (a.natAbs : Int))
  | .vmad n w =>
    let p := (vals w.ty w.a).zipWith (fun a b => if n.getLsbD 1 then -(a * b) else a * b) (vals w.ty w.b)
    p.zipWith (fun x c => if n.getLsbD 0 then x - c else x + c) (vals w.ty w.c)
  | .vredlog o w => exactOver o.toNat s g w (lanesOf m)
  | .vscan o w => exactOver o.toNat s g w ((lanesOf m).filter (fun k => decide (k ≤ l)))
  | .vscanx o w => exactOver o.toNat s g w ((lanesOf m).filter (fun k => decide (k < l)))
  | _ => []

/-- The residues mod 3 that a unit predicts from its operands: lane, packed element, residue (03 R55). -/
def predicted (i : Instr) (s : State) (g : Group) (m : Mask) : List (Nat × Nat × Nat) :=
  (lanesOf m).flatMap (fun l =>
    let xs := exactResults i s g m l
    (List.range xs.length).map (fun j => (l, j, (xs.getD j 0 % 3).toNat)))

/-- The registers that differ between two groups, with the second one's values. -/
def regChanges (g h : Group) : List RegVal :=
  ((Tab.keys h.v).flatMap (fun r => lanes.filterMap (fun l =>
    if g.vreg r l = h.vreg r l then none else some { scalar := false, reg := r, lane := l, val := (h.vreg r l).setWidth 64, ac := 0 })))
  ++ (Tab.keys h.s).filterMap (fun r => if g.sreg r = h.sreg r then none else some { scalar := true, reg := r, lane := 0, val := h.sreg r, ac := 0 })

/-- The first execution of a word of the group `g` has failed its check; `h` is the group as the word left it. It commits nothing, and what it would have written
waits for the second execution, which reads the same operands (03 R56, 06 R121). -/
def Group.strike (g h : Group) (i : Instr) (s : State) (m : Mask) : Group :=
  { h with v := g.v, s := g.s, p := g.p, status := g.status, bad := g.bad, view := g.view, struck := none, busy := 12
           redo := some { regs := regChanges g h, preds := (Tab.keys h.p).filterMap (fun k => if g.pred k = h.pred k then none else some (k, h.pred k)),
                          status := h.status, mask := m, ty := checkedTy i, cleared := g.bad.filter (fun x => !h.bad.contains x), expects := predicted i s g m } }

/-- The word i of group g, which executed in s and left the group in t, is struck where a fault waits for it: it is checked, legal, and its failing lane is
active (03 R57: no check elsewhere). A word that could not issue has not executed: the fault waits for it still. -/
def struckBy (i : Instr) (s : State) (key : Nat) (g : Group) (t : State) : State :=
  match g.struck, t.groups.get? key with
  | some l, some h =>
    let m := g.active (hdOf i)
    if h.stalled then t
    else if mod3Checked i && (illegalOf g.limits i).isNone && lane m l && h.frame.isSome == g.frame.isSome && !h.ended then
      countCorrected { t with groups := t.groups.set key (g.strike h i { s with cur := key, groups := s.groups.set key g } m) } 11
    else { t with groups := t.groups.set key { h with struck := none } }
  | _, _ => t

/-- The re-execution passes: it commits as though it were the first. -/
def Group.redone (g : Group) (r : Retry) : Group :=
  { (r.regs.foldl Group.putVal g) with p := r.preds.foldl (fun a x => Tab.set a x.1 x.2) g.p, status := r.status,
                                       bad := g.bad.filter (fun x => !r.cleared.contains x), redo := none, busy := 0 }

/-- The RESIDUE detail word of a second failure, in lane l and element e, with an error of the residue: the residue predicted from the operands, where they
give one, `open_` otherwise (DESIGN CHOICE, log 22), and another one found. -/
def retryDetail (tile l e err open_ : Nat) (r : Retry) : W64 :=
  let x := match r.expects.find? (fun x => x.1 == l && x.2.1 == e) with | some x => x.2.2 | none => open_ % 3
  residueDetail 2 tile 0 l e x ((x + 1 + err % 2) % 3)

/-- MOD3_RETRY of group `a`. While no re-execution is in progress: a fault will strike its next word in lane `c`. Afterwards, once the re-execution has held its
pipe (03 R56: occupancy plus 3 clk): `b` = 0, it passes and commits; `b` = 1, it fails too, in lane `c` and packed element `d` with error `v`: RESIDUE with
source 2, and nothing is written. -/
def execMod3Retry (s : State) : Host.Outcome State Fault Refusal :=
  let x := s.inp
  .next (match s.groups.get? x.a with
    | none => s
    | some g =>
      match g.redo with
      | none => if g.ended then s else { s with groups := s.groups.set x.a { g with struck := some (x.c % 64) } }
      | some r =>
        if (match g.issued with | some c => decide (s.clock < c + 4) | none => false) then s
        else if x.b = 0 then { s with groups := s.groups.set x.a (g.redone r) }
        else
          let l := if lane r.mask x.c then x.c else lowLane r.mask
          let t := r.ty
          let e := if t.bits < 32 then x.d % (32 / t.bits) else 0
          let g1 : Group := { g with redo := none, busy := 0, serial := g.serial - 1 }
          takeTrap { s with cur := x.a, groups := s.groups.set x.a g1 } g1 tResidue (retryDetail (tileOf x.a) l e x.v.toNat (x.nums.getD 0 0) r) r.mask)

end Sys2Proof.Machine
end

