-- ==== Sys2Proof/Machine/Dispatch.lean ====
section
/-! DEFINITION. The one match that gives each instruction and each event its meaning. -/

namespace Sys2Proof.Machine
open Sys2Proof

def exec (i : Instr) (s : State) : Host.Outcome State Fault Refusal :=
  match i with
  | .nop w => Sys2Proof.Machine.execNop w s
  | .bra w => Sys2Proof.Machine.execBra w s
  | .brapl k w => Sys2Proof.Machine.execBrapl k w s
  | .brs c w => Sys2Proof.Machine.execBrs c w s
  | .bany w => Sys2Proof.Machine.execBany w s
  | .ball w => Sys2Proof.Machine.execBall w s
  | .bnone w => Sys2Proof.Machine.execBnone w s
  | .call w => Sys2Proof.Machine.execCall w s
  | .jmp w => Sys2Proof.Machine.execJmp w s
  | .ret w => Sys2Proof.Machine.execRet w s
  | .exit w => Sys2Proof.Machine.execExit w s
  | .pset k w => Sys2Proof.Machine.execPset k w s
  | .psetv w => Sys2Proof.Machine.execPsetv w s
  | .elect w => Sys2Proof.Machine.execElect w s
  | .pmask w => Sys2Proof.Machine.execPmask w s
  | .pload w => Sys2Proof.Machine.execPload w s
  | .pathq q w => Sys2Proof.Machine.execPathq q w s
  | .add w => Sys2Proof.Machine.execAdd w s
  | .sub w => Sys2Proof.Machine.execSub w s
  | .mul w => Sys2Proof.Machine.execMul w s
  | .mulhi w => Sys2Proof.Machine.execMulhi w s
  | .div w => Sys2Proof.Machine.execDiv w s
  | .rem w => Sys2Proof.Machine.execRem w s
  | .min w => Sys2Proof.Machine.execMin w s
  | .max w => Sys2Proof.Machine.execMax w s
  | .and w => Sys2Proof.Machine.execAnd w s
  | .or w => Sys2Proof.Machine.execOr w s
  | .xor w => Sys2Proof.Machine.execXor w s
  | .andn w => Sys2Proof.Machine.execAndn w s
  | .shl w => Sys2Proof.Machine.execShl w s
  | .shr w => Sys2Proof.Machine.execShr w s
  | .sar w => Sys2Proof.Machine.execSar w s
  | .rotl w => Sys2Proof.Machine.execRotl w s
  | .scmp c w => Sys2Proof.Machine.execScmp c w s
  | .clz w => Sys2Proof.Machine.execClz w s
  | .ctz w => Sys2Proof.Machine.execCtz w s
  | .popc w => Sys2Proof.Machine.execPopc w s
  | .brev w => Sys2Proof.Machine.execBrev w s
  | .neg w => Sys2Proof.Machine.execNeg w s
  | .abs w => Sys2Proof.Machine.execAbs w s
  | .mov w => Sys2Proof.Machine.execMov w s
  | .lea k w => Sys2Proof.Machine.execLea k w s
  | .gaddr r w => Sys2Proof.Machine.execGaddr r w s
  | .gfld f w => Sys2Proof.Machine.execGfld f w s
  | .addi w => Sys2Proof.Machine.execAddi w s
  | .movi w => Sys2Proof.Machine.execMovi w s
  | .movm w => Sys2Proof.Machine.execMovm w s
  | .movh w => Sys2Proof.Machine.execMovh w s
  | .andi w => Sys2Proof.Machine.execAndi w s
  | .ori w => Sys2Proof.Machine.execOri w s
  | .xori w => Sys2Proof.Machine.execXori w s
  | .bfxu w => Sys2Proof.Machine.execBfxu w s
  | .bfxs w => Sys2Proof.Machine.execBfxs w s
  | .bfi w => Sys2Proof.Machine.execBfi w s
  | .ldl w => Sys2Proof.Machine.execLdl w s
  | .vaddInt w => Sys2Proof.Machine.execVaddInt w s
  | .vsubInt w => Sys2Proof.Machine.execVsubInt w s
  | .vmulInt w => Sys2Proof.Machine.execVmulInt w s
  | .vmulhi w => Sys2Proof.Machine.execVmulhi w s
  | .vminInt w => Sys2Proof.Machine.execVminInt w s
  | .vmaxInt w => Sys2Proof.Machine.execVmaxInt w s
  | .vnegInt w => Sys2Proof.Machine.execVnegInt w s
  | .vabsInt w => Sys2Proof.Machine.execVabsInt w s
  | .vand w => Sys2Proof.Machine.execVand w s
  | .vor w => Sys2Proof.Machine.execVor w s
  | .vxor w => Sys2Proof.Machine.execVxor w s
  | .vandn w => Sys2Proof.Machine.execVandn w s
  | .vshl w => Sys2Proof.Machine.execVshl w s
  | .vshr w => Sys2Proof.Machine.execVshr w s
  | .vsar w => Sys2Proof.Machine.execVsar w s
  | .vrotl w => Sys2Proof.Machine.execVrotl w s
  | .vclz w => Sys2Proof.Machine.execVclz w s
  | .vctz w => Sys2Proof.Machine.execVctz w s
  | .vpopc w => Sys2Proof.Machine.execVpopc w s
  | .vbrev w => Sys2Proof.Machine.execVbrev w s
  | .vmov w => Sys2Proof.Machine.execVmov w s
  | .vcmp c w => Sys2Proof.Machine.execVcmp c w s
  | .pand w => Sys2Proof.Machine.execPand w s
  | .por w => Sys2Proof.Machine.execPor w s
  | .pxor w => Sys2Proof.Machine.execPxor w s
  | .pandn w => Sys2Proof.Machine.execPandn w s
  | .pnot w => Sys2Proof.Machine.execPnot w s
  | .vmad n w => Sys2Proof.Machine.execVmad n w s
  | .vsel w => Sys2Proof.Machine.execVsel w s
  | .vclamp w => Sys2Proof.Machine.execVclamp w s
  | .vdp4 w => Sys2Proof.Machine.execVdp4 w s
  | .vfma w => Sys2Proof.Machine.execVfma w s
  | .vfms w => Sys2Proof.Machine.execVfms w s
  | .vfnma w => Sys2Proof.Machine.execVfnma w s
  | .vfnms w => Sys2Proof.Machine.execVfnms w s
  | .vfclamp w => Sys2Proof.Machine.execVfclamp w s
  | .vdot2 w => Sys2Proof.Machine.execVdot2 w s
  | .vaddFloat w => Sys2Proof.Machine.execVaddFloat w s
  | .vsubFloat w => Sys2Proof.Machine.execVsubFloat w s
  | .vmulFloat w => Sys2Proof.Machine.execVmulFloat w s
  | .vdiv w => Sys2Proof.Machine.execVdiv w s
  | .vminFloat w => Sys2Proof.Machine.execVminFloat w s
  | .vmaxFloat w => Sys2Proof.Machine.execVmaxFloat w s
  | .vminn w => Sys2Proof.Machine.execVminn w s
  | .vmaxn w => Sys2Proof.Machine.execVmaxn w s
  | .vnegFloat w => Sys2Proof.Machine.execVnegFloat w s
  | .vabsFloat w => Sys2Proof.Machine.execVabsFloat w s
  | .vcopysign w => Sys2Proof.Machine.execVcopysign w s
  | .vfcmp c w => Sys2Proof.Machine.execVfcmp c w s
  | .vfclass w => Sys2Proof.Machine.execVfclass w s
  | .vfrnd w => Sys2Proof.Machine.execVfrnd w s
  | .vcvt w => Sys2Proof.Machine.execVcvt w s
  | .vcvtn w => Sys2Proof.Machine.execVcvtn w s
  | .vcvtw w => Sys2Proof.Machine.execVcvtw w s
  | .vshfl m g w => Sys2Proof.Machine.execVshfl m g w s
  | .vredlog o w => Sys2Proof.Machine.execVredlog o w s
  | .vscan o w => Sys2Proof.Machine.execVscan o w s
  | .vscanx o w => Sys2Proof.Machine.execVscanx o w s
  | .vtopk k w => Sys2Proof.Machine.execVtopk k w s
  | .vtopkNorm k w => Sys2Proof.Machine.execVtopkNorm k w s
  | .vrcp w => Sys2Proof.Machine.execVrcp w s
  | .vrsqrt w => Sys2Proof.Machine.execVrsqrt w s
  | .vsqrt w => Sys2Proof.Machine.execVsqrt w s
  | .vexpo w => Sys2Proof.Machine.execVexpo w s
  | .vexp2i w => Sys2Proof.Machine.execVexp2i w s
  | .vscalb w => Sys2Proof.Machine.execVscalb w s
  | .vrand w => Sys2Proof.Machine.execVrand w s
  | .rseed w => Sys2Proof.Machine.execRseed w s
  | .ldn w => Sys2Proof.Machine.execLdn w s
  | .stn w => Sys2Proof.Machine.execStn w s
  | .ldnr w => Sys2Proof.Machine.execLdnr w s
  | .stnr w => Sys2Proof.Machine.execStnr w s
  | .ldf w => Sys2Proof.Machine.execLdf w s
  | .stf w => Sys2Proof.Machine.execStf w s
  | .atomAdd w => Sys2Proof.Machine.execAtomAdd w s
  | .atomMin w => Sys2Proof.Machine.execAtomMin w s
  | .atomMax w => Sys2Proof.Machine.execAtomMax w s
  | .atomAnd w => Sys2Proof.Machine.execAtomAnd w s
  | .atomOr w => Sys2Proof.Machine.execAtomOr w s
  | .atomXor w => Sys2Proof.Machine.execAtomXor w s
  | .atomExch w => Sys2Proof.Machine.execAtomExch w s
  | .atomCas w => Sys2Proof.Machine.execAtomCas w s
  | .vatomAdd w => Sys2Proof.Machine.execVatomAdd w s
  | .waitAc w => Sys2Proof.Machine.execWaitAc w s
  | .waitAny w => Sys2Proof.Machine.execWaitAny w s
  | .waitAll w => Sys2Proof.Machine.execWaitAll w s
  | .waitBatch w => Sys2Proof.Machine.execWaitBatch w s
  | .waitSt w => Sys2Proof.Machine.execWaitSt w s
  | .ffr w => Sys2Proof.Machine.execFfr w s
  | .fenceAcq w => Sys2Proof.Machine.execFenceAcq w s
  | .fenceRel w => Sys2Proof.Machine.execFenceRel w s
  | .fenceAcqrel w => Sys2Proof.Machine.execFenceAcqrel w s
  | .publish w => Sys2Proof.Machine.execPublish w s
  | .acrd w => Sys2Proof.Machine.execAcrd w s
  | .acwr w => Sys2Proof.Machine.execAcwr w s
  | .cp w => Sys2Proof.Machine.execCp w s
  | .cpfill w => Sys2Proof.Machine.execCpfill w s
  | .cpd w => Sys2Proof.Machine.execCpd w s
  | .tagst w => Sys2Proof.Machine.execTagst w s
  | .tagclr w => Sys2Proof.Machine.execTagclr w s
  | .qpush w => Sys2Proof.Machine.execQpush w s
  | .qpop w => Sys2Proof.Machine.execQpop w s
  | .qstat w => Sys2Proof.Machine.execQstat w s
  | .qbase w => Sys2Proof.Machine.execQbase w s
  | .barinit w => Sys2Proof.Machine.execBarinit w s
  | .bara w => Sys2Proof.Machine.execBara w s
  | .barw w => Sys2Proof.Machine.execBarw w s
  | .barrd w => Sys2Proof.Machine.execBarrd w s
  | .barb w => Sys2Proof.Machine.execBarb w s
  | .gset w => Sys2Proof.Machine.execGset w s
  | .gmod w => Sys2Proof.Machine.execGmod w s
  | .ginv w => Sys2Proof.Machine.execGinv w s
  | .mma w => Sys2Proof.Machine.execMma w s
  | .mmfence w => Sys2Proof.Machine.execMmfence w s
  | .mmconv w => Sys2Proof.Machine.execMmconv w s
  | .mmrd w => Sys2Proof.Machine.execMmrd w s
  | .mmwr w => Sys2Proof.Machine.execMmwr w s
  | .gget w => Sys2Proof.Machine.execGget w s
  | .mmstat w => Sys2Proof.Machine.execMmstat w s
  | .redAdd w => Sys2Proof.Machine.execRedAdd w s
  | .redMin w => Sys2Proof.Machine.execRedMin w s
  | .redMax w => Sys2Proof.Machine.execRedMax w s
  | .rput w => Sys2Proof.Machine.execRput w s
  | .rget w => Sys2Proof.Machine.execRget w s
  | .gath w => Sys2Proof.Machine.execGath w s
  | .publishShadow w => Sys2Proof.Machine.execPublishShadow w s
  | .pcarm w => Sys2Proof.Machine.execPcarm w s
  | .pcrd w => Sys2Proof.Machine.execPcrd w s
  | .pcadd w => Sys2Proof.Machine.execPcadd w s
  | .genst w => Sys2Proof.Machine.execGenst w s
  | .genrd w => Sys2Proof.Machine.execGenrd w s
  | .fabst w => Sys2Proof.Machine.execFabst w s
  | .trap w => Sys2Proof.Machine.execTrap w s
  | .tinfo f w => Sys2Proof.Machine.execTinfo f w s
  | .rte w => Sys2Proof.Machine.execRte w s
  | .rteSkip w => Sys2Proof.Machine.execRteSkip w s
  | .save w => Sys2Proof.Machine.execSave w s
  | .yield w => Sys2Proof.Machine.execYield w s
  | .launch w => Sys2Proof.Machine.execLaunch w s
  | .tpost w => Sys2Proof.Machine.execTpost w s
  | .tfence w => Sys2Proof.Machine.execTfence w s
  | .icinv w => Sys2Proof.Machine.execIcinv w s
  | .quiesce w => Sys2Proof.Machine.execQuiesce w s
  | .graceWait w => Sys2Proof.Machine.execGraceWait w s
  | .dfree w => Sys2Proof.Machine.execDfree w s
  | .gracest w => Sys2Proof.Machine.execGracest w s
  | .tmark w => Sys2Proof.Machine.execTmark w s
  | .temit w => Sys2Proof.Machine.execTemit w s
  | .trcdis w => Sys2Proof.Machine.execTrcdis w s
  | .trcen w => Sys2Proof.Machine.execTrcen w s
  | .bkpt w => Sys2Proof.Machine.execBkpt w s
  | .trcst w => Sys2Proof.Machine.execTrcst w s
  | .tflush w => Sys2Proof.Machine.execTflush w s
  | .illegal r n maj mi => Sys2Proof.Machine.execIllegal r n maj mi s
  | .offsetComplete => Sys2Proof.Machine.execOffsetComplete s
  | .mod3Retry => Sys2Proof.Machine.execMod3Retry s
  | .handlerEligible => Sys2Proof.Machine.execHandlerEligible s
  | .farAccessAtHome => Sys2Proof.Machine.execFarAccessAtHome s
  | .farLoadLand => Sys2Proof.Machine.execFarLoadLand s
  | .storeAck => Sys2Proof.Machine.execStoreAck s
  | .groupUnblocked => Sys2Proof.Machine.execGroupUnblocked s
  | .groupEnd => Sys2Proof.Machine.execGroupEnd s
  | .copySectorComplete => Sys2Proof.Machine.execCopySectorComplete s
  | .skeinReserve => Sys2Proof.Machine.execSkeinReserve s
  | .entryPoppable => Sys2Proof.Machine.execEntryPoppable s
  | .skeinTake => Sys2Proof.Machine.execSkeinTake s
  | .qpopData => Sys2Proof.Machine.execQpopData s
  | .allowanceRise => Sys2Proof.Machine.execAllowanceRise s
  | .baraArrival => Sys2Proof.Machine.execBaraArrival s
  | .blockBarrierComplete => Sys2Proof.Machine.execBlockBarrierComplete s
  | .publishVersionAdvance => Sys2Proof.Machine.execPublishVersionAdvance s
  | .matrixStart => Sys2Proof.Machine.execMatrixStart s
  | .mmaRowStep => Sys2Proof.Machine.execMmaRowStep s
  | .mmaComplete => Sys2Proof.Machine.execMmaComplete s
  | .mmconvComplete => Sys2Proof.Machine.execMmconvComplete s
  | .batchComplete => Sys2Proof.Machine.execBatchComplete s
  | .matrixFaultWait => Sys2Proof.Machine.execMatrixFaultWait s
  | .sample => Sys2Proof.Machine.execSample s
  | .markerTimeout => Sys2Proof.Machine.execMarkerTimeout s
  | .traceDrain => Sys2Proof.Machine.execTraceDrain s
  | .dropped => Sys2Proof.Machine.execDropped s
  | .trcctlWrite => Sys2Proof.Machine.execTrcctlWrite s
  | .dbgcmdRelease => Sys2Proof.Machine.execDbgcmdRelease s
  | .dbgcmdReleaseAll => Sys2Proof.Machine.execDbgcmdReleaseAll s
  | .qtailDoorbell => Sys2Proof.Machine.execQtailDoorbell s
  | .qctlWrite => Sys2Proof.Machine.execQctlWrite s
  | .recordAdmission => Sys2Proof.Machine.execRecordAdmission s
  | .blockPlace => Sys2Proof.Machine.execBlockPlace s
  | .queueAging => Sys2Proof.Machine.execQueueAging s
  | .blockEnd => Sys2Proof.Machine.execBlockEnd s
  | .dependenceTagReady => Sys2Proof.Machine.execDependenceTagReady s
  | .launchComplete => Sys2Proof.Machine.execLaunchComplete s
  | .taskTake => Sys2Proof.Machine.execTaskTake s
  | .preemptRaise => Sys2Proof.Machine.execPreemptRaise s
  | .forcedSave => Sys2Proof.Machine.execForcedSave s
  | .groupLeave => Sys2Proof.Machine.execGroupLeave s
  | .restore => Sys2Proof.Machine.execRestore s
  | .pageWalk => Sys2Proof.Machine.execPageWalk s
  | .faultEntryWrite => Sys2Proof.Machine.execFaultEntryWrite s
  | .fqackRetry => Sys2Proof.Machine.execFqackRetry s
  | .fqackNomem => Sys2Proof.Machine.execFqackNomem s
  | .fqackKilled => Sys2Proof.Machine.execFqackKilled s
  | .xlinv => Sys2Proof.Machine.execXlinv s
  | .fqctlWrite => Sys2Proof.Machine.execFqctlWrite s
  | .icinvComplete => Sys2Proof.Machine.execIcinvComplete s
  | .packetSend => Sys2Proof.Machine.execPacketSend s
  | .packetPlace => Sys2Proof.Machine.execPacketPlace s
  | .packetAck => Sys2Proof.Machine.execPacketAck s
  | .rtoExpiry => Sys2Proof.Machine.execRtoExpiry s
  | .pcarmComplete => Sys2Proof.Machine.execPcarmComplete s
  | .gatherComplete => Sys2Proof.Machine.execGatherComplete s
  | .planeFail => Sys2Proof.Machine.execPlaneFail s
  | .rtfill => Sys2Proof.Machine.execRtfill s
  | .rtmiss => Sys2Proof.Machine.execRtmiss s
  | .jobctlWrite => Sys2Proof.Machine.execJobctlWrite s
  | .regionValid => Sys2Proof.Machine.execRegionValid s
  | .torusPortDown => Sys2Proof.Machine.execTorusPortDown s
  | .verbaseWrite => Sys2Proof.Machine.execVerbaseWrite s
  | .hostAccess => Sys2Proof.Machine.execHostAccess s
  | .graceElapse => Sys2Proof.Machine.execGraceElapse s
  | .castoffReturn => Sys2Proof.Machine.execCastoffReturn s
  | .dfreeAppend => Sys2Proof.Machine.execDfreeAppend s
  | .cut => Sys2Proof.Machine.execCut s
  | .llctlNow => Sys2Proof.Machine.execLlctlNow s
  | .llctlEn => Sys2Proof.Machine.execLlctlEn s
  | .llseal => Sys2Proof.Machine.execLlseal s
  | .sealCut => Sys2Proof.Machine.execSeal s
  | .logDrain => Sys2Proof.Machine.execLogDrain s
  | .llrep => Sys2Proof.Machine.execLlrep s
  | .replayEnd => Sys2Proof.Machine.execReplayEnd s
  | .scrub => Sys2Proof.Machine.execScrub s
  | .tileoffWrite => Sys2Proof.Machine.execTileoffWrite s
  | .cecntRead => Sys2Proof.Machine.execCecntRead s
  | .errlostRead => Sys2Proof.Machine.execErrlostRead s
  | .errctlWrite => Sys2Proof.Machine.execErrctlWrite s
  | .powerRound => Sys2Proof.Machine.execPowerRound s
  | .throttle => Sys2Proof.Machine.execThrottle s
  | .pwrctlWrite => Sys2Proof.Machine.execPwrctlWrite s
  | .hbmRequest => Sys2Proof.Machine.execHbmRequest s
  | .idlePrecharge => Sys2Proof.Machine.execIdlePrecharge s
  | .refresh => Sys2Proof.Machine.execRefresh s
  | .coldReset => Sys2Proof.Machine.execColdReset s
  | .warmReset => Sys2Proof.Machine.execWarmReset s
  | .registerWrite => Sys2Proof.Machine.execRegisterWrite s
  | .instructionFetch => Sys2Proof.Machine.execInstructionFetch s
  | .softError => Sys2Proof.Machine.execSoftError s
  | .serviceCoreStore => Sys2Proof.Machine.execServiceCoreStore s

end Sys2Proof.Machine
end

