-- ==== Sys2Proof/Machine/Issue.lean ====
section
/-! DEFINITION. One turn of a group: its next word is found, checked, fetched, decoded and executed (05 R85, 08 R141, 20 R328), with what surrounds the
word: breakpoints, spilled entries, what keeps it from issuing, DELAY, open lanes, errors in the registers it reads, its mod-3 check. And the turn taken when
the schedule names none. -/

namespace Sys2Proof.Machine
open Sys2Proof

/-- The group may issue (08 R141): resident, not ended or leaving, not blocked, no uncorrected value read on its behalf (27 R397), not being saved by force, past DELAY and its way into or out of a handler, with no
re-execution in progress, an entry that can run and words left at its offset. -/
def Group.mayIssue (g : Group) (clock : Nat) : Bool :=
  !g.ended && !g.halted && !g.leaving && !g.forced && g.wait.isNone && g.redo.isNone && decide (g.ready ≤ clock) && decide (g.delayed ≤ clock)
    && g.run?.isSome && g.todo != some []

/-- The group's turn fits into the present clock: no other agent has acted in it, no group of its tile at or above its partition and slot has issued, and its
partition has a port left (08 R143; 09 R159: near accesses first, in ascending partition order). -/
def mayTurn (s : State) (key : Nat) : Bool :=
  !s.acted && !s.went.any (fun k => tileOf k == tileOf key && decide (key ≤ k)) && decide ((s.went.filter (fun k => k / 16 == key / 16)).length < 2)

/-- The lanes of vector operands a word reads: its active lanes; `vshfl` also the source lanes they name, and `qpush` every lane (07 R123, 11
R199). -/
def readLanes (s : State) (g : Group) (i : Instr) (m : Mask) : Mask :=
  match i with
  | .vshfl mode sh w => m ||| (lanesOf m).foldl (fun x l => x ||| BitVec.ofNat 64 (2 ^ shflSrc mode.toNat sh.toNat (laneN32 s g w.b l) l)) 0
  | .qpush _ => allLanes
  | _ => m

/-- The latent errors a word reads. -/
def readFlaws (s : State) (g : Group) (i : Instr) (m : Mask) : List RegFlaw :=
  match g.bad with
  | [] => []
  | bs =>
    let rs := sourceRegs i
    let ls := readLanes s g i m
    bs.filter (fun x => rs.contains (x.scalar, x.reg) && (x.scalar || lane ls x.lane) && m != 0)

/-- Errors in the registers of the word that is about to execute (27 R395, R396): single ones are corrected and counted; a worse one is
consumed. The group as it goes on, or the state after the consumption. -/
def registerErrors (s : State) (key : Nat) (g : Group) (i : Instr) : State × Option Group :=
  match readFlaws { s with cur := key } g i (g.active (hdOf i)) with
  | [] => (s, some g)
  | xs =>
    match xs.find? RegFlaw.worse with
    | some x => (consume s (whoAt key g 0) (if x.scalar then 2 else 1) (x.reg * 256 + (if x.scalar then 0 else x.lane)) x.syn, none)
    | none => (xs.foldl (fun s x => countCorrected s (if x.scalar then 2 else 1)) s, some { g with bad := g.bad.filter (fun x => !xs.contains x) })

/-- After a word: a group that could not issue tries again; otherwise its next word waits for DELAY (04 R69), the word counts as issued unless it
trapped, and its prefetched copy is used up. The DELAY of a word that traps holds nothing back: 05 R87 has the word still to issue (DEDUCED, log 26). -/
def afterWord (s : State) (key : Nat) (old : Group) (i : Instr) (delay : Nat) : State :=
  match s.groups.get? key with
  | none => s
  | some g =>
    if g.stalled then s
    else
      let trapped := old.frame.isNone && g.frame.isSome
      let entering := g.busy == 2 && decide (s.clock < g.ready)
      let g1 : Group :=
        { g with
          still := false
          quiet := if old.still && g.quiet == old.quiet then some (s.clock - 1) else g.quiet
          serial := if trapped then g.serial else old.serial + 1
          look := if takesIn i && !trapped then s.clock else g.look
          issued := if trapped then g.issued else some s.clock
          ready := if entering then g.ready else max g.ready (s.clock + 1)
          delayed := if trapped then g.delayed else s.clock + 1 + delay
          abandoned := g.abandoned && (g.frame.isSome || trapped)
          busy := if entering then 2 else 0
          pre := g.pre.filter (fun x => !(x.1 == old.ofs && x.2.1 == (if old.common then 0 else old.plane))) }
      { s with groups := s.groups.set key g1, went := s.went ++ [key] }

/-- The values of a register that a word may read exchanged with what stands there: an open lane read as it was before its landing (02 R29). -/
def Group.swapView (g : Group) : Group :=
  let now (x : RegVal) : RegVal := { x with val := if x.scalar then g.sreg x.reg else (g.vreg x.reg x.lane).setWidth 64 }
  { g.view.foldl Group.putVal g with view := g.view.map now }

/-- After the word the lanes it did not write hold what had landed. -/
def restoreView (s : State) (key : Nat) : State :=
  match s.groups.get? key with
  | none => s
  | some g => if g.view.isEmpty then s else { s with groups := s.groups.set key { g.view.foldl Group.putVal g with view := [] } }

/-- The word w executes for the group with this key, which stands as g, unless something keeps it from issuing (15 Table 2). -/
def runFetched (s : State) (key : Nat) (g0 : Group) (w : Nat) : Host.Outcome State Fault Refusal :=
  let g := g0.swapView
  let i := decode g.limits w
  if (heldBy s key g i w).isSome then .next { s with groups := s.groups.set key g0.retry }
  else
    match registerErrors s key g i with
    | (s1, none) => .next s1
    | (s1, some g1) =>
      match exec i { s1 with cur := key, inp := { Inp.zero with a := w, nums := timeRegs i }, groups := s1.groups.set key g1 } with
      | .next s2 => .next (restoreView (struckBy i s1 key g1 (afterWord s2 key g1 i (unpack w).hd.delay.toNat)) key)
      | o => o

/-- The group's next word, once its offset's words are listed: ADDR in place of a word whose address is refused (20 R328), a wait while it cannot
be fetched, its execution otherwise. -/
def issueWord (s : State) (key : Nat) (g : Group) : Host.Outcome State Fault Refusal :=
  let k := if g.common then 0 else g.plane
  match codeReason g k g.ofs with
  | some r => .next (takeTrap { s with cur := key, groups := s.groups.set key g } g tAddr
      (addrDetail false (lowLane g.wordLanes) r (g.codeAddr k g.ofs)) g.wordLanes)
  | none =>
    match fetchAt s key g k g.ofs with
    | .wait => .next { s with groups := s.groups.set key g.retry }
    | .gone s1 => .next s1
    | .word w => runFetched (fetchCorrect s key g k g.ofs) key g w

/-- The turn of the group at an offset none of whose words has issued: a spilled entry returns first, and a breakpoint wins over every word (02
R25, 15 R283). -/
def atOffset (s : State) (key : Nat) (g : Group) : Option State :=
  if g.todo.isSome then none
  else
    let f := g.frontier
    if f.2 ≠ 0 then some (s.respill key g (f.1.moved s.clock f.2))
    else
      match g.run? with
      | some e => if (breakAt s (tileOf key) g e).isSome then some (checkBreaks s key 64) else none
      | none => none

/-- A group issues its next word, when it may. -/
def issueGroup (s : State) (key : Nat) : Host.Outcome State Fault Refusal :=
  match s.groups.get? key with
  | none => .next s
  | some g =>
    if !g.mayIssue s.clock || !mayTurn s key then .next s
    else
      match atOffset s key g with
      | some s1 => .next s1
      | none =>
        let s1 := loopCheck s key
        match beginOffset s1 key g with
        | none => .next { s1 with groups := s1.groups.set key { g with stalled := true } }
        | some g1 =>
          let s2 := headRead s1 key g
          if g1.todo = some [] then .next { s2 with groups := s2.groups.set key { g1 with stalled := false } }
          else issueWord s2 key { g1.takeWord with stalled := false }

/-! ### The turn taken when the schedule names none (log 1) -/

/-- The step that a group which may not issue waits for, if it is the group's own. -/
def ownEvent (g : Group) (clock : Nat) : Option Instr :=
  if !g.pops.isEmpty then some .qpopData
  else if g.redo.isSome then some .mod3Retry
  else if g.ended then some .groupEnd
  else if g.todo = some [] ∧ g.wait = none then some .offsetComplete
  else if g.leaving then some .groupLeave
  else if g.busy = 2 ∧ g.ready ≤ clock then some .handlerEligible
  else none

/-- The current group issues if it may, otherwise the lowest one that may; failing that, the current group's own step is taken. -/
def defaultTurn (s : State) : Option Act :=
  let may (x : Nat × Group) : Bool := x.2.mayIssue s.clock
  match s.groups.get? s.cur with
  | some g =>
    if g.mayIssue s.clock then some (.issue s.cur)
    else
      match ownEvent g s.clock with
      | some i => some (.event i { Inp.zero with a := s.cur })
      | none => (s.groups.find? may).map (fun x => .issue x.1)
  | none =>
    match s.groups.find? may with
    | some x => some (.issue x.1)
    | none => s.groups.findSome? (fun x => (ownEvent x.2 s.clock).map (fun i => .event i { Inp.zero with a := x.1 }))

/-- An agent's turn: a group's next word, or the event with what it acts on; a word is no event. -/
def turn (s : State) (a : Act) : Host.Outcome State Fault Refusal :=
  match a with
  | .issue key => issueGroup s key
  | .event i x =>
    if i.isWord then .next s
    else
      match i with
      | .illegal _ _ _ _ => .next s
      | _ => exec i { s with inp := x, acted := true }

/-- The turn, the release of every group whose wait has come to hold with it (08 R146), and the clocks of the queues (18 R298). -/
def runAct (s : State) (a : Act) : Host.Outcome State Fault Refusal :=
  match turn s a with
  | .next t => .next (ageAll (unblockAll t))
  | o => o

/-- The group that withFetchWord installs: general, 256 registers, 8 planes, every skein declared, in tile 0's near window at byte 0, with a
handler at offset 1 (log 2). -/
def fetchGroup (clock : Nat) : Group :=
  newGroup { Env.blank with planes := 8, handler := 1, born := clock } []

end Sys2Proof.Machine
end

