-- ==== Sys2Proof/Machine/Step.lean ====
section
/-! DEFINITION. One step of the machine: the next turn of the schedule, or the default turn when it is empty (log 1); and the placing of one word where
the next step fetches it (log 2). -/

namespace Sys2Proof.Machine
open Sys2Proof

/-- The packets of the clocks that are over enter the FIFOs. -/
def settleAll (s : State) : State := (Tab.keys s.dbgs).foldl settleTrace s

/-- The clock rises to c: the publications of the clock that ends (09 R159, 14 R268), the samples of the clock that ends (15 R273), the end of a power round (28 R402), packets into the FIFOs in the order of their clocks, MARKERs that fall due (15 R278, R279),
order-log entries into their ring (26 R388). In a new clock no agent has acted. -/
def State.riseTo (s : State) (c : Nat) : State :=
  let s1 := settleAll { stageLog (roundOver (sampleAll (publishAll s))) with clock := c, acted := false, went := [] }
  settleAll (overdue s1 c)

/-- The next clock after a in which something falls due that no turn brings: the last clock of a power round, and while a tile samples the multiples of the smallest
interval (15 Table 4). -/
def nextDue (sam : Bool) (a : Nat) : Nat :=
  let r := (a + 1) / 1650 * 1650 + 1649
  if sam then min r (256 * (a / 256 + 1)) else r

/-- The clocks strictly between a and b in which something falls due, the first n of them. -/
def dueClocks (sam : Bool) (b : Nat) : Nat → Nat → List Nat
  | 0, _ => []
  | n + 1, a => if nextDue sam a < b then nextDue sam a :: dueClocks sam b n (nextDue sam a) else []

/-- n clocks pass, each in which something falls due on its own. -/
def State.tick (s : State) (n : Nat) : State :=
  if n = 0 then s
  else
    let c := s.clock + n
    ((dueClocks (!(sampling s).isEmpty) c (n / 256 + n / 1650 + 2) s.clock).foldl State.riseTo s).riseTo c

/-- One step. -/
def step (s : State) : Host.Outcome State Fault Refusal :=
  match s.sched with
  | t :: r => runAct (({ s with sched := r } : State).tick t.clocks) t.act
  | [] =>
    let s1 := s.tick 1
    match defaultTurn s1 with
    | some a => runAct s1 a
    | none => .next s1

/-- The state with the word w stored at byte 0 of tile 0's slice and a fresh group about to issue it: its launch and placement stand for the
loading of a program (log 2). -/
def State.withFetchWord (s : State) (nbits w : Nat) : State :=
  { s with
    sched := []
    cur := 0
    mem := memStore s.mem (slicePlace 0 0) (leBytes 12 (w % 2 ^ min nbits 96))
    flaws := s.flaws.filter (fun f => !f.inRange (slicePlace 0 0) 12)
    icache := s.icache.filter (fun c => !(c.tile == 0 && c.ctx == 0 && decide (c.va < 12)))
    loops := s.loops.erase 0
    ctxs := s.ctxs.set 0 Ctx.live
    groups := s.groups.set 0 (fetchGroup s.clock) }

end Sys2Proof.Machine
end

