-- ==== Sys2Proof/WellFormed.lean ====
section
/-! DEFINITION. Which instructions are well formed: the words no ILLEGAL reason applies to, in a group with given limits
(04 R64 to R66), and the events of the engines; `illegal` is what a refused word becomes and is no well-formed instruction. -/

namespace Sys2Proof

/-- No ILLEGAL reason of 04 R66 applies to the word in a group with these limits. -/
def wfIn (lim : Limits) (i : Instr) : Bool := (illegalOf lim i).isNone

/-- A word `jmp` with DISP 0 is spelled `ret` (05 R92): the two constructors have no word in common. -/
def retForm (i : Instr) : Bool :=
  match i with
  | .jmp w => w.disp != 0
  | .ret w => w.disp == 0
  | _ => true

/-- The instruction is not the outcome of a refused word. -/
def notIllegal (i : Instr) : Bool :=
  match i with
  | .illegal _ _ _ _ => false
  | _ => true

/-- Well formed in a group with the widest limits (an event has no word and is always well formed). -/
def WellFormed (i : Instr) : Bool := wfIn Limits.widest i && retForm i && notIllegal i

end Sys2Proof
end

