-- ==== Sys2Proof/Safety.lean ====
section
/-! DEFINITION. What claims are stated in: the invariant of the state, a step that goes on, and when a word issues with its own effect. -/

namespace Sys2Proof.Machine
open Sys2Proof

/-- The invariant every step keeps: memory is in its canonical form. -/
def State.inv (s : State) : Bool := Memory.wf s.mem

/-- The machine goes on: a step answers a next state. -/
def Goes (s : State) : Prop := ∃ t, step s = .next t

/-- Lifeline lets the order-log events of the word happen, if it causes any (26 R388, R390). -/
def eventFree (i : Instr) (s : State) (g : Group) : Bool := wordGate i s g (g.active (hdOf i)) == .free && timeGate i s g (g.active (hdOf i)) == .free

/-- The word i issues for the current group g with its own effect: it breaks no rule of its form (04 R65), its mask is not empty or its form is
mask-independent (08 R147, R148), and Lifeline lets its event happen. -/
structure Issues (i : Instr) (s : State) (g : Group) : Prop where
  cur : s.group? = some g
  legal : illegalOf g.limits i = none
  mask : g.active (hdOf i) ≠ 0 ∨ maskIndependent i = true
  event : eventFree i s g = true

/-- The active lanes of the word i in group g. -/
def lanesFor (i : Instr) (g : Group) : Mask := g.active (hdOf i)

/-- The state t after the word i of group g, with the order-log entries of a word that reads %clock, %energy or %allowance (26 Table 5); for every other
word it is t itself. -/
def timed (i : Instr) (s : State) (g : Group) (t : State) : State :=
  logTime i s g (g.active (hdOf i)) t

end Sys2Proof.Machine

namespace Sys2Proof.Claims
open Sys2Proof Sys2Proof.Machine

/-! ### What a statement says of the group a word writes -/

/-- g' is g but for the scalar register d, which holds x. -/
def ScalarWritten (g g' : Group) (d : Opnd) (x : Nat) : Prop :=
  g' = { g with s := g'.s, bad := g'.bad, view := g'.view } ∧ (∀ e ∈ g'.bad, e ∈ g.bad) ∧ (∀ e ∈ g'.view, e ∈ g.view) ∧
  ∀ r, g'.sreg r = if d.kind = 1 ∧ d.idx = r ∧ r < 192 then BitVec.ofNat 64 x else g.sreg r

/-- g' is g but for the lanes of m in the vector register d, or in the pair d, d + 1 under a 64-bit type, which hold the values of f. -/
def VectorWritten (g g' : Group) (t : Ty) (d : Opnd) (m : Mask) (f : Nat → Nat) : Prop :=
  g' = { g with v := g'.v, bad := g'.bad, view := g'.view } ∧ (∀ e ∈ g'.bad, e ∈ g.bad) ∧ (∀ e ∈ g'.view, e ∈ g.view) ∧
  ∀ r l, l < 64 → g'.vreg r l =
    if lane m l = true ∧ d.kind = 0 ∧ d.idx = r then BitVec.ofNat 32 (f l)
    else if lane m l = true ∧ t.wide = true ∧ d.kind = 0 ∧ d.idx + 1 = r then BitVec.ofNat 32 (f l / 2 ^ 32)
    else g.vreg r l

/-- g' is g but for the lanes of m in the predicate d, which hold f; p0 discards what is written to it and reads all true. -/
def PredWritten (g g' : Group) (d : Opnd) (m : Mask) (f : Nat → Bool) : Prop :=
  g' = { g with p := g'.p } ∧ (∀ l, l < 64 → lane (g'.pred 0) l = true) ∧
  ∀ r l, l < 64 → lane (g'.pred r) l = if d.kind = 2 ∧ d.idx = r ∧ r ≠ 0 ∧ lane m l = true then f l else lane (g.pred r) l

/-- y is the exact integer x narrowed to the type t (03 R34): wrapped, or clamped with SAT, which sets its flag where it changes the value. -/
def Narrowed (t : Ty) (sat : Bool) (x y : Int) (fl : Nat) : Prop :=
  loOf t ≤ y ∧ y ≤ hiOf t ∧
  if sat then y = max (loOf t) (min (hiOf t) x) ∧ fl = (if y = x then 0 else SATF) else ((2 ^ t.bits : Nat) : Int) ∣ y - x ∧ fl = 0

/-- The integer a scalar source holds under a type (05 R98). -/
def intSrc (s : State) (g : Group) (t : Ty) (o : Opnd) : Int := readInt t (scalarSrc s g t o)

/-- g' is g with the target t recorded for the lanes of m (05 R88). -/
def NextRecorded (g g' : Group) (m : Mask) (t : Nat) : Prop :=
  g' = { g with rcd := { g.rcd with next := g'.rcd.next } } ∧ ∀ l, g'.rcd.next.get? l = if lane m l then some t else g.rcd.next.get? l

/-- g' is g with the new plane f l recorded for each lane l of m (05 R88). -/
def PlaneRecorded (g g' : Group) (m : Mask) (f : Nat → Nat) : Prop :=
  g' = { g with rcd := { g.rcd with plane := g'.rcd.plane } } ∧ ∀ l, g'.rcd.plane.get? l = if lane m l then some (f l) else g.rcd.plane.get? l

/-- The word i writes x to its scalar destination d, sets the flags fl of %status, and changes nothing else. -/
def WritesScalar (i : Instr) (s : State) (g : Group) (d : Opnd) (x fl : Nat) : Prop :=
  ∃ g', exec i s = .next (timed i s g (s.put (g'.raise fl))) ∧ ScalarWritten g g' d x

/-- The word i writes the lane values f to its vector destination d in its active lanes, sets the flags fl, and changes nothing else. -/
def WritesVector (i : Instr) (s : State) (g : Group) (t : Ty) (d : Opnd) (f : Nat → Nat) (fl : Nat) : Prop :=
  ∃ g', exec i s = .next (timed i s g (s.put (g'.raise fl))) ∧ VectorWritten g g' t d (lanesFor i g) f

/-- The word i writes f to its predicate destination d in its active lanes, sets the flags fl, and changes nothing else. -/
def WritesPred (i : Instr) (s : State) (g : Group) (d : Opnd) (f : Nat → Bool) (fl : Nat) : Prop :=
  ∃ g', exec i s = .next (timed i s g (s.put (g'.raise fl))) ∧ PredWritten g g' d (lanesFor i g) f

/-- The elements of a lane under a type (03 R33). -/
def elemCount (t : Ty) : Nat := if t.bits < 32 then 32 / t.bits else 1

/-- The integer in element j of lane l of a vector operand. -/
def intElem (s : State) (g : Group) (t : Ty) (o : Opnd) (l j : Nat) : Int := readInt t (elemAt t j (laneVal s g t o l))

/-- The word i writes to each element of its active lanes a value that P allows, sets no flag and changes nothing else. -/
def Elementwise (i : Instr) (s : State) (g : Group) (t : Ty) (d : Opnd) (P : Nat → Nat → Nat → Prop) : Prop :=
  ∃ f, (∀ l j, l < 64 → lane (lanesFor i g) l = true → j < elemCount t → P l j (elemAt t j (f l))) ∧ WritesVector i s g t d f 0

/-- The word i writes the results r to the elements of its active lanes, ORs their flags together into %status and changes nothing else. -/
def ElementwiseFlags (i : Instr) (s : State) (g : Group) (t : Ty) (d : Opnd) (r : Nat → Nat → Nat × Nat) : Prop :=
  ∃ f fl, (∀ l j, l < 64 → lane (lanesFor i g) l = true → j < elemCount t → elemAt t j (f l) = (r l j).1 % 2 ^ t.bits) ∧
    (∀ b, bit fl b = true ↔ ∃ l j, l < 64 ∧ lane (lanesFor i g) l = true ∧ j < elemCount t ∧ bit (r l j).2 b = true) ∧ WritesVector i s g t d f fl

/-- No latent error lies in the n bytes at place p (27 R395). -/
def Clean (s : State) (p n : Nat) : Prop := ∀ f ∈ s.flaws, f.inRange p n = false

/-- The effective address of a lane of a load or store that names a local address: sA + OFS + idx (10 R163). -/
def effAddr (s : State) (g : Group) (w : ME) (l : Nat) : Int :=
  scalarVal s g w.a + w.ofs.toInt + if w.d.kind = 1 then 0 else laneOfs s g w l

/-- The effective address of the row of a row form (10 R166). -/
def rowAddr (s : State) (g : Group) (w : ME) : Int := scalarVal s g w.a + w.ofs.toInt

/-- The n-byte element at effective address a, by a base register, is an aligned element of the near window (09 R153, R154, R156). -/
abbrev NearElement (base : Nat) (a : Int) (n : Nat) : Prop := base < 2 ^ 48 ∧ 0 ≤ a ∧ a < 0x7F0000 ∧ a.toNat % n = 0

/-- t is s but for bytes of memory, and for latent errors that bytes written over have removed. -/
def OnlyMemory (s t : State) : Prop := t = { s with mem := t.mem, flaws := t.flaws } ∧ ∀ f ∈ t.flaws, f ∈ s.flaws

/-- The word i changes its own group alone: it answers the state in which g' stands in its place. -/
def GroupBecomes (i : Instr) (s : State) (g g' : Group) : Prop := exec i s = .next (timed i s g (s.put g'))

/-- The word i, which leaves the rest of the device as s' has it, writes the value x of an order-log event of kind 8 to its scalar destination (26
R387): the value read. During a replay it writes the value its next entry of that kind has logged, if there is one, or waits until the state has come to it (26 R390;
`seen`, the model's record of what a replay has passed, may change). The event itself is recorded. -/
def Reports (i : Instr) (s s' : State) (g : Group) (d : Opnd) (x : Nat) : Prop :=
  let writes (s' : State) (y : Nat) : Prop :=
    ∃ g', ScalarWritten g g' d y ∧ exec i s = .next (timed i s g ((logEvent s' (whoOf s g (lanesFor i g)) 8 0 y).put g'))
  (s.ll.replay = none → writes s' x) ∧
  (∀ es, s.ll.replay = some es → llCtx s = g.env.ctx → ∀ e, es.find? (fun e => e.kind == 8 && e.byWho (whoOf s g 0)) = some e →
    (∃ r, writes { s' with ll := { s'.ll with seen := r } } e.data.toNat) ∨ exec i s = .next (s.put g.retry)) ∧
  (∀ es, s.ll.replay = some es → llCtx s ≠ g.env.ctx ∨ es.find? (fun e => e.kind == 8 && e.byWho (whoOf s g 0)) = none → writes s' x)

end Sys2Proof.Claims
end

