-- ==== Sys2Proof/Certificates/Slice0/Obligations.lean ====
section
/-! DEFINITION. The statements about the model, for the provers. A statement about a word has the form: when the word issues with its own effect
(`Issues`), `exec` answers exactly the state given; `timed` adds the order-log entry of a word that reads a register of timing. -/

open Sys2Proof Sys2Proof.Machine Sys2Proof.Claims

/-! ### Scalar words: majors 0x10 and 0x11 -/

/-- 05 R98, Table 5 with 03 R34: `add`, `sub`, `mul`, `neg` and `abs` compute the exact integer, narrow it (wrapped, or clamped with SAT) and write it
extended to 64 bits; every other register, flag and byte stands. -/
def Obligations.ScalarArithmeticIsExactThenNarrowed : Prop :=
  (∀ p ∈ ([(Instr.add, fun a b => a + b), (Instr.sub, fun a b => a - b), (Instr.mul, fun a b => a * b)] : List ((R3 → Instr) × (Int → Int → Int))),
    ∀ (w : R3) (s : State) (g : Group), Issues (p.1 w) s g →
      ∃ y fl, Narrowed w.ty w.sat (p.2 (intSrc s g w.ty w.a) (intSrc s g w.ty w.b)) y fl ∧ WritesScalar (p.1 w) s g w.d (wrapN 64 y) fl) ∧
  (∀ p ∈ ([(Instr.neg, fun a => -a), (Instr.abs, fun a => (a.natAbs : Int))] : List ((R3 → Instr) × (Int → Int))),
    ∀ (w : R3) (s : State) (g : Group), Issues (p.1 w) s g →
      ∃ y fl, Narrowed w.ty w.sat (p.2 (intSrc s g w.ty w.a)) y fl ∧ WritesScalar (p.1 w) s g w.d (wrapN 64 y) fl)

/-- 05 R99: `div` and `rem` round toward zero; by 0 the quotient is all ones and the remainder is a; -2^(n-1) by -1 gives a and 0; `mulhi` writes the high
n bits of the exact product. No flag is set. -/
def Obligations.DivisionRoundsTowardZeroAndMulhiTakesTheHighBits : Prop :=
  ∀ (w : R3) (s : State) (g : Group),
    let n := w.ty.bits
    let a := intSrc s g w.ty w.a
    let b := intSrc s g w.ty w.b
    ∃ q r h : Int,
      (b = 0 → (q = if signedTy w.ty then -1 else 2 ^ n - 1) ∧ r = a) ∧
      (b ≠ 0 → signedTy w.ty = true → a = loOf w.ty → b = -1 → q = a ∧ r = 0) ∧
      (b ≠ 0 → ¬ (signedTy w.ty = true ∧ a = loOf w.ty ∧ b = -1) →
        q = (if 0 ≤ a * b then 1 else -1) * ((a.natAbs / b.natAbs : Nat) : Int) ∧ r = a - q * b) ∧
      loOf w.ty ≤ h ∧ h ≤ hiOf w.ty ∧ h * 2 ^ n ≤ a * b ∧ a * b < (h + 1) * 2 ^ n ∧
      (Issues (.div w) s g → WritesScalar (.div w) s g w.d (wrapN 64 q) 0) ∧
      (Issues (.rem w) s g → WritesScalar (.rem w) s g w.d (wrapN 64 r) 0) ∧
      (Issues (.mulhi w) s g → WritesScalar (.mulhi w) s g w.d (wrapN 64 h) 0)

/-- 05 R100: with x the n bits of A and k all 64 bits of B, `shl`, `shr`, `sar` and `rotl`, also for k of n or more. -/
def Obligations.ShiftsOfAnyAmountAndRotation : Prop :=
  ∀ (w : R3) (s : State) (g : Group),
    let n := w.ty.bits
    let x := scalarSrc s g w.ty w.a
    let k := scalarVal s g w.b
    (Issues (.shl w) s g → WritesScalar (.shl w) s g w.d (extS w.ty (x * 2 ^ k % 2 ^ n)) 0) ∧
    (Issues (.shr w) s g → WritesScalar (.shr w) s g w.d (extS w.ty (x / 2 ^ k)) 0) ∧
    (Issues (.sar w) s g → WritesScalar (.sar w) s g w.d (extS w.ty (wrapN n (sext n x / (2 ^ k : Nat)))) 0) ∧
    (Issues (.rotl w) s g → ∃ y, y < 2 ^ n ∧ (∀ i, i < n → bit y ((i + k) % n) = bit x i) ∧ WritesScalar (.rotl w) s g w.d (extS w.ty y) 0)

/-- 05 R98, Tables 5 and 6: the bitwise forms, the smaller, the larger, and a comparison that writes 1 or 0.
05 Table 5: leading zeros, trailing zeros (n for 0), the number of ones, and the bits in reverse order. -/
def Obligations.ScalarLogicComparisonAndBitCounts : Prop :=
  (
  (∀ p ∈ ([(Instr.and, fun x y => x && y), (Instr.or, fun x y => x || y), (Instr.xor, fun x y => x != y), (Instr.andn, fun x y => x && !y)] :
      List ((R3 → Instr) × (Bool → Bool → Bool))),
    ∀ (w : R3) (s : State) (g : Group), Issues (p.1 w) s g →
      ∃ y, y < 2 ^ w.ty.bits ∧ (∀ i, i < w.ty.bits → bit y i = p.2 (bit (scalarSrc s g w.ty w.a) i) (bit (scalarSrc s g w.ty w.b) i)) ∧
        WritesScalar (p.1 w) s g w.d (extS w.ty y) 0) ∧
  (∀ (w : R3) (s : State) (g : Group),
    (Issues (.min w) s g → WritesScalar (.min w) s g w.d (wrapN 64 (min (intSrc s g w.ty w.a) (intSrc s g w.ty w.b))) 0) ∧
    (Issues (.max w) s g → WritesScalar (.max w) s g w.d (wrapN 64 (max (intSrc s g w.ty w.a) (intSrc s g w.ty w.b))) 0)) ∧
  (∀ (c : BitVec 3) (w : R3) (s : State) (g : Group),
    let a := intSrc s g w.ty w.a
    let b := intSrc s g w.ty w.b
    Issues (.scmp c w) s g → ∃ h : Bool,
      (c.toNat = 0 → (h = true ↔ a = b)) ∧ (c.toNat = 1 → (h = true ↔ a ≠ b)) ∧ (c.toNat = 2 → (h = true ↔ a < b)) ∧
      (c.toNat = 3 → (h = true ↔ a ≤ b)) ∧ (c.toNat = 4 → (h = true ↔ b < a)) ∧ (c.toNat = 5 → (h = true ↔ b ≤ a)) ∧
      WritesScalar (.scmp c w) s g w.d (wrapN 64 (readInt w.ty (b2n h))) 0)) ∧
  (
  ∀ (w : R3) (s : State) (g : Group),
    let n := w.ty.bits
    let a := scalarSrc s g w.ty w.a
    (Issues (.clz w) s g → ∃ k, k ≤ n ∧ (∀ i, i < n → n - k ≤ i → bit a i = false) ∧ (k < n → bit a (n - 1 - k) = true) ∧
      WritesScalar (.clz w) s g w.d (extS w.ty k) 0) ∧
    (Issues (.ctz w) s g → ∃ k, k ≤ n ∧ (∀ i, i < k → bit a i = false) ∧ (k < n → bit a k = true) ∧ WritesScalar (.ctz w) s g w.d (extS w.ty k) 0) ∧
    (Issues (.popc w) s g → WritesScalar (.popc w) s g w.d (extS w.ty ((List.range n).countP (fun i => bit a i))) 0) ∧
    (Issues (.brev w) s g → ∃ y, y < 2 ^ n ∧ (∀ i, i < n → bit y i = bit a (n - 1 - i)) ∧ WritesScalar (.brev w) s g w.d (extS w.ty y) 0))

/-- 05 R102, Table 7: the immediate forms; the bit-field forms for the positions and lengths that are legal (04 R66).
05 Table 5, R101, 02 R21: `mov` (to %status it clears each flag the source holds as 1), `lea`, `gaddr` and `gfld`. -/
def Obligations.ScalarMovesAddressesAndImmediateForms : Prop :=
  (
  ∀ (w : IM) (s : State) (g : Group),
    let a := scalarVal s g w.a
    let d := (g.sreg w.d.idx).toNat
    let m := w.imm.toNat
    let x := scalarSrc s g w.ty w.a
    let e := wrapN w.ty.bits w.imm.toInt
    let pos := m % 64
    let len := m / 64 % 128
    (Issues (.addi w) s g → ∃ y, Narrowed w.ty false (intSrc s g w.ty w.a + w.imm.toInt) y 0 ∧ WritesScalar (.addi w) s g w.d (wrapN 64 y) 0) ∧
    (Issues (.movi w) s g → WritesScalar (.movi w) s g w.d (wrapN 64 w.imm.toInt) 0) ∧
    (Issues (.movm w) s g → WritesScalar (.movm w) s g w.d (d % 2 ^ 24 + m * 2 ^ 24 + d / 2 ^ 48 * 2 ^ 48) 0) ∧
    (Issues (.movh w) s g → WritesScalar (.movh w) s g w.d (d % 2 ^ 48 + m % 2 ^ 16 * 2 ^ 48) 0) ∧
    (Issues (.andi w) s g → WritesScalar (.andi w) s g w.d (extS w.ty (x &&& e)) 0) ∧
    (Issues (.ori w) s g → WritesScalar (.ori w) s g w.d (extS w.ty (x ||| e)) 0) ∧
    (Issues (.xori w) s g → WritesScalar (.xori w) s g w.d (extS w.ty (x ^^^ e)) 0) ∧
    (Issues (.bfxu w) s g → WritesScalar (.bfxu w) s g w.d (a / 2 ^ pos % 2 ^ len) 0) ∧
    (Issues (.bfxs w) s g → WritesScalar (.bfxs w) s g w.d (wrapN 64 (sext len (a / 2 ^ pos % 2 ^ len))) 0) ∧
    (Issues (.bfi w) s g → ∃ y, (∀ i, i < 64 → bit y i = if pos ≤ i ∧ i < pos + len then bit a (i - pos) else bit d i) ∧ y < 2 ^ 64 ∧
      WritesScalar (.bfi w) s g w.d y 0)) ∧
  (
  ∀ (w : R3) (s : State) (g : Group),
    let a := scalarVal s g w.a
    let b := scalarVal s g w.b
    (Issues (.mov w) s g → w.d ≠ .s 0x30C → WritesScalar (.mov w) s g w.d a 0) ∧
    (Issues (.mov w) s g → w.d = .s 0x30C →
      exec (.mov w) s = .next (timed (.mov w) s g (s.put { g with status := g.status &&& ~~~(BitVec.ofNat 64 a) }))) ∧
    (∀ k : BitVec 3, Issues (.lea k w) s g → WritesScalar (.lea k w) s g w.d ((a + b * 2 ^ k.toNat) % 2 ^ 64) 0) ∧
    (∀ r : BitVec 5, Issues (.gaddr r w) s g →
      WritesScalar (.gaddr r w) s g w.d (2 ^ 63 + a % 2 ^ 17 * 2 ^ 46 + r.toNat * 2 ^ 41 + b % 2 ^ 41) 0) ∧
    (∀ f : BitVec 2, Issues (.gfld f w) s g →
      WritesScalar (.gfld f w) s g w.d ([a / 2 ^ 46 % 2 ^ 17, a / 2 ^ 41 % 2 ^ 5, a % 2 ^ 41, a / 2 ^ 63 % 2].getD f.toNat 0) 0))

/-! ### Control and group-state words: majors 0x01 and 0x02, and literal loads -/

/-- 05 R91, R92: each form records its target, modulo plane_stride, for its active lanes when its condition holds, and nothing otherwise; `call` also
writes the link o + 1. What a traced group emits is its CTRL packet (15 R278).
05 R93 with R88: the lanes that execute `exit` are recorded and go when the offset completes; `nop` changes nothing. -/
def Obligations.BranchesAndExitsAreRecorded : Prop :=
  (
  (∀ p ∈ ([(Instr.bra, fun _ _ _ _ => True),
      (Instr.bany, fun _ g m w => ∃ l, lane m l = true ∧ lane (predVal g w.a) l = true),
      (Instr.ball, fun _ g m w => ∀ l, lane m l = true → lane (predVal g w.a) l = true),
      (Instr.bnone, fun _ g m w => ¬ ∃ l, lane m l = true ∧ lane (predVal g w.a) l = true)] :
      List ((BR → Instr) × (State → Group → Mask → BR → Prop))),
    ∀ (w : BR) (s : State) (g : Group), Issues (p.1 w) s g →
      let m := lanesFor (p.1 w) g
      let t := (((g.ofs : Int) + w.disp.toInt) % (g.env.stride : Int)).toNat
      (p.2 s g m w → ∃ g', NextRecorded g g' m t ∧ exec (p.1 w) s = .next (timed (p.1 w) s g (emitCtrl (s.put g') g' m t none))) ∧
      (¬ p.2 s g m w → exec (p.1 w) s = .next (timed (p.1 w) s g (emitCtrl (s.put g) g 0 0 none)))) ∧
  (∀ (c : BitVec 4) (w : BR) (s : State) (g : Group), Issues (.brs c w) s g →
      let m := lanesFor (.brs c w) g
      let t := (((g.ofs : Int) + w.disp.toInt) % (g.env.stride : Int)).toNat
      let a := scalarVal s g w.a
      let b := scalarVal s g w.b
      let taken : Prop := [a = b, a ≠ b, sext 64 a < sext 64 b, sext 64 b ≤ sext 64 a, a < b, b ≤ a].getD c.toNat False
      (taken → ∃ g', NextRecorded g g' m t ∧ exec (.brs c w) s = .next (timed (.brs c w) s g (emitCtrl (s.put g') g' m t none))) ∧
      (c.toNat < 6 → ¬ taken → exec (.brs c w) s = .next (timed (.brs c w) s g (emitCtrl (s.put g) g 0 0 none)))) ∧
  (∀ (w : BR) (s : State) (g : Group), Issues (.call w) s g →
      let m := lanesFor (.call w) g
      let t := (((g.ofs : Int) + w.disp.toInt) % (g.env.stride : Int)).toNat
      ∃ g1 g', ScalarWritten g g1 w.d (g.ofs + 1) ∧ NextRecorded g1 g' m t ∧
        exec (.call w) s = .next (timed (.call w) s g (emitCtrl (s.put g') g' m t none))) ∧
  (∀ p ∈ [Instr.jmp, Instr.ret], ∀ (w : BR) (s : State) (g : Group), Issues (p w) s g →
      let m := lanesFor (p w) g
      let t := (((scalarVal s g w.a : Nat) + w.disp.toInt) % (g.env.stride : Int)).toNat
      ∃ g', NextRecorded g g' m t ∧ exec (p w) s = .next (timed (p w) s g (emitCtrl (s.put g') g' m t none)))) ∧
  (
  (∀ (w : R3) (s : State) (g : Group), Issues (.exit w) s g →
    let m := lanesFor (.exit w) g
    ∃ g', g' = { g with rcd := { g.rcd with exits := g.rcd.exits ||| m } } ∧
      exec (.exit w) s = .next (timed (.exit w) s g (emitCtrl (s.put g') g' m 0 none))) ∧
  (∀ (w : Hd) (s : State) (g : Group), Issues (.nop w) s g → exec (.nop w) s = .next (s.put g)))

/-- 05 R91, R94, R95: `brapl`, `pset` and `psetv` record the new plane of their active lanes when every plane asked for is declared, and raise PLANE,
recording nothing, when one is not. -/
def Obligations.PlaneSwitchesAreRecordedOrRaisePlane : Prop :=
  (∀ (k : BitVec 3) (w : BR) (s : State) (g : Group), Issues (.brapl k w) s g →
    let m := lanesFor (.brapl k w) g
    let t := (((g.ofs : Int) + w.disp.toInt) % (g.env.stride : Int)).toNat
    (k.toNat < g.env.planes → ∃ g1 g', NextRecorded g g1 m t ∧ PlaneRecorded g1 g' m (fun _ => k.toNat) ∧
      exec (.brapl k w) s = .next (timed (.brapl k w) s g (emitCtrl (s.put g') g' m t none))) ∧
    (g.env.planes ≤ k.toNat → exec (.brapl k w) s = .next (takeTrap (timed (.brapl k w) s g s) g tPlane (planeDetail g k.toNat (lowLane m)) m))) ∧
  (∀ (k : BitVec 3) (w : BR) (s : State) (g : Group), Issues (.pset k w) s g →
    let m := lanesFor (.pset k w) g
    (k.toNat < g.env.planes → ∃ g', PlaneRecorded g g' m (fun _ => k.toNat) ∧
      exec (.pset k w) s = .next (timed (.pset k w) s g (emitCtrl (s.put g') g' m 0 none))) ∧
    (g.env.planes ≤ k.toNat → exec (.pset k w) s = .next (takeTrap (timed (.pset k w) s g s) g tPlane (planeDetail g k.toNat (lowLane m)) m))) ∧
  (∀ (w : BR) (s : State) (g : Group), Issues (.psetv w) s g →
    let m := lanesFor (.psetv w) g
    let want (l : Nat) : Nat := laneVal s g .n32 w.a l
    ((∀ l, l < 64 → lane m l = true → want l < g.env.planes) → ∃ g', PlaneRecorded g g' m want ∧
      exec (.psetv w) s = .next (timed (.psetv w) s g (emitCtrl (s.put g') g' m 0 (some want)))) ∧
    (∀ l, l < 64 → lane m l = true → g.env.planes ≤ want l → (∀ k, k < l → lane m k = true → want k < g.env.planes) →
      exec (.psetv w) s = .next (takeTrap (timed (.psetv w) s g s) g tPlane (planeDetail g (want l) l) m)))

/-- 05 R96, Table 4: `elect`, `pmask`, `pload` and `pathq`, which reports the table as it stood before the offset; live
lanes are those that have not exited, at the offset a handler interrupted either (01 R11).
05 R103: a literal load whose literals can all be read: a vector destination takes, in each active lane, the literal of its own plane (both halves of
a pair under a 64-bit type); a scalar one that of the lowest active lane, extended. Where it fails (04 R75, 05 R103): a target outside its plane, or a word there that is
no literal word, raises ILLEGAL with reason 11 and the plane of the lowest active lane that meets one; a literal in a range of addresses that fetch refuses raises ADDR
with fetch's reason in its place (log 14, DEDUCED: R75 and R103 name reason 11 alone). Nothing is written then. -/
def Obligations.GroupStateWordsAndLiteralLoads : Prop :=
  (
  ∀ (w : R3) (s : State) (g : Group),
    (Issues (.elect w) s g →
      WritesPred (.elect w) s g w.d (fun l => decide (∀ k, k < l → lane (lanesFor (.elect w) g) k = false) && lane (lanesFor (.elect w) g) l) 0) ∧
    (Issues (.pmask w) s g → WritesScalar (.pmask w) s g w.d (predVal g w.a &&& lanesFor (.pmask w) g).toNat 0) ∧
    (Issues (.pload w) s g → perLane w.a = false → WritesPred (.pload w) s g w.d (fun l => bit (scalarVal s g w.a) l) 0) ∧
    (Issues (.pload w) s g → perLane w.a = true → WritesPred (.pload w) s g w.d (fun l => bit (laneVal s g .n64 w.a l) l) 0) ∧
    (∀ q : BitVec 2, Issues (.pathq q w) s g →
      WritesScalar (.pathq q w) s g w.d
        ([g.paths.length, g.pathLanes.toNat, ((List.range 8).map (fun k => if g.pathLanes &&& g.inPlane k = 0 then 0 else 2 ^ k)).sum,
          (~~~(g.exited ||| (match g.frame with | some f => f.rcd.exits | none => 0))).toNat].getD q.toNat 0) 0)) ∧
  (
  (∀ (w : IM) (s : State) (g : Group) (f : Nat → Nat), Issues (.ldl w) s g → s.flaws = [] →
    (∀ l ∈ lanesOf (lanesFor (.ldl w) g), litAt s g (g.planeOf l) ((g.ofs : Int) + w.imm.toInt) = .val (f l)) →
    (w.d.kind = 0 → WritesVector (.ldl w) s g w.ty w.d (fun l => if w.ty.wide then f l else f l % 2 ^ 32) 0) ∧
    (w.d.kind = 1 → lanesFor (.ldl w) g ≠ 0 →
      WritesScalar (.ldl w) s g w.d (extS w.ty (f (lowLane (lanesFor (.ldl w) g)) % 2 ^ w.ty.bits)) 0)) ∧
  (∀ (w : IM) (s : State) (g : Group), Issues (.ldl w) s g →
    let m := lanesFor (.ldl w) g
    let o : Int := (g.ofs : Int) + w.imm.toInt
    let found (l : Nat) : Lit := litAt s g (g.planeOf l) o
    let illegal (l : Nat) : Prop := exec (.ldl w) s = .next (takeTrap (timed (.ldl w) s g s) g tIllegal
      (BitVec.ofNat 64 (11 * 2 ^ 56 + 0x12 * 2 ^ 48 + g.planeOf l % 8 * 2 ^ 41 + g.ofs % 2 ^ 32)) m)
    (m ≠ 0 → o < 0 ∨ (g.env.stride : Int) ≤ o → illegal (lowLane m)) ∧
    (∀ k, 0 ≤ o → o < (g.env.stride : Int) →
      (∀ r, codeReason g k o.toNat = some r → litAt s g k o = .addr r) ∧
      (codeReason g k o.toNat = none → ∀ x, fetchAt s s.cur g k o.toNat = .word x →
        litAt s g k o = if x / 2 ^ 88 = 0xFE then .val (x % 2 ^ 64) else .bad)) ∧
    ((∀ k, lane m k = true → found k ≠ .wait ∧ ∀ u, found k ≠ .gone u) → ∀ l, l < 64 → lane m l = true →
      (found l = .bad → (∀ k, k < l → lane m k = true → found k ≠ .bad) → illegal l) ∧
      (∀ r, found l = .addr r → (∀ k, lane m k = true → found k ≠ .bad) → (∀ k, k < l → lane m k = true → ∀ q, found k ≠ .addr q) →
        exec (.ldl w) s = .next (takeTrap (timed (.ldl w) s g s) g tAddr
          (addrDetail false l r (g.codeAddr (g.planeOf l) o.toNat)) m)))))

/-! ### Vector words: majors 0x20, 0x21, 0x30, 0x31, 0x32, 0x40, 0x48 and 0x49 -/

/-- 06 R107, R108, Table 1 with 03 R34: the exact integer of each element of each active lane, narrowed on its own; SAT is set when some element of an active
lane was clamped. Inactive lanes and every other register stand. -/
def Obligations.VectorIntegerArithmeticIsPerElement : Prop :=
  (∀ p ∈ ([(Instr.vaddInt, fun a b => a + b), (.vsubInt, fun a b => a - b), (.vmulInt, fun a b => a * b), (.vnegInt, fun a _ => -a),
      (.vabsInt, fun a _ => (a.natAbs : Int))] : List ((R3 → Instr) × (Int → Int → Int))),
    ∀ (w : R3) (s : State) (g : Group), Issues (p.1 w) s g →
      ∃ (y : Nat → Nat → Int) (e : Nat → Nat → Nat) (f : Nat → Nat) (fl : Nat),
        (∀ l j, l < 64 → lane (lanesFor (p.1 w) g) l = true → j < elemCount w.ty →
          Narrowed w.ty w.sat (p.2 (intElem s g w.ty w.a l j) (intElem s g w.ty w.b l j)) (y l j) (e l j) ∧
          readInt w.ty (elemAt w.ty j (f l)) = y l j) ∧
        (fl = 0 ∨ fl = SATF) ∧
        (fl = SATF ↔ ∃ l j, l < 64 ∧ lane (lanesFor (p.1 w) g) l = true ∧ j < elemCount w.ty ∧ e l j = SATF) ∧
        WritesVector (p.1 w) s g w.ty w.d f fl) ∧
  (∀ (np nc : Bool) (w : FU) (s : State) (g : Group),
    let i := Instr.vmad ((if np then 2 else 0) + (if nc then 1 else 0)) w
    Issues i s g →
      ∃ (y : Nat → Nat → Int) (e : Nat → Nat → Nat) (f : Nat → Nat) (fl : Nat),
        (∀ l j, l < 64 → lane (lanesFor i g) l = true → j < elemCount w.ty →
          Narrowed w.ty w.sat ((if np then -1 else 1) * (intElem s g w.ty w.a l j * intElem s g w.ty w.b l j) +
            (if nc then -1 else 1) * intElem s g w.ty w.c l j) (y l j) (e l j) ∧
          readInt w.ty (elemAt w.ty j (f l)) = y l j) ∧
        (fl = 0 ∨ fl = SATF) ∧
        (fl = SATF ↔ ∃ l j, l < 64 ∧ lane (lanesFor i g) l = true ∧ j < elemCount w.ty ∧ e l j = SATF) ∧
        WritesVector i s g w.ty w.d f fl)

/-- 06 Tables 1 and 2: the smaller, the larger and the clamp of each element, the high half of each product, and the four-term dot product of bytes into a
32-bit lane. -/
def Obligations.VectorOrderClampHighProductAndDotProduct : Prop :=
  (∀ (w : R3) (s : State) (g : Group),
    let a := intElem s g w.ty w.a
    let b := intElem s g w.ty w.b
    (Issues (.vminInt w) s g → Elementwise (.vminInt w) s g w.ty w.d (fun l j x => readInt w.ty x = min (a l j) (b l j))) ∧
    (Issues (.vmaxInt w) s g → Elementwise (.vmaxInt w) s g w.ty w.d (fun l j x => readInt w.ty x = max (a l j) (b l j))) ∧
    (Issues (.vmulhi w) s g → Elementwise (.vmulhi w) s g w.ty w.d (fun l j x =>
      readInt w.ty x * 2 ^ w.ty.bits ≤ a l j * b l j ∧ a l j * b l j < (readInt w.ty x + 1) * 2 ^ w.ty.bits))) ∧
  (∀ (w : FU) (s : State) (g : Group), Issues (.vclamp w) s g →
    Elementwise (.vclamp w) s g w.ty w.d (fun l j x =>
      readInt w.ty x = min (max (intElem s g w.ty w.a l j) (intElem s g w.ty w.b l j)) (intElem s g w.ty w.c l j))) ∧
  (∀ (w : FU) (s : State) (g : Group), Issues (.vdp4 w) s g →
    let t := dp4Ty w.ty
    let a := intElem s g w.ty w.a
    let b := intElem s g w.ty w.b
    ∃ (y : Nat → Int) (e : Nat → Nat) (f : Nat → Nat) (fl : Nat),
      (∀ l, l < 64 → lane (lanesFor (.vdp4 w) g) l = true →
        Narrowed t w.sat (intElem s g t w.c l 0 + a l 0 * b l 0 + a l 1 * b l 1 + a l 2 * b l 2 + a l 3 * b l 3) (y l) (e l) ∧ readInt t (f l) = y l) ∧
      (fl = 0 ∨ fl = SATF) ∧ (fl = SATF ↔ ∃ l, l < 64 ∧ lane (lanesFor (.vdp4 w) g) l = true ∧ e l = SATF) ∧
      WritesVector (.vdp4 w) s g t w.d f fl)

/-- 06 Table 1 with 05 R100: bitwise forms, shifts by the element of B (also by n or more), rotation, bit counts, bit reversal and the move, on each
element of each active lane. -/
def Obligations.VectorLogicShiftsAndCounts : Prop :=
  (∀ p ∈ ([(Instr.vand, fun x y => x && y), (.vor, fun x y => x || y), (.vxor, fun x y => x != y), (.vandn, fun x y => x && !y)] :
      List ((R3 → Instr) × (Bool → Bool → Bool))),
    ∀ (w : R3) (s : State) (g : Group), Issues (p.1 w) s g →
      Elementwise (p.1 w) s g w.ty w.d (fun l j x => ∀ i, i < w.ty.bits →
        bit x i = p.2 (bit (elemAt w.ty j (laneVal s g w.ty w.a l)) i) (bit (elemAt w.ty j (laneVal s g w.ty w.b l)) i))) ∧
  (∀ (w : R3) (s : State) (g : Group),
    let n := w.ty.bits
    let a (l j : Nat) : Nat := elemAt w.ty j (laneVal s g w.ty w.a l)
    let b (l j : Nat) : Nat := elemAt w.ty j (laneVal s g w.ty w.b l)
    (Issues (.vshl w) s g → Elementwise (.vshl w) s g w.ty w.d (fun l j x => x = a l j * 2 ^ b l j % 2 ^ n)) ∧
    (Issues (.vshr w) s g → Elementwise (.vshr w) s g w.ty w.d (fun l j x => x = a l j % 2 ^ n / 2 ^ b l j)) ∧
    (Issues (.vsar w) s g → Elementwise (.vsar w) s g w.ty w.d (fun l j x => sext n x = sext n (a l j) / ((2 ^ b l j : Nat) : Int))) ∧
    (Issues (.vrotl w) s g → Elementwise (.vrotl w) s g w.ty w.d (fun l j x => ∀ i, i < n → bit x ((i + b l j) % n) = bit (a l j) i)) ∧
    (Issues (.vclz w) s g → Elementwise (.vclz w) s g w.ty w.d (fun l j k => k ≤ n ∧ (∀ i, i < n → n - k ≤ i → bit (a l j) i = false) ∧
      (k < n → bit (a l j) (n - 1 - k) = true))) ∧
    (Issues (.vctz w) s g → Elementwise (.vctz w) s g w.ty w.d (fun l j k => k ≤ n ∧ (∀ i, i < k → bit (a l j) i = false) ∧
      (k < n → bit (a l j) k = true))) ∧
    (Issues (.vpopc w) s g → Elementwise (.vpopc w) s g w.ty w.d (fun l j k => k = (List.range n).countP (fun i => bit (a l j) i))) ∧
    (Issues (.vbrev w) s g → Elementwise (.vbrev w) s g w.ty w.d (fun l j x => ∀ i, i < n → bit x i = bit (a l j) (n - 1 - i))) ∧
    (Issues (.vmov w) s g → Elementwise (.vmov w) s g w.ty w.d (fun l j x => x = a l j % 2 ^ n)))

/-- 06 R110, R111, Table 2: comparisons of whole lanes and predicate logic write the active lanes of a predicate, p0 excepted; `vsel` chooses by the
predicate C. -/
def Obligations.ComparisonsPredicatesAndSelection : Prop :=
  (∀ (c : BitVec 3) (w : R3) (s : State) (g : Group), Issues (.vcmp c w) s g →
    let a (l : Nat) : Int := readInt w.ty (laneVal s g w.ty w.a l)
    let b (l : Nat) : Int := readInt w.ty (laneVal s g w.ty w.b l)
    ∃ f : Nat → Bool, (∀ l, l < 64 →
      (c.toNat = 0 → (f l = true ↔ a l = b l)) ∧ (c.toNat = 1 → (f l = true ↔ a l ≠ b l)) ∧ (c.toNat = 2 → (f l = true ↔ a l < b l)) ∧
      (c.toNat = 3 → (f l = true ↔ a l ≤ b l)) ∧ (c.toNat = 4 → (f l = true ↔ b l < a l)) ∧ (c.toNat = 5 → (f l = true ↔ b l ≤ a l))) ∧
      WritesPred (.vcmp c w) s g w.d f 0) ∧
  (∀ p ∈ ([(Instr.pand, fun x y => x && y), (.por, fun x y => x || y), (.pxor, fun x y => x != y), (.pandn, fun x y => x && !y), (.pnot, fun x _ => !x)] :
      List ((R3 → Instr) × (Bool → Bool → Bool))),
    ∀ (w : R3) (s : State) (g : Group), Issues (p.1 w) s g →
      WritesPred (p.1 w) s g w.d (fun l => p.2 (lane (predVal g w.a) l) (lane (predVal g w.b) l) && decide (l < 64)) 0) ∧
  (∀ (w : FU) (s : State) (g : Group), Issues (.vsel w) s g →
    WritesVector (.vsel w) s g w.ty w.d (fun l => if lane (predVal g w.c) l then laneVal s g w.ty w.a l else laneVal s g w.ty w.b l) 0)

/-- 06 R112 to R114, R117, Tables 4 and 5: every floating-point form computes each element of each active lane on its own by the operation of its format and
rounding mode, each rounding once, and the flags of all elements are ORed into %status.
06 R115, R116: `vfcmp` holds in a lane when every element satisfies it, and raises the flags of every active lane; `vfclass` holds when the class of
some element has its bit in the mask. -/
def Obligations.VectorFloatComparisonAndClass : Prop :=
  (
  (∀ p ∈ ([(Instr.vaddFloat, fun w => onF2 w.ty (fun f a b => sumRound f w.rm [a, b])),
      (.vsubFloat, fun w => onF2 w.ty (fun f a b => sumRound f w.rm [a, b.flip true])),
      (.vmulFloat, fun w => onF2 w.ty (fun f a b => mulRound f w.rm a b)),
      (.vdiv, fun w => onF2 w.ty (fun f a b => divRound f w.rm a b)),
      (.vminFloat, fun w => minMaxF (fmtOf w.ty) false false), (.vmaxFloat, fun w => minMaxF (fmtOf w.ty) true false),
      (.vminn, fun w => minMaxF (fmtOf w.ty) false true), (.vmaxn, fun w => minMaxF (fmtOf w.ty) true true),
      (.vnegFloat, fun w a _ => signOf w.ty (!bit a (w.ty.bits - 1)) a), (.vabsFloat, fun w a _ => signOf w.ty false a),
      (.vcopysign, fun w a b => signOf w.ty (bit b (w.ty.bits - 1)) a),
      (.vfrnd, fun w a _ => frndRound (fmtOf w.ty) w.rm (fromBits (fmtOf w.ty) a) a)] : List ((R3 → Instr) × (R3 → Nat → Nat → Nat × Nat))),
    ∀ (w : R3) (s : State) (g : Group), Issues (p.1 w) s g →
      ElementwiseFlags (p.1 w) s g w.ty w.d (fun l j =>
        p.2 w (elemAt w.ty j (laneVal s g w.ty w.a l)) (elemAt w.ty j (laneVal s g w.ty w.b l)))) ∧
  (∀ p ∈ ([(Instr.vfma, fun w => fmaOf false false w), (.vfms, fun w => fmaOf false true w), (.vfnma, fun w => fmaOf true false w),
      (.vfnms, fun w => fmaOf true true w), (.vfclamp, fun w => fclampOf w.ty)] : List ((FU → Instr) × (FU → Nat → Nat → Nat → Nat × Nat))),
    ∀ (w : FU) (s : State) (g : Group), Issues (p.1 w) s g →
      ElementwiseFlags (p.1 w) s g w.ty w.d (fun l j =>
        p.2 w (elemAt w.ty j (laneVal s g w.ty w.a l)) (elemAt w.ty j (laneVal s g w.ty w.b l)) (elemAt w.ty j (laneVal s g w.ty w.c l)))) ∧
  (∀ (w : FU) (s : State) (g : Group), Issues (.vdot2 w) s g →
    ElementwiseFlags (.vdot2 w) s g .f32 w.d (fun l _ => dot2Of w.ty w.rm (laneVal s g w.ty w.a l) (laneVal s g w.ty w.b l) (laneVal s g .f32 w.c l)))) ∧
  (
  (∀ (c : BitVec 3) (w : R3) (s : State) (g : Group), Issues (.vfcmp c w) s g →
    let r (l : Nat) : Bool × Nat := fcmpLane w.ty c.toNat (laneVal s g w.ty w.a l) (laneVal s g w.ty w.b l)
    ∃ fl, (∀ i, bit fl i = true ↔ ∃ l, l < 64 ∧ lane (lanesFor (.vfcmp c w) g) l = true ∧ bit (r l).2 i = true) ∧
      WritesPred (.vfcmp c w) s g w.d (fun l => (r l).1) fl) ∧
  (∀ (w : R3) (s : State) (g : Group), Issues (.vfclass w) s g →
    WritesPred (.vfclass w) s g w.d (fun l => (elems w.ty (laneVal s g w.ty w.a l)).any (fun x => bit w.b.idx (classOf (fmtOf w.ty) x))) 0))

/-- 06 R118, R119, Table 8: a conversion writes each active lane (`vcvt` element by element, `vcvtn` one element of the destination, the others kept, `vcvtw`
one element of the source), with the flags of all together; a failed .rn24 check of an active lane raises RESIDUE before anything is written (03 R47).
03 R40 to R42: `Round` of the value of a finite element or an infinity to its own format gives the element back in every mode and sets no flag, but an infinity under
.f8e4 gives its greatest value with OF and NX. Of every other nonzero x = (-1)^n m 2^e it takes the candidate c = k 2^q, a neighbour of |x| among the multiples of the last
place (2^q with |x| < 2^(fb + 1) 2^q, and 2^fb 2^q ≤ |x| or q that of the subnormals), nearest with ties to even (or away from zero), or in the mode's direction. It delivers
c with the sign of x, NX where c is not |x| and UF where c is then subnormal and not 0; a c above the greatest finite value gives what R40 rule 3 or R41 says, with OF and NX.
A NaN gives the canonical NaN, with NV when it signals (R37). -/
def Obligations.ConversionsRoundingAndTheResidueCheck : Prop :=
  (
  (∀ p ∈ ([(Instr.vcvt, fun w s g l => let rs := (elems w.ty (laneVal s g w.ty w.a l)).map (cvtElem w); (joinElems w.dty (rs.map Prod.fst), orFlags rs)),
      (.vcvtn, fun w s g l => let r := cvtElem w (laneVal s g w.ty w.a l)
        (setFld (laneVal s g .n32 w.d l) (w.dty.bits * w.b.idx) w.dty.bits r.1, r.2)),
      (.vcvtw, fun w s g l => cvtElem w (laneVal s g w.ty w.a l / 2 ^ (w.ty.bits * w.b.idx) % 2 ^ w.ty.bits))] :
      List ((CV → Instr) × (CV → State → Group → Nat → Nat × Nat))),
    ∀ (w : CV) (s : State) (g : Group), Issues (p.1 w) s g →
      ((w.ty = .rn24 → ∀ l, l < 64 → lane (lanesFor (p.1 w) g) l = true → (rn24Decode (laneVal s g .rn24 w.a l)).2 = true) →
        ∃ f fl, (∀ l, l < 64 → lane (lanesFor (p.1 w) g) l = true → f l = (p.2 w s g l).1) ∧
          (∀ i, bit fl i = true ↔ ∃ l, l < 64 ∧ lane (lanesFor (p.1 w) g) l = true ∧ bit (p.2 w s g l).2 i = true) ∧
          WritesVector (p.1 w) s g w.dty w.d f fl) ∧
      (∀ l, w.ty = .rn24 → l < 64 → lane (lanesFor (p.1 w) g) l = true → (rn24Decode (laneVal s g .rn24 w.a l)).2 = false →
        (∀ k, k < l → lane (lanesFor (p.1 w) g) k = true → (rn24Decode (laneVal s g .rn24 w.a k)).2 = true) →
        ∃ d, exec (p.1 w) s = .next (takeTrap (timed (p.1 w) s g s) g tResidue d (lanesFor (p.1 w) g)) ∧ fld d.toNat 60 4 = 3 ∧ fld d.toNat 29 7 = l))) ∧
  (
  (∀ f ∈ [f8e4, f16, bf16, f32, f64], ∀ rm ∈ [RM.rne, .rz, .rp, .rmi, .rna], ∀ (n : Bool) (m : Nat) (e : Int), m ≠ 0 →
    let x : ℚ := m * 2 ^ e
    let qmin : Int := 1 - (f.bias : Int) - f.fb
    let big : ℚ := if f.w = 8 then 448 else (2 ^ (f.fb + 1) - 1) * 2 ^ ((f.bias : Int) - f.fb)
    let sign : Nat := if n then 2 ^ (f.w - 1) else 0
    let most : Nat := sign + if f.w = 8 then 0x7E else (2 ^ f.eb - 1) * 2 ^ f.fb - 1
    let inf : Nat := sign + (2 ^ f.eb - 1) * 2 ^ f.fb
    let r := roundVal f rm (.fin n m e)
    ∃ (k : Nat) (q : Int),
      let u : ℚ := 2 ^ q
      let c : ℚ := k * u
      qmin ≤ q ∧ x < 2 ^ (f.fb + 1) * u ∧ (q = qmin ∨ 2 ^ f.fb * u ≤ x) ∧ |c - x| < u ∧
      (rm = .rne → 2 * |c - x| ≤ u ∧ (2 * |c - x| = u → k % 2 = 0)) ∧ (rm = .rna → 2 * |c - x| ≤ u ∧ (2 * |c - x| = u → x < c)) ∧
      (rm = .rz → c ≤ x) ∧ (rm = .rp → if n then c ≤ x else x ≤ c) ∧ (rm = .rmi → if n then x ≤ c else c ≤ x) ∧
      (big < c → r = (if f.w = 8 then most else match rm with
        | .rz => most
        | .rp => if n then most else inf
        | .rmi => if n then inf else most
        | _ => inf, OF + NX)) ∧
      (c ≤ big → r.1 < 2 ^ f.w ∧ (∃ (m1 : Nat) (e1 : Int), fromBits f r.1 = .fin n m1 e1 ∧ (m1 : ℚ) * 2 ^ e1 = c) ∧
        r.2 = (if c = x then 0 else NX) + (if c ≠ x ∧ k ≠ 0 ∧ c < 2 ^ (1 - (f.bias : Int)) then UF else 0))) ∧
  (∀ f ∈ [f8e4, f16, bf16, f32, f64], ∀ rm : RM,
    (∀ n, roundVal f rm (.inf n) = if f.w = 8 then (0x7E + if n then 0x80 else 0, OF + NX) else ((if n then 2 ^ (f.w - 1) else 0) + (2 ^ f.eb - 1) * 2 ^ f.fb, 0)) ∧
    ∀ sig, roundVal f rm (.nan sig) = (if f.w = 8 then 0x7F else (2 ^ f.eb - 1) * 2 ^ f.fb + 2 ^ (f.fb - 1), if sig then NV else 0)) ∧
  ∀ t ∈ [Ty.f8e4, .f16, .bf16, .f32, .f64], ∀ (rm : RM) (x : Nat), x < 2 ^ t.bits → (fromBits (fmtOf t) x).isNan = false →
    roundVal (fmtOf t) rm (fromBits (fmtOf t) x) = (x, 0))

/-- 07 R123 to R126, Table 1: `vshfl` reads its source lane, active or not; a reduction delivers one value to every active lane, or to a scalar; a scan delivers
to each lane the prefix below it, with the lane itself when inclusive. (A `vredlog` result of .f32 in sD is extended with zeros, as 03 R33 names no rule for a float: DESIGN CHOICE, log 39.) -/
def Obligations.ShufflesReductionsAndScans : Prop :=
  (∀ (mode : BitVec 2) (sh : BitVec 3) (w : R3) (s : State) (g : Group), Issues (.vshfl mode sh w) s g →
    let sg := 64 / 2 ^ sh.toNat
    ∃ f src : Nat → Nat, (∀ l, l < 64 → f l = laneVal s g w.ty w.a (src l) ∧
        (let b := laneVal s g .n32 w.b l
         let i := l % sg
         (mode.toNat = 0 → src l = l - i + b % sg) ∧
         (mode.toNat = 1 → src l = if b ≤ i then l - b else l) ∧
         (mode.toNat = 2 → src l = if i + b < sg then l + b else l) ∧
         (mode.toNat = 3 → src l = l - i + (i ^^^ b) % sg))) ∧
      WritesVector (.vshfl mode sh w) s g w.ty w.d f 0) ∧
  (∀ (op : BitVec 3) (w : R3) (s : State) (g : Group), Issues (.vredlog op w) s g →
    let m := lanesFor (.vredlog op w) g
    let r (j : Nat) : Nat × Nat := reduceAt op.toNat w.ty w.rm w.sat m (fun l => elemAt w.ty j (laneVal s g w.ty w.a l))
    let x := joinElems w.ty ((List.range (elemCount w.ty)).map (fun j => (r j).1))
    let fl := orFlags ((List.range (elemCount w.ty)).map r)
    (w.d.kind = 0 → WritesVector (.vredlog op w) s g w.ty w.d (fun _ => x) fl) ∧
    (w.d.kind = 1 → WritesScalar (.vredlog op w) s g w.d (if w.ty.bits < 32 then x else extS w.ty x) fl)) ∧
  (∀ p ∈ ([(Instr.vscan, true), (.vscanx, false)] : List ((BitVec 3 → R3 → Instr) × Bool)),
    ∀ (op : BitVec 3) (w : R3) (s : State) (g : Group), Issues (p.1 op w) s g →
      let m := lanesFor (p.1 op w) g
      let r (incl : Bool) (l j : Nat) : Nat × Nat := scanAt op.toNat w.ty w.rm w.sat incl m (fun k => elemAt w.ty j (laneVal s g w.ty w.a k)) l
      ∃ f fl, (∀ l j, l < 64 → lane m l = true → j < elemCount w.ty → elemAt w.ty j (f l) = (r p.2 l j).1 % 2 ^ w.ty.bits) ∧
        (∀ b, bit fl b = true ↔ ((∃ l j, l < 64 ∧ lane m l = true ∧ j < elemCount w.ty ∧ bit (r p.2 l j).2 b = true) ∨
          (¬ (op.toNat = 0 ∧ w.ty.float = false) ∧ ∃ j, j < elemCount w.ty ∧ bit (r true 63 j).2 b = true))) ∧
        WritesVector (p.1 op w) s g w.ty w.d f fl)

/-- 07 R127, R128: lane l of D takes winner l mod 8 of the candidates, its value (or its weight) in vD and its lane in vD + 1; a lane without a winner takes 0
and all ones. -/
def Obligations.TopKDeliversValuesAndLanes : Prop :=
  ∀ p ∈ ([(Instr.vtopk, false), (.vtopkNorm, true)] : List ((BitVec 3 → R3 → Instr) × Bool)),
    ∀ (k : BitVec 3) (w : R3) (s : State) (g : Group) (r : BitVec 10), w.d = .v r → Issues (p.1 k w) s g →
      let m := lanesFor (p.1 k w) g
      let cm := m &&& predVal g w.b
      let ws := winners w.ty cm (laneVal s g w.ty w.a) (k.toNat + 1)
      let out := if p.2 then normWeights w.rm (ws.map Prod.fst) else (ws.map Prod.fst, 0)
      ∃ g1 g2, VectorWritten g g1 .n32 (.v r) m (fun l => out.1.getD (l % 8) 0) ∧
        (r.toNat < 255 → VectorWritten g1 g2 .n32 (.v (r + 1)) m (fun l => (ws.map Prod.snd).getD (l % 8) 0xFFFFFFFF)) ∧
        exec (p.1 k w) s = .next (timed (p.1 k w) s g (s.put (g2.raise (topkFlags w.ty cm (laneVal s g w.ty w.a) ||| out.2))))

/-- 07 R129, R130, Tables 3 and 4: the special functions of each active lane by their operation, format and rounding mode, flags together; `vrand` hashes key,
counter and lane and sets no flag. That the model's `vexp2iRound` finds R129's exact power rounded once is not established (log 9, UNVERIFIED), and a `vexp2i` whose result
rounds to 0 sets NX alone, the model's choice between R42 and R129 (log 40, DEDUCED).
07 R131: `rseed` writes 64 bits of entropy to sD, for every value of it (a free value, log 5) that no `rseed` has had before; outside a replay it is recorded
(26 R387 kind 9). -/
def Obligations.SpecialFunctionsTheGeneratorAndEntropy : Prop :=
  (
  (∀ p ∈ ([(Instr.vrcp, fun w f a => rcpRound f w.rm a), (.vrsqrt, fun w f a => rsqrtRound f w.rm a), (.vsqrt, fun w f a => sqrtRound f w.rm a),
      (.vexpo, fun _ _ a => vexpoOf a)] : List ((IM → Instr) × (IM → Fmt → FVal → Nat × Nat))),
    ∀ (w : IM) (s : State) (g : Group), Issues (p.1 w) s g →
      ElementwiseFlags (p.1 w) s g w.ty w.d (fun l _ => p.2 w (fmtOf w.ty) (fromBits (fmtOf w.ty) (laneVal s g w.ty w.a l)))) ∧
  (∀ p ∈ ([(Instr.vexp2i, fun w a b => vexp2iRound f32 w.rm a b), (.vscalb, fun w a b => scalbRound f32 w.rm a b)] :
      List ((IM → Instr) × (IM → FVal → Int → Nat × Nat))),
    ∀ (w : IM) (s : State) (g : Group), Issues (p.1 w) s g →
      ElementwiseFlags (p.1 w) s g .f32 w.d (fun l _ => p.2 w (fromBits f32 (laneVal s g .f32 w.a l)) (sext 32 (laneVal s g .i32 w.b l)))) ∧
  (∀ (w : IM) (s : State) (g : Group), Issues (.vrand w) s g →
    ∃ f, (∀ l, l < 64 → f l = (let z := randZ (scalarVal s g w.a) (laneVal s g .n32 w.b l) l
        match w.ty with
        | .n64 => z
        | .f32 => (roundFin f32 .rne false (z / 2 ^ 40 % 2 ^ 24) (-24) false).1
        | _ => z % 2 ^ 32)) ∧
      WritesVector (.vrand w) s g w.ty w.d f 0)) ∧
  (
  ∀ (w : IM) (s : State) (g : Group), Issues (.rseed w) s g → s.ll.replay = none →
    ∃ (x : W64) (g' : Group) (t : State), exec (.rseed w) s = .next (timed (.rseed w) s g t) ∧ ScalarWritten g g' w.d x.toNat ∧
      t = { (logEvent s (whoOf s g (lanesFor (.rseed w) g)) 9 0 x.toNat).put g' with freeCtr := s.freeCtr + 1, seeds := s.seeds ++ [x] } ∧
      (s.seeds.length < 2 ^ 64 → x ∉ s.seeds))

/-! ### Memory words: majors 0x50, 0x51, 0x60 and the reductions of 0x80 -/

/-- 10 R163 to R166: a near load whose addresses are aligned bytes of the near window writes to each active lane the element at its effective address, a
narrow one filled with its sign or with zeros; a scalar destination takes one element, extended (a float or .rn24 element with zeros: DESIGN CHOICE, log 39); the row form takes lane l's word from byte a + 4 l. Memory is
not changed. -/
def Obligations.NearLoadsDeliverTheElementsAtTheirAddresses : Prop :=
  ∀ (w : ME) (s : State) (g : Group),
    let n := bytesOf w.ty
    let p (l : Nat) : Nat := slicePlace (tileOf s.cur) (effAddr s g w l).toNat
    let i := Instr.ldn w
    let r := Instr.ldnr w
    let b := scalarVal s g w.a
    let a := (rowAddr s g w).toNat
    (Issues i s g → w.d.kind = 0 →
      (∀ l, l < 64 → lane (lanesFor i g) l = true → NearElement b (effAddr s g w l) n ∧ Clean s (p l) n) →
      WritesVector i s g w.ty w.d (fun l => if w.ty.bits < 32 then wrapN 32 (readInt w.ty (memVal s.mem (p l) n)) else memVal s.mem (p l) n) 0) ∧
    (Issues i s g → w.d.kind = 1 → NearElement b (effAddr s g w 0) n → Clean s (p 0) n →
      WritesScalar i s g w.d (extS w.ty (memVal s.mem (p 0) n)) 0) ∧
    (Issues r s g → NearElement b (rowAddr s g w) 256 → Clean s (slicePlace (tileOf s.cur) a) 256 →
      WritesVector r s g .n32 w.d (fun l => memVal s.mem (slicePlace (tileOf s.cur) (a + 4 * l)) 4) 0)

/-- 10 R163 to R166: a near store writes the low bits of its data, little-endian, at each active lane's effective address; where lanes name one element the
highest stands; every other byte of memory, every register and all else stand as they were (but, in a replay, the model's own record of what it has passed, log 30). The row form
stores lane l's word at byte a + 4 l. -/
def Obligations.NearStoresWriteTheirElementsAndNoOtherByte : Prop :=
  ∀ (w : ME) (s : State) (g : Group), Memory.wf s.mem = true →
    let n := bytesOf w.ty
    let p (l : Nat) : Nat := slicePlace (tileOf s.cur) (effAddr s g w l).toNat
    let i := Instr.stn w
    let r := Instr.stnr w
    let b := scalarVal s g w.a
    let a := (rowAddr s g w).toNat
    let q (l : Nat) : Nat := slicePlace (tileOf s.cur) (a + 4 * l)
    let only (t : State) : Prop := OnlyMemory { s with ll := t.ll } t ∧ t.ll = { s.ll with seen := t.ll.seen } ∧ (s.ll.replay = none → t.ll = s.ll)
    (Issues i s g → w.d.kind = 0 →
      (∀ l, l < 64 → lane (lanesFor i g) l = true → NearElement b (effAddr s g w l) n) →
      ∃ t, exec i s = .next (timed i s g t) ∧ only t ∧
        (∀ c, (∀ l, l < 64 → lane (lanesFor i g) l = true → c < p l ∨ p l + n ≤ c) → memGet t.mem c = memGet s.mem c) ∧
        (∀ l, l < 64 → lane (lanesFor i g) l = true → (∀ k, l < k → k < 64 → lane (lanesFor i g) k = true → p k ≠ p l) →
          memVal t.mem (p l) n = laneVal s g w.ty w.d l % 2 ^ w.ty.bits)) ∧
    (Issues i s g → w.d.kind = 1 → NearElement b (effAddr s g w 0) n →
      ∃ t, exec i s = .next (timed i s g t) ∧ only t ∧
        (∀ c, c < p 0 ∨ p 0 + n ≤ c → memGet t.mem c = memGet s.mem c) ∧ memVal t.mem (p 0) n = scalarVal s g w.d % 2 ^ w.ty.bits) ∧
    (Issues r s g → NearElement b (rowAddr s g w) 256 →
      ∃ t, exec r s = .next (timed r s g t) ∧ only t ∧
        (∀ c, (∀ l, l < 64 → lane (lanesFor r g) l = true → c < q l ∨ q l + 4 ≤ c) → memGet t.mem c = memGet s.mem c) ∧
        (∀ l, l < 64 → lane (lanesFor r g) l = true → memVal t.mem (q l) 4 = laneVal s g w.ty w.d l % 2 ^ 32))

/-- 09 R157, 10 R163, R165: the address checks of an access by GLOB = 0. A near form refuses, in this order, a base register or a sum outside 48 bits (reason 3), a misaligned
one (9) and one beyond byte 0x7F0000 (10); a far form refuses instead a hole (1) and a reserved range (2), and names the tile's own slice by its tile-window
address. A sum outside 48 bits never wraps (log 32, DEDUCED from 09 R154). By GLOB = 1 (09 R154, R155) it refuses, in this order, bit 63 clear (3), an offset sum outside its field (4),
a rank of no job or not in it (5), a region not valid (6), an end past its size (7), a permission that is not given (8), misalignment (9), and for the device's own rank a hole or a reserved
range; the rank and the region are never changed by the sum, and another rank's access keeps its global address. The lowest active lane that fails raises ADDR, or the group's one access with
LANE 0, and no byte of memory is written; a word with GLOB = 1 has used the fabric all the same (21 R345; log 33, DEDUCED). An atomic checks each active lane's own address, and
`vatom.add` its row of 128 bytes. (Which lane an atomic with a scalar address names: log 38, DESIGN CHOICE.)
11 R190: the checks of a copy of one row: aligned ranges of HBM4 or host addresses pass; a misaligned source, else a misaligned destination (of a fill, which has no
source, the destination first), is reason 9, and a misaligned length names the source. -/
def Obligations.AddressesAreCheckedBeforeAnyAccess : Prop :=
  (
  (∀ (s : State) (near : Bool) (k n base : Nat) (o x : Int),
    let e := (base : Int) + o + x
    let a := e.toNat
    let no (r : Nat) := resolve s false near k n base o x = .error (r, a)
    (2 ^ 48 ≤ base ∨ e < 0 ∨ (2 ^ 48 : Int) ≤ e → resolve s false near k n base o x = .error (3, wrapN 48 e)) ∧
    (base < 2 ^ 48 → 0 ≤ e → a < 2 ^ 48 → a % n ≠ 0 → no 9) ∧
    (base < 2 ^ 48 → 0 ≤ e → a < 2 ^ 48 → a % n = 0 →
      (near = true → 0x7F0000 ≤ a → no 10) ∧
      (near = false →
        (0x7F0000 ≤ a → a < 0x800000 → no 2) ∧ (0x800000 ≤ a → a < 0x100000000 → no 1) ∧
        (0x100000000 ≤ a → a < 0x180000000 → 0x7F0000 ≤ a % 0x800000 → no 2) ∧ (0x180000000 ≤ a → a < 0x200000000 → no 1) ∧
        (0x100000000 ≤ a → a < 0x180000000 → a % 0x800000 < 0x7F0000 → resolve s false near k n base o x = .ok ⟨a, none, none⟩) ∧
        (0x200000000 ≤ a → resolve s false near k n base o x = .ok ⟨a, none, none⟩)) ∧
      (a < 0x7F0000 → resolve s false near k n base o x = .ok ⟨slicePlace (tileOf s.cur) a, none, none⟩))) ∧
  (∀ (s : State) (near : Bool) (k n base : Nat) (o x : Int),
    let rank := base / 2 ^ 46 % 2 ^ 17
    let reg := base / 2 ^ 41 % 32
    let e1 : Int := (base % 2 ^ 41 : Nat) + o
    let e := e1 + x
    let f := e.toNat
    let no (r : Nat) (y : Int) := resolve s true near k n base o x = .error (r, (rank * 2 ^ 46 + reg * 2 ^ 41 + wrapN 41 y) % 2 ^ 48)
    let d (i : Nat) := (s.reg (0x13000 + 32 * reg + 8 * i)).toNat
    let top := d 0 / 2 ^ 16 * 2 ^ 16
    let size := d 1 % 2 ^ 42
    let j := (s.reg 0x10000).toNat
    (bit base 63 = false → no 3 e) ∧
    (bit base 63 = true → e1 < 0 ∨ (2 ^ 41 : Int) ≤ e1 → no 4 e1) ∧
    (bit base 63 = true → 0 ≤ e1 → e1 < 2 ^ 41 → e < 0 ∨ (2 ^ 41 : Int) ≤ e → no 4 e) ∧
    (bit base 63 = true → 0 ≤ e1 → e1 < 2 ^ 41 → 0 ≤ e → e < 2 ^ 41 →
      (bit j 63 = false ∨ j / 2 ^ 28 % 2 ^ 18 ≤ rank → no 5 e) ∧ (∀ r, resolveRank s rank = .error r → r = 5 ∧ no 5 e) ∧
      ∀ route, resolveRank s rank = .ok route → (rank = j / 2 ^ 46 % 2 ^ 17 → route = none) ∧
        (bit (d 0) 0 = false ∨ 2 ^ 48 < top + size → no 6 e) ∧
        (bit (d 0) 0 = true → top + size ≤ 2 ^ 48 →
          (size < f + n → no 7 e) ∧
          (f + n ≤ size → bit (d 0) (if k = 0 then 1 else if k = 1 then 2 else 3) = false → no 8 e) ∧
          (f + n ≤ size → bit (d 0) (if k = 0 then 1 else if k = 1 then 2 else 3) = true →
            (f % n ≠ 0 → no 9 e) ∧
            (f % n = 0 → (∀ t, route = some t → resolve s true near k n base o x = .ok ⟨reg * 2 ^ 41 + f, some rank, some t⟩) ∧
              (route = none → (∀ r, areaReason (top + f) = some r → no r e) ∧
                (areaReason (top + f) = none → resolve s true near k n base o x = .ok ⟨canon (tileOf s.cur) (top + f), none, none⟩))))))) ∧
  (∀ p ∈ ([(Instr.ldn, true, 0), (.stn, true, 1), (.ldf, false, 0), (.stf, false, 1), (.redAdd, false, 2), (.redMin, false, 2), (.redMax, false, 2)] :
      List ((ME → Instr) × Bool × Nat)),
    ∀ (w : ME) (s : State) (g : Group) (l r a : Nat), Issues (p.1 w) s g → w.d.kind = 0 → l < 64 → lane (lanesFor (p.1 w) g) l = true →
      (∀ k, k < l → lane (lanesFor (p.1 w) g) k = true →
        ∃ x, resolve s w.glob p.2.1 p.2.2 (bytesOf w.ty) (scalarVal s g w.a) w.ofs.toInt (laneOfs s g w k) = .ok x) →
      resolve s w.glob p.2.1 p.2.2 (bytesOf w.ty) (scalarVal s g w.a) w.ofs.toInt (laneOfs s g w l) = .error (r, a) →
      exec (p.1 w) s = .next (takeTrap (timed (p.1 w) s g (if w.glob ∧ p.2.1 = false then markFabric s g.env.ctx else s)) g tAddr (addrDetail w.glob l r a) (lanesFor (p.1 w) g))) ∧
  (∀ p ∈ ([(Instr.ldn, true, 0), (.stn, true, 1), (.ldf, false, 0), (.stf, false, 1), (.redAdd, false, 2), (.redMin, false, 2), (.redMax, false, 2)] :
      List ((ME → Instr) × Bool × Nat)),
    ∀ (w : ME) (s : State) (g : Group) (r a : Nat), Issues (p.1 w) s g → w.d.kind = 1 →
      resolve s w.glob p.2.1 p.2.2 (bytesOf w.ty) (scalarVal s g w.a) w.ofs.toInt 0 = .error (r, a) →
      exec (p.1 w) s = .next (takeTrap (timed (p.1 w) s g (if w.glob ∧ p.2.1 = false then markFabric s g.env.ctx else s)) g tAddr (addrDetail w.glob 0 r a) (lanesFor (p.1 w) g))) ∧
  (∀ p ∈ ([.atomAdd, .atomMin, .atomMax, .atomAnd, .atomOr, .atomXor, .atomExch, .atomCas] : List (ME → Instr)),
    ∀ (w : ME) (s : State) (g : Group) (l r a : Nat), Issues (p w) s g → l < 64 → lane (lanesFor (p w) g) l = true →
      let at' (k : Nat) := resolve s w.glob false 2 (bytesOf w.ty) (laneVal s g .n64 w.a k) w.ofs.toInt 0
      (∀ k, k < l → lane (lanesFor (p w) g) k = true → ∃ x, at' k = .ok x) → at' l = .error (r, a) →
      exec (p w) s = .next (takeTrap (timed (p w) s g (if w.glob then markFabric s g.env.ctx else s)) g tAddr (addrDetail w.glob l r a) (lanesFor (p w) g))) ∧
  (∀ (w : ME) (s : State) (g : Group) (l : Nat), Issues (.vatomAdd w) s g → l < 64 → lane (lanesFor (.vatomAdd w) g) l = true →
    let b := scalarVal s g w.a
    let a := wrapN 64 ((b : Int) + w.ofs.toInt)
    let at' (k : Nat) := if w.glob then resolveGlobal s 2 4 1 b w.ofs.toInt (4 * (k : Int)) else resolveLocal s false 1 b w.ofs.toInt (4 * (k : Int))
    let traps (r x : Nat) := exec (.vatomAdd w) s =
      .next (takeTrap (timed (.vatomAdd w) s g (if w.glob then markFabric s g.env.ctx else s)) g tAddr (addrDetail w.glob l r x) (lanesFor (.vatomAdd w) g))
    (a % 128 = 0 → (∀ k, k < l → lane (lanesFor (.vatomAdd w) g) k = true → ∃ x, at' k = .ok x) → ∀ r x, at' l = .error (r, x) → traps r x) ∧
    (a % 128 ≠ 0 → (∀ k, k < l → lane (lanesFor (.vatomAdd w) g) k = false) →
      (∀ r x, at' l = .error (r, x) → 3 ≤ r → r ≤ 8 → traps r x) ∧ ((∀ r x, at' l = .error (r, x) → r < 3 ∨ 8 < r) → traps 9 (a % 2 ^ 48))))) ∧
  (
  ∀ (c : CopyArgs), c.rows = 1 → c.bar = none → c.src < 2 ^ 48 → c.dst < 2 ^ 48 →
    let len := if c.widen then 2 * c.rowBytes else c.rowBytes
    (c.src % 16 = 0 → c.dst % 16 = 0 → c.rowBytes % 16 = 0 → c.sstride % 16 = 0 → c.dstride % 16 = 0 → 0x200000000 ≤ c.src → 0x200000000 ≤ c.dst →
      c.src + c.rowBytes ≤ 2 ^ 48 → c.dst + len ≤ 2 ^ 48 → copyCheck false c = none ∧ copyCheck true c = none) ∧
    (c.src % 16 ≠ 0 → copyCheck false c = some (9, c.src)) ∧
    (c.dst % 16 ≠ 0 → copyCheck true c = some (9, c.dst)) ∧
    (c.src % 16 = 0 → 0x200000000 ≤ c.src → c.src + c.rowBytes ≤ 2 ^ 48 → c.dst % 16 ≠ 0 → copyCheck false c = some (9, c.dst)) ∧
    (c.src % 16 = 0 → c.dst % 16 = 0 → c.rowBytes % 16 ≠ 0 → copyCheck false c = some (9, c.src) ∧ copyCheck true c = some (9, c.dst)))

/-- 10 R168, R169, R171, R173, R177, 14 R252: a far word whose addresses pass their checks is handed to the copy engine, when it has a free place (and, across
a fabric, a response slot), with one element for each active lane (of `vatom.add` under .bf16, two): its address, operand and expected value. The lanes a returning word has still to write are
open (02 R29). A word that returns no value raises the outstanding-store
counter. A release waits for the group's far words in flight, and an acquire holds later ones. No register, counter or byte of memory changes yet. A word with GLOB = 1 marks its context. -/
def Obligations.FarWordsAreHandedToTheCopyEngine : Prop :=
  ∀ p ∈ ([(Instr.ldf, .load, 0), (.stf, .store, 1), (.redAdd, .red 0, 2), (.redMin, .red 1, 2), (.redMax, .red 2, 2), (.vatomAdd, .vatom, 2), (.atomAdd, .atom 0, 2), (.atomMin, .atom 1, 2),
      (.atomMax, .atom 2, 2), (.atomAnd, .atom 3, 2), (.atomOr, .atom 4, 2), (.atomXor, .atom 5, 2), (.atomExch, .atom 6, 2), (.atomCas, .atom 7, 2)] :
      List ((ME → Instr) × FarKind × Nat)),
    ∀ (w : ME) (s : State) (g : Group) (x : Nat → Target),
      let i := p.1 w
      let k := p.2.1
      let n := if k = .vatom then 4 else bytesOf w.ty
      let ls := if w.d.kind = 1 then [0] else lanesOf (lanesFor i g)
      let isAtom : Bool := match k with | .atom _ => true | _ => false
      let base (l : Nat) : Nat := if isAtom then laneVal s g .n64 w.a l else scalarVal s g w.a
      let idx (l : Nat) : Int := if isAtom ∨ w.d.kind = 1 then 0 else if k = .vatom then 4 * (l : Int) else laneOfs s g w l
      let crosses : Prop := ∃ l ∈ ls, (x l).route ≠ none
      let mine := (s.far.filter (fun o => o.group == s.cur)).map FarOp.id
      let data (l : Nat) : Nat := if k = .load then 0 else if isAtom then laneVal s g w.ty w.b l % 2 ^ w.ty.bits
        else if k = .vatom then laneVal s g .n32 w.b l else laneVal s g w.ty w.d l % 2 ^ w.ty.bits
      let cmp (l : Nat) : Nat := if isAtom then laneVal s g w.ty w.d l % 2 ^ w.ty.bits else 0
      Issues i s g → (k = .vatom → wrapN 64 ((scalarVal s g w.a : Int) + w.ofs.toInt) % 128 = 0) →
      (∀ l ∈ ls, resolve s w.glob false p.2.2 n (base l) w.ofs.toInt (idx l) = .ok (x l)) →
      enginePlaces s (tileOf s.cur) < Config.copyPlaces → (k.returns = true → crosses → 0 < freeSlots s s.cur) →
      ∃ (op : FarOp) (t : State),
        exec i s = .next (timed i s g t) ∧
        op.id = s.seq ∧ op.group = s.cur ∧ op.who = whoOf s g (lanesFor i g) ∧ op.kind = k ∧ op.ty = w.ty ∧ op.dest = w.d ∧
        op.ac = (if k.returns then some w.ac.toNat else none) ∧ op.sends = [] ∧ (op.slot = true ↔ k.returns = true ∧ op.routes ≠ []) ∧
        (¬ (k = .vatom ∧ w.ty.bits = 16) → op.els = ls.map (fun l => ⟨l, (x l).addr, (x l).rank, data l, cmp l, false, 0, false, false⟩)) ∧
        (k = .vatom ∧ w.ty.bits = 16 → op.els = ls.flatMap (fun l =>
          [⟨2 * l, (x l).addr, (x l).rank, data l % 2 ^ 16, 0, false, 0, false, false⟩,
           ⟨2 * l + 1, (x l).addr + 2, (x l).rank, data l / 2 ^ 16, 0, false, 0, false, false⟩])) ∧
        op.holds = (if w.order = .rel ∨ w.order = .acqrel then mine else g.holds.filter (fun j => mine.contains j)) ∧
        t = { (if w.glob then markFabric s g.env.ctx else s) with
          groups := s.groups.set s.cur { g with
            opens := if k.returns then g.opens ++ g.opened w.ty w.d ls w.ac.toNat else g.opens
            stores := g.stores + (if k.returns then 0 else 1)
            holds := g.holds ++ (if w.order = .acq ∨ w.order = .acqrel then [s.seq] else []) }
          far := s.far ++ [op]
          seq := s.seq + 1 }

/-- 08 R147: a word whose mask is empty and that is not mask-independent: a far load or an atomic raises its arrival counter by one; every other
word changes nothing, so that it writes no register, predicate or memory, records nothing and raises no trap. That a word with GLOB = 1 and a word of major 0x81 mark their
context as one that uses the fabric even so is the model's choice (log 33, DEDUCED: 21 R345 counts the words a context issues, and R147's list does not speak of it). -/
def Obligations.AnEmptyMaskLeavesTheArrivalCounterAndTheFabricMark : Prop :=
  (∀ p ∈ ([.ldf, .atomAdd, .atomMin, .atomMax, .atomAnd, .atomOr, .atomXor, .atomExch, .atomCas] : List (ME → Instr)),
    ∀ (w : ME) (s : State) (g : Group), s.group? = some g → illegalOf g.limits (p w) = none → g.active (hdOf (p w)) = 0 →
      exec (p w) s = .next ({ (if w.glob then markFabric s g.env.ctx else s) with
        groups := s.groups.set s.cur { g with ac := g.ac.set w.ac.toNat (g.ac.getD w.ac.toNat 0 + 1) } })) ∧
  (∀ (i : Instr) (s : State) (g : Group), i.isWord = true → s.group? = some g → illegalOf g.limits i = none → maskIndependent i = false →
    g.active (hdOf i) = 0 →
    (∀ w : ME, i ∉ [.ldf w, .atomAdd w, .atomMin w, .atomMax w, .atomAnd w, .atomOr w, .atomXor w, .atomExch w, .atomCas w]) →
    let marks : Prop := (∃ w : ME, w.glob = true ∧ i ∈ [.stf w, .vatomAdd w, .redAdd w, .redMin w, .redMax w]) ∨
      ∃ w : EN, i ∈ [.rput w, .rget w, .gath w, .publishShadow w, .pcarm w, .pcrd w, .pcadd w, .genst w, .genrd w, .fabst w]
    (marks → exec i s = .next (markFabric s g.env.ctx)) ∧ (¬ marks → exec i s = .next s))

/-- 10 R178, R179, R182, R183 and 12 R218, Tables 5 and 6: a wait, a fence or `publish` goes on when its condition holds as it issues, and blocks the group
otherwise; it changes no counter, tag, batch or register; a `wait.ac` that covers every load counted there ends their open lanes (02 R29).
`fence.acq` never blocks. A fence at GROUP or TILE, and an acquire fence, holds later far words.
10 R181: `acwr` sets its counter to A[15:0] and changes nothing else. -/
def Obligations.WaitsFencesAndArrivalCounters : Prop :=
  (
  ∀ (w : SY) (s : State) (g : Group),
    let thr := if w.a.kind = 1 then scalarVal s g w.a % 2 ^ 16 else w.imm.toNat % 2 ^ 16
    let past (x : Nat) : Prop := (x + 2 ^ 16 - thr) % 2 ^ 16 < 2 ^ 15
    let c := w.imm.toNat / 2 ^ 20
    let m := scalarVal s g w.a % 2 ^ g.env.tagSpan
    let ready (t : Nat) : Prop := (s.tags.getD (tileOf s.cur * 64 + g.env.tagBase + t) Tag.fresh).ready = true
    let mine := (s.far.filter (fun o => o.group == s.cur)).map FarOp.id
    let loads := (s.far.filter (fun o => o.group == s.cur && o.kind.returns)).map FarOp.id
    let own := farOwn s s.cur
    let narrow : Prop := w.scope.toNat ≤ 1
    let relH := g.holds ++ (if narrow then mine else [])
    let waits (i : Instr) (s1 : State) (g1 : Group) (cond : Prop) (x : Wait) : Prop :=
      (cond → exec i s = .next (timed i s g s1)) ∧
      (¬ cond → exec i s = .next (timed i s g { s1 with groups := s1.groups.set s.cur { g1 with wait := some x, waitNo := s.clock } }))
    let held (h : List Nat) : Group := { g with holds := h }
    let idle (ids : List Nat) : Prop := ∀ o ∈ s.far, o.id ∉ ids
    (Issues (.waitAc w) s g → past (g.ac.getD c 0).toNat → GroupBecomes (.waitAc w) s g (g.covered s s.cur c thr)) ∧
    (Issues (.waitAc w) s g → ¬ past (g.ac.getD c 0).toNat → GroupBecomes (.waitAc w) s g { g with wait := some (.ac c thr), waitNo := s.clock }) ∧
    (Issues (.waitAny w) s g → waits (.waitAny w) s g (m = 0 ∨ ∃ t, t < g.env.tagSpan ∧ bit m t = true ∧ ready t) (.tagAny m)) ∧
    (Issues (.waitAll w) s g → waits (.waitAll w) s g (∀ t, t < g.env.tagSpan → bit m t = true → ready t) (.tagAll m)) ∧
    (Issues (.waitBatch w) s g → g.merr = none → waits (.waitBatch w) s g (past g.bdone.toNat) (.batch thr)) ∧
    (∀ b d, Issues (.waitBatch w) s g → g.merr = some (b, d) → past g.bdone.toNat → (thr + 2 ^ 16 - b % 2 ^ 16) % 2 ^ 16 < 2 ^ 15 →
      exec (.waitBatch w) s = .next (takeTrap (timed (.waitBatch w) s g (s.put { g with merr := none })) { g with merr := none } tResidue d (lanesFor (.waitBatch w) g))) ∧
    (Issues (.waitSt w) s g → waits (.waitSt w) s g (g.stores = 0) .st) ∧
    (Issues (.fenceAcq w) s g → GroupBecomes (.fenceAcq w) s g (held (g.holds ++ loads))) ∧
    (Issues (.fenceRel w) s g → waits (.fenceRel w) (s.put (held relH)) (held relH)
      (idle (if narrow then own else mine)) (.fence (if narrow then own else mine))) ∧
    (Issues (.fenceAcqrel w) s g → waits (.fenceAcqrel w) (s.put (held (relH ++ loads))) (held (relH ++ loads))
      (idle (if narrow then own else mine)) (.fence (if narrow then own else mine))) ∧
    (Issues (.publish w) s g → idle mine →
      ∃ l, exec (.publish w) s = .next (timed (.publish w) s g { s with pubs := s.pubs ++ [⟨g.env.ctx, w.imm.toNat % 16, s.clock, some g.gid, none, g.look⟩], ll := l })) ∧
    (Issues (.publish w) s g → ¬ idle mine → exec (.publish w) s = .next (timed (.publish w) s g
      { s with groups := s.groups.set s.cur { g with wait := some (.publish (w.imm.toNat % 16) mine), waitNo := s.clock } }))) ∧
  (
  ∀ (w : SY) (s : State) (g : Group), Issues (.acwr w) s g →
    ∃ g', GroupBecomes (.acwr w) s g g' ∧ g' = { g with ac := g'.ac } ∧
      ∀ n, g'.ac.getD n 0 = if n = w.imm.toNat / 2 ^ 20 then BitVec.ofNat 16 (scalarVal s g w.a) else g.ac.getD n 0)

/-! ### STAT words (26 R387 kind 8) -/

/-- 10 R180, R181, 11 Table 3, R202, R205, 12 R220, Table 5, 14 R263, R265, Table 4, 15 Table 5, 19 R317, 22 Table 4: a word that reports a value which depends
on timing writes it, zero-extended, to its scalar destination and records one order-log event of kind 8 with the value; nothing else changes (the fabric's words
mark their context as using it). During a replay the logged value is written instead, once the state has come to it. -/
def Obligations.StatWordsReportWhatTheyName : Prop :=
  (∀ (w : SY) (s : State) (g : Group),
    let m := scalarVal s g w.a
    let has (t : Nat) : Prop := t < g.env.tagSpan ∧ bit m t = true ∧ (s.tags.getD (tileOf s.cur * 64 + g.env.tagBase + t) Tag.fresh).ready = true
    (Issues (.ffr w) s g → (∀ t, t < 64 → has t → (∀ u, u < t → ¬ has u) → Reports (.ffr w) s s g w.d t)) ∧
    (Issues (.ffr w) s g → (∀ t, t < 64 → ¬ has t) → Reports (.ffr w) s s g w.d 64) ∧
    (Issues (.acrd w) s g → Reports (.acrd w) s s g w.d (g.ac.getD (w.imm.toNat / 2 ^ 20) 0).toNat) ∧
    (Issues (.gracest w) s g → Reports (.gracest w) s s g w.d
      (b2n ((periods s g.env.ctx).any (fun c => outHolds s g.env.ctx c)) * 2 ^ 63
        + (s.groups.filter (fun x => x.2.env.ctx == g.env.ctx && (match x.2.wait with | some (.grace _ _ _) => true | _ => false))).length % 2 ^ 16 * 2 ^ 32
        + (s.castoffs.filter (fun e => e.who.ctx == g.env.ctx)).length % 2 ^ 13 * 2 ^ 16 + s.castoffs.length % 2 ^ 13)) ∧
    (Issues (.tinfo 4 w) s g → Reports (.tinfo 4 w) s s g w.d
      (match g.frame, g.budget with | some _, some e => e - s.clock | _, _ => 0))) ∧
  (∀ (w : EN) (s : State) (g : Group),
    let t := if g.env.tagSpan = 0 then 0 else w.tag.toNat % g.env.tagSpan
    let x := s.tags.getD (tileOf s.cur * 64 + g.env.tagBase + t) Tag.fresh
    let stuck : Bool := s.copies.any (fun c => c.block == g.env.block && c.tag == t && c.tix == tixOf s g && s.faults.any (fun f => f.reqs.contains c.id))
    let q := s.skein (tileOf s.cur * 32 + w.index.toNat + 16 * (w.param.toNat % 2))
    let a := scalarVal s g w.a
    let r := w.param.toNat % 32
    let k := w.index.toNat
    let used := markFabric s g.env.ctx
    (Issues (.tagst w) s g →
      Reports (.tagst w) s s g w.d (b2n stuck * 2 ^ 63 + b2n x.ready * 2 ^ 62 + x.count % 512 * 2 ^ 32 + x.bytes % 2 ^ 32)) ∧
    (Issues (.qstat w) s g →
      Reports (.qstat w) s s g w.d (q.allowance % 2 ^ 32 * 2 ^ 32 + q.live.countP (fun e => e.poppable) % 2 ^ 32)) ∧
    (Issues (.barrd w) s g → a < 0x7F0000 → a % 16 = 0 → Clean s (slicePlace (tileOf s.cur) a) 8 →
      Reports (.barrd w) s s g w.d (memVal s.mem (slicePlace (tileOf s.cur) a) 8)) ∧
    (Issues (.mmstat w) s g →
      Reports (.mmstat w) s s g w.d (b2n g.merr.isSome * 2 ^ 63 + g.nerr % 128 * 2 ^ 56 + s.mats.countP (fun c => c.gid == g.gid) % 256 * 2 ^ 40
        + g.bopen.toNat * 2 ^ 16 + g.bdone.toNat)) ∧
    (Issues (.gget w) s g → (g.gauge k).valid = true → w.param.toNat % 8 = 4 → Reports (.gget w) s s g w.d (g.gauge k).inuse) ∧
    (Issues (.pcrd w) s g → regionOf s r ≠ none → Reports (.pcrd w) s used g w.d (s.pcs.getD (r * 16 + k) 0).toNat) ∧
    (Issues (.genrd w) s g → regionOf s r ≠ none → Reports (.genrd w) s used g w.d (s.gens.getD r 0).toNat) ∧
    (Issues (.fabst w) s g → Reports (.fabst w) s used g w.d
      (s.pmap % 2 ^ 8 * 2 ^ 56 + s.dead % 2 ^ 4 * 2 ^ 52 + freeSlots s s.cur % 2 ^ 8 * 2 ^ 32 + min (s.retx.getD (tileOf s.cur) 0) 65535)) ∧
    (∀ p ∈ [Instr.pcrd, .genrd], Issues (p w) s g → regionOf s r = none →
      exec (p w) s = .next (takeTrap (timed (p w) s g used) g tAddr (addrDetail false 0 6 (r * 2 ^ 41)) (lanesFor (p w) g)))) ∧
  (∀ (w : IM) (s : State) (g : Group),
    let d := (settleTrace s (tileOf s.cur)).dbg (tileOf s.cur)
    Issues (.trcst w) s g → Reports (.trcst w) s s g w.d
      (min d.lost 65535 * 2 ^ 48 + min (heldEntries s (tileOf s.cur)) 255 * 2 ^ 40 + min d.stops.length 255 * 2 ^ 32 + d.fifo.length % 2 ^ 13 * 2 ^ 19
        + b2n (ringFull s (tileOf s.cur)) * 2 ^ 18))

/-! ### Copies: major 0x68 and COPY_SECTOR_COMPLETE -/

/-- 11 R186, R188 to R190, Tables 1 and 2: a copy word whose ranges pass their checks, with a free engine place, joins the copy engine with the operands of its
registers or of its descriptor, and takes its tag: the count rises, READY falls, and BYTES is cleared where the count was 0. A copy of no bytes completes at once. A
range that fails its checks raises ADDR, and so does a descriptor of `cpd` that is misaligned (reason 9) or beyond the near window (10). Nothing else changes.
11 R195: `tagclr` clears READY of each tag of its mask that counts nothing, and changes nothing else. -/
def Obligations.CopyWordsTakeTheirTagAndTagsClear : Prop :=
  (
  ∀ (w : EN) (s : State) (g : Group) (b : Block), s.blocks.get? g.env.block = some b → b.out = false →
    let tag := if g.env.tagSpan = 0 then 0 else w.tag.toNat % g.env.tagSpan
    let key := b.tiles.getD (tixOf s g) 0 * 64 + b.tagBases.getD (tixOf s g) 0 + tag
    let x := s.tags.getD key Tag.fresh
    let taken : Tag := { count := x.count + 1, ready := false, bytes := if x.count = 0 then 0 else x.bytes }
    let len := match w.b with | .imm n => n.toInt.toNat * 256 | _ => scalarVal s g w.b % 2 ^ 32
    let p := slicePlace (tileOf s.cur) (scalarVal s g w.a)
    let accepted (i : Instr) (kind : CopyKind) (c : CopyArgs) : Prop :=
      let fill : Bool := match kind with | .fill _ => true | _ => false
      (copyCheck fill c = none → enginePlaces s (tileOf s.cur) < Config.copyPlaces →
        (destBytes c.rowBytes c.rows c.dstride c.widen ≠ 0 →
          ∃ q : Copy, q.id = s.seq ∧ q.kind = kind ∧ q.src = c.src ∧ q.dst = c.dst ∧ q.rowBytes = c.rowBytes ∧ q.rows = c.rows ∧ q.sstride = c.sstride ∧
            q.dstride = c.dstride ∧ q.widen = c.widen ∧ q.bar = c.bar ∧ q.tag = tag ∧ q.tile = tileOf s.cur ∧ q.block = g.env.block ∧ q.done = [] ∧ q.bytes = 0 ∧
            q.who = whoOf s g (lanesFor i g) ∧
            exec i s = .next (timed i s g { s with tags := s.tags.set key taken, copies := s.copies ++ [q], seq := s.seq + 1 })) ∧
        (destBytes c.rowBytes c.rows c.dstride c.widen = 0 →
          exec i s = .next (timed i s g { s with tags := (s.tags.set key taken).set key { taken with count := x.count, ready := x.count = 0 } }))) ∧
      (∀ r a, copyCheck fill c = some (r, a) → exec i s = .next (takeTrap (timed i s g s) g tAddr (addrDetail false 0 r a) (lanesFor i g)))
    (Issues (.cp w) s g → accepted (.cp w) .copy ⟨scalarVal s g w.a, scalarVal s g w.d, len, 1, 0, 0, bit w.param.toNat 16, none⟩) ∧
    (Issues (.cpfill w) s g → accepted (.cpfill w) (.fill (BitVec.ofNat 64 (scalarVal s g w.a))) ⟨0, scalarVal s g w.d, len, 1, 0, 0, false, none⟩) ∧
    (Issues (.cpd w) s g → scalarVal s g w.a < 0x7F0000 → scalarVal s g w.a % 64 = 0 → Clean s p 64 →
      accepted (.cpd w) .copy ⟨memVal s.mem (p + 8) 8, memVal s.mem p 8, memVal s.mem (p + 16) 4, memVal s.mem (p + 20) 2, memVal s.mem (p + 24) 4,
        memVal s.mem (p + 28) 4, bit (memVal s.mem (p + 22) 1) 0, if bit (memVal s.mem (p + 22) 1) 1 then some (memVal s.mem (p + 32) 8) else none⟩) ∧
    (∀ r, Issues (.cpd w) s g → scalarVal s g w.a < 2 ^ 48 →
      ((scalarVal s g w.a % 64 ≠ 0 ∧ r = 9) ∨ (scalarVal s g w.a % 64 = 0 ∧ 0x7F0000 ≤ scalarVal s g w.a ∧ r = 10)) →
      exec (.cpd w) s = .next (takeTrap (timed (.cpd w) s g s) g tAddr (addrDetail false 0 r (scalarVal s g w.a)) (lanesFor (.cpd w) g)))) ∧
  (
  ∀ (w : EN) (s : State) (g : Group), Issues (.tagclr w) s g →
    ∃ t, exec (.tagclr w) s = .next (timed (.tagclr w) s g t) ∧ t = { s with tags := t.tags } ∧
      ∀ k, let x := s.tags.getD k Tag.fresh
        let base := tileOf s.cur * 64 + g.env.tagBase
        t.tags.getD k Tag.fresh =
          if base ≤ k ∧ k - base < g.env.tagSpan ∧ bit (scalarVal s g w.a) (k - base) = true ∧ x.count = 0 then { x with ready := false } else x)

/-- 11 R186, R190 to R192, R205: one sector of a copy or fill of any number of rows, with W or without, with a barrier or without, whose bytes need no walk, hold no
error, wait on no fault and find no request queued in their HBM4 pseudo-channels (28 R407). Each destination byte of the 256-byte block takes, of a row that writes it, its source byte (with W its byte of the .bf16 its source byte
widens to; of a fill its byte of the pattern); with a barrier its BYTES fall by the bytes of the sector and the phase settles; every other byte of memory stands; the
tag counts the bytes, and falls when they are the last. MODEL: the source bytes are those that stand in the step of the sector's completion (log 29), and where
rows overlap a free value chooses the row (log 5). -/
def Obligations.ACopySectorMovesItsBytes : Prop :=
  ∀ (s : State) (c : Copy) (b : Block) (pd : Nat) (ps : Nat → Nat → Nat), Memory.wf s.mem = true → s.flaws = [] → s.hostAts = [] → bit (s.reg llWin).toNat 63 = false →
    s.copies.find? (fun x => x.id == s.inp.a) = some c → (c.kind = .copy ∨ ∃ pat, c.kind = .fill pat) →
    s.blocks.get? c.block = some b → b.out = false → s.inp.c ≠ 1 → (∀ f ∈ s.faults, c.id ∉ f.reqs) → (∀ o ∈ s.far, o.id ∉ c.holds) → s.inp.b ∉ c.done →
    let len := if c.widen then 2 * c.rowBytes else c.rowBytes
    let at_ (r d : Nat) : Nat := d - (c.dst + r * c.dstride)
    let writes (r d : Nat) : Bool := decide (r < c.rows) && decide (c.dst + r * c.dstride ≤ d) && decide (at_ r d < len)
    let mine (d : Nat) : Prop := d / 256 = s.inp.b ∧ ∃ r, writes r d = true
    let n := (List.range 256).countP (fun i => (List.range c.rows).any (fun r => writes r (256 * s.inp.b + i)))
    let key := b.tiles.getD c.tix 0 * 64 + b.tagBases.getD c.tix 0 + c.tag
    let x := s.tags.getD key Tag.fresh
    let added := { x with bytes := (x.bytes + n) % 2 ^ 32 }
    let all := destBytes c.rowBytes c.rows c.dstride c.widen
    let wide (y : Byte) : Nat := (roundVal bf16 .rne (fromBits f8e4 y.toNat)).1
    let quiet (p : Nat) : Prop := isHbm p = true → ∀ x ∈ s.hqueue, pseudoChannel x.1 ≠ pseudoChannel (p - 2 ^ 48)
    n ≠ 0 → (∀ d, mine d → placeOf s c.tile c.who.ctx d 1 = some (pd + d % 256) ∧ quiet (pd + d % 256)) →
    (c.kind = .copy → ∀ r d, d / 256 = s.inp.b → writes r d = true →
      placeOf s c.tile c.who.ctx (c.src + r * c.sstride + (if c.widen then at_ r d / 2 else at_ r d)) 0 = some (ps r d) ∧ quiet (ps r d)) →
    ∃ (t : State) (m : List Host.Cell), exec .copySectorComplete s = .next t ∧
      t = { s with mem := t.mem, tags := t.tags, copies := t.copies, veils := t.veils, ll := t.ll, rows := t.rows, freeCtr := s.freeCtr + 256 } ∧ t.ll = { s.ll with seen := t.ll.seen } ∧
      (∀ d, mine d → ∃ r, writes r d = true ∧
        (c.kind = .copy → c.widen = false → memGet m (pd + d % 256) = memGet s.mem (ps r d)) ∧
        (c.kind = .copy → c.widen = true → memGet m (pd + d % 256) = BitVec.ofNat 8 (wide (memGet s.mem (ps r d)) / 256 ^ (at_ r d % 2))) ∧
        ∀ pat, c.kind = .fill pat → c.widen = false → memGet m (pd + d % 256) = pat.extractLsb' (8 * (d % 8)) 8) ∧
      (∀ a, (∀ d, mine d → a ≠ pd + d % 256) → memGet m a = memGet s.mem a) ∧
      (c.bar = none → t.mem = m) ∧
      (∀ a, c.bar = some a →
        let p := slicePlace (b.tiles.getD c.tix 0) a
        let left := (memVal m (p + 8) 4 + 2 ^ 32 - n) % 2 ^ 32
        let flips : Bool := memVal m (p + 2) 2 == 0 && left == 0
        (∀ y, y < p ∨ p + 16 ≤ y → memGet t.mem y = memGet m y) ∧ memVal t.mem p 2 = memVal m p 2 ∧ memVal t.mem (p + 4) 2 = memVal m (p + 4) 2 ∧
        memVal t.mem (p + 8) 4 = left ∧ memVal t.mem (p + 12) 4 = memVal m (p + 12) 4 ∧
        memVal t.mem (p + 2) 2 = (if flips then memVal m (p + 4) 2 else memVal m (p + 2) 2) ∧
        (∀ i, i < 63 → 48 ≤ i → bit (memVal t.mem p 8) i = bit (memVal m p 8) i) ∧ bit (memVal t.mem p 8) 63 = (bit (memVal m p 8) 63 != flips)) ∧
      (c.bytes + n < all → t.tags = s.tags.set key added ∧
        t.copies = s.copies.map (fun y => if y.id = c.id then { c with done := s.inp.b :: c.done, bytes := c.bytes + n } else y)) ∧
      (all ≤ c.bytes + n → t.tags = (s.tags.set key added).set key { added with count := x.count - 1, ready := decide (x.count ≤ 1) } ∧
        t.copies = s.copies.filter (fun y => y.id != c.id))

/-! ### Skeins and barriers: major 0x70 -/

/-- 11 R199, R201, R202: `qpush` reserves the next entry of its skein and writes it, where the allowance is not 0 and no push waits, and goes on once its
release condition holds; the whole vector register is written, active lanes or not, or the scalar as it stood at issue. Without allowance it blocks with no entry. `qbase` reads the ring's base.
11 R200, R201: a `qpop` whose skein's oldest entry can be popped, with no pop waiting, takes it: its bytes are read at once, the take is logged, the entry
leaves and an allowance rise falls due; the group goes on in the next clock. QPOP_DATA delivers them to the active lanes below b / 4 of a vector D, or as 8 bytes to
a scalar. Without an entry `qpop` blocks. -/
def Obligations.QpushWritesAnEntryAndQpopTakesTheOldest : Prop :=
  (
  ∀ (w : EN) (s : State) (g : Group), Memory.wf s.mem = true →
    let k := tileOf s.cur * 32 + w.index.toNat + 16 * (w.param.toNat % 2)
    let q := s.skein k
    let ids := relIds s w.scope.toNat
    let p := slicePlace (tileOf s.cur) (q.base + q.reserved % q.entries * q.bytes)
    let v := BitVec.ofNat 64 (scalarVal s g w.a)
    let q' := { q with allowance := q.allowance - 1, reserved := q.reserved + 1, live := q.live ++ [⟨q.reserved, ids, false⟩] }
    (Issues (.qpush w) s g → q.allowance ≠ 0 → pushWaiters s k = [] → q.bytes % 8 = 0 →
      ∃ m fl, (∀ f ∈ fl, f ∈ s.flaws) ∧ (∀ a, a < p ∨ p + q.bytes ≤ a → memGet m a = memGet s.mem a) ∧
        (w.a.kind = 0 → ∀ l, 4 * l < q.bytes → memVal m (p + 4 * l) 4 = (g.vreg w.a.idx l).toNat) ∧
        (w.a.kind ≠ 0 → memVal m p q.bytes = v.toNat % 256 ^ q.bytes) ∧
        ((∀ o ∈ s.far, o.id ∉ ids) → exec (.qpush w) s = .next (timed (.qpush w) s g { s with mem := m, flaws := fl, skeins := s.skeins.set k q' })) ∧
        ((∃ o ∈ s.far, o.id ∈ ids) → ∃ t, exec (.qpush w) s = .next (timed (.qpush w) s g t) ∧ t.skeins = s.skeins.set k q' ∧ t.mem = m ∧
          t.groups = s.groups.set s.cur { g with wait := some (.qpush k w.a v (some q.reserved) ids), waitNo := s.clock })) ∧
    (Issues (.qpush w) s g → q.allowance = 0 →
      exec (.qpush w) s = .next (timed (.qpush w) s g (s.block g (.qpush k w.a v none ids)))) ∧
    (Issues (.qbase w) s g → WritesScalar (.qbase w) s g w.d q.base 0)) ∧
  (
  (∀ (w : EN) (s : State) (g : Group),
    let k := tileOf s.cur * 32 + w.index.toNat + 16 * (w.param.toNat % 2)
    let q := s.skein k
    let m := lanesFor (.qpop w) g
    let blocked := s.block g (.qpop k w.d m)
    (∀ e r, Issues (.qpop w) s g → q.live = e :: r → e.poppable = true → popWaiters s k = [] → gate s (whoOf s g m) 3 k = .free →
      let p := slicePlace (tileOf s.cur) (q.base + e.j % q.entries * q.bytes)
      Clean s p q.bytes →
      exec (.qpop w) s = .next (timed (.qpop w) s g { (logEvent s (whoOf s g m) 3 k e.j) with
        skeins := s.skeins.set k { q with taken := q.taken + 1, live := r, rises := q.rises + 1 }
        groups := s.groups.set s.cur
          { (g.released s.clock) with pops := g.pops ++ [⟨w.d, m, memBytes s.mem p q.bytes⟩] } })) ∧
    (Issues (.qpop w) s g → (∀ e ∈ q.live.head?, e.poppable = false) → exec (.qpop w) s = .next (timed (.qpop w) s g blocked))) ∧
  (∀ (s : State) (g : Group) (d : Opnd) (m : Mask) (bs : List Byte) (r : List Pop), s.groups.get? s.inp.a = some g → g.pops = ⟨d, m, bs⟩ :: r →
    ∃ g', exec .qpopData s = .next { s with groups := s.groups.set s.inp.a { g' with pops := r } } ∧
      (d.kind = 0 → VectorWritten g g' .n32 d (m &&& maskOf (fun l => decide (l < bs.length / 4))) (fun l => leVal ((bs.drop (4 * l)).take 4))) ∧
      (d.kind = 1 → ScalarWritten g g' d (leVal (bs.take 8)))))

/-- 11 R199 to R201: the steps of a skein: the push that blocked earliest reserves and writes its entry, j, to ring slot j mod e: the lanes of the vector register it names as they stand, or the
scalar as it stood at issue and zeros (01 R6), and no other byte and no other skein changes; the first entry that cannot be popped becomes poppable once its release
condition holds; the pop that blocked earliest takes the oldest entry; a taken entry's allowance comes back. -/
def Obligations.SkeinStepsFollowTheOrderOfBlocking : Prop :=
  (∀ (s : State) (key : Nat) (g : Group) (k : Nat) (a : Opnd) (v : W64) (ids : List Nat), earliest (pushWaiters s s.inp.a) = some key → s.groups.get? key = some g →
    g.wait = some (.qpush k a v none ids) →
    ((s.skein k).allowance = 0 → exec .skeinReserve s = .next s) ∧
    ((s.skein k).allowance ≠ 0 → ∃ t, exec .skeinReserve s = .next t ∧
      t = { s with
        mem := t.mem
        flaws := t.flaws
        skeins := s.skeins.set k { s.skein k with
          allowance := (s.skein k).allowance - 1
          reserved := (s.skein k).reserved + 1
          live := (s.skein k).live ++ [⟨(s.skein k).reserved, ids, false⟩] }
        groups := s.groups.set key { g with wait := some (.qpush k a v (some (s.skein k).reserved) ids) } } ∧
      (Memory.wf s.mem = true →
        let q := s.skein k
        let p := slicePlace (k / 32) (q.base + q.reserved % q.entries * q.bytes)
        (∀ c, c < p ∨ p + q.bytes ≤ c → memGet t.mem c = memGet s.mem c) ∧
        (∀ r, a = .v r → ∀ l, 4 * l + 4 ≤ q.bytes → memVal t.mem (p + 4 * l) 4 = (g.vreg r.toNat l).toNat) ∧
        ((∀ r, a ≠ .v r) → memVal t.mem p q.bytes = v.toNat % 256 ^ q.bytes) ∧
        (q.bytes % 8 = 0 → ∀ f, f ∈ t.flaws ↔ f ∈ s.flaws ∧ ¬ (f.inRange p q.bytes = true ∧ p ≤ f.place ∧ f.place + granuleSize f.place ≤ p + q.bytes))))) ∧
  (∀ (s : State) (q : Skein) (pre r : List SkEntry) (e : SkEntry), s.skeins.get? s.inp.a = some q → q.live = pre ++ e :: r →
    (∀ x ∈ pre, x.poppable = true) → e.poppable = false →
    ((∀ o ∈ s.far, o.id ∉ e.ids) →
      exec .entryPoppable s = .next { s with skeins := s.skeins.set s.inp.a { q with live := pre ++ { e with poppable := true } :: r } }) ∧
    ((∃ o ∈ s.far, o.id ∈ e.ids) → exec .entryPoppable s = .next { s with skeins := s.skeins.set s.inp.a q })) ∧
  (∀ (s : State) (key : Nat) (g : Group) (d : Opnd) (m : Mask) (e : SkEntry) (r : List SkEntry), earliest (popWaiters s s.inp.a) = some key →
    s.groups.get? key = some g → g.wait = some (.qpop s.inp.a d m) → (s.skein s.inp.a).live = e :: r → e.poppable = true →
    let q := s.skein s.inp.a
    let p := slicePlace (s.inp.a / 32) (q.base + e.j % q.entries * q.bytes)
    gate s (whoWait key g m) 3 s.inp.a = .free → Clean s p q.bytes →
    exec .skeinTake s = .next { (logEvent s (whoWait key g m) 3 s.inp.a e.j) with
      skeins := s.skeins.set s.inp.a { q with taken := q.taken + 1, live := r, rises := q.rises + 1 }
      groups := s.groups.set key { (g.released s.clock) with pops := g.pops ++ [⟨d, m, memBytes s.mem p q.bytes⟩] } }) ∧
  (∀ (s : State) (q : Skein), s.skeins.get? s.inp.a = some q → q.rises ≠ 0 →
    exec .allowanceRise s = .next { s with skeins := s.skeins.set s.inp.a { q with allowance := q.allowance + 1, rises := q.rises - 1 } })

/-- 11 R204, R205: a barrier form whose address is misaligned raises ADDR with reason 9, and one beyond the near window with reason 10. `barinit` makes a barrier of 16 bytes with EXPECT and PENDING n, and PHASE, OVER, BYTES and every reserved field 0. An arrival announces n bytes and
lowers PENDING; the last one, with no byte outstanding, flips PHASE and reloads PENDING; one that finds PENDING at 0 is discarded and sets OVER, and flips the phase too
where no byte is outstanding (EXPECT 0). `barw` blocks while PHASE equals B[0]. BARA_ARRIVAL performs the arrival of a blocked `bara`.
11 R206, R207: the lanes that execute `barb` arrive on their barrier once the release condition holds, and are recorded to park; BLOCK_BARRIER_COMPLETE, when
every lane of the block has arrived or exited, clears the barrier's arrivals, and the lanes parked on it, and only those, go on to an entry at o + 1 (02 R24): at once between two
offsets of their group, when its offset completes otherwise; with every register as it was. No byte changes outside the spill areas of the block's groups (02 R26), and none where
nothing spills or returns. (A spill in a handler, which ends the context under 19 R311, is left out.) -/
def Obligations.BarriersCountFlipAndReleaseEveryLane : Prop :=
  (
  ∀ (s : State), Memory.wf s.mem = true →
    let pend (m : List Host.Cell) (p : Nat) : Nat := memVal m (p + 2) 2
    let expct (m : List Host.Cell) (p : Nat) : Nat := memVal m (p + 4) 2
    let bytes (m : List Host.Cell) (p : Nat) : Nat := memVal m (p + 8) 4
    let phase (m : List Host.Cell) (p : Nat) : Bool := bit (memVal m p 8) 63
    let ovr (m : List Host.Cell) (p : Nat) : Bool := bit (memVal m p 8) 62
    let reserved (m : List Host.Cell) (p : Nat) : Nat × Nat × Nat := (memVal m p 2, memVal m p 8 / 2 ^ 48 % 2 ^ 14, memVal m (p + 12) 4)
    let only (s t : State) : Prop := OnlyMemory { s with ll := t.ll } t ∧ t.ll = { s.ll with seen := t.ll.seen }
    let arrived (m m' : List Host.Cell) (p n : Nat) : Prop :=
      (∀ a, a < p ∨ p + 16 ≤ a → memGet m' a = memGet m a) ∧ expct m' p = expct m p ∧ reserved m' p = reserved m p ∧
      (ovr m' p = true ↔ ovr m p = true ∨ pend m p = 0) ∧
      (1 < pend m p → pend m' p = pend m p - 1 ∧ bytes m' p = (bytes m p + n) % 2 ^ 32 ∧ phase m' p = phase m p) ∧
      (pend m p = 1 → (bytes m p + n) % 2 ^ 32 ≠ 0 → pend m' p = 0 ∧ bytes m' p = (bytes m p + n) % 2 ^ 32 ∧ phase m' p = phase m p) ∧
      (pend m p = 1 → (bytes m p + n) % 2 ^ 32 = 0 → pend m' p = expct m p ∧ bytes m' p = 0 ∧ phase m' p = !phase m p) ∧
      (pend m p = 0 → bytes m p ≠ 0 → pend m' p = 0 ∧ bytes m' p = bytes m p ∧ phase m' p = phase m p) ∧
      (pend m p = 0 → bytes m p = 0 → pend m' p = expct m p ∧ bytes m' p = 0 ∧ phase m' p = !phase m p)
    (∀ p ∈ ([.barinit, .bara, .barw, .barrd] : List (EN → Instr)), ∀ (w : EN) (g : Group) (r : Nat), Issues (p w) s g →
      let a := scalarVal s g w.a
      a < 2 ^ 48 → ((a % 16 ≠ 0 ∧ r = 9) ∨ (a % 16 = 0 ∧ 0x7F0000 ≤ a ∧ r = 10)) →
      exec (p w) s = .next (takeTrap (timed (p w) s g s) g tAddr (addrDetail false 0 r a) (lanesFor (p w) g))) ∧
    (∀ (w : EN) (g : Group),
      let a := scalarVal s g w.a
      let p := slicePlace (tileOf s.cur) a
      let n := scalarVal s g w.b
      let ids := relIds s w.scope.toNat
      a < 0x7F0000 → a % 16 = 0 →
      (Issues (.barinit w) s g → ∃ t, exec (.barinit w) s = .next (timed (.barinit w) s g t) ∧ only s t ∧
        (∀ c, c < p ∨ p + 16 ≤ c → memGet t.mem c = memGet s.mem c) ∧ pend t.mem p = n % 2 ^ 16 ∧ expct t.mem p = n % 2 ^ 16 ∧ bytes t.mem p = 0 ∧
        phase t.mem p = false ∧ ovr t.mem p = false ∧ reserved t.mem p = (0, 0, 0)) ∧
      (Issues (.bara w) s g → (∀ o ∈ s.far, o.id ∉ ids) → Clean s p 16 →
        ∃ t, exec (.bara w) s = .next (timed (.bara w) s g t) ∧ only s t ∧ arrived s.mem t.mem p (n % 2 ^ 32)) ∧
      (Issues (.bara w) s g → (∃ o ∈ s.far, o.id ∈ ids) →
        exec (.bara w) s = .next (timed (.bara w) s g (s.block g (.bara p (n % 2 ^ 32) ids)))) ∧
      (Issues (.barw w) s g → Clean s p 8 → phase s.mem p ≠ bit n 0 → exec (.barw w) s = .next (timed (.barw w) s g s)) ∧
      (Issues (.barw w) s g → Clean s p 8 → phase s.mem p = bit n 0 → exec (.barw w) s = .next (timed (.barw w) s g (s.block g (.barw p (bit n 0)))))) ∧
    (∀ (g : Group) (p n : Nat) (ids : List Nat), s.groups.get? s.inp.a = some g → g.wait = some (.bara p n ids) → (∀ o ∈ s.far, o.id ∉ ids) → Clean s p 16 →
      ∃ t, exec .baraArrival s = .next { t with groups := s.groups.set s.inp.a (g.released s.clock) } ∧
        only s t ∧ arrived s.mem t.mem p n)) ∧
  (
  (∀ (w : EN) (s : State) (g : Group) (b : Block),
    let k := w.index.toNat
    let m := lanesFor (.barb w) g
    let ids := relIds s w.scope.toNat
    let n := k * 64 + g.env.index
    Issues (.barb w) s g → s.blocks.get? g.env.block = some b →
    ∃ g', g' = { g with rcd := { g.rcd with parks := g'.rcd.parks } } ∧
      (∀ l, g'.rcd.parks.get? l = if lane m l then some k else g.rcd.parks.get? l) ∧
      ((∀ o ∈ s.far, o.id ∉ ids) → exec (.barb w) s = .next (timed (.barb w) s g { s.put g' with
        blocks := s.blocks.set g.env.block { b with arrived := b.arrived.set n (b.arrived.getD n 0 ||| m) } })) ∧
      ((∃ o ∈ s.far, o.id ∈ ids) → exec (.barb w) s = .next (timed (.barb w) s g ((s.put g').block g' (.barb k m ids))))) ∧
  (∀ (s : State) (b : Block), Memory.wf s.mem = true → s.blocks.get? s.inp.a = some b → b.out = false → b.saved = [] → s.flaws = [] →
    (∀ key g, s.groups.get? key = some g → (g.depart s.clock s.inp.b).frame ≠ none → ∀ e ∈ (g.depart s.clock s.inp.b).paths, e.idx < 16) →
    (barrierDone s b s.inp.b = false → exec .blockBarrierComplete s = .next s) ∧
    (barrierDone s b s.inp.b = true → ∃ t b', exec .blockBarrierComplete s = .next t ∧
      t = { s with blocks := s.blocks.set s.inp.a b', groups := t.groups, mem := t.mem } ∧ b' = { b with arrived := b'.arrived } ∧
      b'.arrived = b.arrived.filter (fun x => x.1 / 64 != s.inp.b) ∧
      (∀ key g, s.groups.get? key = some g → ∃ g', t.groups.get? key = some g' ∧
        g' = { g with paths := g'.paths, stamp := g'.stamp, parked := g'.parked, late := g'.late, frame := g'.frame, ready := g'.ready, busy := g'.busy, look := g'.look } ∧
        (g.env.block ≠ s.inp.a → g' = g) ∧ (g.env.block = s.inp.a → g' = g.depart s.clock s.inp.b) ∧
        (g.env.block = s.inp.a → g.todo = none → (∀ x ∈ g'.parked, x.2 = s.inp.b → 64 ≤ x.1) ∧
          ∀ l o, l < 64 → ((∃ e' ∈ g'.paths, e'.ofs = o ∧ lane e'.lanes l = true) ↔
            ∃ e ∈ g.paths, lane e.lanes l = true ∧ o = if lane (parkedOn g.parked s.inp.b) l then (e.ofs + 1) % g.env.stride else e.ofs)) ∧
        (g.env.block = s.inp.a → g.todo ≠ none → g'.paths = g.paths ∧ g'.late = g.late ++ [.depart s.inp.b (parkedOn g.parked s.inp.b)])) ∧
      (∀ c, (∀ key g, s.groups.get? key = some g → g.env.block = s.inp.a → c < spillPlace key ∨ spillPlace key + 1024 ≤ c) → memGet t.mem c = memGet s.mem c) ∧
      ((∀ key g, s.groups.get? key = some g → g.env.block = s.inp.a → (g.depart s.clock s.inp.b).spilled = g.spilled) → t.mem = s.mem))))

/-! ### The matrix unit: major 0x78 and its steps -/

/-- 12 R213, R214, R220, Table 2: `gset` fills a gauge record from the 64 bytes of its descriptor and keeps INUSE; `gmod` replaces or raises one field of a valid
record, `ginv` clears VALID, `gget` reads a field; on an invalid record `gmod` and `gget` raise MATRIX. A descriptor of `gset` that is misaligned raises ADDR with reason 9,
one beyond the near window with reason 10.
12 R224: `mmrd` reads and `mmwr` writes, for each active lane, the lane's 4 bytes of a part of the group's accumulator tile: a part is 256 bytes, 4 for each lane; a row of 128
elements of 4 bytes has two parts, one of 2 bytes each is one part. That each lane takes the part number in its own B, where R224 speaks of one number sB[7:0], is the model's
choice (log 28, DESIGN CHOICE); a scalar B gives all lanes one. -/
def Obligations.GaugeRecordsAndAccumulatorParts : Prop :=
  (
  ∀ (w : EN) (s : State) (g : Group),
    let k := w.index.toNat
    let p := slicePlace (tileOf s.cur) (scalarVal s g w.a)
    let x := scalarVal s g w.a
    let mv (o n : Nat) : Nat := memVal s.mem (p + o) n
    let r := g.gauge k
    let f := w.param.toNat % 8
    let up := bit w.param.toNat 3
    let change (q : Gauge → Gauge) : Group := { g with gauges := g.gauges.set k (q r) }
    (Issues (.gset w) s g → x < 0x7F0000 → x % 64 = 0 → Clean s p 64 →
      ∃ e : Int, -2 ^ 15 ≤ e ∧ e < 2 ^ 15 ∧ (2 ^ 16 : Int) ∣ (e - (mv 30 2 : Int)) ∧
        GroupBecomes (.gset w) s g (change (fun _ =>
          { valid := true, inuse := r.inuse, abase := BitVec.ofNat 64 (mv 0 8), bbase := BitVec.ofNat 64 (mv 8 8), astride := mv 16 4, bstride := mv 20 4,
            cstride := mv 24 4, steps := mv 28 2, cexp := e, m := mv 32 1 % 128 + 1, n := mv 33 1 % 128 + 1, bord := mv 33 1 / 128 }))) ∧
    (∀ n, Issues (.gset w) s g → x < 2 ^ 48 → ((x % 64 ≠ 0 ∧ n = 9) ∨ (x % 64 = 0 ∧ 0x7F0000 ≤ x ∧ n = 10)) →
      exec (.gset w) s = .next (takeTrap (timed (.gset w) s g s) g tAddr (addrDetail false 0 n x) (lanesFor (.gset w) g))) ∧
    (Issues (.gmod w) s g → r.valid = true →
      (f = 0 → GroupBecomes (.gmod w) s g (change (fun r => { r with abase := (if up then r.abase else 0) + BitVec.ofNat 64 x }))) ∧
      (f = 1 → GroupBecomes (.gmod w) s g (change (fun r => { r with bbase := (if up then r.bbase else 0) + BitVec.ofNat 64 x }))) ∧
      (f = 2 → GroupBecomes (.gmod w) s g (change (fun r => { r with steps := ((if up then r.steps else 0) + x) % 2 ^ 16 }))) ∧
      (f = 3 → ∃ e : Int, -2 ^ 15 ≤ e ∧ e < 2 ^ 15 ∧ (2 ^ 16 : Int) ∣ (e - ((if up then r.cexp else 0) + (x : Int))) ∧
        GroupBecomes (.gmod w) s g (change (fun r => { r with cexp := e })))) ∧
    (Issues (.ginv w) s g → GroupBecomes (.ginv w) s g (change (fun r => { r with valid := false }))) ∧
    (Issues (.gget w) s g → r.valid = true → f < 4 →
      WritesScalar (.gget w) s g w.d ([r.abase.toNat, r.bbase.toNat, r.steps, wrapN 64 r.cexp].getD f 0) 0) ∧
    (∀ p ∈ [Instr.gmod, .gget], Issues (p w) s g → r.valid = false →
      exec (p w) s = .next (takeTrap (timed (p w) s g s) g tMatrix (matrixDetail g k) (lanesFor (p w) g)))) ∧
  (
  ∀ (w : EN) (s : State) (g : Group),
    let z := if w.ty.fullAcc then 4 else 2
    let rb := 128 * z
    let q (l : Nat) : Nat := laneVal s g .n32 w.b l % 256
    let p (l : Nat) : Nat := accPlace (tileOf s.cur) ((g.env.accBase + w.param.toNat / 2 ^ 9 % 16) * 32768 +
      (q l / (rb / 256) % 128 * rb + q l % (rb / 256) * 256 + 4 * l))
    (Issues (.mmrd w) s g → (∀ l, l < 64 → lane (lanesFor (.mmrd w) g) l = true → Clean s (p l) 4) →
      WritesVector (.mmrd w) s g .n32 w.d (fun l => memVal s.mem (p l) 4) 0) ∧
    (Issues (.mmwr w) s g → Memory.wf s.mem = true →
      ∃ t, exec (.mmwr w) s = .next (timed (.mmwr w) s g t) ∧ OnlyMemory s t ∧
        (∀ a, (∀ l, l < 64 → lane (lanesFor (.mmwr w) g) l = true → a < p l ∨ p l + 4 ≤ a) → memGet t.mem a = memGet s.mem a) ∧
        (∀ l, l < 64 → lane (lanesFor (.mmwr w) g) l = true → memVal t.mem (p l) 4 = laneVal s g .n32 w.a l % 2 ^ 32)))

/-- 12 R214 to R216, R218, R219, R221, R223: an `mma` or `mmconv` on a valid record whose operands pass their checks, with room in the tile's queue and no throttle,
is queued with the record's values as they stand, in the group's open batch; INUSE rises and the acceptance is logged. On an invalid record the word raises MATRIX.
Without room the word does not issue, whatever its record. Operands that fail raise ADDR with LANE 0 (09 R157), A before B: a base of 48 bits or more (reason 3), a base that is
misaligned or, with both bases aligned, a stride of its that is (9, naming the base), the first byte of a row that is no far address otherwise. `mmfence` delivers OPEN and opens the next batch. -/
def Obligations.MatrixWordsQueueCommands : Prop :=
  (∀ (w : EN) (s : State) (g : Group),
    let k := w.index.toNat
    let p := w.param.toNat
    let r := g.gauge k
    let steps := if p % 128 = 0 then r.steps else p % 128
    let depth := if w.ty = .f8e4 then 64 else 32
    let z := bytesOf w.ty
    let acc : Ty := [.f32, .bf16, .f16, .rn24].getD (p / 128 % 4) .f32
    let stage := (2 * (r.m + r.n) * depth * z + 1023) / 1024 * 1024
    let used : Group := { g with gauges := g.gauges.set k { r with inuse := r.inuse + 1 } }
    Issues (.mma w) s g → throttle s (tileOf s.cur) = 0 →
      (queueRoom s (tileOf s.cur) stage = true → r.valid = false →
        exec (.mma w) s = .next (takeTrap (timed (.mma w) s g s) g tMatrix (matrixDetail g k) (lanesFor (.mma w) g))) ∧
      (queueRoom s (tileOf s.cur) stage = true → r.valid = true → ∀ n a, mmaCheck r steps z depth = some (n, a) →
        exec (.mma w) s = .next (takeTrap (timed (.mma w) s g s) g tAddr (addrDetail false 0 n a) (lanesFor (.mma w) g))) ∧
      (let a := r.abase.toNat
       let b := r.bbase.toNat
       let inA := rowsReason a r.astride (steps * depth * z) (if steps = 0 then 0 else r.m)
       let inB := if r.bord = 0 then rowsReason b r.bstride (r.n * z) (steps * depth) else rowsReason b r.bstride (steps * depth * z) (if steps = 0 then 0 else r.n)
       let check := mmaCheck r steps z depth
       (2 ^ 48 ≤ a → check = some (3, a)) ∧ (a < 2 ^ 48 → a % 16 ≠ 0 → check = some (9, a)) ∧
       (a < 2 ^ 48 → a % 16 = 0 → b % 16 = 0 → r.astride % 16 ≠ 0 → check = some (9, a)) ∧
       (a < 2 ^ 48 → a % 16 = 0 → r.astride % 16 = 0 → (∀ x, inA = some x → check = some x) ∧
         (inA = none → (2 ^ 48 ≤ b → check = some (3, b)) ∧ (b < 2 ^ 48 → (b % 16 ≠ 0 ∨ r.bstride % 16 ≠ 0) → check = some (9, b)) ∧
           (b < 2 ^ 48 → b % 16 = 0 → r.bstride % 16 = 0 → check = inB)))) ∧
      (queueRoom s (tileOf s.cur) stage = true → r.valid = true → mmaCheck r steps z depth = none → ∃ c : MatCmd,
        c.id = s.seq ∧ c.gid = g.gid ∧ c.who = whoOf s g (lanesFor (.mma w) g) ∧ c.tile = tileOf s.cur ∧ c.block = g.env.block ∧ c.batch = g.bopen ∧ c.conv = false ∧ c.rcd = k ∧
        c.half = g.env.accBase + p / 2 ^ 9 % 16 ∧ c.full = acc.fullAcc ∧ c.m = r.m ∧ c.n = r.n ∧ c.steps = steps ∧ c.abase = r.abase.toNat ∧ c.bbase = r.bbase.toNat ∧
        c.astride = r.astride ∧ c.bstride = r.bstride ∧ c.bord = r.bord ∧ c.ty = w.ty ∧ c.acc = acc ∧ c.rm = RM.ofCode (p / 2 ^ 13 % 8) ∧ c.zero = bit p 16 ∧ c.stage = stage ∧
        c.started = false ∧ c.step = 0 ∧ c.row = 0 ∧ c.bbuf = [] ∧ c.faulted = false ∧
        exec (.mma w) s = .next (timed (.mma w) s g { (logEvent s (whoOf s g (lanesFor (.mma w) g)) 4 (tileOf s.cur) 0) with
          groups := s.groups.set s.cur used, mats := s.mats ++ [c], seq := s.seq + 1 })) ∧
      (queueRoom s (tileOf s.cur) stage = false → exec (.mma w) s = .next (s.put g.retry))) ∧
  (∀ (w : CV) (s : State) (g : Group),
    let b := w.b.idx
    let k := b / 16 % 16
    let r := g.gauge k
    let dst := scalarVal s g w.a
    let used : Group := { g with gauges := g.gauges.set k { r with inuse := r.inuse + 1 } }
    (Issues (.mmconv w) s g → queueRoom s (tileOf s.cur) 0 = false → exec (.mmconv w) s = .next (s.put g.retry)) ∧
    (Issues (.mmconv w) s g → throttle s (tileOf s.cur) = 0 → queueRoom s (tileOf s.cur) 0 = true → r.valid = false → exec (.mmconv w) s = .next (takeTrap (timed (.mmconv w) s g s) g tMatrix (matrixDetail g k) (lanesFor (.mmconv w) g))) ∧
    (∀ n a, Issues (.mmconv w) s g → throttle s (tileOf s.cur) = 0 → queueRoom s (tileOf s.cur) 0 = true → r.valid = true →
      rangeCheck dst (dst % 16 == 0 && r.cstride % 16 != 0) r.m r.cstride (r.n * bytesOf w.dty) = some (n, a) →
      exec (.mmconv w) s = .next (takeTrap (timed (.mmconv w) s g s) g tAddr (addrDetail false 0 n a) (lanesFor (.mmconv w) g))) ∧
    (Issues (.mmconv w) s g → r.valid = true → rangeCheck dst (dst % 16 == 0 && r.cstride % 16 != 0) r.m r.cstride (r.n * bytesOf w.dty) = none →
      throttle s (tileOf s.cur) = 0 → queueRoom s (tileOf s.cur) 0 = true → ∃ c : MatCmd,
        c.id = s.seq ∧ c.gid = g.gid ∧ c.tile = tileOf s.cur ∧ c.batch = g.bopen ∧ c.conv = true ∧ c.rcd = k ∧ c.half = g.env.accBase + b % 16 ∧ c.full = w.ty.fullAcc ∧
        c.m = r.m ∧ c.n = r.n ∧ c.acc = w.ty ∧ c.dty = w.dty ∧ c.rm = w.rm ∧ c.dst = dst ∧ c.cstride = r.cstride ∧ c.exp = r.cexp + w.scale.toInt ∧ c.started = false ∧ c.row = 0 ∧
        exec (.mmconv w) s = .next (timed (.mmconv w) s g { (logEvent s (whoOf s g (lanesFor (.mmconv w) g)) 4 (tileOf s.cur) 0) with
          groups := s.groups.set s.cur used, mats := s.mats ++ [c], seq := s.seq + 1 }))) ∧
  (∀ (w : EN) (s : State) (g : Group), Issues (.mmfence w) s g →
    ∃ g', ScalarWritten g g' w.d g.bopen.toNat ∧ GroupBecomes (.mmfence w) s g { g' with bopen := g.bopen + 1 })

/-- 12 R217, R221, R228: a command that may start, on a free unit and with no older one that may, starts or resumes; an `mma.z` that starts zeroes its M by N region
and nothing else. MATRIX_FAULT_WAIT frees the unit of a started command that waits on a fault. -/
def Obligations.MatrixCommandsStartInOrder : Prop :=
  ∀ (s : State) (c : MatCmd), s.mats.find? (fun d => d.id == s.inp.a) = some c →
    let idle (d : MatCmd) : Prop := d.started = false ∨ d.faulted = true
    let may (d : MatCmd) : Prop := (∀ o ∈ s.far, o.id ∉ d.holds) ∧
      ∀ e ∈ s.mats, e.id < d.id → e.gid ≠ d.gid ∧ (e.tile = d.tile → ∀ h ∈ e.halves, h ∉ d.halves)
    let z := accBytes c.acc
    let becomes (c' : MatCmd) : List MatCmd := s.mats.map (fun d => if d.id = c.id then c' else d)
    (idle c → may c → faulted s c.id = false → Memory.wf s.mem = true →
      (∀ d ∈ s.mats, d.tile = c.tile → d.conv = c.conv → d.id ≠ c.id → d.started = true → d.faulted = true) →
      (∀ d ∈ s.mats, d.tile = c.tile → d.conv = c.conv → d.id < c.id → idle d → may d → faulted s d.id = true) →
      ∃ t, exec .matrixStart s = .next t ∧ t = { s with mem := t.mem, flaws := t.flaws, mats := becomes { c with started := true, faulted := false } } ∧
        (∀ f ∈ t.flaws, f ∈ s.flaws) ∧ (c.zero = false ∨ c.started = true → t.mem = s.mem) ∧
        (c.zero = true → c.started = false → (∀ i n, i < c.m → n < c.n → memVal t.mem (c.accAt i n) z = 0) ∧
          ∀ a, (∀ i, i < c.m → a < c.accAt i 0 ∨ c.accAt i 0 + c.n * z ≤ a) → memGet t.mem a = memGet s.mem a)) ∧
    (¬ may c → exec .matrixStart s = .next s) ∧
    (c.started = true → faulted s c.id = true → exec .matrixFaultWait s = .next { s with mats := becomes { c with faulted := true } }) ∧
    (faulted s c.id = false → exec .matrixFaultWait s = .next s)

/-- 12 R221, R228, with 28 R403: a started `mma` computes one row at a time: each accumulator element of the row becomes the sum of its old
value and the products, rounded once (or summed in the four channels), and no other byte changes. That one turn before the first row reads all of a step's B, and each row's own turn its A,
is the model's choice (log 28, DESIGN CHOICE: 12 R227 leaves each element's instant open). (The operands need no walk and find no request queued in their HBM4 pseudo-channels, 28 R407.) An exhausted command completes: its entry leaves the queue and
its record's INUSE falls. -/
def Obligations.AnMmaAdvancesRowByRow : Prop :=
  ∀ (s : State) (c : MatCmd), s.mats.find? (fun d => d.id == s.inp.a) = some c → c.conv = false → c.started = true → c.faulted = false →
    let z := bytesOf c.ty
    let becomes (c' : MatCmd) : List MatCmd := s.mats.map (fun d => if d.id = c.id then c' else d)
    let quiet (p : Nat) : Prop := isHbm p = true → ∀ x ∈ s.hqueue, pseudoChannel x.1 ≠ pseudoChannel (p - 2 ^ 48)
    (c.step < c.steps → throttle s c.tile = 0 → s.flaws = [] →
      (∀ q : Nat → Nat, c.bbuf = [] → (∀ a ∈ c.bAddrs, placeOf s c.tile c.who.ctx a 0 = some (q a) ∧ quiet (q a)) →
        ∃ t, exec .mmaRowStep s = .next t ∧ (s.hostAts = [] → t.hostAts = []) ∧
          t = { s with rows := t.rows, hostAts := t.hostAts, mats := becomes { c with bbuf := c.bAddrs.map (fun a => memVal s.mem (q a) z) } }) ∧
      (∀ q : Nat → Nat, c.bbuf ≠ [] → Memory.wf s.mem = true → (∀ a ∈ c.aAddrs, placeOf s c.tile c.who.ctx a 0 = some (q a) ∧ quiet (q a)) →
        ∃ t, exec .mmaRowStep s = .next t ∧ (s.hostAts = [] → t.hostAts = []) ∧
          t = { s with rows := t.rows, hostAts := t.hostAts, mem := t.mem, mats := becomes (if c.row + 1 = c.m then { c with step := c.step + 1, row := 0, bbuf := [] } else { c with row := c.row + 1 }) } ∧
          (∀ n, n < c.n → memVal t.mem (c.accAt c.row n) (accBytes c.acc) =
            macElem c (memVal s.mem (c.accAt c.row n) (accBytes c.acc)) (c.aAddrs.map (fun a => memVal s.mem (q a) z)) (c.column n) % 256 ^ accBytes c.acc) ∧
          ∀ a, a < c.accAt c.row 0 ∨ c.accAt c.row 0 + c.n * accBytes c.acc ≤ a → memGet t.mem a = memGet s.mem a)) ∧
    (c.step < c.steps → throttle s c.tile ≠ 0 → exec .mmaRowStep s = .next s) ∧
    (∀ key g b, c.steps ≤ c.step → s.groups.find? (fun x => x.2.gid == c.gid) = some (key, g) → s.blocks.get? c.block = some b → b.out = false →
      exec .mmaComplete s = .next { s with
        mats := s.mats.filter (fun d => d.id != c.id)
        flaws := s.flaws.filter (fun f => !f.inStage c.id)
        groups := s.groups.set key { g with gauges := g.gauges.set c.rcd { (g.gauge c.rcd) with inuse := (g.gauge c.rcd).inuse - 1 } } })

/-- 12 R218, R223, R228, R229: a conversion writes its rows from its progress on: each destination element is the converted accumulator element; the last row
completes the command. An .rn24 tile with a failed check writes nothing, and keeps a report for `wait.batch` (or counts one more). A closed batch whose commands have completed
completes, its predecessor complete: DONE rises by one (a row whose bytes find no request queued in their HBM4 pseudo-channels, 28 R407); none of a context that has ended does. -/
def Obligations.ConversionsWriteRowsAndBatchesComplete : Prop :=
  (∀ (s : State) (c : MatCmd) (b : Block) (key : Nat) (g : Group), s.mats.find? (fun d => d.id == s.inp.a) = some c → c.conv = true → c.started = true → c.faulted = false →
    s.groups.find? (fun x => x.2.gid == c.gid) = some (key, g) → s.blocks.get? c.block = some b → b.out = false →
    let z := bytesOf c.dty
    let word (i n : Nat) : Nat := memVal s.mem (c.accAt i n) 4
    let freed (g : Group) : Group := { g with gauges := g.gauges.set c.rcd { (g.gauge c.rcd) with inuse := (g.gauge c.rcd).inuse - 1 } }
    let quiet (p : Nat) : Prop := isHbm p = true → ∀ x ∈ s.hqueue, pseudoChannel x.1 ≠ pseudoChannel (p - 2 ^ 48)
    (∀ pd : Nat, s.inp.b = 1 → c.row < c.m → (c.acc = .rn24 → c.row = 0 → ∀ i n, i < c.m → n < c.n → (rn24Decode (word i n)).2 = true) → Memory.wf s.mem = true → s.flaws = [] → s.hostAts = [] → bit (s.reg llWin).toNat 63 = false →
      (∀ n, n < c.n → placeOf s c.tile c.who.ctx (c.dst + c.row * c.cstride + n * z) 1 = some (pd + n * z) ∧ quiet (pd + n * z)) →
      ∃ t, exec .mmconvComplete s = .next t ∧ (s.ll.replay = none → t.ll = s.ll) ∧
        t = { s with mem := t.mem, veils := t.veils, rows := t.rows, ll := { s.ll with seen := t.ll.seen }, mats := t.mats, groups := t.groups } ∧
        (∀ n, n < c.n → memVal t.mem (pd + n * z) z = convElem c (memVal s.mem (c.accAt c.row n) (accBytes c.acc)) % 256 ^ z) ∧
        (∀ a, a < pd ∨ pd + c.n * z ≤ a → memGet t.mem a = memGet s.mem a) ∧
        (c.row + 1 < c.m → t.groups = s.groups ∧ t.mats = s.mats.map (fun d => if d.id = c.id then { c with row := c.row + 1 } else d)) ∧
        (c.row + 1 = c.m → t.groups = s.groups.set key (freed g) ∧ t.mats = s.mats.filter (fun d => d.id != c.id))) ∧
    (∀ i n, c.acc = .rn24 → c.row = 0 → s.flaws = [] → i < c.m → n < c.n → (rn24Decode (word i n)).2 = false →
      (∀ j k, j < c.m → k < c.n → j < i ∨ (j = i ∧ k < n) → (rn24Decode (word j k)).2 = true) →
      ∃ d : W64, d.toNat / 2 ^ 60 = 1 ∧ d.toNat / 2 ^ 36 % 2 ^ 16 = c.batch.toNat ∧ d.toNat / 2 ^ 29 % 128 = i % 128 ∧ d.toNat / 2 ^ 22 % 128 = n % 128 ∧
        ∃ t, exec .mmconvComplete s = .next t ∧ t = { s with groups := t.groups, mats := s.mats.filter (fun d => d.id != c.id) } ∧
          t.groups.get? key = some (freed (match g.merr with
            | none => { g with merr := some (c.batch.toNat, d) }
            | some _ => { g with nerr := if g.nerr < 127 then g.nerr + 1 else g.nerr })))) ∧
  (∀ (s : State) (key : Nat) (g : Group), s.groups.find? (fun x => x.2.gid == s.inp.a) = some (key, g) →
    let ready : Prop := (s.ctxs.getD g.env.ctx Ctx.live).status = 0 ∧ g.bdone + 1 ≠ g.bopen ∧ ∀ c ∈ s.mats, c.gid = s.inp.a → c.batch ≠ g.bdone + 1
    (ready → exec .batchComplete s = .next { s with groups := s.groups.set key { g with bdone := g.bdone + 1 } }) ∧
    (¬ ready → exec .batchComplete s = .next { s with groups := s.groups.set key g }))

/-! ### The fabric: major 0x81 and its steps -/

/-- 14 R256, R262, R266, Table 3: `rput`, `rget` and `gath` whose ranges pass their checks, with a free engine place, take their tag and join the engines with the
operands of their registers or descriptor, the packet size of their SPRAY and the route of each rank (and, of a source on this rank, the address resolved at issue, 09 R155); a `gath` clears CODE and STALEIDX of its descriptor. The context counts as
using the fabric, and nothing else changes. -/
def Obligations.FabricCopiesAndGathersAreAccepted : Prop :=
  ∀ (w : EN) (s : State) (g : Group) (b : Block), s.blocks.get? g.env.block = some b → b.out = false → enginePlaces s (tileOf s.cur) < Config.copyPlaces →
    let tag := if g.env.tagSpan = 0 then 0 else w.tag.toNat % g.env.tagSpan
    let key := b.tiles.getD (tixOf s g) 0 * 64 + b.tagBases.getD (tixOf s g) 0 + tag
    let x := s.tags.getD key Tag.fresh
    let taken : Tag := { count := x.count + 1, ready := false, bytes := if x.count = 0 then 0 else x.bytes }
    let len := match w.b with | .imm n => n.toInt.toNat * 256 | _ => scalarVal s g w.b % 2 ^ 32
    let a := scalarVal s g w.a
    let d := scalarVal s g w.d
    let bad := len % 16 != 0 && a % 16 == 0 && d % 16 == 0
    let unit (spray : Nat) : Nat := 64 * 2 ^ min spray 6
    let s0 := markFabric s g.env.ctx
    let p := slicePlace (tileOf s.cur) a
    let mv (o n : Nat) : Nat := memVal s.mem (p + o) n
    (∀ t, Issues (.rput w) s g → len ≠ 0 → localRange len a bad = .ok ⟨a, none, none⟩ → globalRange s 1 len d false = .ok t →
      ∃ q : Copy, q.id = s.seq ∧ q.kind = .put w.index.toNat ∧ q.src = a ∧ q.dst = t.addr ∧ q.rowBytes = len ∧ q.rows = 1 ∧ q.widen = false ∧ q.unit = unit (w.param.toNat % 16) ∧
        q.routes = t.routes ∧ q.desc = d / 2 ^ 41 % 32 ∧ q.tag = tag ∧ q.tile = tileOf s.cur ∧ q.done = [] ∧ q.sends = [] ∧
        exec (.rput w) s = .next (timed (.rput w) s g { s0 with tags := s.tags.set key taken, copies := s.copies ++ [q], seq := s.seq + 1 })) ∧
    (∀ t, Issues (.rget w) s g → len ≠ 0 → globalRange s 0 len a bad = .ok t →
      let wd := bit w.param.toNat 16
      localRange (if wd then 2 * len else len) d false = .ok ⟨d, none, none⟩ →
      ∃ q : Copy, q.id = s.seq ∧ q.kind = .get ∧ q.src = t.addr ∧ q.dst = d ∧ q.rowBytes = len ∧ q.rows = 1 ∧ q.widen = wd ∧ q.unit = unit (w.param.toNat % 16) ∧
        q.routes = t.routes ∧ q.tag = tag ∧ q.tile = tileOf s.cur ∧ q.done = [] ∧ q.sends = [] ∧
        exec (.rget w) s = .next (timed (.rget w) s g { s0 with tags := s.tags.set key taken, copies := s.copies ++ [q], seq := s.seq + 1 })) ∧
    (∀ ts, Issues (.gath w) s g → a < 0x7F0000 → a % 64 = 0 → Clean s p 64 → Memory.wf s.mem = true →
      let gd : GathDesc := ⟨mv 0 8, mv 8 8, mv 16 4, mv 20 2, bit (mv 22 1) 0, mv 24 4, mv 28 4, mv 32 1 % 16⟩
      let gbad := gd.bytes % 16 != 0 && gd.src % 16 == 0 && gd.dst % 16 == 0
      (gd.count = 0 → gd.src % 16 = 0 ∧ gbad = false) → gathSources s gd gbad 0 gd.count = .ok ts → localRange gd.total gd.dst false = .ok ⟨gd.dst, none, none⟩ →
      ∃ (q : Copy) (t : State), q.id = s.seq ∧ q.kind = .gather ∧ q.src = gd.src % 2 ^ 63 ∧ q.dst = gd.dst ∧ q.rowBytes = gd.bytes ∧ q.rows = gd.count ∧ q.widen = gd.widen ∧
        q.rstride = gd.rstride ∧ q.gen = gd.gen ∧ q.unit = unit gd.spray ∧ q.desc = a ∧ q.tag = tag ∧ q.tile = tileOf s.cur ∧ q.done = [] ∧ q.sends = [] ∧ q.space = false ∧
        q.got = [] ∧ q.own = ts.findSome? (fun x => if x.rank.isNone then some x.addr else none) ∧ exec (.gath w) s = .next (timed (.gath w) s g t) ∧
        t = { s0 with mem := t.mem, flaws := t.flaws, tags := s.tags.set key taken, copies := s.copies ++ [q], seq := s.seq + 1 } ∧
        memVal t.mem (p + 56) 1 = 0 ∧ memVal t.mem (p + 60) 4 = 0 ∧ ∀ c, c ≠ p + 56 → c < p + 60 ∨ p + 64 ≤ c → memGet t.mem c = memGet s.mem c)

/-- 14 R263, R265, R268: `pcarm` arms a watch that takes its tag, `pcadd` adds to a placement counter, `genst` stores a generation; each marks its context as using
the fabric; on a region that is not valid each raises ADDR with reason 6. `publish.shadow` answers 2 for a gather in flight and 1 for one that did not succeed; on one that succeeded
it sets CODE to 3 and hands the shadow's bytes to the collective engine, and its drop form sets CODE to 4 and frees the shadow; both answer 0. The engine writes the bytes at DST at one
instant, after the near accesses of the clock (09 R159), and waits while a page of DST needs a walk. MODEL: CODE is 3 from the issue on, also while the engine waits; a CODE of 1 with no
shadow held publishes nothing, answers 0 and becomes 3; a CODE above 5, which no table has, answers 1 (log 32). -/
def Obligations.CountersGenerationsAndShadows : Prop :=
  ∀ (w : EN) (s : State) (g : Group),
    let r := w.param.toNat % 32
    let k := w.index.toNat
    let a := scalarVal s g w.a
    let s0 := markFabric s g.env.ctx
    let p := slicePlace (tileOf s.cur) a
    let code := memVal s.mem (p + 56) 1
    let mine (h : Shadow) : Bool := h.tile == tileOf s.cur && h.desc == a && h.ctx == g.env.ctx && !h.due
    (∀ b, Issues (.pcarm w) s g → regionOf s r ≠ none → (s.watches.filter (fun x => x.tile == tileOf s.cur)).length < Config.watches →
      s.blocks.get? g.env.block = some b → b.out = false →
      let tag := if g.env.tagSpan = 0 then 0 else w.tag.toNat % g.env.tagSpan
      let key := b.tiles.getD (tixOf s g) 0 * 64 + b.tagBases.getD (tixOf s g) 0 + tag
      let x := s.tags.getD key Tag.fresh
      ∃ q : Watch, q.ctr = r * 16 + k ∧ q.thr = BitVec.ofNat 64 a ∧ q.tag = tag ∧ q.tile = tileOf s.cur ∧
        (q.met = true ↔ (s.pcs.getD (r * 16 + k) 0 - BitVec.ofNat 64 a).toNat < 2 ^ 63) ∧
        exec (.pcarm w) s = .next (timed (.pcarm w) s g { s0 with
          tags := s.tags.set key ⟨x.count + 1, false, if x.count = 0 then 0 else x.bytes⟩, watches := s.watches ++ [q] })) ∧
    (Issues (.pcadd w) s g → regionOf s r ≠ none →
      let x := s.pcs.getD (r * 16 + k) 0 + BitVec.ofNat 64 a
      ∃ l, (bit (s.reg llWin).toNat 63 = false → s.ll.replay = none → l = s.ll) ∧ exec (.pcadd w) s = .next (timed (.pcadd w) s g { s0 with
        pcs := s.pcs.set (r * 16 + k) x, ll := l
        watches := s.watches.map (fun y => if y.ctr = r * 16 + k ∧ (x - y.thr).toNat < 2 ^ 63 then { y with met := true } else y) })) ∧
    (Issues (.genst w) s g → regionOf s r ≠ none →
      ∃ l, (bit (s.reg llWin).toNat 63 = false → s.ll.replay = none → l = s.ll) ∧
        exec (.genst w) s = .next (timed (.genst w) s g { s0 with gens := s.gens.set r (BitVec.ofNat 32 a), ll := l })) ∧
    (∀ q ∈ [Instr.pcarm, .pcadd, .genst], Issues (q w) s g → regionOf s r = none →
      exec (q w) s = .next (takeTrap (timed (q w) s g s0) g tAddr (addrDetail false 0 6 (r * 2 ^ 41)) (lanesFor (q w) g))) ∧
    (Issues (.publishShadow w) s g → a < 0x7F0000 → a % 64 = 0 → Clean s p 64 →
      (code = 0 → Reports (.publishShadow w) s s0 g w.d 2) ∧ (code ≠ 0 → code ≠ 1 → Reports (.publishShadow w) s s0 g w.d 1) ∧
      (code = 1 → s.ll.replay = none → w.param.toNat % 2 = 1 → Memory.wf s.mem = true → ∃ s1, Reports (.publishShadow w) s s1 g w.d 0 ∧
        OnlyMemory { s0 with shadows := s.shadows.filter (fun h => !mine h) } s1 ∧
        memVal s1.mem (p + 56) 1 = 4 ∧ ∀ c, c ≠ p + 56 → memGet s1.mem c = memGet s.mem c) ∧
      (code = 1 → s.ll.replay = none → w.param.toNat % 2 = 0 → (∀ h ∈ s.shadows, mine h = false) → Memory.wf s.mem = true → ∃ s1, Reports (.publishShadow w) s s1 g w.d 0 ∧
        OnlyMemory { s0 with shadows := s.shadows.filter (fun h => !mine h) } s1 ∧
        memVal s1.mem (p + 56) 1 = 3 ∧ ∀ c, c ≠ p + 56 → memGet s1.mem c = memGet s.mem c) ∧
      (∀ h, code = 1 → s.ll.replay = none → w.param.toNat % 2 = 0 → s.shadows.find? mine = some h → Memory.wf s.mem = true → ∃ s1, Reports (.publishShadow w) s s1 g w.d 0 ∧
        OnlyMemory { s0 with shadows := s.shadows.filter (fun h => !mine h) ++ [{ h with due := true }] } s1 ∧
        memVal s1.mem (p + 56) 1 = 3 ∧ ∀ c, c ≠ p + 56 → memGet s1.mem c = memGet s.mem c)) ∧
    (∀ h, s.inp.c = 2 → (s.shadows.filter (fun h => h.due))[s.inp.a]? = some h → (∀ f ∈ s.faults, agentReq 4 h.tile h.id (f.page * 65536) ∉ f.reqs) → s.flaws = [] →
      (0 < h.size → placeOf s h.tile h.who.ctx h.dst 1 = none → exec .packetPlace s = .next s) ∧
      ∀ pd, Memory.wf s.mem = true → bit (s.reg llWin).toNat 63 = false → s.hostAts = [] →
        let quiet (p : Nat) : Prop := isHbm p = true → ∀ x ∈ s.hqueue, pseudoChannel x.1 ≠ pseudoChannel (p - 2 ^ 48)
        (∀ i, i < h.size → placeOf s h.tile h.who.ctx (h.dst + i) 1 = some (pd + i) ∧ quiet (pd + i)) →
        ∃ t, exec .packetPlace s = .next t ∧ (s.ll.replay = none → t.ll = s.ll) ∧
          t = { s with shadows := s.shadows.filter (fun x => x.id != h.id), mem := t.mem, veils := t.veils, rows := t.rows, ll := { s.ll with seen := t.ll.seen } } ∧
          (∀ i, i < h.size → memGet t.mem (pd + i) = memGet h.got i) ∧ ∀ c, c < pd ∨ pd + h.size ≤ c → memGet t.mem c = memGet s.mem c)

/-- 14 R258 to R260, 24 R376: a request of a far word to another rank, in the pod, over a torus port or beyond, leaves once what holds it has completed, timed by the RTO of its route (beyond the
pod, that of its pod's entry, which is then the most recently used, 21 R347); its reply brings back its line's
elements, and a piece that no reply answered within its RTO is resent alone, on its route or, since its port went down, on the cache path of its rank (21 R354), counted by its tile, or, sent sixteen times, ends its context with FABFAIL and leaves flight. The estimates start at
33,000 and 8,250 clocks; the reply of a request sent once moves SRTT by an eighth and RTTVAR by a quarter of what the round trip differs from them, floor, RTTVAR
first; that of a resent one moves neither. A reply with poison is consumed instead: its elements do not come back, its group stops, its context is to end (27 R396, R397). -/
def Obligations.RequestsAreTimedAndResent : Prop :=
  (∀ e : Nat × Nat, rtoOf e = min (max (e.1 + 4 * e.2) 13200) 3300000) ∧
  (∀ (s : State) (k : Nat), s.peerRtt = [] → rttOf s (.pod k) = some (33000, 8250)) ∧
  (∀ (s : State) (o : FarOp) (rt : Route) (e : Nat × Nat), s.far.find? (fun o => o.id == s.inp.a) = some o →
    let x := s.inp.b
    let becomes (o' : FarOp) : List FarOp := s.far.map (fun p => if p.id = o.id then o' else p)
    o.route x = some rt → rttOf s rt = some e →
    ((∀ p ∈ s.far, p.id ∉ o.holds) → (∀ y ∈ o.sends, y.x ≠ x) → (∃ y ∈ o.onLine x, y.acked = false) → lineHeld s o x rt = false → noPlane s rt = false → poisoned s o.who x = false →
      exec .packetSend s = .next { s with
        far := becomes { o with sends := o.sends ++ [⟨x, 0, s.clock, min (max (e.1 + 4 * e.2) 13200) 3300000, pathOf s rt (x % 2 ^ 34) 0 (x % 2 ^ 39 * 128) 128, false, none⟩] }
        rtcache := match rt with
          | .net pod _ _ => (match s.rtcache.find? (fun y => y.pod == pod) with | some y => y :: s.rtcache.filter (fun z => z.pod != pod) | none => s.rtcache)
          | _ => s.rtcache }) ∧
    (∀ sd : Send, o.sends.find? (fun y => y.x == x) = some sd → s.inp.c ≠ 2 → (∀ y ∈ o.onLine x, y.performed = true) → sd.resends ≠ 0 →
      exec .packetAck s = .next { s with far := becomes { o with
        sends := o.sends.filter (fun y => y.x != x)
        els := o.els.map (fun e => if e.rank.isSome && lineOf e == x then { e with acked := true } else e) } }) ∧
    (∀ sd : Send, o.sends.find? (fun y => y.x == x) = some sd →
      (s.clock < sd.at_ + sd.rto → exec .rtoExpiry s = .next s) ∧
      (sd.at_ + sd.rto ≤ s.clock → 15 ≤ sd.resends → ∃ t, exec .rtoExpiry s = .next t ∧ t.ctxs = (endContext s o.who.ctx 9 none).ctxs ∧
        t.far = s.far.filter (fun p => p.id != o.id)) ∧
      (sd.at_ + sd.rto ≤ s.clock → sd.resends < 15 → rttOf s (sd.alt.getD rt) = none → exec .rtoExpiry s = .next s) ∧
      (∀ e, sd.at_ + sd.rto ≤ s.clock → sd.resends < 15 → rttOf s (sd.alt.getD rt) = some e →
        let new : Send := ⟨x, sd.resends + 1, s.clock, min (max (e.1 + 4 * e.2) 13200) 3300000,
          pathOf s (sd.alt.getD rt) (x % 2 ^ 34) (sd.resends + 1) (x % 2 ^ 39 * 128) 128, sd.moved, sd.alt⟩
        exec .rtoExpiry s = .next { s with
          retx := s.retx.set o.who.tile (min (s.retx.getD o.who.tile 0 + 1) 65535)
          far := becomes { o with sends := o.sends.map (fun y => if y.x = x then new else y) } }))) ∧
  (∀ (s : State) (o : FarOp) (rt : Route) (e : Nat × Nat) (sd : Send), s.far.find? (fun o => o.id == s.inp.a) = some o →
    let x := s.inp.b
    let becomes (o' : FarOp) : List FarOp := s.far.map (fun p => if p.id = o.id then o' else p)
    let rest := o.sends.filter (fun y => y.x != x)
    let back : FarOp := { o with sends := rest, els := o.els.map (fun e => if e.rank.isSome && lineOf e == x then { e with acked := true } else e) }
    let S : Int := (s.clock - sd.at_ : Nat)
    o.route x = some rt → rttOf s rt = some e → o.sends.find? (fun y => y.x == x) = some sd → sd.resends = 0 →
    (s.inp.c ≠ 2 → (∀ y ∈ o.onLine x, y.performed = true) → ∃ a b : Nat, (a : Int) = e.1 + (S - e.1) / 8 ∧ (b : Int) = e.2 + (|S - e.1| - e.2) / 4 ∧
      exec .packetAck s = .next (match rt with
        | .pod st => { s with far := becomes back, peerRtt := s.peerRtt.set st (a, b) }
        | .port p _ _ => { s with far := becomes back, portRtt := s.portRtt.set p (a, b) }
        | .net pod _ _ => { s with far := becomes back, rtcache := s.rtcache.map (fun y => if y.pod = pod then
            { y with srtt := (rttSample (y.srtt, y.rttvar) S.toNat).1, rttvar := (rttSample (y.srtt, y.rttvar) S.toNat).2 } else y) })) ∧
    (s.inp.c = 2 → poisoned s o.who x = false → ∃ t, exec .packetAck s = .next t ∧ t.far = becomes { o with sends := rest } ∧ poisoned t o.who x = true ∧
      (t.ctxs.getD o.who.ctx Ctx.live).doomed = true ∧ ∀ k g, t.groups.get? k = some g → o.who.gid = some g.gid → g.halted = true))

/-- 14 R257, R259, R263, R264, 21 R351: a packet that arrives is discarded where its region is not valid; one that was placed before changes nothing and is at most
answered again; otherwise its bytes are written, then its
byte count is added to its counter, and it is acknowledged with no other change. A watch completes on its tag once its counter has met the threshold.
14 R267: a gather ends with CODE 5 when it is larger than 1 GiB, with CODE 2 and the lowest stale source when a source was stale, and with CODE 1 when every packet is staged:
its shadow is held, unpublished, and its bytes are added to its tag. CODE is written before the tag completes, and no byte of the destination changes. -/
def Obligations.PacketsArePlacedOnceAndGathersEndWithTheirCode : Prop :=
  (
  (∀ (s : State), s.inp.c = 1 → regionOf s (s.inp.v.toNat / 2 ^ 41 % 32) = none → exec .packetPlace s = .next s) ∧
  (∀ (s : State), s.inp.c = 1 → (s.inp.a, s.inp.b) ∈ s.placed →
    ∃ l, exec .packetPlace s = .next { s with answers := s.answers ++ l } ∧ ∀ x ∈ l, x ∈ s.answers ∧ x.1 = s.inp.a ∧ x.2.1 = s.inp.b) ∧
  (∀ (s : State) (d : Region) (pd : Nat), s.inp.c = 1 → s.inp.nums.getD 0 0 = 0 → s.inp.nums.getD 3 0 = 0 → Memory.wf s.mem = true → s.hostAts = [] →
    bit (s.reg llWin).toNat 63 = false → s.ll.replay = none → (s.inp.a, s.inp.b) ∉ s.placed →
    let n := s.inp.bytes.length
    let r := s.inp.v.toNat / 2 ^ 41 % 32
    let a := d.base + s.inp.v.toNat % 2 ^ 41
    let k := s.inp.nums.getD 1 0 % 16
    let x := s.pcs.getD (r * 16 + k) 0 + BitVec.ofNat 64 n
    let quiet (p : Nat) : Prop := isHbm p = true → ∀ x ∈ s.hqueue, pseudoChannel x.1 ≠ pseudoChannel (p - 2 ^ 48)
    regionOf s r = some d → s.inp.v.toNat % 2 ^ 41 + n ≤ d.size → 0x200000000 ≤ a → a + n ≤ 2 ^ 48 →
    (∀ i, i < n → placeOf s midTile d.ctx (a + i) 1 = some (pd + i) ∧ quiet (pd + i)) →
    ∃ t, exec .packetPlace s = .next t ∧
      t = { s with mem := t.mem, flaws := t.flaws, veils := t.veils, rows := t.rows, pcs := s.pcs.set (r * 16 + k) x
                   watches := s.watches.map (fun y => if y.ctr = r * 16 + k ∧ (x - y.thr).toNat < 2 ^ 63 then { y with met := true } else y)
                   placed := s.placed ++ [(s.inp.a, s.inp.b)], answers := s.answers ++ [(s.inp.a, s.inp.b, [], false)] } ∧
      (∀ i, i < n → memGet t.mem (pd + i) = s.inp.bytes.getD i 0) ∧ (∀ c, c < pd ∨ pd + n ≤ c → memGet t.mem c = memGet s.mem c)) ∧
  (∀ (s : State) (x : Watch) (b : Block), s.watches[s.inp.a]? = some x → s.blocks.get? x.block = some b → b.out = false →
    let key := b.tiles.getD x.tix 0 * 64 + b.tagBases.getD x.tix 0 + x.tag
    let y := s.tags.getD key Tag.fresh
    (x.met = true → exec .pcarmComplete s = .next { s with
      watches := s.watches.eraseIdx s.inp.a, tags := s.tags.set key { y with count := y.count - 1, ready := decide (y.count ≤ 1) } }) ∧
    (x.met = false → exec .pcarmComplete s = .next s))) ∧
  (
  ∀ (s : State) (c : Copy) (b : Block), s.copies.find? (fun c => c.id == s.inp.a) = some c → c.kind = .gather → s.blocks.get? c.block = some b → b.out = false →
    Memory.wf s.mem = true →
    let total := c.rows * c.rowBytes * (if c.widen then 2 else 1)
    let p := slicePlace c.tile c.desc
    let key := b.tiles.getD c.tix 0 * 64 + b.tagBases.getD c.tix 0 + c.tag
    let y := s.tags.getD key Tag.fresh
    let ends (t : State) (code : Nat) : Prop := exec .gatherComplete s = .next t ∧
      t = { s with mem := t.mem, flaws := t.flaws, tags := t.tags, copies := s.copies.filter (fun d => d.id != c.id), shadows := t.shadows } ∧ memVal t.mem (p + 56) 1 = code
    let kept (t : State) : Prop := ∀ a, a ≠ p + 56 → memGet t.mem a = memGet s.mem a
    (2 ^ 30 < total → ∃ t, ends t 5 ∧ kept t ∧ t.shadows = s.shadows ∧ t.tags = s.tags.set key { y with count := y.count - 1, ready := decide (y.count ≤ 1) }) ∧
    (∀ i, total ≤ 2 ^ 30 → i ∈ c.marks → (∀ j ∈ c.marks, i ≤ j) → ∃ t, ends t 2 ∧ memVal t.mem (p + 60) 4 = i % 2 ^ 32 ∧ t.shadows = s.shadows ∧
      (∀ a, a ≠ p + 56 → a < p + 60 ∨ p + 64 ≤ a → memGet t.mem a = memGet s.mem a)) ∧
    (total ≤ 2 ^ 30 → c.marks = [] → c.rows * c.packets ≤ c.done.length → ∃ t sh, ends t 1 ∧ kept t ∧ t.shadows = s.shadows ++ [sh] ∧ sh.id = c.id ∧ sh.due = false ∧ sh.got = c.got ∧ sh.dst = c.dst ∧ sh.size = total ∧
      sh.desc = c.desc ∧ sh.tile = c.tile ∧ sh.ctx = c.who.ctx ∧ (t.tags.getD key Tag.fresh).bytes = (y.bytes + total) % 2 ^ 32 ∧
      (t.tags.getD key Tag.fresh).count = y.count - 1) ∧
    (total ≤ 2 ^ 30 → c.marks = [] → c.done.length < c.rows * c.packets → exec .gatherComplete s = .next s))

/-- 14 R255, Table 4, 21 R347, R348, R354: a plane that fails is out of service for good, and while a plane is live no logical plane stays on a dead one; a fill of the translation cache
replaces its pod's entry or adds one that takes the pod group's estimates, in a full cache in the place of the least recently used one that no transfer uses, and waits while there is none; a word whose pod has no entry is reported once, and ends with its context where the pod is found absent; PDOWN moves the
pieces in flight on a port to the cache path of their rank. MODEL: a fill that replaces an entry keeps its estimates, and the pieces on a port that goes down are sent
again at once (log 29). -/
def Obligations.PlanesPodsAndPorts : Prop :=
  (∀ s : State, let q := s.inp.a % 4
    (bit s.dead q = true → exec .planeFail s = .next s) ∧
    (bit s.dead q = false → ∃ t, exec .planeFail s = .next t ∧ t.dead = s.dead + 2 ^ q ∧ (t.dead ≠ 15 → s.flaws = [] → t.groups = s.groups) ∧
      ((∃ x, x < 4 ∧ bit t.dead x = false) → (∀ p, p < 4 → bit s.dead (fld s.pmap (2 * p) 2) = false) → ∀ p, p < 4 → bit t.dead (fld t.pmap (2 * p) 2) = false))) ∧
  (∀ s : State, s.inp.a ≠ 1 →
    let raw := (s.reg (jobWin + 0x10)).toNat + s.inp.v.toNat * 2 ^ 64
    let pod := raw / 2 ^ 110 % 2 ^ 17
    let again (y : Send) : Send := { y with alt := y.alt.map (fun r => r.filled pod raw) }
    bit raw 127 = true →
    (∀ e, s.rtcache.find? (fun e => e.pod == pod) = some e → exec .rtfill s = .next { s with
      rtcache := { e with raw := raw } :: s.rtcache.filter (fun x => x.pod != pod), rtmiss := s.rtmiss.filter (· != pod) }) ∧
    (s.rtcache.find? (fun e => e.pod == pod) = none → s.rtcache.length < Config.rtcacheMax →
      let est := s.podRtt.getD (pod / 64) (33000, 8250)
      exec .rtfill s = .next { s with
        rtcache := ⟨pod, raw, est.1, est.2⟩ :: s.rtcache, rtmiss := s.rtmiss.filter (· != pod),
        far := s.far.map (fun o => { o with routes := o.routes.map (fun r => (r.1, r.2.filled pod raw)), sends := o.sends.map again }),
        copies := s.copies.map (fun c => { c with routes := c.routes.map (fun r => (r.1, r.2.filled pod raw)), sends := c.sends.map again }) }) ∧
    (s.rtcache.find? (fun e => e.pod == pod) = none → Config.rtcacheMax ≤ s.rtcache.length → (∀ e ∈ s.rtcache, podUsed s e.pod = true) →
      exec .rtfill s = .next { s with rtwait := s.rtwait ++ [raw] }) ∧
    (∀ xs e ys, s.rtcache = xs ++ e :: ys → Config.rtcacheMax ≤ s.rtcache.length → s.rtcache.find? (fun e => e.pod == pod) = none → podUsed s e.pod = false →
      (∀ y ∈ ys, podUsed s y.pod = true) →
      ∃ t, exec .rtfill s = .next t ∧ t.podRtt = s.podRtt.set (e.pod / 64) (e.srtt, e.rttvar) ∧
        let est := t.podRtt.getD (pod / 64) (33000, 8250)
        t.rtcache = ⟨pod, raw, est.1, est.2⟩ :: s.rtcache.filter (fun x => x.pod != e.pod))) ∧
  (∀ (s : State) (o : FarOp) (r p d : Nat) (h : Option Nat), s.far.find? (fun o => o.id == s.inp.a) = some o → o.routes = [(r, .net p d h)] → s.rtcache.find? (fun e => e.pod == p) = none →
    (s.inp.b ≠ 1 → exec .rtmiss s = .next { s with rtmiss := if s.rtmiss.contains p then s.rtmiss else s.rtmiss ++ [p] }) ∧
    (s.inp.b = 1 → ∃ t, exec .rtmiss s = .next t ∧ t.ctxs = (endContext s o.who.ctx 9 none).ctxs ∧ o ∉ t.far ∧
      t.rtmiss = s.rtmiss.filter (· != p) ∧ (∀ x ∈ t.far, x ∈ s.far) ∧ ∀ x ∈ s.far, x.who.ctx ≠ o.who.ctx → x ∈ t.far)) ∧
  (∀ s : State, let x := s.inp.v.toNat - s.inp.v.toNat / 2 ^ 48 % 2 ^ 8 * 2 ^ 48
    (∀ p, p < 8 → bit x (56 + p) = true → bit (s.reg (jobWin + 8)).toNat (56 + p) = true) →
    exec .torusPortDown s = .next { s with regs := s.regs.set (jobWin + 8) (BitVec.ofNat 64 x) }) ∧
  (∀ (s : State) (o : FarOp) (y : Send) (p pod dev : Nat), o ∈ s.far → y ∈ o.sends → y.alt = none → o.route y.x = some (.port p pod dev) → p < 8 → s.flaws = [] →
    bit s.inp.v.toNat (56 + p) = true → bit (s.reg (jobWin + 8)).toNat (56 + p) = false →
    ∃ t o', exec .torusPortDown s = .next t ∧ o' ∈ t.far ∧ o' = { o with sends := o'.sends } ∧
      ∃ z ∈ o'.sends, z.x = y.x ∧ (z.resends = y.resends ∨ z.resends = y.resends + 1) ∧ ∃ h, z.alt = some (.net pod dev h))

/-- 21 R345, R350, R356 to R358, 13 R243, R244, 10 R183: a write of VALID from 1 to 0 ends the contexts that use the fabric with KILLED, those that have not ended
already, and leaves the others; a write of a region's descriptor whose V is 0 stores its fields, reserved bits as 0; raising V clears its counters, which may meet the threshold of an armed
watch, and its generation, and no other register, counter or generation changes; while V is 1 a write changes only V; the host reads and writes HBM4 below 383 GiB and its own memory, discards what it writes above, does not store inside an atomic of its own side, and may
still read a value that an uncovered device write has replaced; a publication ends that for the writes it covers and for every older write of the same bytes, and advances its
version counter by one, in the counter and in host memory, when VERBASE.EN is 1, of which the host then reads no older value. A publication covers what its group or its launch wrote and
what its group read before; of the other writes it could have observed the schedule (`nums`) says which it had (MODEL, log 25). -/
def Obligations.JobsRegionsHostAndVersions : Prop :=
  (∀ s : State, let x := s.inp.v.toNat - s.inp.v.toNat / 2 ^ 10 % 2 * 2 ^ 10
    (bit (s.reg jobWin).toNat 63 = bit x 63 → exec .jobctlWrite s = .next { s with regs := s.regs.set jobWin (BitVec.ofNat 64 x) }) ∧
    (bit (s.reg jobWin).toNat 63 = true → bit x 63 = false → ∃ t, exec .jobctlWrite s = .next t ∧ (bit (s.reg errWin).toNat 63 = false → t.mem = s.mem) ∧
      (∀ c, c < 256 → (s.ctxs.getD c Ctx.live).fabric = true →
        (t.ctxs.getD c Ctx.live).status = if (s.ctxs.getD c Ctx.live).status = 0 then 10 else (s.ctxs.getD c Ctx.live).status) ∧
      (∀ c, c < 256 → (s.ctxs.getD c Ctx.live).fabric = false → fabricBusy s c = false →
        (∀ n d, n < 32 → regionOf { s with regs := s.regs.set jobWin (BitVec.ofNat 64 x) } n = some d → d.ctx ≠ c) → (t.ctxs.getD c Ctx.live).status = (s.ctxs.getD c Ctx.live).status))) ∧
  (∀ s : State, let n := s.inp.a % 32
    let a := jobWin + 0x3000 + 32 * n
    let w := s.inp.nums.getD 0 0
    (bit (s.reg a).toNat 0 = true → exec .regionValid s = .next { s with regs := s.regs.set a (BitVec.ofNat 64 ((s.reg a).toNat - 1 + w % 2)) }) ∧
    (bit (s.reg a).toNat 0 = false →
      let stored (t : State) : Prop := t.reg a = BitVec.ofNat 64 (w - w / 2 ^ 13 % 8 * 2 ^ 13) ∧ t.reg (a + 8) = BitVec.ofNat 64 (s.inp.nums.getD 1 0 % 2 ^ 42) ∧
        t.reg (a + 16) = 0 ∧ t.reg (a + 24) = 0 ∧ ∀ r, r ∉ [a, a + 8, a + 16, a + 24] → t.reg r = s.reg r
      (bit w 0 = false → ∃ t, exec .regionValid s = .next t ∧ t = { s with regs := t.regs } ∧ stored t) ∧
      (bit w 0 = true → ∃ t, exec .regionValid s = .next t ∧ stored t ∧ t = { s with
          regs := t.regs, pcs := t.pcs, gens := t.gens
          watches := s.watches.map (fun y => if y.ctr / 16 = n ∧ (0 - y.thr).toNat < 2 ^ 63 then { y with met := true } else y) } ∧
        (∀ k, t.pcs.getD k 0 = if k / 16 = n then 0 else s.pcs.getD k 0) ∧ ∀ r, t.gens.getD r 0 = if r = n then 0 else s.gens.getD r 0))) ∧
  (∀ s : State, Memory.wf s.mem = true →
    let a := s.inp.a
    let n := s.inp.bytes.length
    let top := 383 * 2 ^ 30
    let stores (p k : Nat) : Prop := ∃ t, exec .hostAccess s = .next t ∧ OnlyMemory { s with veils := t.veils, hostAts := t.hostAts } t ∧
      (∀ i, i < k → memGet t.mem (p + i) = s.inp.bytes.getD i 0) ∧ ∀ c, c < p ∨ p + k ≤ c → memGet t.mem c = memGet s.mem c
    (s.inp.b = 1 → hostHolds s (2 ^ 48 + a) (min n (top - a)) = false → stores (2 ^ 48 + a) (min n (top - a))) ∧
    (s.inp.b = 1 → hostHolds s (2 ^ 48 + a) (min n (top - a)) = true → exec .hostAccess s = .next s) ∧
    (s.inp.b = 3 → a + n < 2 ^ 49 → hostHolds s (2 ^ 49 + a) n = false → stores (2 ^ 49 + a) n) ∧
    (s.inp.b = 0 → s.inp.nums = [] → s.flaws = [] → ∃ t, exec .hostAccess s = .next t ∧ t = { s with poison := false, reply := t.reply } ∧
      t.reply = (List.range s.inp.c).map (fun i => if 383 * 2 ^ 30 ≤ a + i then 255 else memGet s.mem (2 ^ 48 + (a + i)))) ∧
    (s.inp.b = 2 → s.inp.nums = [] → exec .hostAccess s = .next { s with poison := false, reply := memBytes s.mem (2 ^ 49 + a) s.inp.c }) ∧
    (∀ j v, s.inp.b = 0 → s.flaws = [] → a % 8 = 0 → s.inp.c = 8 → a + 8 ≤ 383 * 2 ^ 30 → s.inp.nums = [j + 1] → (s.veils.filter (fun x => x.place == 2 ^ 48 + a))[j]? = some v →
      exec .hostAccess s = .next { s with poison := false, reply := leBytes 8 v.old.toNat })) ∧
  (∀ (s : State) (q : Pub), Memory.wf s.mem = true → s.pubs[s.inp.a]? = some q →
    let b := (s.reg (0x2000 + 32 * q.ctx + 0x18)).toNat
    let v := s.vers.getD (q.ctx * 16 + q.k) 0 + 1
    let p := 2 ^ 49 + (b / 2 ^ 10 % 2 ^ 38 * 1024 + 64 * q.k)
    let cov (i : Nat) (v : Veil) : Prop := v.at_ ≤ q.at_ ∧ ((q.job ≠ none ∧ v.job = q.job) ∨
      (∃ g, q.gid = some g ∧ (v.gid = some g ∨ ∃ c, (g, c) ∈ v.seen ∧ c ≤ q.at_)) ∨ (i ∈ s.inp.nums ∧ v.at_ ≤ q.look))
    let stays (i : Nat) (v : Veil) : Prop := s.veils[i]? = some v ∧ ¬ cov i v ∧ ∀ (j : Nat) (x : Veil), i < j → s.veils[j]? = some x → x.place = v.place → ¬ cov j x
    ∃ seen : List Veil, (∀ v, v ∈ seen ↔ ∃ i, stays i v) ∧
    (bit b 0 = false → exec .publishVersionAdvance s = .next { s with pubs := s.pubs.eraseIdx s.inp.a, veils := seen }) ∧
    (bit b 0 = true → ∃ t, exec .publishVersionAdvance s = .next t ∧
      t = { s with pubs := s.pubs.eraseIdx s.inp.a, veils := t.veils, hostAts := t.hostAts, vers := s.vers.set (q.ctx * 16 + q.k) v, mem := t.mem, flaws := t.flaws } ∧
      (∀ x ∈ t.veils, x.place ≠ p) ∧ (∀ x ∈ seen, (x.place + 8 ≤ p ∨ p + 8 ≤ x.place) → x ∈ t.veils) ∧ (∀ h ∈ t.hostAts, h ∈ s.hostAts) ∧ memVal t.mem p 8 = v.toNat ∧
      ∀ c, c < p ∨ p + 8 ≤ c → memGet t.mem c = memGet s.mem c)) ∧
  (∀ s : State, Memory.wf s.mem = true → let ctx := s.inp.a % 256
    bit s.inp.v.toNat 0 = true → bit (s.reg (0x2000 + 32 * ctx + 0x18)).toNat 0 = false →
    ∃ t, exec .verbaseWrite s = .next t ∧ ∀ k, k < 16 → t.vers.getD (ctx * 16 + k) 0 = 0 ∧
      memVal t.mem (2 ^ 49 + (s.inp.v.toNat / 2 ^ 10 % 2 ^ 38 * 1024 + 64 * k)) 8 = 0)

/-! ### Traps, contexts, translation, grace periods and trace: majors 0x90 and 0x98 -/

/-- 04 R63 to R66, 19 R309 to R312, R314, R316, 20 R343: a trap saves kind, detail, offset, plane, lanes, path table, planes and parked lanes in the frame, and the
handler starts 8 clk later as one path at HANDLER in plane 0 with every lane that has not exited, at the trapping offset's earlier words either; with no handler, or inside one, the context ends KILLED, and every group of it with
it, and no other group changes (the reports its swapped-out groups keep are handed over, which writes error records while ERRCTL.EN is 1). `trap k` raises kind 6 with detail k; a word that breaks a rule of its form raises kind 1,
with its reason, major, minor, operand and offset and the plane it was fetched from (plane 0 for a common word, 04 R66, Table 5). `rte` restores the frame, and the word of the resume point
issues again (its offset's next plane after `rte.skip`), but for lanes that executed `exit` in the handler, which are in no path, and for planes that
this leaves without a lane; outside a handler it does nothing; no byte outside the group's spill area changes, and none where no entry is spilled. DEDUCED: the lanes of a word that breaks a rule are those its header's guard names (log 13), and the part of `rte` about
lanes that have exited since is read from 01 R11, 02 R23 and 05 R93 (log 26). -/
def Obligations.TrapsEnterTheHandlerAndRteReturns : Prop :=
  (∀ (s : State) (g : Group) (kind : Nat) (detail : W64) (m : Mask),
    (g.frame = none → g.env.handler ≠ 0 → ∃ g' f e, takeTrap s g kind detail m = s.put g' ∧
      g' = { g with frame := some f, paths := [e], planes := g'.planes, parked := [], todo := none, skips := none, follow := none, rcd := Rec.empty, wait := none, late := [], ready := s.clock + 8, busy := 2 } ∧
      f.kind = kind ∧ f.detail = detail ∧ f.ofs = g.ofs ∧ f.plane = g.plane ∧ f.lanes = m ∧ f.paths = g.paths ∧ f.planes = g.planes ∧ f.parked = g.parked ∧
      f.common = g.common ∧ f.late = g.late ∧ f.todo = g.todo.getD [] ∧ f.skips = g.skips ∧ f.rcd = g.rcd ∧ f.noword = false ∧ f.fresh = false ∧
      e.ofs = g.env.handler ∧ e.lanes = ~~~(g.exited ||| g.rcd.exits) ∧ e.held = false ∧ e.stops = [] ∧
      ∀ l, l < 64 → lane (g.exited ||| g.rcd.exits) l = false → g'.planeOf l = 0) ∧
    (g.frame ≠ none ∨ g.env.handler = 0 → takeTrap s g kind detail m = endContext s g.env.ctx 10 (some (kind, detail)))) ∧
  (∀ (s : State) (c st : Nat) (cause : Option (Nat × W64)), (s.ctxs.getD c Ctx.live).status = 0 →
    let t := endContext s c st cause
    (t.ctxs.getD c Ctx.live).status = st ∧ (bit (s.reg 0x14100).toNat 63 = false → t.mem = s.mem ∧ t.regs = s.regs) ∧
    ∀ key g, s.groups.get? key = some g →
      (g.env.ctx = c → t.groups.get? key = some { g with ended := true, wait := none, todo := none, redo := none }) ∧ (g.env.ctx ≠ c → t.groups.get? key = some g)) ∧
  (∀ (w : SY) (s : State) (g : Group), Issues (.trap w) s g →
    exec (.trap w) s = .next (takeTrap (timed (.trap w) s g s) g 6 (BitVec.ofNat 64 (w.imm.toNat % 256)) (lanesFor (.trap w) g))) ∧
  (∀ (i : Instr) (f : Fields) (s : State) (g : Group) (r n : Nat), fieldsOf i = some f → s.group? = some g → illegalOf g.limits i = some (r, n) →
    ∃ d : W64, exec i s = .next (takeTrap s g 1 d (g.active (hdOf i))) ∧ d.toNat / 2 ^ 56 = r % 256 ∧ d.toNat / 2 ^ 48 % 2 ^ 8 = f.major % 256 ∧
      d.toNat / 2 ^ 44 % 2 ^ 4 = f.minor % 16 ∧ d.toNat / 2 ^ 41 % 2 ^ 3 = (if g.common then 0 else g.plane % 8) ∧ d.toNat / 2 ^ 38 % 2 ^ 3 = n % 8 ∧
      d.toNat % 2 ^ 32 = g.ofs % 2 ^ 32) ∧
  (∀ (r n maj mi : Nat) (s : State) (g : Group), s.group? = some g → maj ≠ 0xFE →
    ∃ d : W64, exec (.illegal r n maj mi) s = .next (takeTrap s g 1 d (g.active (unpack s.inp.a).hd)) ∧ d.toNat / 2 ^ 56 = r % 256 ∧ d.toNat / 2 ^ 48 % 2 ^ 8 = maj % 256 ∧
      d.toNat / 2 ^ 44 % 2 ^ 4 = mi % 16 ∧ d.toNat / 2 ^ 41 % 2 ^ 3 = (if g.common then 0 else g.plane % 8) ∧ d.toNat / 2 ^ 38 % 2 ^ 3 = n % 8 ∧ d.toNat % 2 ^ 32 = g.ofs % 2 ^ 32) ∧
  (∀ (w : SY) (s : State) (g : Group),
    (g.frame = none → (Issues (.rte w) s g → exec (.rte w) s = .next (timed (.rte w) s g s)) ∧
      (Issues (.rteSkip w) s g → exec (.rteSkip w) s = .next (timed (.rteSkip w) s g s))) ∧
    (∀ f, g.frame = some f → g.preempt = false → f.late = [] → s.flaws = [] → Memory.wf s.mem = true →
      let gone := (g.exited ||| g.rcd.exits) &&& ~~~f.rcd.exits
      let kept := f.parked.filter (fun x => !lane gone x.1)
      let g0 : Group := { g with paths := f.paths, parked := f.parked, planes := f.planes }
      let left := g0.pathLanes &&& ~~~gone
      let words := (f.plane :: f.todo).filter (fun k => f.common || left &&& g0.inPlane k != 0)
      let back (g' : Group) (todo : List Nat) (n : Option (Nat × Nat)) : Prop :=
        g' = { g with frame := none, paths := (f.paths.map (fun e => { e with lanes := e.lanes &&& ~~~gone })).filter (fun e => e.lanes != 0), planes := f.planes, parked := kept,
                      exited := g.exited ||| g.rcd.exits, common := f.common, plane := f.plane, todo := g'.todo, skips := g'.skips, follow := none, rcd := g'.rcd, late := [], qhandler := false,
                      ready := s.clock + 8, busy := 2 } ∧
        (left ≠ 0 → g'.rcd = { f.rcd with parks := f.rcd.parks.filter (fun x => !lane gone x.1) } ∧ g'.skips = n ∧
          g'.todo = if f.noword ∨ f.fresh then none else some todo) ∧
        (left = 0 → g'.rcd = Rec.empty ∧ g'.todo = none ∧ g'.skips = none)
      let returns (i : Instr) (todo : List Nat) (n : Option (Nat × Nat)) : Prop := ∃ g' t, back g' todo n ∧ exec i s = .next (timed i s g t) ∧ t = { s.put g' with mem := t.mem } ∧
        ((∀ e ∈ g.paths ++ f.paths, e.idx < 16) → t.mem = s.mem) ∧ ∀ c, c < spillPlace s.cur ∨ spillPlace s.cur + 1024 ≤ c → memGet t.mem c = memGet s.mem c
      (Issues (.rte w) s g → returns (.rte w) words f.skips) ∧
      (Issues (.rteSkip w) s g → returns (.rteSkip w) (words.filter (fun k => k != f.plane)) (if f.fresh then some (f.ofs, f.plane) else f.skips))))

/-- 18 R308, 19 R315, R317 to R319, 20 R336 to R338, 22 R360, R366 to R368: what the words of major 0x90 read and change: the fields of the trap frame, the save mask, the end of a
pre-empted group's work, the translations of a context, an invalidation of code, the latest quiescent point, a grace period's wait, a cast-off entry, and a record appended
to a queue, with the answers 0, 1 (full) and 2 (not enabled). MODEL: an appended record stands beside the ring until the distributor takes it, and memory is unchanged (log 35). -/
def Obligations.SystemWords : Prop :=
  ∀ (w : SY) (s : State) (g : Group),
    let a := scalarVal s g w.a
    let mine := (s.far.filter (fun o => o.group == s.cur)).map FarOp.id
    (∀ k : BitVec 3, k.toNat < 4 → Issues (.tinfo k w) s g → WritesScalar (.tinfo k w) s g w.d
      (match g.frame with
        | none => 0
        | some f => [f.kind + b2n g.preempt * 256, f.detail.toNat, f.ofs % 2 ^ 22 + f.plane % 8 * 2 ^ 24 + b2n f.noword * 2 ^ 32, f.lanes.toNat].getD k.toNat 0) 0) ∧
    (Issues (.save w) s g →
      ((∃ f, g.frame = some f ∧ f.kind = 7) → GroupBecomes (.save w) s g { g with saveMask := g.saveMask ||| (w.imm.toNat % 2 ^ 17) }) ∧
      ((∀ f, g.frame = some f → f.kind ≠ 7) → GroupBecomes (.save w) s g g)) ∧
    (Issues (.yield w) s g → (∀ f, g.frame = some f → f.kind ≠ 7) → exec (.yield w) s = .next (timed (.yield w) s g s)) ∧
    (∀ f b r, Issues (.yield w) s g → g.frame = some f → f.kind = 7 → g.preempt = false → s.blocks.get? g.env.block = some b → b.raised = some r →
      exec (.yield w) s = .next (timed (.yield w) s g
        { s with groups := s.groups.set s.cur { g with leaving := true, wait := some .yield, waitNo := s.clock } })) ∧
    (Issues (.tfence w) s g → mine = [] → (∀ c ∈ s.icinvs, c.group ≠ g.gid) → ∃ t, exec (.tfence w) s = .next (timed (.tfence w) s g t) ∧
      t = { s with trans := t.trans, walks := t.walks, groups := s.groups.set s.cur { g with wait := none, pre := [] } } ∧
      (w.scope.toNat < 2 → t.walks = s.walks ∧ t.trans = s.trans.filter (fun x => !(x.ctx == g.env.ctx && x.tile == tileOf s.cur))) ∧
      (2 ≤ w.scope.toNat → t.walks = s.walks.filter (fun x => x.ctx != g.env.ctx) ∧ t.trans = s.trans.filter (fun x => x.ctx != g.env.ctx))) ∧
    (Issues (.icinv w) s g → a + scalarVal s g w.b < 2 ^ 48 → scalarVal s g w.b ≠ 0 → exec (.icinv w) s = .next (timed (.icinv w) s g
      { s with seq := s.seq + 1, icinvs := s.icinvs ++ [⟨s.seq, g.gid, tileOf s.cur, decide (2 ≤ w.scope.toNat), a, scalarVal s g w.b⟩] })) ∧
    (Issues (.icinv w) s g → a < 2 ^ 48 → scalarVal s g w.b = 0 → exec (.icinv w) s = .next (timed (.icinv w) s g s)) ∧
    (Issues (.icinv w) s g → a < 2 ^ 48 → 2 ^ 48 ≤ a + scalarVal s g w.b →
      exec (.icinv w) s = .next (takeTrap (timed (.icinv w) s g s) g tAddr (addrDetail false 0 3 (a + scalarVal s g w.b)) (lanesFor (.icinv w) g))) ∧
    (Issues (.icinv w) s g → 2 ^ 48 ≤ a → exec (.icinv w) s = .next (takeTrap (timed (.icinv w) s g s) g tAddr (addrDetail false 0 3 a) (lanesFor (.icinv w) g))) ∧
    (Issues (.quiesce w) s g → ∃ h, GroupBecomes (.quiesce w) s g
      { g with qhandler := h, quiet := (if mine = [] then some s.clock else g.quiet), qpend := (if mine = [] then g.qpend else g.qpend ++ [mine]) }) ∧
    (Issues (.graceWait w) s g → exec (.graceWait w) s = .next (timed (.graceWait w) s g (s.block g
      (.grace mine (if mine = [] then some s.clock else none) (lowLane (lanesFor (.graceWait w) g)))))) ∧
    (let k := w.imm.toNat % 16
      let al := (s.reg (0x8000 + 128 * g.env.ctx + 8 * k)).toNat
      let since := if mine = [] then some s.clock else none
      Issues (.dfree w) s g → s.ll.replay = none → a < 2 ^ 48 → a % 8 = 0 → localReason false 8 (a + 8 * (al / 2 ^ 48 % 2 ^ 8)) = none →
      (bit al 63 = false → Reports (.dfree w) s s g w.d 2) ∧
      (bit al 63 = true → s.castoffs.length < Config.castoffMax → dfreeWaiters s = [] → ∃ c l, c.k = k ∧ c.obj = BitVec.ofNat 64 a ∧ c.ids = mine ∧
        c.since = since ∧ c.list = none ∧ c.prog = 0 ∧ (bit (s.reg llWin).toNat 63 = false → l = s.ll) ∧
        c.who = whoOf s g (lanesFor (.dfree w) g) ∧ Reports (.dfree w) s { s with castoffs := s.castoffs ++ [c], ll := l } g w.d 0) ∧
      (bit al 63 = true → Config.castoffMax ≤ s.castoffs.length → exec (.dfree w) s = .next (timed (.dfree w) s g (s.block g
        (.dfree w.d (BitVec.ofNat 64 a) k mine since (lowLane (lanesFor (.dfree w) g))))))) ∧
    (∀ p ∈ ([(Instr.launch, 32 + w.imm.toNat % 16, true), (.tpost, 48, false)] : List ((SY → Instr) × Nat × Bool)),
      let q := p.2.1
      let place := slicePlace (tileOf s.cur) a
      let x := memVal s.mem place 64
      let n := if p.2.2 then 1 + x / 2 ^ 117 % 4 + x / 2 ^ 112 % 32 else 1
      let ctl := (s.reg (0x1000 + 32 * q + 8)).toNat
      let st := s.queues.getD q Qst.fresh
      let slots := if q = 48 then 65536 else 2 ^ (ctl % 32)
      Issues (p.1 w) s g → a % 64 = 0 → a + 64 * n ≤ 0x7F0000 → Clean s place (64 * n) →
      ((bit ctl 63 = false ∨ ctl / 2 ^ 8 % 2 ^ 8 ≠ g.env.ctx) → Reports (p.1 w) s s g w.d 2) ∧
      (bit ctl 63 = true → ctl / 2 ^ 8 % 2 ^ 8 = g.env.ctx → slots < st.used + n → Reports (p.1 w) s s g w.d 1) ∧
      (bit ctl 63 = true → ctl / 2 ^ 8 % 2 ^ 8 = g.env.ctx → st.used + n ≤ slots → s.ll.replay = none → gate s (whoOf s g (lanesFor (p.1 w) g)) 5 q = .free → bit (s.reg llWin).toNat 63 = false ∨ roomFor s 2 = true →
        ∃ s1, Reports (p.1 w) s s1 g w.d 0 ∧ s1 = { s with ll := s1.ll, regs := s1.regs, copies := s1.copies, posts := s1.posts, queues := s1.queues } ∧
          s1.reg (0x1000 + 32 * q + 0x18) = s.reg (0x1000 + 32 * q + 0x18) + 1 ∧
          s1.posts = s.posts ++ [⟨q, memBytes s.mem place (64 * n), st.wslot, mine, whoOf s g (lanesFor (p.1 w) g)⟩] ∧
          s1.queues.getD q Qst.fresh = { st with wslot := (st.wslot + n) % slots, used := st.used + n }))

/-- 15 R277, R279 to R281, R284: `trcdis` and `trcen` clear and set the group's trace bit, and an enabled group owes a MARKER; `bkpt` records its code for its lanes while DEN is 1
and does nothing otherwise; `tmark` and `temit` do nothing while TEN is 0, and give the tile a packet of their clock otherwise, which enters the FIFO whole once the clock has passed (15 R278),
or is lost and counted, its group then owing a MARKER; `tflush` pads the FIFO to 64 bytes and drains it to the
ring, each byte to TRCBASE + TRCWP mod the ring's size, as TRCWP rises, while WRAP is 1 or the ring has room; into a ring that is full with WRAP 0 it drains nothing. MODEL: a
packet enters as the clock after its own begins, and deltas count by byte 1 (log 27). -/
def Obligations.TraceWords : Prop :=
  ∀ (w : IM) (s : State) (g : Group),
    let t := tileOf s.cur
    let ctl := (s.reg (0x20000 + 256 * t)).toNat
    let d := s.dbgs.getD t Dbg.idle
    let full := d.fifo ++ List.replicate ((64 - d.fifo.length % 64) % 64) 0
    (Issues (.trcdis w) s g → GroupBecomes (.trcdis w) s g { g with trace := false }) ∧
    (Issues (.trcen w) s g → GroupBecomes (.trcen w) s g { g with trace := true, owes := true }) ∧
    (Issues (.bkpt w) s g → (bit ctl 61 = false → GroupBecomes (.bkpt w) s g g) ∧
      (bit ctl 61 = true → ∃ g', GroupBecomes (.bkpt w) s g g' ∧ g' = { g with rcd := { g.rcd with stops := g'.rcd.stops } } ∧
        ∀ l, g'.rcd.stops.get? l = if lane (lanesFor (.bkpt w) g) l then some (w.imm.toNat % 256) else g.rcd.stops.get? l)) ∧
    (bit ctl 63 = false → (Issues (.tmark w) s g → exec (.tmark w) s = .next (timed (.tmark w) s g s)) ∧
      (Issues (.temit w) s g → exec (.temit w) s = .next (timed (.temit w) s g s))) ∧
    (bit ctl 63 = true → d.due = [] → Issues (.temit w) s g → ∃ x : Due, x.clock = s.clock ∧ x.key = s.cur ∧ x.ty = 7 ∧ x.payload = leBytes 8 (scalarVal s g w.a) ∧
      exec (.temit w) s = .next (timed (.temit w) s g { s with dbgs := s.dbgs.set t { d with due := [x] } })) ∧
    (bit ctl 63 = true → d.due = [] → Issues (.tmark w) s g → ∃ x : Due, x.clock = s.clock ∧ x.key = s.cur ∧ x.ty = 3 ∧ x.payload.length = 24 ∧
      x.payload.drop 16 = leBytes 8 s.clock ∧ exec (.tmark w) s = .next (timed (.tmark w) s g { s with
        dbgs := s.dbgs.set t { d with due := [x] }, groups := s.groups.set s.cur { g with lastMark := s.clock } })) ∧
    (∀ x : Due, d.due = [x] → tileOf x.key = t → x.clock < s.clock → d.owed = 0 → s.groups.get? x.key = some g → (x.ty = 3 ∨ g.owes = false) →
      let k := x.key % 64
      let last := d.seen.getD k d.srise
      let delta := if x.ty = 3 then 0 else x.clock - (if x.mark = [] then max last d.srise else last)
      let db : Nat × List Byte :=
        if delta = 0 then (0, []) else if delta < 256 then (1, leBytes 1 delta) else if delta < 65536 then (2, leBytes 2 delta) else (3, leBytes 8 delta)
      let pkt : List Byte := BitVec.ofNat 8 (x.ty * 16 + db.1 * 4) :: BitVec.ofNat 8 k :: (db.2 ++ x.payload)
      let u := settleTrace s t
      u = { s with dbgs := u.dbgs, groups := u.groups } ∧
      (d.fifo.length + pkt.length ≤ Config.fifoBytes →
        u.dbg t = { d with due := [], fifo := d.fifo ++ pkt, seen := d.seen.set k x.clock } ∧ u.groups.get? x.key = some { g with owes := false, lastMark := if x.ty = 3 then x.clock else g.lastMark }) ∧
      (Config.fifoBytes < d.fifo.length + pkt.length → (u.dbg t).lost = (if d.lost < 65535 then d.lost + 1 else d.lost) ∧
        u.groups.get? x.key = some { g with owes := true })) ∧
    (let n := min full.length Config.fifoBytes
     let size := 2 ^ (ctl % 32)
     let wp := s.reg (0x20000 + 256 * t + 0x10)
     let used := (wp - s.reg (0x20000 + 256 * t + 0x18)).toNat
     let at_ (i : Nat) : Nat := 2 ^ 48 + (s.reg (0x20000 + 256 * t + 8)).toNat % 2 ^ 48 + (wp.toNat + i) % size
     d.due = [] → d.owed = 0 → 16 ≤ ctl % 32 → Memory.wf s.mem = true → Issues (.tflush w) s g →
      (bit ctl 60 = true ∨ used + n ≤ size → ∃ t', exec (.tflush w) s = .next (timed (.tflush w) s g t') ∧
        t' = { s with mem := t'.mem, flaws := t'.flaws, regs := t'.regs, dbgs := t'.dbgs, veils := t'.veils, hostAts := t'.hostAts } ∧
        t'.dbgs.getD t Dbg.idle = { d with fifo := full.drop Config.fifoBytes } ∧
        (∀ a, t'.reg a = if a = 0x20000 + 256 * t + 0x10 then wp + BitVec.ofNat 64 n else s.reg a) ∧
        (∀ i, i < n → memGet t'.mem (at_ i) = full.getD i 0) ∧ ∀ c, (∀ i, i < n → c ≠ at_ i) → memGet t'.mem c = memGet s.mem c) ∧
      (bit ctl 60 = false → size ≤ used → exec (.tflush w) s = .next (timed (.tflush w) s g { s with dbgs := s.dbgs.set t { d with fifo := full } })))

/-! ### Steps of groups and of far words -/

/-- 05 R88, R93, 03 R56, 08 R146, 19 R310, 20 R328, R337: an offset completes only when all its words have issued; each lane that goes on then stands in an entry at its recorded
target (a parked one at its offset, any other at the next offset), in its recorded plane, and a group whose lanes have all gone ends. A blocked group goes on in the clock after its
condition holds. A checked word that a fault strikes counts a correction and writes nothing; its re-execution commits, or fails too and raises RESIDUE.
MODEL: the second execution may commit from 4 clk after the first for every checked word (log 8), and the lanes and the error of a failure come from the schedule (log 22). -/
def Obligations.OffsetsCompleteAndGroupsGoOn : Prop :=
  (∀ (s : State) (g : Group), s.groups.get? s.inp.a = some g → g.todo ≠ some [] ∨ g.wait ≠ none → exec .offsetComplete s = .next s) ∧
  (∀ (s : State) (g : Group) (e : Entry), s.groups.get? s.inp.a = some g → g.todo = some [] → g.wait = none → g.ended = false → g.redo = none → g.late = [] → s.flaws = [] → g.run? = some e →
    g.frame = none → g.preempt = false → bit (s.reg (0x20000 + 256 * tileOf s.inp.a)).toNat 61 = false → bit (s.reg (0x20000 + 256 * tileOf s.inp.a)).toNat 63 = false →
    (∃ l, l < 64 ∧ lane (e.lanes &&& ~~~g.rcd.exits) l = true) → (∀ x ∈ g.paths, x.ofs = e.ofs → x = e) →
    ∃ t g', exec .offsetComplete s = .next t ∧ t.groups.get? s.inp.a = some g' ∧ g'.v = g.v ∧ g'.s = g.s ∧ g'.p = g.p ∧ g'.exited = g.exited ||| (e.lanes &&& g.rcd.exits) ∧
      g'.todo = none ∧ g'.rcd = Rec.empty ∧
      (∀ a, a < spillPlace s.inp.a ∨ spillPlace s.inp.a + 1024 ≤ a → memGet t.mem a = memGet s.mem a) ∧
      ∀ l, l < 64 → lane (e.lanes &&& ~~~g.rcd.exits) l = true →
        g'.planeOf l = (g.rcd.plane.get? l).getD (g.planeOf l) ∧
        ∃ x ∈ g'.paths, lane x.lanes l = true ∧
          x.ofs = (if (g.rcd.parks.get? l).isSome then e.ofs else (g.rcd.next.get? l).getD ((e.ofs + 1) % g.env.stride))) ∧
  (∀ (s : State) (g : Group) (e : Entry), s.groups.get? s.inp.a = some g → g.todo = some [] → g.wait = none → g.ended = false → g.redo = none → g.late = [] → g.run? = some e →
    g.frame = none → g.paths = [e] → e.lanes &&& ~~~g.rcd.exits = 0 →
    ∃ t g', exec .offsetComplete s = .next t ∧ t.groups.get? s.inp.a = some g' ∧ g'.ended = true ∧ g'.paths = [] ∧ g'.v = g.v ∧ t.mem = s.mem) ∧
  (∀ (s : State) (g : Group), s.groups.get? s.inp.a = some g → g.busy = 2 →
    (g.ready ≤ s.clock → exec .handlerEligible s = .next { s with groups := s.groups.set s.inp.a { g with busy := 0 } }) ∧
    (s.clock < g.ready → exec .handlerEligible s = .next s)) ∧
  (∀ (s : State) (g : Group), s.groups.get? s.inp.a = some g → g.redo = none → g.ended = false →
    exec .mod3Retry s = .next { s with groups := s.groups.set s.inp.a { g with struck := some (s.inp.c % 64) } }) ∧
  (∀ (i : Instr) (s t : State) (key : Nat) (g h : Group) (l : Nat), g.struck = some l → t.groups.get? key = some h → h.stalled = false → mod3Checked i = true → illegalOf g.limits i = none →
    lane (g.active (hdOf i)) l = true → h.frame = none → g.frame = none → h.ended = false →
    ∃ r g', struckBy i s key g t = { t with regs := t.regs.set (errWin + 0x158) (t.reg (errWin + 0x158) + 1), groups := t.groups.set key g' } ∧
      g'.redo = some r ∧ g'.v = g.v ∧ g'.s = g.s ∧ g'.p = g.p ∧ g'.status = g.status ∧ r.mask = g.active (hdOf i) ∧ r.status = h.status) ∧
  (∀ (s : State) (g : Group) (r : Retry), s.groups.get? s.inp.a = some g → g.redo = some r →
    ((∃ c, g.issued = some c ∧ s.clock < c + 4) → exec .mod3Retry s = .next s) ∧
    ((∀ c, g.issued = some c → c + 4 ≤ s.clock) →
      (s.inp.b = 0 → ∃ g', exec .mod3Retry s = .next { s with groups := s.groups.set s.inp.a g' } ∧
        g' = { g with v := g'.v, s := g'.s, p := g'.p, status := r.status, bad := g'.bad, redo := none, busy := 0 } ∧
        ((∀ x ∈ r.regs, x.scalar = false ∧ x.lane < 64) → r.regs.Pairwise (fun x y => x.reg ≠ y.reg ∨ x.lane ≠ y.lane) →
          (∀ x ∈ r.regs, g'.vreg x.reg x.lane = x.val.setWidth 32) ∧
          ∀ q l, l < 64 → (∀ x ∈ r.regs, x.reg ≠ q ∨ x.lane ≠ l) → g'.vreg q l = g.vreg q l)) ∧
      (s.inp.b ≠ 0 → ∃ d s1 g1, exec .mod3Retry s = .next (takeTrap s1 g1 5 d r.mask) ∧ d.toNat / 2 ^ 60 = 2 ∧ d.toNat / 2 ^ 52 % 2 ^ 8 = tileOf s.inp.a % 256 ∧
        g1 = { g with redo := none, busy := 0, serial := g.serial - 1 } ∧ s1 = { s with cur := s.inp.a, groups := s.groups.set s.inp.a g1 }))) ∧
  (∀ (s : State) (g : Group) (p : Nat), s.groups.get? s.inp.a = some g → g.ended = false → s.flaws = [] → s.inp.b < 8 → s.inp.c < g.env.stride → s.inp.d = 1 →
    let a := g.env.codeBase + 12 * (s.inp.b * g.env.stride + s.inp.c)
    let t := tileOf s.inp.a
    codeReason g s.inp.b s.inp.c = none → (∀ c ∈ s.icache, c.tile = t → c.ctx = g.env.ctx → c.va ≠ a ∧ c.va ≠ a + 4 ∧ c.va ≠ a + 8) →
    (∀ i, i < 3 → placeOf s t g.env.ctx (a + 4 * i) 2 = some (p + 4 * i)) → (∀ f ∈ s.faults, fetchReq s.inp.a ∉ f.reqs) →
    ∃ r g', exec .instructionFetch s = .next r ∧ r = { s with icache := r.icache, groups := s.groups.set s.inp.a g' } ∧ g' = { g with pre := g'.pre } ∧
      (s.inp.c, s.inp.b, memVal s.mem p 12) ∈ g'.pre ∧ ⟨t, g.env.ctx, a, BitVec.ofNat 32 (memVal s.mem p 4)⟩ ∈ r.icache) ∧
  (∀ (s : State) (g : Group) (w : Wait), s.groups.get? s.inp.a = some g → g.wait = some w → g.ended = false →
    let freed (h : Group) (r : Nat) : State :=
      { s with groups := s.groups.set s.inp.a { h with wait := none, ready := max g.ready (s.clock + 1), busy := r, look := s.clock } }
    ((∃ n thr, w = .ac n thr) ∨ (∃ m, w = .tagAny m) ∨ (∃ m, w = .tagAll m) ∨ w = .st ∨ (∃ ids, w = .fence ids) →
      (waitHolds s s.inp.a g w = true →
        let g0 := match w with | .ac n thr => g.covered s s.inp.a n thr | _ => g
        exec .groupUnblocked s = .next (freed g0 (match w with | .fence _ => 5 | _ => 4))) ∧
      (waitHolds s s.inp.a g w = false → exec .groupUnblocked s = .next s)) ∧
    (∀ n, w = .batch n →
      (waitHolds s s.inp.a g w = false → exec .groupUnblocked s = .next s) ∧
      (waitHolds s s.inp.a g w = true → g.report n = none → exec .groupUnblocked s = .next (freed g 4)) ∧
      (∀ d, waitHolds s s.inp.a g w = true → g.report n = some d → exec .groupUnblocked s =
        .next (takeTrap { s with cur := s.inp.a, groups := s.groups.set s.inp.a { g with merr := none } } { g with merr := none } 5 d g.wordLanes))) ∧
    (∀ a p, w = .barw a p → s.flaws = [] →
      (bit (memVal s.mem a 8) 63 = p → exec .groupUnblocked s = .next s) ∧ (bit (memVal s.mem a 8) 63 ≠ p → exec .groupUnblocked s = .next (freed g 8))) ∧
    (∀ k a v j ids, w = .qpush k a v (some j) ids →
      ((∃ o ∈ s.far, o.id ∈ ids) → exec .groupUnblocked s = .next s) ∧ ((∀ o ∈ s.far, o.id ∉ ids) → exec .groupUnblocked s = .next (freed g 6)))) ∧
  (∀ (s : State) (g : Group), s.groups.get? s.inp.a = some g →
    (g.ended = false → exec .groupEnd s = .next s) ∧
    (∀ b, g.ended = true → (s.ctxs.getD g.env.ctx Ctx.live).status = 0 → g.merr = none → g.pops = [] → s.blocks.get? g.env.block = some b → b.raised = none →
      ((∀ o ∈ s.far, o.group ≠ s.inp.a) → (∀ c ∈ s.copies, c.gid ≠ g.gid) → (∀ c ∈ s.mats, c.gid ≠ g.gid) →
        ∃ t, exec .groupEnd s = .next t ∧ t = { s with
          loops := t.loops
          dbgs := t.dbgs
          groups := s.groups.erase s.inp.a
          blocks := s.blocks.set g.env.block { b with keys := b.keys.set g.env.index none, gone := b.gone ++ [g.env.index] } }) ∧
      ((∃ o ∈ s.far, o.group = s.inp.a) → exec .groupEnd s = .next s)))

/-- 10 R164, R168, R169, R172 to R175, Table 2, 22 R361, R367 to R369: an element of a far word is performed at its home once what holds it has completed, with every other lane of its word that names the same location: a load reads it; a store
writes the highest lane's data; an atomic applies its lanes in order, each receiving what the one before left. Landed data reach D and raise the arrival counter; an acknowledged
store lowers the outstanding-store counter; a grace period that has elapsed releases its waiter; a cast-off entry whose period has elapsed reads ALLOC once, and is discarded there while EN is 0; its
object is then linked to the head of its free list by a compare-and-swap, and the loop begins again where the head has changed. MODEL: two elements name the same location where their homes after translation agree (log 38); a float that lands in a scalar register is extended
with zeros (log 39); a landed lane stays open until its covering wait (log 7). -/
def Obligations.FarElementsArePerformedAndCounted : Prop :=
  (∀ (s : State) (o : FarOp) (e : El) (p : Nat) (sys : Bool), Memory.wf s.mem = true → s.flaws = [] → bit (s.reg llWin).toNat 63 = false → s.ll.replay = none →
    s.far.find? (fun o => o.id == s.inp.a) = some o → o.els[s.inp.b]? = some e → e.performed = false → e.rank = none → s.inp.c ≠ 1 →
    (∀ x ∈ s.far, x.id ∉ o.holds) → earlierShares s o e = false → (∀ f ∈ s.faults, o.id ∉ f.reqs) → s.hostAts = [] →
    xlate s o.who.tile o.who.ctx e.addr (if o.kind = .load then 0 else 1) = some (p, sys) →
    let n := bytesOf o.ty
    let m := memVal s.mem p n
    let quiet (p : Nat) : Prop := isHbm p = true → ∀ x ∈ s.hqueue, pseudoChannel x.1 ≠ pseudoChannel (p - 2 ^ 48)
    let op (m : Nat) (e : El) : Nat := match o.kind with
      | .load => m
      | .store => e.data
      | .atom 1 | .red 1 => minOf o.ty m e.data
      | .atom 2 | .red 2 => maxOf o.ty m e.data
      | .atom 3 => m &&& e.data
      | .atom 4 => m ||| e.data
      | .atom 5 => m ^^^ e.data
      | .atom 6 => e.data
      | .atom 7 => if m = e.cmp then e.data else m
      | _ => addAt o.ty m e.data
    let es := o.els.filter (fun x => !x.performed && decide (o.home s x = o.home s e))
    let before (k : Nat) : Nat := (es.take k).foldl op m
    let back (x : El) : Nat := if o.kind = .store then 0 else match es.findIdx? (fun y => y.lane == x.lane) with | some k => before k | none => 0
    (∀ k, (o.kind = .atom k → k < 8) ∧ (o.kind = .red k → k < 3)) → (∀ x, p ≤ x → x < p + n → quiet x) →
    ∃ t, exec .farAccessAtHome s = .next t ∧ t = { s with mem := t.mem, veils := t.veils, rows := t.rows, far := t.far } ∧
      (o.kind = .load → t.mem = s.mem) ∧ memVal t.mem p n = es.foldl op m % 256 ^ n ∧ (∀ a, a < p ∨ p + n ≤ a → memGet t.mem a = memGet s.mem a) ∧
      (∀ h, o.kind = .store → es.getLast? = some h → memVal t.mem p n = h.data % 256 ^ n) ∧
      t.far = s.far.map (fun x => if x.id = o.id then { o with els := o.els.map (fun x => if x.performed = false ∧ o.home s x = o.home s e then
        { x with performed := true, acked := true, val := back x } else x) } else x)) ∧
  (∀ (s : State) (o : FarOp) (g : Group) (n : Nat), s.far.find? (fun o => o.id == s.inp.a) = some o → o.ac = some n → s.groups.get? o.group = some g → s.inp.b ≠ 1 →
    (∀ e ∈ o.els, e.acked = true ∧ e.landed = false ∧ e.lane < 64) → o.els ≠ [] → s.inp.m = allLanes → o.els.Pairwise (fun a b => a.lane ≠ b.lane) →
    ∃ t g1 g', exec .farLoadLand s = .next t ∧ t = { s with far := s.far.filter (fun x => x.id != o.id), groups := t.groups, castoffs := t.castoffs } ∧
      t.groups.get? o.group = some g' ∧ g' = { g1 with ac := g.ac.set n (g.ac.getD n 0 + 1), opens := g'.opens, fills := g'.fills, look := s.clock, redo := g'.redo, wait := g'.wait, quiet := g'.quiet, qpend := g'.qpend } ∧
      (∀ x ∈ g.opens, x ∈ g'.opens) ∧
      (o.dest.kind = 0 → ∃ f, VectorWritten g g1 o.ty o.dest (maskOf (fun l => o.els.any (fun e => e.lane == l))) f ∧
        ∀ e ∈ o.els, f e.lane = if o.ty.bits < 32 then wrapN 32 (readInt o.ty e.val) else e.val) ∧
      (o.dest.kind = 1 → ∀ e, o.els = [e] → ScalarWritten g g1 o.dest (extS o.ty e.val))) ∧
  (∀ (s : State) (o : FarOp) (g : Group), s.far.find? (fun o => o.id == s.inp.a) = some o → o.ac = none → s.groups.get? o.group = some g →
    ((∀ e ∈ o.els, e.acked = true) → ∃ t g', exec .storeAck s = .next t ∧
      t = { s with far := s.far.filter (fun x => x.id != o.id), groups := t.groups, castoffs := t.castoffs } ∧ t.groups.get? o.group = some g' ∧
      g' = { g with stores := g.stores - 1, wait := g'.wait, quiet := g'.quiet, qpend := g'.qpend }) ∧
    ((∃ e ∈ o.els, e.acked = false) → exec .storeAck s = .next s)) ∧
  (∀ (s : State) (g : Group) (ids : List Nat) (c l : Nat), s.groups.get? s.inp.a = some g → g.wait = some (.grace ids (some c) l) →
    let w : Who := { whoWait s.inp.a g 0 with lane := l }
    (elapsed s g.env.ctx c = false → exec .graceElapse s = .next s) ∧
    (elapsed s g.env.ctx c = true → gate s w 10 0 = .free → exec .graceElapse s = .next { (logEvent s w 10 0 0) with
      groups := s.groups.set s.inp.a { g with wait := none, ready := max g.ready (s.clock + 1), busy := 9, look := s.clock, quiet := some s.clock } })) ∧
  (∀ (s : State) (key : Nat) (g : Group) (d : Opnd) (obj : W64) (k l : Nat) (ids : List Nat) (since : Option Nat), s.castoffs.length < Config.castoffMax → earliest (dfreeWaiters s) = some key →
    s.groups.get? key = some g → g.wait = some (.dfree d obj k ids since l) → postGate s { whoWait key g 0 with lane := l } = .free →
    ∃ t c g', exec .dfreeAppend s = .next t ∧ t = { s with
        ll := t.ll, regs := t.regs, copies := t.copies, castoffs := s.castoffs ++ [c]
        groups := s.groups.set key { g' with wait := none, ready := max g.ready (s.clock + 1), busy := 10, look := s.clock } } ∧
      c.obj = obj ∧ c.k = k ∧ c.ids = ids ∧ c.since = since ∧ c.list = none ∧ c.prog = 0 ∧ ScalarWritten g g' d 0) ∧
  (∀ (s : State) (e : Cast) (c : Nat), s.castoffs.find? (fun e => e.who.ctx == s.inp.a) = some e → e.since = some c →
    let al := (s.reg (0x8000 + 128 * e.who.ctx + 8 * e.k)).toNat
    let head := al / 2 ^ 3 % 2 ^ 45 * 8
    let link := e.obj.toNat + 8 * (al / 2 ^ 48 % 2 ^ 8)
    let becomes (f : Cast) : List Cast := s.castoffs.map (fun x => if x = e then f else x)
    (elapsed s e.who.ctx c = false → exec .castoffReturn s = .next s) ∧
    (elapsed s e.who.ctx c = true → e.list = none → bit (s.reg llWin).toNat 63 = false → s.ll.replay = none →
      (bit al 63 = false → exec .castoffReturn s = .next { s with castoffs := s.castoffs.erase e }) ∧
      (bit al 63 = true → localReason false 8 link = none → localReason false 8 head = none →
        exec .castoffReturn s = .next { s with castoffs := becomes { e with list := some (link, head) } }) ∧
      (bit al 63 = true → localReason false 8 link ≠ none ∨ localReason false 8 head ≠ none →
        ∃ t, exec .castoffReturn s = .next t ∧ t.ctxs = (endContext s e.who.ctx 10 none).ctxs)) ∧
    (∀ a hd, elapsed s e.who.ctx c = true → e.list = some (a, hd) → Memory.wf s.mem = true → s.flaws = [] → s.hostAts = [] → bit (s.reg llWin).toNat 63 = false →
      s.ll.replay = none →
      let quiet (p : Nat) : Prop := ∀ y, p ≤ y → y < p + 8 → isHbm y = true → ∀ x ∈ s.hqueue, pseudoChannel x.1 ≠ pseudoChannel (y - 2 ^ 48)
      (∀ p, e.prog = 0 → placeOf s e.who.tile e.who.ctx hd 0 = some p → quiet p → ∃ t, exec .castoffReturn s = .next t ∧
        t = { s with rows := t.rows, castoffs := becomes { e with prog := 1, head := BitVec.ofNat 64 (memVal s.mem p 8) } }) ∧
      (∀ p, e.prog = 1 → placeOf s e.who.tile e.who.ctx a 1 = some p → quiet p → ∃ t, exec .castoffReturn s = .next t ∧
        t = { s with mem := t.mem, veils := t.veils, rows := t.rows, castoffs := becomes { e with prog := 2 } } ∧
        memVal t.mem p 8 = e.head.toNat ∧ ∀ x, x < p ∨ p + 8 ≤ x → memGet t.mem x = memGet s.mem x) ∧
      (∀ p, 1 < e.prog → placeOf s e.who.tile e.who.ctx hd 1 = some p → memVal s.mem p 8 ≠ e.head.toNat → quiet p → ∃ t, exec .castoffReturn s = .next t ∧
        t = { s with mem := t.mem, veils := t.veils, rows := t.rows, castoffs := becomes { e with prog := 0 } } ∧ ∀ x, memGet t.mem x = memGet s.mem x) ∧
      (∀ p, 1 < e.prog → placeOf s e.who.tile e.who.ctx hd 1 = some p → memVal s.mem p 8 = e.head.toNat → quiet p → ∃ t, exec .castoffReturn s = .next t ∧
        t = { s with mem := t.mem, veils := t.veils, rows := t.rows, castoffs := s.castoffs.erase e } ∧
        memVal t.mem p 8 = e.obj.toNat ∧ ∀ x, x < p ∨ p + 8 ≤ x → memGet t.mem x = memGet s.mem x)))

/-! ### Steps of the distributor, of pre-emption, and of trace and debug -/

/-- 08 R137, 18 R292 to R308, Tables 3 and 5: doorbells and queue control; a record that enters its window is checked in the order of Table 3 and stands with the status of the
first check it fails; a placed block starts its groups at offset 0 with every lane in plane 0 and every register zero but the scalars its launch gives as arguments; a block that has ended sets its completion bit; a launch that
is over adds 1 to its completion word and sets the bit of its status in the next. A record of a context that has ended takes that context's status. DEDUCED: raising EN of a queue
begins its context anew, without the status it ended with (log 16). -/
def Obligations.QueuesLaunchesAndBlocks : Prop :=
  (∀ s : State, (s.inp.a < 32 → bit (s.reg 0x1A008).toNat 63 = true → exec .qtailDoorbell s = .next { s with regs := s.regs.set (0x1000 + 32 * s.inp.a + 0x18) s.inp.v }) ∧
    (bit (s.reg 0x1A008).toNat 63 = false → exec .qtailDoorbell s = .next s)) ∧
  (∀ s : State, let q := s.inp.a
    let v := s.inp.v.toNat
    q ≤ 48 → s.ll.replay = none → bit v 63 = true → bit (s.reg (0x1000 + 32 * q + 8)).toNat 63 = false → ∃ t, exec .qctlWrite s = .next t ∧
      t = { s with regs := t.regs, queues := s.queues.set q Qst.fresh, posts := s.posts.filter (fun p => p.queue != q), ctxs := t.ctxs } ∧
      t.reg (0x1000 + 32 * q + 0x10) = 0 ∧ t.reg (0x1000 + 32 * q + 0x18) = 0 ∧ (t.ctxs.getD (v / 2 ^ 8 % 2 ^ 8) Ctx.live).status = 0 ∧
      (t.reg (0x1000 + 32 * q + 8)).toNat % 32 = max 6 (min 20 (v % 32))) ∧
  (∀ (s : State) (q num h : Nat) (qb : List Byte),
    (h / 2 ^ 416 % 2 ^ 96 ≠ 0 → admission s q num h qb = 1) ∧
    (badRec h = false → (h / 2 ^ 52 % 32 < 4 ∨ 22 < h / 2 ^ 52 % 32) → admission s q num h qb = 2) ∧
    (badRec h = false → badCode h = false → (h / 2 ^ 96 % 128 = 0 ∨ 64 < h / 2 ^ 96 % 128) → admission s q num h qb = 3) ∧
    (badRec h = false → badCode h = false → badShape h = false → 4 < h / 2 ^ 119 % 8 → admission s q num h qb = 4) ∧
    (badRec h = false → badCode h = false → badShape h = false → badRole h = false → badQueue qb = true → admission s q num h qb = 5) ∧
    (badRec h = false → badCode h = false → badShape h = false → badRole h = false → badQueue qb = false → bit h 111 = false → h / 2 ^ 320 % 4 = 0 → admission s q num h qb = 0)) ∧
  (∀ (s s1 : State) (bs : List Byte), s.inp.a < 48 → bit (s.reg llWin).toNat 63 = false → s.ll.replay = none → nextBytes s s.inp.a = some (s1, bs) → s1.ll = s.ll → s1.regs = s.regs →
    let q := s.inp.a
    let hd := 0x1000 + 32 * q + 0x10
    (mayTake s q = false → exec .recordAdmission s = .next s) ∧
    (mayTake s q = true → ∃ t j, exec .recordAdmission s = .next t ∧ t.reg hd = s.reg hd + 1 ∧ t.mem = s1.mem ∧ t.groups = s1.groups ∧ j ∈ t.jobs ∧ j.id = s1.seq ∧ j.queue = q ∧
      j.hdr = leVal (bs.take 64) ∧ j.num = (s.reg hd).toNat ∧ j.next = 0 ∧ j.finished = false ∧
      let dead := (s1.ctxs.getD ((s.reg (0x1000 + 32 * q + 8)).toNat / 2 ^ 8 % 2 ^ 8) Ctx.live).status
      (dead ≠ 0 → j.status = dead) ∧
      (dead = 0 → j.status = admission s1 q (s.reg hd).toNat (leVal (bs.take 64)) ((bs.drop 64).take (64 * (leVal (bs.take 64) / 2 ^ 117 % 4)))))) ∧
  (∀ s : State, choose s = none → exec .blockPlace s = .next s) ∧
  (∀ (s : State) (c : Choice) (tile base : Nat), choose s = some c → bit (s.reg llWin).toNat 63 = false → s.ll.replay = none → c.place.tiles = [tile] → c.place.bases = [base] →
    hG c.job.hdr = 1 → hT c.job.hdr = 1 → (s.reg (0x20000 + 256 * tile)).toNat < 2 ^ 63 →
    ∃ t b g key, exec .blockPlace s = .next t ∧ t.blocks.get? s.seq = some b ∧ b.job = c.job.id ∧ b.linear = c.job.next ∧ b.tiles = [tile] ∧ b.keys = [some key] ∧
      key / 16 = tile * 4 + base % 4 ∧ t.groups.get? key = some g ∧ g.v = [] ∧ g.p = [] ∧ g.status = 0 ∧ g.planes = [] ∧ g.frame = none ∧ g.wait = none ∧
      (∀ r, g.sreg r = c.job.args.getD r 0) ∧ (∃ e, g.paths = [e] ∧ e.ofs = 0 ∧ e.lanes = allLanes) ∧ g.env.linear = c.job.next ∧ g.env.index = 0 ∧ t.lastQ = c.job.queue ∧ t.lastTile = some tile) ∧
  (∀ s : State, s.inp.a ≤ 48 → let q := s.inp.a
    let st := s.queues.getD q Qst.fresh
    let late : Prop := st.aged = true ∨ ∃ c, st.since = some c ∧ c + msClk ≤ s.clock
    (late → exec .queueAging s = .next { s with queues := s.queues.set q { st with aged := true } }) ∧
    (¬ late → (∀ j ∈ windowOf s q, admissible s j = false) → exec .queueAging s = .next { s with queues := s.queues.set q { st with since := none } }) ∧
    (¬ late → (∃ j ∈ windowOf s q, admissible s j = true) →
      exec .queueAging s = .next { s with queues := s.queues.set q { st with since := some (st.since.getD s.clock) } })) ∧
  (∀ (s : State) (b : Block) (j : Job), s.blocks.get? s.inp.a = some b → b.keys.length ≤ b.gone.length → (∀ c ∈ s.mats, c.block ≠ s.inp.a) →
    s.jobs.find? (fun j => j.id == b.job) = some j → bit (s.reg llWin).toNat 63 = false →
    exec .blockEnd s = .next { s with
      blocks := s.blocks.erase s.inp.a
      skeins := s.skeins.filter (fun x => x.2.block != s.inp.a)
      resvs := s.resvs.filter (fun r => !(r.job == b.job && r.block == b.linear))
      jobs := s.jobs.map (fun x => if x.id = j.id then { x with ended := x.ended + 1, bitmap := x.bitmap ||| 2 ^ b.linear } else x) }) ∧
  (∀ (s : State) (b : Block) (j p : Job) (tile tag : Nat), s.blocks.get? s.inp.a = some b → b.early = true → b.out = false → b.gone.length < b.keys.length → b.tiles = [tile] → b.tagBases = [tag] →
    s.jobs.find? (fun j => j.id == b.job) = some j → producerOf s j.queue j.id j.num j.hdr = some p →
    ((∃ x ∈ b.needs, bit p.bitmap x = false) → exec .dependenceTagReady s = .next s) ∧
    ((∀ x ∈ b.needs, bit p.bitmap x = true) →
      let k := tile * 64 + tag + (hSpan b.hdr - 1)
      let x := s.tags.getD k Tag.fresh
      exec .dependenceTagReady s = .next { s with
        blocks := s.blocks.set s.inp.a { b with early := false, needs := [] }
        tags := s.tags.set k { x with count := x.count - 1, ready := decide (x.count ≤ 1) } })) ∧
  (∀ (s : State) (j : Job) (p : Nat), s.jobs.find? (fun j => j.id == s.inp.a) = some j → j.finished = false → Memory.wf s.mem = true → s.flaws = [] → s.hostAts = [] →
    bit (s.reg llWin).toNat 63 = false → s.ll.replay = none → bit j.hdr 126 = false → j.status < 64 →
    let d := j.hdr / 2 ^ 256 % 2 ^ 64
    let quiet (p : Nat) : Prop := ∀ y, p ≤ y → y < p + 16 → isHbm y = true → ∀ x ∈ s.hqueue, pseudoChannel x.1 ≠ pseudoChannel (y - 2 ^ 48)
    (Job.over s j = false → exec .launchComplete s = .next s) ∧
    (Job.over s j = true → d = 0 → ∃ t, exec .launchComplete s = .next t ∧ t = { s with jobs := t.jobs, resvs := s.resvs.filter (fun r => r.job != j.id) } ∧ ∃ j' ∈ t.jobs, j'.id = j.id ∧ j'.finished = true) ∧
    (Job.over s j = true → d ≠ 0 → badDone j.hdr = false → placeOf s midTile j.ctx d 1 = some p → placeOf s midTile j.ctx (d + 8) 1 = some (p + 8) → quiet p →
      ∃ t, exec .launchComplete s = .next t ∧ t = { s with mem := t.mem, rows := t.rows, veils := t.veils, jobs := t.jobs, resvs := s.resvs.filter (fun r => r.job != j.id) } ∧
        memVal t.mem p 8 = (memVal s.mem p 8 + 1) % 2 ^ 64 ∧ memVal t.mem (p + 8) 8 = memVal s.mem (p + 8) 8 ||| 2 ^ j.status ∧
        ∀ a, a < p ∨ p + 16 ≤ a → memGet t.mem a = memGet s.mem a)) ∧
  (∀ s : State, mayTake s 48 = false → exec .taskTake s = .next s) ∧
  (∀ (s s1 s2 : State) (p : Post) (bs : List Byte), mayTake s 48 = true → s.posts.find? (fun p => p.queue == 48) = some p → nextBytes s 48 = some (s1, bs) →
    bit (s.reg llWin).toNat 63 = false → s.ll.replay = none → s1.ll = s.ll → s1.regs = s.regs → enterTask s1 bs p.who.tile = some s2 → s2.ll = s.ll → s2.regs = s.regs →
    (choose (tookRecord s2 48 1) = none → exec .taskTake s = .next (tookRecord s2 48 1)) ∧
    (∀ c, choose (tookRecord s2 48 1) = some c → c.job.queue = 48 → exec .taskTake s = .next (placeBlock (tookRecord s2 48 1) c)))

/-- 19 R318, R320 to R323, 27 R400: PREEMPT is raised in every group of a block whose context has a free swap slot, and nowhere else; a group that has not yielded by p + B is saved
by force with every register, and so is, at once, one of a block with PBUDGET 0 or without a handler; a group that leaves frees its slot once its image is written and its far words have completed; a block that is out is restored where a set serves it, each group with the status, predicates,
arrival counters, lane planes and path table of its image and with the registers the image holds, every other register 0 (19 R323, Table 4).
A tile newly out of service ends the pinned contexts (NEARPIN 1) of the blocks resident on it with KILLED, and raises PREEMPT in the other ones. MODEL: a block is raised by an event of its
own (log 34), and what Block.saved keeps of a group beside its image has no open lane (log 7). -/
def Obligations.PreemptionSwapsBlocksOutAndBack : Prop :=
  (∀ (s : State) (b : Block), s.blocks.get? s.inp.a = some b → (freeSlot s b.ctx = none ∨ b.out = true ∨ b.raised ≠ none) → exec .preemptRaise s = .next s) ∧
  (∀ (s : State) (b : Block) (k : Nat), s.blocks.get? s.inp.a = some b → freeSlot s b.ctx = some k → b.out = false → b.raised = none → b.gone.length < b.keys.length →
    (s.ctxs.getD b.ctx Ctx.live).status = 0 → consumerWaits s b = false →
    ∃ t, exec .preemptRaise s = .next t ∧ t = { s with blocks := s.blocks.set s.inp.a { b with raised := some s.clock, slot := k }, groups := t.groups } ∧
      ∀ key g, s.groups.get? key = some g →
        (g.env.block ≠ s.inp.a → t.groups.get? key = some g) ∧
        (g.env.block = s.inp.a → g.ended = false → g.frame = none → g.env.handler ≠ 0 → hBudget b.hdr ≠ 0 → g.run?.isSome = true → g.wait = none →
            fetchFaulted s key { g with budget := some (s.clock + 64 * hBudget b.hdr) } = false ∨ g.redo ≠ none →
          t.groups.get? key = some { g with preempt := true, budget := some (s.clock + 64 * hBudget b.hdr) }) ∧
        (g.env.block = s.inp.a → g.ended = false → (g.frame = none ∧ g.env.handler = 0) ∨ hBudget b.hdr = 0 → g.wait = none → g.redo = none → g.still = false →
          t.groups.get? key = some { g with budget := some (s.clock + 64 * hBudget b.hdr), saveMask := 2 ^ 16 + (2 ^ ((g.env.vregs + 15) / 16) - 1), forced := true, leaving := true,
                                            preempt := false, qhandler := false })) ∧
  (∀ (s : State) (b : Block) (p : Nat), s.blocks.get? s.inp.a = some b → b.raised = some p → ∃ t, exec .forcedSave s = .next t ∧ t = { s with groups := t.groups } ∧
    ∀ key g, s.groups.get? key = some g →
      (g.env.block ≠ s.inp.a ∨ g.ended = true ∨ g.leaving = true ∨ (s.clock < p + 64 * hBudget b.hdr ∧ g.forced = false) → t.groups.get? key = some g) ∧
      (g.env.block = s.inp.a → g.ended = false → g.leaving = false → p + 64 * hBudget b.hdr ≤ s.clock → g.wait = none → g.redo = none →
        let h : Group := { g with saveMask := 2 ^ 16 + (2 ^ ((g.env.vregs + 15) / 16) - 1), forced := true, leaving := true, preempt := false, qhandler := false }
        t.groups.get? key = some (if g.still then { h with quiet := some s.clock, still := false } else h)) ∧
      (g.env.block = s.inp.a → g.ended = false → g.leaving = false → p + 64 * hBudget b.hdr ≤ s.clock → g.wait = none → g.redo ≠ none →
        t.groups.get? key = some { g with forced := true, preempt := false })) ∧
  (∀ (s : State) (g : Group) (b : Block), s.groups.get? s.inp.a = some g → s.blocks.get? g.env.block = some b →
    (g.leaving = false ∨ (∃ o ∈ s.far, o.group = s.inp.a) → exec .groupLeave s = .next s) ∧
    (g.pops ≠ [] ∨ g.redo ≠ none ∨ (g.wait = none ∧ g.todo = some []) → exec .groupLeave s = .next s) ∧
    (∀ s1 s2 sp k, g.leaving = true → g.ended = false → b.raised ≠ none → mayLeave s s.inp.a g = true → g.bad = [] → spillImage s s.inp.a g = (s1, some sp) →
      writeParts s1 (whoAt s.inp.a g 0) (tileOf s.inp.a) (swapSlot s b.ctx b.slot)
        ((groupImage s1 s.inp.a g).map (fun x => (0x8000 + 0x11000 * g.env.index + x.1, x.2)) ++ [(0x480000 + 1024 * g.env.index, sp)]) = some s2 →
      some k ∈ b.keys.set g.env.index none →
      ∃ t, exec .groupLeave s = .next t ∧ t.groups = s2.groups.erase s.inp.a ∧ t.mem = s2.mem ∧ t.blocks = s2.blocks.set g.env.block { b with
        keys := b.keys.set g.env.index none, saved := b.saved.set g.env.index { g with opens := [], view := [], struck := none, bad := [] } })) ∧
  (∀ (s : State) (b : Block), s.blocks.get? s.inp.a = some b →
    (b.out = false → b.owed = [] → exec .restore s = .next s) ∧
    (b.out = true → b.accDue = false → b.owed = [] → b.gone.length < b.keys.length → b.saved ≠ [] → (s.ctxs.getD b.ctx Ctx.live).status = 0 → s.flaws = [] →
      (mayRestore s s.inp.a = false ∨ restorePlace s s.inp.a b = none → exec .restore s = .next s) ∧
      (∀ pl rs t, mayRestore s s.inp.a = true → restorePlace s s.inp.a b = some (pl, rs) → restoreBlock s s.inp.a b pl = some t →
        exec .restore s = .next { t with resvs := t.resvs.filter (fun v => !(v.job == b.job && v.block == b.linear)) ++ rs } ∧
        ∀ b', t.blocks.get? s.inp.a = some b' → b'.out = false → b'.tiles = pl.tiles))) ∧
  (∀ (s u : State) (key i : Nat) (g h : Group) (b : Block) (pl : Place) (slot : Nat) (sp : List Byte) (q : Nat → Nat),
    h = { g with opens := [], view := [], struck := none, bad := [] } → g.frame = none → g.env.vregs ≤ 256 → (∀ l, g.planeOf l < 8) → sp.length = 1024 →
    (∀ e ∈ g.paths, e.idx < 16 → e.ofs < 2 ^ 22 ∧ e.lanes ≠ 0) → g.paths.Pairwise (fun x y => x.idx ≠ y.idx) →
    u.flaws = [] → bit (u.reg llWin).toNat 63 = false → u.ll.replay = none →
    (∀ a j, a % 65536 + j < 65536 → q (a + j) = q a + j) →
    (∀ x ∈ (groupImage s key g).map (fun x => (0x8000 + 0x11000 * i + x.1, x.2)) ++ [(0x480000 + 1024 * i, sp)], ∀ j, j < x.2.length →
      placeOf u (pl.tiles.getD (i / (hG b.hdr / hT b.hdr)) 0) b.ctx (slot + x.1 + j) 0 = some (q (slot + x.1 + j)) ∧ memGet u.mem (q (slot + x.1 + j)) = x.2.getD j 0 ∧
      (isHbm (q (slot + x.1 + j)) = true → ∀ r ∈ u.hqueue, pseudoChannel r.1 ≠ pseudoChannel (q (slot + x.1 + j) - 2 ^ 48))) →
    ∃ v r, restoreGroups u b pl slot [(i, h)] = some (v, some [(i, (r, sp))]) ∧
      v = { u with rows := v.rows, veils := v.veils, hostAts := v.hostAts, ll := { u.ll with seen := v.ll.seen } } ∧
      r.status = g.status ∧ r.wait = none ∧ r.frame = none ∧ r.ready = u.clock + 1 ∧ r.trace = g.trace ∧ r.abandoned = g.abandoned ∧
      (∀ k, r.pred k = if k < 16 then g.pred k else 0) ∧ (∀ k, k < 16 → r.ac.getD k 0 = g.ac.getD k 0) ∧ (∀ l, l < 64 → r.planeOf l = g.planeOf l) ∧
      (∀ x l, l < 64 → r.vreg x l = if x < g.env.vregs ∧ bit g.saveMask (x / 16) = true then g.vreg x l else 0) ∧
      (∀ x, r.sreg x = if x < 192 ∧ bit g.saveMask 16 = true then g.sreg x else 0) ∧
      (∀ e ∈ g.paths, e.idx < 16 → ∃ e' ∈ r.paths, e' = { e with stamp := e'.stamp }) ∧
      (∀ e' ∈ r.paths, e'.idx < 16 → ∃ e ∈ g.paths, e' = { e with stamp := e'.stamp }) ∧
      (∀ k, k < 48 → let x := leVal ((sp.drop (16 * k)).take 16)
        ((∃ e' ∈ r.paths, e'.idx = 16 + k) ↔ x / 2 ^ 104 % 2 ^ 8 = 1 ∧ x % 2 ^ 64 ≠ 0) ∧
        ∀ e' ∈ r.paths, e'.idx = 16 + k → e'.lanes = BitVec.ofNat 64 x ∧ e'.ofs = leVal ((sp.drop (768 + 4 * k)).take 4) ∧ e'.stamp = x / 2 ^ 80 % 2 ^ 16)) ∧
  (∀ s : State, let a := 0x14140 + 8 * (s.inp.a % 4)
    let s1 : State := { s with regs := s.regs.set a (BitVec.ofNat 64 s.inp.v.toNat) }
    let off (t : Nat) : Prop := t / 64 = s.inp.a % 4 ∧ bit s.inp.v.toNat (t % 64) = true ∧ bit (s.reg a).toNat (t % 64) = false
    let pinned (c : Nat) : Prop := bit (s.reg (0x2000 + 32 * c + 8)).toNat 63 = true
    let hit (b : Block) : Prop := b.out = false ∧ b.gone.length < b.keys.length ∧ ∃ t ∈ b.tiles, off t
    ((∀ k, k < 64 → bit s.inp.v.toNat k = true → bit (s.reg a).toNat k = true) → exec .tileoffWrite s = .next s1) ∧
    (∃ t, exec .tileoffWrite s = .next t ∧ ∀ c, let st := (s.ctxs.getD c Ctx.live).status
      ((∃ x ∈ s.blocks, hit x.2 ∧ x.2.ctx = c) ∧ pinned c → (t.ctxs.getD c Ctx.live).status = if st = 0 then 10 else st) ∧
      (¬ ((∃ x ∈ s.blocks, hit x.2 ∧ x.2.ctx = c) ∧ pinned c) → (t.ctxs.getD c Ctx.live).status = st)) ∧
    (∀ k b, s.blocks = [(k, b)] → hit b → ¬ pinned b.ctx → exec .tileoffWrite s = .next (raisePreempt s1 k)))

/-- 15 R273 to R275, R278, R279, R281, R282, R285, R286, Tables 2, 4, 5 and 7: in a clock that N divides, while SEN is 1, each port of each partition picks its next occupied slot and
takes one SAMPLE of it, with its reason or ISSUED; otherwise nothing is sampled. A MARKER follows 4,096 clk after the last; a packet of an earlier clock enters the FIFO whole or is counted
lost; the drain moves FIFO bytes to the ring in order; packets lost are told by a DROPPED packet; raising TEN or SEN starts the ring again and clears LOST, and raising TEN makes the tile's
groups owe a MARKER; a release lets the held entries of its group run, where its GROUP is one of the tile. MODEL: a released entry passes breakpoints at its offset (log 20); after TEN's rise a
group's 4,096 clk count from there, and a group whose entries are partly held and partly parked shows reason 8, one stopped by a forced save 2 (log 27). -/
def Obligations.TraceAndDebugSteps : Prop :=
  (∀ s : State, let ctl := (s.reg (0x20000 + 256 * s.inp.a)).toNat
    let d := s.dbgs.getD s.inp.a Dbg.idle
    let occ (part : Nat) : List Nat := (s.groups.filter (fun x => x.1 / 16 == s.inp.a * 4 + part)).map (fun x => x.1 % 16)
    let rest (part p : Nat) : List Nat := if (occ part).length = 1 then occ part else (occ part).filter (fun x => x != p)
    let next (xs : List Nat) (last : Nat) : Option Nat := ((List.range 16).map (fun i => (last + 1 + i) % 16)).find? (fun x => xs.contains x)
    let taken (due : List Due) (part port slot : Nat) : Prop := let key := s.inp.a * 64 + part * 16 + slot
      ∀ g, s.groups.get? key = some g → ∃ x ∈ due, x.key = key ∧ x.clock = s.clock ∧ x.ty = 5 ∧
        (g.issued = some s.clock → x.payload = leBytes 16 (g.pathNow key g.wordPlane) ++ leBytes 1 (32 + port * 64)) ∧
        (g.issued ≠ some s.clock → x.payload = leBytes 16 (g.pathNow key (nextPlane s key g)) ++ leBytes 1 (stallReason s key g (s.inp.nums.getD (part * 2 + port) 21) + port * 64))
    (bit ctl 62 = false ∨ s.clock % 2 ^ (ctl / 2 ^ 8 % 16 + 8) ≠ 0 ∨ d.sampled = some s.clock → exec .sample s = .next s) ∧
    (bit ctl 62 = true → s.clock % 2 ^ (ctl / 2 ^ 8 % 16 + 8) = 0 → d.sampled ≠ some s.clock → d.due = [] → ∃ due picks,
      exec .sample s = .next { s with dbgs := s.dbgs.set s.inp.a { d with due := due, picks := picks, sampled := some s.clock } } ∧ (∀ x ∈ due, x.key / 64 = s.inp.a ∧ x.clock = s.clock ∧ x.ty = 5) ∧
      ∀ part, part < 4 → (occ part = [] → ∀ x ∈ due, x.key / 16 ≠ s.inp.a * 4 + part) ∧
        ∀ p, next (occ part) (d.picks.getD (part * 2) 15) = some p → picks.getD (part * 2) 15 = p ∧ taken due part 0 p ∧
          ∀ q, next (rest part p) (d.picks.getD (part * 2 + 1) 7) = some q → picks.getD (part * 2 + 1) 7 = q ∧ taken due part 1 q)) ∧
  (∀ (s : State) (key : Nat) (g : Group) (n : Nat), g.todo = some [] → g.wait = none → g.redo = none → stallReason s key g n = stallReason s key g.complete.1 n) ∧
  (∀ (s : State) (key : Nat) (g : Group) (n : Nat), g.todo ≠ some [] ∨ g.wait ≠ none ∨ g.redo ≠ none →
    (g.paths ≠ [] → (∀ e ∈ g.paths, e.held = true) → stallReason s key g n = 1) ∧
    ((∃ e ∈ g.paths, e.held = false) →
      let still : Prop := s.clock < g.ready
      let moves : Prop := (g.busy = 2 ∧ still) ∨ (g.leaving = true ∧ g.forced = false) ∨ g.wait = some .yield
      let waited : Prop := still ∧ 4 ≤ g.busy ∧ g.busy ≤ 10
      (moves → stallReason s key g n = 2) ∧ (¬ moves → g.ended = true → stallReason s key g n = 3) ∧
      (¬ moves → g.ended = false → ∀ w, g.wait = some w → stallReason s key g n = waitReason w) ∧
      (¬ moves → g.ended = false → g.wait = none → waited → stallReason s key g n = g.busy) ∧
      (¬ moves → g.ended = false → g.wait = none → ¬ waited → g.run? = none → stallReason s key g n = 8) ∧
      (∀ e, ¬ moves → g.ended = false → g.wait = none → ¬ waited → g.run? = some e →
        (g.busy = 11 → still → stallReason s key g n = 11) ∧ (g.busy ≠ 11 → g.redo ≠ none → stallReason s key g n = 12) ∧
        (g.busy ≠ 11 → g.redo = none → s.clock < g.delayed → stallReason s key g n = 13) ∧
        (g.busy ≠ 11 → g.redo = none → g.delayed ≤ s.clock → g.leaving = true → stallReason s key g n = 2)))) ∧
  (∀ (s : State) (g : Group), s.groups.get? s.inp.a = some g → let d := s.dbgs.getD (tileOf s.inp.a) Dbg.idle
    (s.clock < g.lastMark + 4096 ∨ bit (s.reg (0x20000 + 256 * tileOf s.inp.a)).toNat 63 = false → exec .markerTimeout s = .next s) ∧
    (g.lastMark + 4096 ≤ s.clock → bit (s.reg (0x20000 + 256 * tileOf s.inp.a)).toNat 63 = true → d.due = [] → ∃ m,
      exec .markerTimeout s = .next { s with
        groups := s.groups.set s.inp.a { g with lastMark := s.clock }
        dbgs := s.dbgs.set (tileOf s.inp.a) { d with due := [{ clock := s.clock, key := s.inp.a, rank := 0, ty := 3, payload := m, mark := [] }] } } ∧
      m.length = 24 ∧ m.drop 16 = leBytes 8 s.clock)) ∧
  (∀ (s : State) (x : Due) (g : Group), let t := tileOf x.key
    let d := s.dbgs.getD t Dbg.idle
    s.groups.get? x.key = some g → g.owes = false → d.owed = 0 → d.due = [x] → x.clock < s.clock → x.ty ≠ 3 → ∃ p, p.drop (p.length - x.payload.length) = x.payload ∧
      p.getD 1 0 = BitVec.ofNat 8 (x.key % 64) ∧ (x.ty < 16 → (p.getD 0 0).toNat / 16 = x.ty) ∧
      (d.fifo.length + p.length ≤ Config.fifoBytes → settleTrace s t = { s with
        dbgs := (s.dbgs.set t { d with due := [] }).set t { d with due := [], fifo := d.fifo ++ p, seen := d.seen.set (x.key % 64) x.clock } }) ∧
      (Config.fifoBytes < d.fifo.length + p.length → (settleTrace s t).groups = s.groups.set x.key { g with owes := true } ∧
        ((settleTrace s t).dbgs.getD t Dbg.idle).lost = if d.lost < 0xFFFF then d.lost + 1 else d.lost)) ∧
  (∀ s : State, let d := s.dbgs.getD s.inp.a Dbg.idle
    let win := 0x20000 + 256 * s.inp.a
    let size := 2 ^ ((s.reg win).toNat % 32)
    let base := 2 ^ 48 + (s.reg (win + 8)).toNat % 2 ^ 48
    let wp := (s.reg (win + 0x10)).toNat
    let n := s.inp.b
    d.due = [] → d.owed = 0 → Memory.wf s.mem = true → bit (s.reg win).toNat 60 = true → 0 < n → n ≤ Config.fifoBytes → n ≤ d.fifo.length → n ≤ size → wp + n < 2 ^ 64 →
    ∃ t, exec .traceDrain s = .next t ∧ t = { s with mem := t.mem, flaws := t.flaws, veils := t.veils, hostAts := t.hostAts, regs := t.regs, dbgs := t.dbgs } ∧
      t.dbgs.getD s.inp.a Dbg.idle = { d with fifo := d.fifo.drop n } ∧ t.reg (win + 0x10) = BitVec.ofNat 64 (wp + n) ∧
      (∀ i, i < n → memGet t.mem (base + (wp + i) % size) = d.fifo.getD i 0) ∧
      ∀ c, (∀ i, i < n → c ≠ base + (wp + i) % size) → memGet t.mem c = memGet s.mem c) ∧
  (∀ s : State, let d := s.dbgs.getD s.inp.a Dbg.idle
    d.due = [] →
    (d.owed = 0 → exec .dropped s = .next s) ∧
    (d.owed ≠ 0 → d.fifo.length + 14 ≤ Config.fifoBytes → ∃ p, exec .dropped s = .next { s with
      dbgs := s.dbgs.set s.inp.a { d with fifo := d.fifo ++ p, owed := 0, seen := d.seen.set 0xC0 s.clock } } ∧
      p.getD 1 0 = 0xC0 ∧ p.drop (p.length - 4) = leBytes 4 d.owed)) ∧
  (∀ s : State, let win := 0x20000 + 256 * s.inp.a
    let x := trcctlStored s.inp.v.toNat
    (s.dbgs.getD s.inp.a Dbg.idle).due = [] → outsidePool ((s.reg (win + 8)).toNat % 2 ^ 48) (2 ^ (x % 32)) = true →
    ((bit x 63 = true → bit (s.reg win).toNat 63 = true) → (bit x 62 = true → bit (s.reg win).toNat 62 = true) →
      exec .trcctlWrite s = .next { s with regs := s.regs.set win (BitVec.ofNat 64 x) }) ∧
    (bit x 63 = true → bit (s.reg win).toNat 63 = false → ∃ t, exec .trcctlWrite s = .next t ∧ t = { s with regs := t.regs, dbgs := t.dbgs, groups := t.groups } ∧
      t.reg (win + 0x10) = 0 ∧ t.reg (win + 0x18) = 0 ∧ (t.dbgs.getD s.inp.a Dbg.idle).lost = 0 ∧ ∀ key g, s.groups.get? key = some g →
        t.groups.get? key = some (if key / 64 = s.inp.a then { g with owes := true, lastMark := s.clock } else g)) ∧
    (bit x 62 = true → bit (s.reg win).toNat 62 = false → (bit x 63 = true → bit (s.reg win).toNat 63 = true) → ∃ t, exec .trcctlWrite s = .next t ∧
      t = { s with regs := t.regs, dbgs := t.dbgs } ∧ t.reg (win + 0x10) = 0 ∧ t.reg (win + 0x18) = 0 ∧ (t.dbgs.getD s.inp.a Dbg.idle).lost = 0)) ∧
  (∀ (s : State) (g : Group), let v := s.inp.v.toNat
    let key := v / 2 ^ 50 % 2 ^ 14
    let open' (e : Entry) : Entry := { e with held := false, step := bit v 27, pass := true, stops := [] }
    (key / 64 ≠ s.inp.a → exec .dbgcmdRelease s = .next s ∧ exec .dbgcmdReleaseAll s = .next s) ∧
    (key / 64 = s.inp.a → s.groups.get? key = some g → g.frame = none → g.todo = none →
      (v % 4 = 1 → ∃ t, exec .dbgcmdRelease s = .next t ∧ t = { s with
      dbgs := t.dbgs
      groups := s.groups.set key { g with paths := g.paths.map (fun e => if e.held = true ∧ e.ofs = v / 2 ^ 28 % 2 ^ 22 then open' e else e) } }) ∧
      (v % 4 = 2 → ∃ t, exec .dbgcmdReleaseAll s = .next t ∧ t = { s with
      dbgs := t.dbgs
      groups := s.groups.set key { g with paths := g.paths.map (fun e => if e.held = true then open' e else e) } })))

/-! ### Steps of the walker, of Lifeline, of the error and power units, and resets -/

/-- 20 R330, R331, R334, R337, R338, R341 to R344: the checks of one table entry, in their order; a walk that finds a page fills its tile's cache and one that finds no valid table makes
a fault entry; an entry is written in the ring once it has room and EN is 1; an FQACK restarts the walks of its requesters or ends their context; XLINV removes a context's translations.
Two clauses are the model's choice: PAGE_WALK may drop a cached leaf or pointer (log 19), and FQACK_KILLED with b = 1 is how the service cores end a context after a consumption (log 22). -/
def Obligations.WalksFaultsAndTheirAnswers : Prop :=
  (∀ k lvl e, let size := if lvl = 2 then 2 ^ 30 else if bit e 6 then 2 ^ 21 else 65536
    let pa := e / 2 ^ 12 % 2 ^ 36 * 4096
    (bit e 0 = false → walkEntry k lvl e = .fault 1) ∧
    (bit e 0 = true → e / 2 ^ 48 % 2 ^ 16 ≠ 0 ∨ e / 2 ^ 7 % 32 ≠ 0 → walkEntry k lvl e = .fault 4) ∧
    (bit e 0 = true → e / 2 ^ 48 % 2 ^ 16 = 0 → e / 2 ^ 7 % 32 = 0 →
      (bit e 1 = false → (lvl = 3 ∨ e / 2 ^ 2 % 32 ≠ 0 → walkEntry k lvl e = .fault 4) ∧
        (lvl = 1 → e / 2 ^ 2 % 32 = 0 → walkEntry k lvl e = .next pa) ∧
        (lvl = 2 → e / 2 ^ 2 % 32 = 0 → walkEntry k lvl e = if e / 2 ^ 12 % 32 = 0 then .next pa else .fault 4)) ∧
      (bit e 1 = true → lvl = 1 ∨ (lvl = 2 ∧ bit e 6 = true) ∨ (bit e 4 = true ∧ bit e 5 = false) ∨ pa % size ≠ 0 → walkEntry k lvl e = .fault 4) ∧
      (bit e 1 = true → (lvl = 2 ∧ bit e 6 = false) ∨ lvl = 3 → (bit e 4 = true → bit e 5 = true) → pa % size = 0 →
        (bit e 5 = false → 383 * 2 ^ 30 < pa + size → walkEntry k lvl e = .fault 5) ∧
        (bit e 5 = true ∨ pa + size ≤ 383 * 2 ^ 30 →
          (k = 1 → bit e 2 = false → walkEntry k lvl e = .fault 2) ∧ (k = 2 → bit e 3 = false → walkEntry k lvl e = .fault 3) ∧
          ((k = 1 → bit e 2 = true) → (k = 2 → bit e 3 = true) → walkEntry k lvl e = .leaf pa size))))) ∧
  (∀ s : State, let q := s.inp
    let va := q.v.toNat
    let root := (s.reg (0x2000 + 32 * (q.b % 256) + 0x10)).toNat
    let e1 := memVal s.mem (2 ^ 48 + root / 2 ^ 12 % 2 ^ 36 * 4096 + 8 * (va / 2 ^ 39 % 512)) 8
    let e2 (t : Nat) := memVal s.mem (2 ^ 48 + t + 8 * (va / 2 ^ 30 % 512)) 8
    let e3 (t : Nat) := memVal s.mem (2 ^ 48 + t + 8 * (va / 2 ^ 16 % 16384)) 8
    let other := q.nums.headD 0
    let obj := if other = 4 then q.nums.getD 3 0 else if other = 6 then q.nums.getD 3 0 * 2 ^ 64 + q.nums.getD 4 0 % 2 ^ 64 else 0
    let req := if 2 ^ 61 ≤ q.d then agentReq other q.a obj va else q.d
    (q.nums.getD 1 0 = 1 → exec .pageWalk s = .next { s with trans := s.trans.eraseIdx (q.nums.getD 2 0) }) ∧
    (q.nums.getD 1 0 = 2 → exec .pageWalk s = .next { s with walks := s.walks.eraseIdx (q.nums.getD 2 0) }) ∧
    (q.nums.getD 1 0 = 0 → needsWalk s q.a (q.b % 256) va (q.c % 3) req other obj = none → exec .pageWalk s = .next s) ∧
    (∀ w, q.nums.getD 1 0 = 0 → needsWalk s q.a (q.b % 256) va (q.c % 3) req other obj = some w → q.m = 0 → s.flaws = [] → s.walks = [] →
      (bit root 0 = false → (s.ctxs.getD (q.b % 256) Ctx.live).status = 0 →
        exec .pageWalk s = .next (addFault s (q.b % 256) va 1 1 0 (q.c % 3 == 1) (agentOf s req other) (min q.a 255) req)) ∧
      (bit root 0 = false → (s.ctxs.getD (q.b % 256) Ctx.live).status ≠ 0 → exec .pageWalk s = .next s) ∧
      (∀ t2 t3 pa size, bit root 0 = true → walkEntry (q.c % 3) 1 e1 = .next t2 → walkEntry (q.c % 3) 2 (e2 t2) = .next t3 → walkEntry (q.c % 3) 3 (e3 t3) = .leaf pa size →
        ∃ t, exec .pageWalk s = .next t ∧ t = { s with walks := t.walks, trans := t.trans } ∧
          t.trans.head? = some { tile := q.a, ctx := q.b % 256, va := va - va % size, size := size, pa := pa, host := bit (e3 t3) 5, sys := bit (e3 t3) 4, w := bit (e3 t3) 2, x := bit (e3 t3) 3 }))) ∧
  (∀ (s : State) (ctx va kind lvl pte agent tile req : Nat) (wr : Bool), (∀ f ∈ s.faults, ¬ (f.ctx = ctx ∧ f.page = va / 65536)) →
    addFault s ctx va kind lvl pte wr agent tile req = { s with faults := s.faults ++
      [{ ctx := ctx, page := va / 65536, kind := kind, lvl := lvl, pte := BitVec.ofNat 64 pte, wr := wr, agent := agent, tile := tile, count := 1, written := false, reqs := [req] }] }) ∧
  (∀ s : State, let ctl := (s.reg 0x4008).toNat
    let tail := (s.reg 0x4018).toNat
    let size := 2 ^ (ctl % 32)
    let used := (tail + 2 ^ 64 - (s.reg 0x4010).toNat) % 2 ^ 64
    (bit ctl 63 = false ∨ used = size → exec .faultEntryWrite s = .next s) ∧
    (∀ f, (s.faults.filter (fun f => !f.written))[s.inp.a]? = some f → bit ctl 63 = true → used ≠ size → tail + 1 < 2 ^ 64 → Memory.wf s.mem = true →
      ∃ t, exec .faultEntryWrite s = .next t ∧ t = { s with mem := t.mem, flaws := t.flaws, veils := t.veils, hostAts := t.hostAts, regs := t.regs, faults := t.faults } ∧
        t.reg 0x4018 = BitVec.ofNat 64 (tail + 1) ∧ { f with written := true } ∈ t.faults ∧
        let p := 2 ^ 48 + ((s.reg 0x4000).toNat % 2 ^ 48 + 32 * (tail % size))
        memVal t.mem (p + 8) 8 = tail ∧ memVal t.mem (p + 24) 8 = f.pte.toNat ∧ (f.page < 2 ^ 32 → memVal t.mem (p + 16) 8 = f.page * 65536) ∧
        (∀ a, a < p ∨ p + 32 ≤ a → memGet t.mem a = memGet s.mem a))) ∧
  (∀ (s : State) (f : FaultEntry), let v := s.inp.v.toNat
    let ctx := v / 2 ^ 24 % 256
    s.faults.find? (fun f => f.ctx == ctx && f.page == v / 2 ^ 32 % 2 ^ 32) = some f →
    (v % 4 = 1 → exec .fqackRetry s = .next { s with faults := s.faults.filter (fun x => x != f) }) ∧
    (v % 4 = 2 → exec .fqackNomem s = .next (endContext s f.ctx stNomem none)) ∧ (v % 4 = 3 → s.inp.b ≠ 1 → exec .fqackKilled s = .next (endContext s f.ctx stKilled none))) ∧
  (∀ s : State, let v := s.inp.v.toNat
    s.faults.find? (fun f => f.ctx == v / 2 ^ 24 % 256 && f.page == v / 2 ^ 32 % 2 ^ 32) = none →
    exec .fqackRetry s = .next s ∧ exec .fqackNomem s = .next s ∧ (s.inp.b ≠ 1 → exec .fqackKilled s = .next s)) ∧
  (∀ s : State, s.inp.b = 1 → let c := s.inp.v.toNat / 2 ^ 24 % 256
    ((s.ctxs.getD c Ctx.live).doomed = true → exec .fqackKilled s = .next (endContext s c stKilled none)) ∧
    ((s.ctxs.getD c Ctx.live).doomed = false → exec .fqackKilled s = .next s)) ∧
  (∀ s : State, let v := s.inp.v.toNat
    (bit v 0 = true → ∃ t, exec .xlinv s = .next t ∧ t = { s with trans := t.trans, walks := t.walks } ∧ (∀ x, x ∈ t.trans ↔ x ∈ s.trans ∧ x.ctx ≠ v / 2 ^ 24 % 256) ∧
      ∀ x, x ∈ t.walks ↔ x ∈ s.walks ∧ x.ctx ≠ v / 2 ^ 24 % 256) ∧ (bit v 0 = false → exec .xlinv s = .next s)) ∧
  (∀ s : State, let v := s.inp.v.toNat
    let size := max 4 (min 16 (v % 32))
    ((s.reg 0x4000).toNat + 32 * 2 ^ size ≤ 383 * 2 ^ 30 ∨ 384 * 2 ^ 30 ≤ (s.reg 0x4000).toNat → ∃ t, exec .fqctlWrite s = .next t ∧ t = { s with regs := t.regs } ∧
      (t.reg 0x4008).toNat = size + (if bit v 63 then 2 ^ 63 else 0) ∧ (bit v 63 = true → bit (s.reg 0x4008).toNat 63 = false → t.reg 0x4010 = 0 ∧ t.reg 0x4018 = 0)) ∧
    (383 * 2 ^ 30 < (s.reg 0x4000).toNat + 32 * 2 ^ size → (s.reg 0x4000).toNat < 384 * 2 ^ 30 → exec .fqctlWrite s = .next s)) ∧
  (∀ (s : State) (lo len : Nat) (here : Nat → Prop),
    let drops (t : State) : Prop :=
      (∀ x, x ∈ t.icache ↔ x ∈ s.icache ∧ ¬ (here x.tile ∧ x.va / 128 * 128 < lo + len ∧ lo < x.va / 128 * 128 + 128)) ∧
      ∀ key g, s.groups.get? key = some g → ∃ g', t.groups.get? key = some g' ∧ g' = { g with pre := g'.pre } ∧
        ∀ w, w ∈ g'.pre ↔ w ∈ g.pre ∧ ¬ (here (tileOf key) ∧ g.codeAddr w.2.1 w.1 < lo + len ∧ lo < g.codeAddr w.2.1 w.1 + 12)
    (∀ c, s.inp.b = 0 → s.icinvs.find? (fun c => c.id == s.inp.a) = some c → lo = c.lo → len = c.len → (∀ x, here x ↔ c.dev = true ∨ x = c.tile) →
      ∃ t, exec .icinvComplete s = .next t ∧ t = { s with icinvs := t.icinvs, icache := t.icache, groups := t.groups, loops := t.loops } ∧ drops t ∧ ∀ x ∈ t.icinvs, x.id ≠ c.id) ∧
    (s.inp.b = 1 → lo = s.inp.c → len = s.inp.d → (∀ x, here x) →
      ∃ t, exec .icinvComplete s = .next t ∧ t = { s with icache := t.icache, groups := t.groups, loops := t.loops } ∧ drops t))

/-- 26 R381 to R384, R386, R388, R390, R392: a cut is taken after PERIOD or for NOW, holding the frames written since the last and listing the context; raising EN takes cut 0 of the
written CTX and clearing it ends recording; a confirmed cut whose before blocks have ended is sealed in its slot; staged entries stand in their ring and drain in order, and a log half
without room ends recording, FULL set before or not; while the staging ring is full no cut is in progress: one that is taken, or that stands as it would be sealed, is abandoned; a cut is taken for an arriving epoch beyond the latest; a replay runs from a sealed slot whose log is held, over the durable
entries and those still staged, and its end takes the next cut. The model's choice (log 30, DESIGN CHOICE): NOW is answered by cut 0, raising LLCTL.EN starts the slots and the log anew and
leaves records taken before without a number, LLREP reads slots and entries as it does here, and the manifest is loaded with LLREP (b = 1). -/
def Obligations.CutsSealsLogsAndReplays : Prop :=
  (∀ s : State, let ctl := (s.reg 0x14000).toNat
    let st := (s.reg 0x14028).toNat
    let room : Prop := 32 * (s.ll.staged.length + 1) ≤ 2 ^ ((s.reg 0x14020).toNat % 32)
    let loses (t : State) : Prop := t = { s with ll := t.ll, regs := t.regs, copies := t.copies } ∧ t.ll.cut = s.ll.cut + 1 ∧ t.ll.at_ = s.clock ∧
      (∀ c ∈ t.ll.cuts, c.k ≠ s.ll.cut + 1) ∧ t.reg 0x14030 = BitVec.ofNat 64 s.clock ∧ bit (t.reg 0x14028).toNat 61 = true ∧ bit (t.reg 0x14000).toNat 62 = false
    let takes (t : State) : Prop := t = { s with ll := t.ll, regs := t.regs } ∧
      (∃ c, t.ll = { s.ll with cut := s.ll.cut + 1, at_ := s.clock, cuts := s.ll.cuts ++ [c], wrote := [] } ∧ c.k = s.ll.cut + 1 ∧ c.at_ = s.clock ∧ c.confirmed = false ∧
        c.held = s.ll.wrote ∧ c.taken = s.ll.taken ∧ c.manifest = manifestOf s (ctl / 2 ^ 48 % 256)) ∧
      t.reg 0x14030 = BitVec.ofNat 64 s.clock ∧ bit (t.reg 0x14028).toNat 63 = true ∧ bit (t.reg 0x14028).toNat 61 = false ∧ bit (t.reg 0x14000).toNat 62 = false
    let may : Prop := bit ctl 63 = true ∧ bit st 62 = false ∧ s.ll.replay = none
    let due : Prop := (s.ll.at_ + ctl % 2 ^ 14 * 1650000 ≤ s.clock ∧ ∀ c ∈ s.ll.cuts, c.k ≠ s.ll.cut) ∨ (bit ctl 62 = true ∧ s.ll.cuts = [])
    (¬ (may ∧ due) → exec .cut s = .next s) ∧ (may → due → ∃ t, exec .cut s = .next t ∧ (room → takes t) ∧ (¬ room → loses t)) ∧
    (may → s.ll.cuts = [] → ∃ t, exec .llctlNow s = .next t ∧ (room → takes t) ∧ (¬ room → loses t)) ∧
    (¬ (may ∧ s.ll.cuts = []) → ∃ t, exec .llctlNow s = .next t ∧ t = { s with regs := t.regs } ∧ bit (t.reg 0x14000).toNat 62 = true) ∧
    (may → room → takes (arriveEpoch s (ctl / 2 ^ 48 % 256) ((s.ll.cut : Int) + 1))) ∧
    (∀ (ctx : Nat) (e : Int), ¬ may ∨ ctx ≠ ctl / 2 ^ 48 % 256 ∨ e ≤ s.ll.cut → arriveEpoch s ctx e = s)) ∧
  (∀ s : State, let v := s.inp.v.toNat
    let old := (s.reg 0x14000).toNat
    let period := max 10 (min 10000 (v % 2 ^ 14))
    let now := if bit old 62 || bit v 62 then 2 ^ 62 else 0
    (bit v 63 = true → bit old 63 = false → s.flaws = [] → 5 ≤ (s.reg 0x14020).toNat % 32 →
      ∃ t c, exec .llctlEn s = .next t ∧ t.ll.cut = 0 ∧ t.ll.cuts = [c] ∧ c.k = 0 ∧ (mappedFrames s (v / 2 ^ 48 % 256)).2 = some c.held ∧ t.ll.at_ = s.clock ∧
      t.ll.slots = [] ∧ t.ll.staged = [] ∧ (t.reg 0x14000).toNat = 2 ^ 63 + v / 2 ^ 48 % 256 * 2 ^ 48 + period ∧ t.mem = s.mem ∧
      (∀ j ∈ t.jobs, j.ctx = v / 2 ^ 48 % 256 → j.launch = 0) ∧ ∀ key g, s.groups.get? key = some g → t.groups.get? key = some (if g.env.ctx = v / 2 ^ 48 % 256 then { g with env := { g.env with epoch := -1 } } else g)) ∧
    (bit v 63 = false → bit old 63 = false → ∃ t, exec .llctlEn s = .next t ∧ t = { s with regs := t.regs } ∧ (t.reg 0x14000).toNat = v / 2 ^ 48 % 256 * 2 ^ 48 + now + period) ∧
    (bit v 63 = true → bit old 63 = true → bit v 62 = false → exec .llctlEn s = .next (s.setReg 0x14000 (BitVec.ofNat 64 (2 ^ 63 + old / 2 ^ 48 % 256 * 2 ^ 48 + now + period)))) ∧
    (bit v 63 = false → bit old 63 = true → s.ll.cuts = [] → s.ll.staged = [] → ∃ t, exec .llctlEn s = .next t ∧ t = { s with ll := t.ll, regs := t.regs } ∧
      t.ll = { s.ll with replay := none, inRing := 0 } ∧ (t.reg 0x14000).toNat = old / 2 ^ 48 % 256 * 2 ^ 48 + now + period)) ∧
  (∀ s : State, exec .llseal s = .next { s with ll := { s.ll with
    cuts := s.ll.cuts.map (fun c => if c.k = s.inp.v.toNat % 2 ^ 32 then { c with confirmed := true } else c) } }) ∧
  (∀ (s : State) (c : Cut), s.ll.cuts[s.inp.a]? = some c → 2 ^ ((s.reg 0x14020).toNat % 32) < 32 * (s.ll.staged.length + 1) →
    ∃ t, exec .sealCut s = .next t ∧ t = { s with ll := t.ll, regs := t.regs, copies := t.copies } ∧ (∀ x ∈ t.ll.cuts, x.k ≠ c.k) ∧ t.ll.slots = s.ll.slots ∧
      (c.k = s.ll.cut → bit (t.reg 0x14028).toNat 61 = true)) ∧
  (∀ (s : State) (c : Cut), s.ll.cuts[s.inp.a]? = some c → 32 * (s.ll.staged.length + 1) ≤ 2 ^ ((s.reg 0x14020).toNat % 32) →
    (c.confirmed = false ∨ beforeLeft s c.k = true ∨ s.ll.sealing ≠ none → exec .sealCut s = .next s) ∧
    (c.confirmed = true → beforeLeft s c.k = false → s.ll.sealing = none → s.flaws = [] → ∃ images, frameImages s c.k c.held = (s, some images) ∧
      let base := (s.reg 0x14008).toNat
      let ofs := (base % 2 ^ 41 + s.ll.next + 65535) / 65536 * 65536 - base % 2 ^ 41
      let half := (s.reg 0x14010).toNat / 2
      let bs := slotBytes s c images
      let isSlot (x : Slot) : Prop := x.seq = c.k ∧ x.instant = c.at_ ∧ x.frames = c.held ∧ x.stop = ofs + bs.length ∧ x.taken = c.taken ∧ x.manifest = c.manifest
      (half < ofs + bs.length → ∃ t, exec .sealCut s = .next t ∧ bit (t.reg 0x14028).toNat 62 = true ∧ (c.k = s.ll.cut → bit (t.reg 0x14028).toNat 61 = true) ∧
        (∀ x ∈ t.ll.cuts, x.k ≠ c.k) ∧ t.ll.slots = s.ll.slots ∧ t.mem = s.mem) ∧
      (ofs + bs.length ≤ half → bit base 63 = false →
        (toTarget s ofs bs = none → exec .sealCut s = .next s) ∧
        (∀ s2, toTarget s ofs bs = some s2 → c.k < 2 ^ 32 → ∃ t x, exec .sealCut s = .next t ∧ t = { s2 with ll := t.ll, regs := t.regs } ∧ isSlot x ∧
          t.ll = { s.ll with cuts := s.ll.cuts.filter (fun d => d.k != c.k), aside := s.ll.aside.filter (fun a => a.2.1 != c.k), slots := s.ll.slots ++ [x], next := x.stop } ∧
          (t.reg 0x14028).toNat % 2 ^ 32 = c.k ∧ bit (t.reg 0x14028).toNat 63 = !t.ll.cuts.isEmpty)) ∧
      (ofs + bs.length ≤ half → bit base 63 = true → sendLife s false ofs bs = none → exec .sealCut s = .next s) ∧
      (∀ s2, ofs + bs.length ≤ half → bit base 63 = true → sendLife s false ofs bs = some s2 →
        ∃ x, exec .sealCut s = .next { s2 with ll := { s2.ll with sealing := some x } } ∧ isSlot x))) ∧
  (∀ s : State, (s.ll.cuts[s.inp.a]? = none → exec .sealCut s = .next s)) ∧
  (∀ s : State, let at' (i : Nat) := 2 ^ 48 + ((s.reg 0x14020).toNat / 2 ^ 20 % 2 ^ 28 * 2 ^ 20 + 32 * i % 2 ^ ((s.reg 0x14020).toNat % 2 ^ 5))
    let pos := 32 * s.ll.durable.length
    let half := (s.reg 0x14010).toNat / 2
    (s.ll.staged = [] → exec .logDrain s = .next { s with ll := { s.ll with inRing := 0 } }) ∧
    (∀ xs e, s.ll.staged = xs ++ [e] → s.ll.inRing = xs.length → s.inp.b = 1 →
      let p := at' (s.ll.durable.length + xs.length)
      Memory.wf s.mem = true → e.bytes.length = 32 → ∃ t, exec .logDrain s = .next t ∧
        t = { s with mem := t.mem, flaws := t.flaws, veils := t.veils, hostAts := t.hostAts, ll := { s.ll with inRing := xs.length + 1 } } ∧
        memBytes t.mem p 32 = e.bytes ∧ ∀ a, a < p ∨ p + 32 ≤ a → memGet t.mem a = memGet s.mem a) ∧
    (∀ e r, s.ll.staged = e :: r → s.ll.inRing = r.length + 1 → s.inp.a = 1 → s.inp.b = 0 →
      (half < pos + 32 - sealedPos s → ∃ t, exec .logDrain s = .next t ∧ t.ll.staged = [] ∧ t.ll.inRing = 0 ∧ t.ll.cuts = [] ∧ t.ll.replay = none ∧ bit (t.reg 0x14028).toNat 62 = true ∧ bit (t.reg 0x14000).toNat 63 = false ∧ t.mem = s.mem) ∧
      (pos + 32 - sealedPos s ≤ half → bit (s.reg 0x14008).toNat 63 = false → s.flaws = [] →
        let x := LogEntry.ofBytes (memBytes s.mem (at' s.ll.durable.length) 32)
        (toTarget s (logOfs s pos) x.bytes = none → exec .logDrain s = .next s) ∧
        (∀ s2, toTarget s (logOfs s pos) x.bytes = some s2 → exec .logDrain s =
          .next ({ s2 with ll := { s.ll with staged := r, inRing := r.length, durable := s.ll.durable ++ [x] } }.setReg 0x14038 (BitVec.ofNat 64 (pos + 32))))))) ∧
  (∀ s : State, let v := s.inp.v.toNat
    ((∀ x ∈ s.ll.slots, x.seq ≠ v % 2 ^ 32) → exec .llrep s = .next s) ∧
    (∀ x, s.ll.slots.find? (fun x => x.seq == v % 2 ^ 32) = some x →
      let i := x.logpos / 32
      let place (j : Nat) := if bit (s.reg 0x14008).toNat 63 then none else homeOf s 256 (llCtx s) (llTarget s + logOfs s (32 * j)) 0
      let entry (j : Nat) : LogEntry := match place j with
        | some p => LogEntry.ofBytes (memBytes s.mem p 32)
        | none => (s.ll.durable[j]?).getD (LogEntry.ofBytes [])
      (s.inp.b ≠ 1 → bit v 63 = false → exec .llrep s = .next (s.setReg 0x14048 (BitVec.ofNat 64 (v % 2 ^ 32)))) ∧
      (s.inp.b ≠ 1 → bit v 63 = true → (s.reg 0x14010).toNat / 2 + x.logpos < 32 * s.ll.durable.length → exec .llrep s = .next s) ∧
      (s.inp.b ≠ 1 → bit v 63 = true → s.ll.cuts = [] → s.flaws = [] → 32 * s.ll.durable.length ≤ (s.reg 0x14010).toNat / 2 + x.logpos →
        ∃ t, exec .llrep s = .next t ∧ t = { s with
            ll := { s.ll with
              replay := some ((((List.range (s.ll.durable.length - i)).map (fun j => entry (i + j))) ++ s.ll.staged.drop (i - s.ll.durable.length)).filter
                (fun e => decide ((x.seq : Int) ≤ e.epoch)))
              seen := Seen.none, cut := x.seq, wrote := [], taken := x.taken }
            regs := t.regs } ∧
          bit (t.reg 0x14028).toNat 60 = true ∧ bit (t.reg 0x14028).toNat 59 = false ∧ t.reg 0x14048 = BitVec.ofNat 64 (v % 2 ^ 32 + 2 ^ 63)) ∧
      (s.inp.b = 1 → bit v 63 = false → ∃ t, exec .llrep s = .next t ∧
        t = { s with queues := t.queues, jobs := t.jobs, posts := t.posts, castoffs := t.castoffs, pcs := x.manifest.pcs, gens := x.manifest.gens, vers := t.vers, regs := t.regs } ∧
        t.jobs = s.jobs.filter (fun j => j.ctx != llCtx s) ++ x.manifest.jobs ∧ t.posts = s.posts.filter (fun p => p.who.ctx != llCtx s) ++ x.manifest.posts ∧
        t.castoffs = s.castoffs.filter (fun c => c.who.ctx != llCtx s) ++ x.manifest.castoffs))) ∧
  (∀ s : State, (s.ll.replay ≠ some [] → exec .replayEnd s = .next s) ∧
    (s.ll.replay = some [] → bit (s.reg 0x14000).toNat 63 = true → s.ll.cuts = [] → 32 * (s.ll.staged.length + 1) ≤ 2 ^ ((s.reg 0x14020).toNat % 32) → ∃ t c, exec .replayEnd s = .next t ∧ t = { s with ll := t.ll, regs := t.regs } ∧
      t.ll.replay = none ∧ t.ll.cut = s.ll.cut + 1 ∧ t.ll.cuts = [c] ∧ c.k = s.ll.cut + 1 ∧ bit (t.reg 0x14028).toNat 60 = false ∧ ∀ x, x ∈ t.ll.slots ↔ x ∈ s.ll.slots ∧ x.seq ≤ s.ll.cut))

/-- 27 R395 to R399, 28 R402 to R404, R406 to R408: an error waits in its granule until it is read; a read corrects and counts a single error; a worse one is consumed: nothing is delivered,
the reader's group issues no further word, a record of class 2 stands in the error ring, and its context ends with KILLED; a record with no room raises ERRLOST; scrubbing corrects and counts
single errors and records worse ones; counters clear when read; at the end of a round the power arbiter gives out allowances, once, and the levels stand until the round is over; PWRCTL waits
for the round; a pseudo-channel serves row hits first and none before a request of AGEMAX, and the accesses to one 64-byte access in the order of their arrival. The model's choice: a scrubbed
worse error is known and recorded once, ERRSIZE is clamped, and the same read tried again records nothing (log 22, DESIGN CHOICE); POWER_ROUND names the energies, and none counts after it in
its round (log 21). -/
def Obligations.ErrorsPowerAndTheMemoryController : Prop :=
  (∀ s : State, let x := s.inp
    (∀ f : Flaw, f = { unit := x.a, place := granule x.b, worse := x.d == 1, syn := x.v.toNat % 256, known := false } → x.a = 3 ∨ x.a = 5 ∨ x.a = 6 ∧ 2 ^ 48 ≤ x.b ∧ x.b < 2 ^ 60 → unitOf x.b = x.a →
      (∀ y ∈ s.flaws, ¬ (y.unit = f.unit ∧ y.place = f.place)) → exec .softError s = .next { s with flaws := s.flaws ++ [f] }) ∧
    (∀ g, x.a = 1 → s.groups.get? x.b = some g → g.bad = [] → exec .softError s = .next { s with groups := s.groups.set x.b { g with
      bad := [{ scalar := false, reg := x.c / 256, lane := x.c % 64, worse := x.d == 1, syn := x.v.toNat % 256 }] } }) ∧
    (∀ g, x.a = 2 → s.groups.get? x.b = some g → g.bad = [] → exec .softError s = .next { s with groups := s.groups.set x.b { g with
      bad := [{ scalar := true, reg := x.c / 256, lane := 0, worse := x.d == 1, syn := x.v.toNat % 256 }] } }) ∧
    (x.a = 7 → x.d = 0 → (∃ c ∈ s.icache, c.tile = x.c ∧ c.va / 128 = x.b / 128) → ∃ t, exec .softError s = .next t ∧ t = { s with icache := t.icache, regs := t.regs } ∧
      t.reg 0x14238 = s.reg 0x14238 + 1 ∧ ∀ c, c ∈ t.icache ↔ c ∈ s.icache ∧ ¬ (c.tile = x.c ∧ c.va / 128 = x.b / 128)) ∧
    (x.a = 9 ∨ x.a = 10 → exec .softError s = .next (s.setReg (0x14200 + 8 * x.a) (s.reg (0x14200 + 8 * x.a) + 1))) ∧
    (x.a = 8 → x.d = 0 → x.b < s.trans.length → ∃ t, exec .softError s = .next t ∧ t = { s with trans := s.trans.eraseIdx x.b, regs := t.regs } ∧ t.reg 0x14240 = s.reg 0x14240 + 1)) ∧
  (∀ s : State, (bit (s.reg 0x14128).toNat 63 = false → exec .scrub s = .next s) ∧
    (∀ f, bit (s.reg 0x14128).toNat 63 = true → s.flaws[s.inp.a]? = some f → f.unit = 3 ∨ f.unit = 6 →
      (f.worse = false → exec .scrub s = .next ({ s with flaws := s.flaws.eraseIdx s.inp.a }.setReg (0x14200 + 8 * f.unit) (s.reg (0x14200 + 8 * f.unit) + 1))) ∧
      (f.worse = true → f.known = true → exec .scrub s = .next s) ∧
      (f.worse = true → f.known = false → let s1 := { s with flaws := s.flaws.map (fun x => if x = f then { x with known := true } else x) }
        (f.unit = 3 → exec .scrub s = .next (errRecord s1 3 3 (recordAddr f.place) 0 ((f.place - 2 ^ 32) / 2 ^ 23 % 256) 0 (BitVec.ofNat 64 f.syn))) ∧
        (f.unit = 6 → exec .scrub s = .next (errRecord s1 3 6 (recordAddr f.place) 0 255 (stackOf (recordAddr f.place)) (BitVec.ofNat 64 f.syn)))))) ∧
  (∀ (s : State) (cls unit addr ctx tile detail : Nat) (info : W64), let ctl := (s.reg 0x14100).toNat
    let tail := (s.reg 0x14118).toNat
    let size := 2 ^ (ctl % 32)
    let used := (tail + 2 ^ 64 - (s.reg 0x14110).toNat) % 2 ^ 64
    let lost := (s.reg 0x14120).toNat
    let done := errRecord s cls unit addr ctx tile detail info
    (bit ctl 63 = false → done = s) ∧
    (bit ctl 63 = true → size ≤ used → done = s.setReg 0x14120 (BitVec.ofNat 64 (if lost < 65535 then lost + 1 else lost))) ∧
    (bit ctl 63 = true → used < size → Memory.wf s.mem = true → tail + 1 < 2 ^ 64 → s.clock < 2 ^ 64 → addr < 2 ^ 64 → cls < 16 → unit < 16 → detail < 256 → tile < 256 → ctx < 256 →
      let p := 2 ^ 48 + ((s.reg 0x14108).toNat % 2 ^ 48 + 32 * (tail % size))
      done = { s with mem := done.mem, flaws := done.flaws, veils := done.veils, hostAts := done.hostAts, regs := done.regs } ∧ done.reg 0x14118 = BitVec.ofNat 64 (tail + 1) ∧
        memVal done.mem p 8 = info.toNat ∧ memVal done.mem (p + 8) 8 = 2 ^ 32 + ctx * 2 ^ 24 + tile * 2 ^ 16 + cls * 2 ^ 12 + unit * 2 ^ 8 + detail ∧
        memVal done.mem (p + 16) 8 = s.clock ∧ memVal done.mem (p + 24) 8 = addr ∧ ∀ a, a < p ∨ p + 32 ≤ a → memGet done.mem a = memGet s.mem a)) ∧
  (∀ (s : State) (w : Who) (p n : Nat),
    ((∀ f ∈ s.flaws, f.inRange p n = false) → s.readAt w p n = (s, some (memBytes s.mem p n))) ∧
    (∀ f, s.flaws = [f] → f.inRange p n = true → f.worse = false → s.readAt w p n =
      ({ s with flaws := [] }.setReg (0x14200 + 8 * f.unit) (s.reg (0x14200 + 8 * f.unit) + 1), some (memBytes s.mem p n))) ∧
    (∀ f, s.flaws.find? (fun f => f.worse && f.inRange p n) = some f → let c := s.ctxs.getD w.ctx Ctx.live
      (c.spent.contains (w, f.unit, f.place) = true → s.readAt w p n = (s, none)) ∧
      (c.spent.contains (w, f.unit, f.place) = false → ∃ t, s.readAt w p n = (t, none) ∧
        let r := errRecord s 2 f.unit (recordAddr f.place) w.ctx (min w.tile 255) (if f.unit = 6 then stackOf (recordAddr f.place) else w.part) (BitVec.ofNat 64 (f.syn % 256))
        t = { r with ctxs := t.ctxs, groups := t.groups, blocks := t.blocks } ∧ (t.ctxs.getD w.ctx Ctx.live).doomed = true ∧ (t.ctxs.getD w.ctx Ctx.live).status = c.status ∧
          ∀ key g, s.groups.get? key = some g → ∃ g', t.groups.get? key = some g' ∧
            (w.gid = some g.gid → g' = { g with halted := true } ∧ ∀ clock, g'.mayIssue clock = false) ∧ (w.gid ≠ some g.gid → g' = g)))) ∧
  (∀ (w : ME) (s : State) (g : Group) (p : Nat) (f : Flaw), Issues (.ldn w) s g → w.d.kind = 1 → NearElement (scalarVal s g w.a) (effAddr s g w 0) (bytesOf w.ty) →
    p = slicePlace (tileOf s.cur) (effAddr s g w 0).toNat → s.flaws.find? (fun f => f.worse && f.inRange p (bytesOf w.ty)) = some f →
    ∃ t, s.readAt (whoOf s g (lanesFor (.ldn w) g)) p (bytesOf w.ty) = (t, none) ∧ exec (.ldn w) s = .next (timed (.ldn w) s g t)) ∧
  (∀ s : State, s.inp.b = 1 → let c := s.inp.v.toNat / 2 ^ 24 % 256
    (s.ctxs.getD c Ctx.live).doomed = true → (s.ctxs.getD c Ctx.live).status = 0 →
      ∃ t, exec .fqackKilled s = .next t ∧ (t.ctxs.getD c Ctx.live).status = 10 ∧ ∀ key g, t.groups.get? key = some g → g.env.ctx = c → g.ended = true) ∧
  (∀ s : State, (1 ≤ s.inp.a → s.inp.a ≤ 11 → exec .cecntRead s = .next { (s.setReg (0x14200 + 8 * s.inp.a) 0) with reply := leBytes 8 (s.reg (0x14200 + 8 * s.inp.a)).toNat }) ∧
    exec .errlostRead s = .next { (s.setReg 0x14120 0) with reply := leBytes 8 (s.reg 0x14120).toNat }) ∧
  (∀ s : State, let v := s.inp.v.toNat
    let n := max 4 (min 12 (v % 32))
    ((s.reg 0x14108).toNat + 32 * 2 ^ n ≤ 383 * 2 ^ 30 ∨ 384 * 2 ^ 30 ≤ (s.reg 0x14108).toNat → ∃ t, exec .errctlWrite s = .next t ∧ t = { s with regs := t.regs } ∧ (t.reg 0x14100).toNat = n + (if bit v 63 then 2 ^ 63 else 0) ∧
      (bit v 63 = true → bit (s.reg 0x14100).toNat 63 = false → t.reg 0x14110 = 0 ∧ t.reg 0x14118 = 0 ∧ t.reg 0x14120 = 0)) ∧
    (383 * 2 ^ 30 < (s.reg 0x14108).toNat + 32 * 2 ^ n → (s.reg 0x14108).toNat < 384 * 2 ^ 30 → exec .errctlWrite s = .next s)) ∧
  (∀ s : State, let ctl := ((s.pwrNext.getD (s.reg 0x18000))).toNat
    let now (t : Nat) : Pow := if (s.power.getD t Pow.idle).round = s.clock / 1650 then s.power.getD t Pow.idle else Pow.idle
    let e (t : Nat) := max (now t).e (s.inp.nums.getD t 0)
    let thr (t : Nat) : Bool := (now t).thr || (s.pwrDone.isSome && decide ((s.allow.getD t 0).toNat ≤ e t))
    let w (t : Nat) := max (e t * (if thr t then 9000 else 8000)) (ctl / 2 ^ 16 % 2 ^ 16 * 65536 * 8)
    let sum := ((List.range 256).map w).foldl (· + ·) 0
    let r := s.clock / 1650
    (s.clock % 1650 ≠ 1649 ∨ s.pwrDone = some r → exec .powerRound s = .next s) ∧
    (s.clock % 1650 = 1649 → s.pwrDone ≠ some r → ∃ t, exec .powerRound s = .next t ∧
      t = { s with regs := t.regs, pwrNext := none, energy := t.energy, allow := t.allow, freeCtr := t.freeCtr, pwrDone := some r } ∧ (0 < sum → t.freeCtr = s.freeCtr) ∧
      (t.reg 0x18000).toNat = ctl ∧ (t.reg 0x18008).toNat % 2 ^ 32 = s.inp.c % 2 ^ 32 ∧ (t.reg 0x18008).toNat / 2 ^ 48 = ((List.range 256).filter thr).length ∧ exec .powerRound t = .next t ∧ exec .throttle t = .next t ∧
      ∀ k, k < 256 → t.power = s.power ∧ t.energy.getD k 0 = s.energy.getD k 0 + BitVec.ofNat 64 (e k) ∧ (tileOff s k = true → t.allow.getD k 0 = 0) ∧
        (tileOff s k = false → 0 < sum → t.allow.getD k 0 = BitVec.ofNat 64 ((ctl % 2 ^ 16 * 65536 * 8 - s.inp.c * 8000) * w k / sum / 8000)))) ∧
  (∀ (s : State) (k : Nat), (s.power.getD k Pow.idle).round ≠ s.clock / 1650 →
    (s.clock % 1650 = 0 ∨ s.pwrDone = none ∨ (s.allow.getD k 0).toNat ≠ 0 → throttle s k = 0) ∧
    (s.clock % 1650 ≠ 0 → s.pwrDone ≠ none → (s.allow.getD k 0).toNat = 0 → throttle s k = 2)) ∧
  (∀ s : State, s.inp.a < 256 → let r := s.clock / 1650
    let p : Pow := if (s.power.getD s.inp.a Pow.idle).round = r then s.power.getD s.inp.a Pow.idle else Pow.idle
    let e := max p.e s.inp.b
    let a := (s.allow.getD s.inp.a 0).toNat
    (s.pwrDone = some r → exec .throttle s = .next s) ∧
    (s.pwrDone ≠ some r → ∃ level, (s.pwrDone = none ∨ e < a → level = 0) ∧ (s.pwrDone ≠ none → a ≤ e → e < a + a / 8 → level = 1) ∧
      (s.pwrDone ≠ none → a + a / 8 ≤ e → level = 2) ∧
      exec .throttle s = .next { s with power := s.power.set s.inp.a { round := r, e := e, level := level, thr := p.thr || decide (1 ≤ level) } })) ∧
  (∀ s : State, let v := s.inp.v.toNat
    exec .pwrctlWrite s = .next { s with pwrNext := some (BitVec.ofNat 64 (v / 2 ^ 32 % 256 * 2 ^ 32 + v / 2 ^ 16 % 2 ^ 16 * 2 ^ 16 + min (v % 2 ^ 16) 2000)) }) ∧
  (∀ s : State, let p := s.inp.a
    let mine (x : Nat) := s.hqueue.filter (fun r => pseudoChannel r.1 == x)
    (s.inp.c = 0 → p < 384 * 2 ^ 30 → (mine (pseudoChannel p)).length < 32 → exec .hbmRequest s = .next { s with hqueue := s.hqueue ++ [(p, s.clock)] }) ∧
    (∀ r rest, s.inp.c = 1 → s.inp.b < 512 → mine s.inp.b = r :: rest → let h := (s.reg (0x19000 + 256 * (s.inp.b / 64))).toNat
      let serves (x : Nat × Nat) : Prop := ∃ t, exec .hbmRequest s = .next t ∧ t = { s with hqueue := s.hqueue.erase x, rows := t.rows } ∧
        (h % 2 ^ 16 ≠ 0 → bankOf x.1 / 1024 = s.inp.b / 64 → t.rows = s.rows.set (bankOf x.1) (rowOf x.1, s.clock))
      (r.2 + h / 2 ^ 16 % 2 ^ 16 ≤ s.clock → serves r) ∧
      (s.clock < r.2 + h / 2 ^ 16 % 2 ^ 16 → (∀ x, (r :: rest).find? (fun x => rowHit s x.1) = some x → serves x) ∧ ((∀ x ∈ r :: rest, rowHit s x.1 = false) → serves r))) ∧
    (∀ x, s.inp.c = 2 → s.inp.a = 0 → nextRequest s s.inp.b = some x →
      (queuedHit s s.hqueue (bankOf x.1) = true → exec .hbmRequest s = .next s) ∧
      (queuedHit s s.hqueue (bankOf x.1) = false → exec .hbmRequest s = .next { s with rows := s.rows.set (bankOf x.1) (rowOf x.1, s.clock) })) ∧
    (s.inp.c = 2 → 4 < s.inp.a → exec .hbmRequest s = .next s)) ∧
  (∀ (s : State) (k : Nat), k < 8 → s.inp.b = 0 → s.inp.a = 0x19000 + 256 * k → let v := s.inp.v.toNat
    ∃ t, exec .registerWrite s = .next t ∧ t = { s with rows := t.rows, regs := t.regs } ∧ (t.reg (0x19000 + 256 * k)).toNat = max (v / 2 ^ 16 % 2 ^ 16) 64 * 2 ^ 16 + v % 2 ^ 16 ∧
      ∀ x, x ∈ t.rows ↔ ∃ y ∈ s.rows, (y.1 / 1024 ≠ k ∧ x = y) ∨ (y.1 / 1024 = k ∧ rowOpen s y.1 y.2 = true ∧ x = (y.1, y.2.1, max y.2.2 (s.clock - v % 2 ^ 16)))) ∧
  (∀ p, p < 384 * 2 ^ 30 → rowOf p < 24576 ∧ bankOf p < 8192 ∧ bankOf p % 16 = p / 2 ^ 23 % 16 ∧ pseudoChannel p % 2 = p / 2 ^ 22 % 2 ∧ pseudoChannel p / 2 % 32 = p / 2 ^ 14 % 32 ∧
    pseudoChannel p / 64 = (p / 2 ^ 11 % 8) ^^^ (p / 2 ^ 19 % 8)) ∧
  (∀ p q, p < 384 * 2 ^ 30 → q < 384 * 2 ^ 30 → (accessOf p = accessOf q ↔ p / 64 = q / 64)) ∧
  (∀ (s : State) (r : Nat × Nat), s.rows.get? s.inp.a = some r → let idle := (s.reg (0x19000 + 256 * (s.inp.a / 1024))).toNat % 2 ^ 16
    (s.clock < r.2 + idle ∨ queuedHit s s.hqueue s.inp.a = true → exec .idlePrecharge s = .next s) ∧
    (r.2 + idle ≤ s.clock → queuedHit s s.hqueue s.inp.a = false → exec .idlePrecharge s = .next { s with rows := s.rows.erase s.inp.a })) ∧
  (∀ s : State, s.inp.a < 8192 → ∃ t, exec .refresh s = .next t ∧ t = { s with rows := s.rows.erase s.inp.a, regs := t.regs } ∧
    let h := 0x19008 + 256 * (s.inp.a / 1024)
    (t.reg h).toNat % 2 ^ 32 = ((s.reg h).toNat + 1) % 2 ^ 32 ∧ (t.reg h).toNat / 2 ^ 32 = (s.reg h).toNat / 2 ^ 32)

/-- 23 R375, 28 R401, R409: both resets run the same steps, after which every register has its reset value, memory of the device holds zeros, nothing is resident and READY is 1; a write at
an offset with no register changes nothing; a store of the service cores writes its bytes and no other, or, at 0x4000_0000 and up, a register. The model's choice: a reset is one event and
host memory, the schedule and the counter of free values outlive it (log 24), and ERRBASE is stored as written (log 23), both DESIGN CHOICE. -/
def Obligations.ResetsRegisterWritesAndServiceStores : Prop :=
  (∀ s : State, s.inp.b = 0 → Memory.wf s.mem = true → ∃ t, exec .coldReset s = .next t ∧ bit (t.reg 0x1A008).toNat 63 = true ∧ (t.reg 0x1A008).toNat / 2 ^ 56 % 128 = 5 ∧ (t.reg 0x1A008).toNat % 4 = s.inp.a % 4 ∧
    t = { State.reset with sched := s.sched, inp := s.inp, freeCtr := s.freeCtr, seeds := s.seeds, mem := t.mem, regs := t.regs } ∧
    (∀ a, a ≠ 0x1A008 → (∀ k, k < 8 → a ≠ 0x19008 + 256 * k) → t.reg a = State.reset.reg a) ∧ (∀ k, k < 8 → t.reg (0x19008 + 256 * k) = 0x8000000000000000) ∧
    (∀ p, p < 2 ^ 49 → memGet t.mem p = 0) ∧ (∀ p, 2 ^ 49 ≤ p → p < 2 ^ 50 → memGet t.mem p = memGet s.mem p)) ∧
  (∀ s : State, s.inp.b = 0 → s.inp.a = (s.reg 0x1A008).toNat % 4 → exec .warmReset s = exec .coldReset s) ∧
  (∀ s : State, s.inp.b = 0 → s.inp.a % 8 ≠ 0 ∨ 0x30000 ≤ s.inp.a → exec .registerWrite s = .next s) ∧
  (∀ s : State, let v := s.inp.v.toNat
    s.inp.b = 0 →
    (s.inp.a = 0x14108 → v % 2 ^ 48 + 32 * 2 ^ ((s.reg 0x14100).toNat % 32) ≤ 383 * 2 ^ 30 → exec .registerWrite s = .next { s with regs := s.regs.set 0x14108 (BitVec.ofNat 64 (v % 2 ^ 48)) }) ∧
    (s.inp.a = 0x14108 → 384 * 2 ^ 30 ≤ v % 2 ^ 48 → exec .registerWrite s = .next { s with regs := s.regs.set 0x14108 (BitVec.ofNat 64 (v % 2 ^ 48)) }) ∧
    (s.inp.a = 0x14108 → 383 * 2 ^ 30 < v % 2 ^ 48 + 32 * 2 ^ ((s.reg 0x14100).toNat % 32) → v % 2 ^ 48 < 384 * 2 ^ 30 → exec .registerWrite s = .next s) ∧
    (s.inp.a = 0x14118 ∨ s.inp.a = 0x14028 ∨ s.inp.a = 0x4018 ∨ s.inp.a = 0x18008 ∨ s.inp.a = 0x1A008 → exec .registerWrite s = .next s)) ∧
  (∀ s : State, s.inp.b = 1 → s.inp.a = 0x14030 → exec .registerWrite s = .next { s with reply := leBytes 8 (s.reg 0x14030).toNat }) ∧
  (∀ (s : State) (o : Nat), o < 0x30000 → s.inp.a = 0x40000000 + o →
    (s.inp.b = 2 → exec .registerWrite s = .next (registerWrite s o s.inp.v.toNat)) ∧ (s.inp.b = 3 → exec .registerWrite s = .next (registerRead s o s.inp.c)) ∧
    (s.inp.b = 3 → exec .serviceCoreStore s = .next (if s.inp.bytes.length = 8 then registerWrite s o (leVal s.inp.bytes) else s))) ∧
  (∀ s : State, s.inp.b = 2 ∨ s.inp.b = 3 → s.inp.a < 0x40000000 ∨ 0x40030000 ≤ s.inp.a → exec .registerWrite s = .next s) ∧
  (∀ s : State, let n := s.inp.bytes.length
    Memory.wf s.mem = true → s.inp.b = 0 → s.inp.a + n ≤ 384 * 2 ^ 30 → ∃ t, exec .serviceCoreStore s = .next t ∧
      t = { s with mem := t.mem, flaws := t.flaws, veils := t.veils, hostAts := t.hostAts } ∧ (∀ i, i < n → memGet t.mem (2 ^ 48 + s.inp.a + i) = s.inp.bytes.getD i 0) ∧
      ∀ p, p < 2 ^ 48 + s.inp.a ∨ 2 ^ 48 + s.inp.a + n ≤ p → memGet t.mem p = memGet s.mem p) ∧
  (∀ s : State, s.inp.b = 0 → 384 * 2 ^ 30 < s.inp.a + s.inp.bytes.length → exec .serviceCoreStore s = .next s)

/-! ### The machine as a whole -/

/-- 04 R58, R59: every well-formed word reads back from its 96 bits, with every operand and modifier at every value its form admits. -/
def Obligations.EveryWellFormedWordReadsBack : Prop :=
  ∀ i : Instr, i.isWord = true → WellFormed i = true → encode i < 2 ^ 96 ∧ decode Limits.widest (encode i) = i

/-- 04 R58, R59, R64, R66: a 96-bit word that breaks no rule of its form is a well-formed instruction that says every bit of it. -/
def Obligations.ALegalWordIsTheWordOfItsInstruction : Prop :=
  ∀ (w : Nat) (i : Instr), w < 2 ^ 96 → decode Limits.widest w = i → notIllegal i = true → WellFormed i = true ∧ encode i = w

/-- The words the manual writes out decode to what it writes beside them: 04 R67 and its worked examples, 05, 06, 10, 11 R188, 12, 14, 19, 20 R336, 22 and 24
(a sanity statement). -/
def Obligations.TheWrittenWordsDecode : Prop :=
  let h : Hd := { gneg := false, gp := 0, delay := 0, yield := false, lasta := false, lastb := false, pair := false, common := false }
  let z : Opnd := .v 0
  let dec := decode Limits.widest
  dec 0x010000000000000000000000 = .nop h ∧
  dec 0x011180000000000000000002 = .bra { hd := { h with gp := 3 }, d := z, a := z, b := z, ty := .none, disp := 2 } ∧
  dec 0x012000400101700001FFFFEC = .brs 1 { hd := { h with common := true }, d := z, a := .s 5, b := .imm 0, ty := .none, disp := 0xFFFFEC } ∧
  dec 0x100000101101300600000000 = .add { hd := h, d := .s 4, a := .s 4, b := .imm 1, ty := .n64, rm := .rne, sat := false } ∧
  dec 0x300108001001401B00004000 = .vfma { hd := { h with gp := 2, delay := 1 }, d := .v 4, a := .v 5, b := .v 6, c := .v 4, ty := .f32, rm := .rne, sat := false } ∧
  dec 0x300108001001401B00004001 = .illegal 9 0 0x30 0 ∧
  dec 0x401000005002B00302400000 = .vcvtn { hd := h, d := .v 20, a := .v 10, b := .imm 0, ty := .f32, rm := .rne, sat := false, dty := .f8e4, scale := 0 } ∧
  dec 0x504280001102B001C0400000 = .ldf { hd := { h with gp := 5 }, d := .v 4, a := .s 10, b := .imm 0, ty := .n32, scope := .group, ac := 0, glob := true, order := .plain, ofs := 0 } ∧
  dec 0x505380002102B00210200008 = .stf { hd := { h with gp := 7 }, d := .v 8, a := .s 10, b := .imm 0, ty := .n64, scope := .device, ac := 0, glob := false, order := .rel, ofs := 8 } ∧
  dec 0x680000102902D03005050000 = .cp { hd := h, d := .s 10, a := .s 11, b := .s 12, ty := .none, tag := 5, index := 0, scope := .device, param := 0x10000 } ∧
  dec 0x700000000101000000320000 = .qpush { hd := h, d := z, a := .s 4, b := z, ty := .none, tag := 0, index := 3, scope := .tile, param := 0 } ∧
  dec 0x7830000000000002C0130404 = .mma { hd := h, d := z, a := z, b := z, ty := .bf16, tag := 0, index := 1, scope := .tile, param := 0x10404 } ∧
  dec 0x810000102902D03003500002 = .rput { hd := h, d := .s 10, a := .s 11, b := .s 12, ty := .none, tag := 3, index := 5, scope := .group, param := 2 } ∧
  dec 0x90100012D000000000000000 = .tinfo 0 { hd := h, d := .s 180, a := z, b := z, ty := .none, scope := .group, imm := 0 } ∧
  dec 0x907000000102903011000000 = .icinv { hd := h, d := z, a := .s 10, b := .s 12, ty := .none, scope := .device, imm := 0 } ∧
  dec 0x90A000105105400000000003 = .dfree { hd := h, d := .s 20, a := .s 21, b := z, ty := .none, scope := .group, imm := 3 } ∧
  dec 0x983000000000000000000005 = .bkpt { hd := h, d := z, a := z, b := z, ty := .none, rm := .rne, imm := 5 } ∧
  dec 0xFE0000000000000012345678 = .illegal 2 0 0xFE 0 ∧ dec 0 = .illegal 1 0 0 0

/-- 05 R85, 08 R141, 20 R328: a group's turn runs the word at its code address. Where the turn fits into its clock, its next word is found (no spilled entry or breakpoint first, no refused
address), nothing of 15 Table 2 holds it and it reads no register with an error, step is exec of the instruction it decodes to, in the group's own limits, with what surrounds a word: its DELAY
and count, open lanes, a fault of its mod-3 check, the release of the waits that have come to hold, and the clocks of the queues. An event's step is exec of it. A word placed by withFetchWord
runs so in the very next step. Clocks that pass bring nothing about but the publications handed over, samples, packets and MARKERs of the trace, the end of a power round, and entries that enter their ring. The schedule,
the default turn and mayTurn are the model's choice (log 1, DESIGN CHOICE), as is withFetchWord, which stands for the loading of a program (log 2, DESIGN CHOICE). -/
def Obligations.AStepRunsTheDecodedInstruction : Prop :=
  (∀ (s : State) (c key w : Nat) (r : List Turn) (g g1 : Group), s.sched = { clocks := c, act := .issue key } :: r →
    let s0 := ({ s with sched := r } : State).tick c
    s0.groups.get? key = some g → g.mayIssue s0.clock = true → mayTurn s0 key = true → atOffset s0 key g = none → beginOffset (loopCheck s0 key) key g = some g1 →
    let gw := { g1.takeWord with stalled := false }
    let k := if gw.common then 0 else gw.plane
    let sh := headRead (loopCheck s0 key) key g
    let s1 := fetchCorrect sh key gw k gw.ofs
    let gv := gw.swapView
    let i := decode gv.limits w
    codeReason gw k gw.ofs = none → fetchAt sh key gw k gw.ofs = .word w → heldBy s1 key gv i w = none →
    readFlaws { s1 with cur := key } gv i (gv.active (hdOf i)) = [] →
    ∃ t, exec i { s1 with cur := key, inp := { Inp.zero with a := w, nums := timeRegs i }, groups := s1.groups.set key gv } = .next t ∧
      step s = .next (ageAll (unblockAll (restoreView (struckBy i s1 key gv (afterWord t key gv i (unpack w).hd.delay.toNat)) key))) ∧ (gw.view = [] → gv = gw)) ∧
  (∀ s : State, s.sched = [] → defaultTurn (s.tick 1) = none → step s = .next (s.tick 1)) ∧
  (∀ (s : State) (i : Instr) (x : Inp) (c : Nat) (r : List Turn), s.sched = { clocks := c, act := .event i x } :: r → i.isWord = false → notIllegal i = true →
    ∃ t, exec i { ({ s with sched := r } : State).tick c with inp := x, acted := true } = .next t ∧ step s = .next (ageAll (unblockAll t))) ∧
  (∀ (s : State) (n : Nat), s.tick 0 = s ∧ (s.tick n).clock = s.clock + n ∧
    (s.clock % 1650 = 1649 → (s.tick 1).pwrDone = some (s.clock / 1650)) ∧
    (0 < n → (∀ c, s.clock ≤ c → c < s.clock + n → c % 1650 ≠ 1649) → sampling s = [] → (∀ x ∈ s.groups, tenOn s (tileOf x.1) = false) → (∀ x ∈ s.dbgs, (s.dbgs.getD x.1 Dbg.idle).due = []) → s.ll.inRing = s.ll.staged.length →
      (∀ h ∈ s.shadows, h.due = false) → s.tick n = { s with clock := s.clock + n, acted := false, went := [] })) ∧
  (∀ w, w < 2 ^ 96 → ∃ s1 g1 t, s1.group? = some g1 ∧ g1.limits = Limits.widest ∧ g1.ofs = 0 ∧ exec (decode Limits.widest w) s1 = .next t ∧
    step (State.reset.withFetchWord 96 w) = .next (ageAll (unblockAll (restoreView (afterWord t 0 g1 (decode Limits.widest w) (unpack w).hd.delay.toNat) 0))))

/-- The machine never stops: every word answers a next state for a resident group, with no group it is the model's own fault, every event answers a
next state, and so does every step (04 R65, 19 R310: a word that breaks a rule traps; log 8: an event that cannot happen yet changes nothing). -/
def Obligations.EveryStepGoesOn : Prop :=
  (∀ (i : Instr) (s : State) (g : Group), s.group? = some g → ∃ t, exec i s = .next t) ∧
  (∀ (i : Instr) (s : State), i.isWord = false → notIllegal i = true → ∃ t, exec i s = .next t) ∧
  (∀ (i : Instr) (s : State), i.isWord = true → s.group? = none → exec i s = .fault .noGroup) ∧
  ∀ s : State, Goes s

/-- 09 R152: the one byte store keeps its canonical form (equal memories are equal data) under every step from every state. -/
def Obligations.EveryStepKeepsTheMemoryForm : Prop := ∀ s t : State, s.inv = true → step s = .next t → t.inv = true

/-- 28 R401, R409, 14 R255 and the reset columns of 18, 19, 20, 21, 26, 27 and 28: what reset leaves. No byte of memory is listed, nothing is resident or in flight, every register of a
window reads its reset value, and PMAP is the identity. (What its table states no value for is the model's choice: log 4.) -/
def Obligations.ResetLeavesItsStatedValues : Prop :=
  let s := State.reset
  s.inv = true ∧ (∀ a, memGet s.mem a = 0) ∧ s.groups = [] ∧ s.blocks = [] ∧ s.jobs = [] ∧ s.far = [] ∧ s.copies = [] ∧ s.mats = [] ∧ s.faults = [] ∧ s.trans = [] ∧ s.flaws = [] ∧
  s.clock = 0 ∧ s.pmap = 0xE4 ∧ s.dead = 0 ∧ s.reg 0x14000 = 0x64 ∧ s.reg 0x14128 = 0x80000000001803E8 ∧ s.reg 0x18000 = 0x0000000C000407D0 ∧
  (∀ c, c < 256 → s.reg (0x2000 + 32 * c + 8) = 0x8000000000000000 ∧ s.reg (0x2000 + 32 * c + 0x10) = 0) ∧ (∀ k, k < 8 → s.reg (0x19000 + 256 * k) = 0x020000C8 ∧ s.reg (0x19008 + 256 * k) = 0) ∧
  (∀ q, q < 49 → s.reg (0x1000 + 32 * q + 8) = 0) ∧ s.reg 0x10000 = 0 ∧ s.reg 0x14100 = 0 ∧ s.reg 0x1A008 = 0 ∧ ∀ t, t < 256 → s.energy.getD t 0 = 0 ∧ s.reg (0x20000 + 256 * t) = 0

/-- 02 R28: a group's registers stay with it and are not shared. Whatever a word does, every other resident group of the machine stays, with its vector and scalar registers, its predicates
and its %status as they were. -/
def Obligations.NoWordWritesAnotherGroupsRegisters : Prop :=
  ∀ (i : Instr) (s t : State) (key : Nat) (g : Group), i.isWord = true → exec i s = .next t → key ≠ s.cur → s.groups.get? key = some g →
    ∃ g', t.groups.get? key = some g' ∧ g'.v = g.v ∧ g'.s = g.s ∧ g'.p = g.p ∧ g'.status = g.status ∧ g'.env = g.env ∧ g'.frame = g.frame
end

