-- ==== Sys2Proof/Laws/Tables.lean ====
section
/-! SUPPORT. Reading a sparse table after it is set, erased or mapped. None of these needs the keys to be in order. -/

namespace Sys2Proof

theorem Tab.get?_set_self {α : Type} (t : Tab α) (k : Nat) (v : α) : (t.set k v).get? k = some v := by
  induction t with
  | nil => simp [Tab.set, Tab.get?]
  | cons x r ih =>
    obtain ⟨i, y⟩ := x
    by_cases h1 : k < i
    · simp [Tab.set, Tab.get?, h1]
    · by_cases h2 : i = k
      · simp [Tab.set, Tab.get?, h2]
      · simp [Tab.set, Tab.get?, h1, h2, ih]

theorem Tab.get?_set_ne {α : Type} (t : Tab α) (k j : Nat) (v : α) (h : j ≠ k) : (t.set k v).get? j = t.get? j := by
  induction t with
  | nil => simp [Tab.set, Tab.get?, Ne.symm h]
  | cons x r ih =>
    obtain ⟨i, y⟩ := x
    by_cases h1 : k < i
    · simp only [Tab.set, h1, if_true, Tab.get?, Ne.symm h, if_false]
      by_cases h3 : j < k
      · have h4 : j < i := Nat.lt_trans h3 h1
        have h5 : i ≠ j := by omega
        simp [h3, h4, h5]
      · simp [h3]
    · by_cases h2 : i = k
      · subst h2; simp [Tab.set, Tab.get?, Ne.symm h]
      · simp [Tab.set, Tab.get?, h1, h2, ih]

theorem Tab.getD_set_self {α : Type} (t : Tab α) (k : Nat) (v d : α) : (t.set k v).getD k d = v := by
  induction t with
  | nil => simp [Tab.set, Tab.getD]
  | cons x r ih =>
    obtain ⟨i, y⟩ := x
    by_cases h1 : k < i
    · simp [Tab.set, Tab.getD, h1]
    · by_cases h2 : i = k
      · simp [Tab.set, Tab.getD, h2]
      · simp [Tab.set, Tab.getD, h1, h2, ih]

theorem Tab.getD_set_ne {α : Type} (t : Tab α) (k j : Nat) (v d : α) (h : j ≠ k) : (t.set k v).getD j d = t.getD j d := by
  induction t with
  | nil => simp [Tab.set, Tab.getD, Ne.symm h]
  | cons x r ih =>
    obtain ⟨i, y⟩ := x
    by_cases h1 : k < i
    · simp only [Tab.set, h1, if_true, Tab.getD, Ne.symm h, if_false]
      by_cases h3 : j < k
      · have h4 : j < i := Nat.lt_trans h3 h1
        have h5 : i ≠ j := by omega
        simp [h3, h4, h5]
      · simp [h3]
    · by_cases h2 : i = k
      · subst h2; simp [Tab.set, Tab.getD, Ne.symm h]
      · simp [Tab.set, Tab.getD, h1, h2, ih]

/-- A map that keeps the keys changes the value at each key and nothing else. -/
theorem Tab.get?_map {α β : Type} (t : Tab α) (f : Nat → α → β) (k : Nat) :
    Tab.get? (t.map (fun x => (x.1, f x.1 x.2))) k = (t.get? k).map (f k) := by
  induction t with
  | nil => simp [Tab.get?]
  | cons x r ih =>
    obtain ⟨i, y⟩ := x
    by_cases h2 : i = k
    · simp [Tab.get?, h2]
    · by_cases h1 : k < i
      · simp [Tab.get?, h1, h2]
      · simp [Tab.get?, h1, h2]; simpa using ih

/-- A map that replaces the values for which a test holds. -/
theorem Tab.get?_map_if {α : Type} (t : Tab α) (q : α → Prop) [DecidablePred q] (f : α → α) (k : Nat) :
    Tab.get? (t.map (fun x => if q x.2 then (x.1, f x.2) else x)) k = (t.get? k).map (fun a => if q a then f a else a) := by
  rw [← Tab.get?_map t (fun _ a => if q a then f a else a) k]
  congr 1
  apply List.map_congr_left
  intro x _
  split <;> rfl

end Sys2Proof
end

