-- ==== Sys2Proof/Laws/Exec.lean ====
section
/-! SUPPORT. Everything the execution of a word can do, once for each shared operation: `runWord`, `groupWord`, `statWord`, `takeTrap`, `logEvent`. -/

namespace Sys2Proof.Machine
open Sys2Proof

/-! ### runWord -/

/-- A word with no group to execute it is the model's one fault. -/
theorem runWord_noGroup (i : Instr) (s : State) (e : State → Group → State) (b : State → Group → Mask → Res) (h : s.group? = none) :
    runWord i s e b = .fault .noGroup := by
  simp [runWord, h]

/-- A word that breaks a rule of its form traps before anything else (04 R65). -/
theorem runWord_illegal (i : Instr) (s : State) (g : Group) (e : State → Group → State) (b : State → Group → Mask → Res) (r n : Nat)
    (h : s.group? = some g) (hl : illegalOf g.limits i = some (r, n)) :
    runWord i s e b = .next (takeTrap s g tIllegal
      (illegalDetail g r n ((fieldsOf i).getD (unpack 0)).major ((fieldsOf i).getD (unpack 0)).minor) (g.active (hdOf i))) := by
  simp [runWord, h, hl]

/-- A word whose mask is empty has the effect of 08 R147. -/
theorem runWord_empty (i : Instr) (s : State) (g : Group) (e : State → Group → State) (b : State → Group → Mask → Res)
    (h : s.group? = some g) (hl : illegalOf g.limits i = none) (hm : g.active (hdOf i) = 0) (hi : maskIndependent i = false) :
    runWord i s e b = .next (e s g) := by
  simp [runWord, h, hl, hm, hi]

theorem mask_test (i : Instr) (g : Group) (h : g.active (hdOf i) ≠ 0 ∨ maskIndependent i = true) :
    ¬ (g.active (hdOf i) = 0 ∧ maskIndependent i = false) := by
  rcases h with h | h
  · exact fun x => h x.1
  · simp [h]

/-- A word that issues and whose body is performed: the body's state, with the log entry of a timed read. -/
theorem runWord_ok (i : Instr) (s t : State) (g : Group) (e : State → Group → State) (b : State → Group → Mask → Res)
    (h : Issues i s g) (hb : b s g (lanesFor i g) = .ok t) : runWord i s e b = .next (timed i s g t) := by
  obtain ⟨hc, hl, hm, he⟩ := h
  have hm' := mask_test i g hm
  simp only [lanesFor] at hb
  simp only [runWord, hc, hl, hm', if_false, hb]
  simp only [eventFree, Bool.and_eq_true, beq_iff_eq] at he
  simp [he.1, timed]

/-- A word whose body traps enters the handler, or ends the context (19 R310 to R312), with the log entry of a timed read. -/
theorem runWord_trap (i : Instr) (s s' : State) (g : Group) (e : State → Group → State) (b : State → Group → Mask → Res) (k : Nat) (d : W64)
    (h : Issues i s g) (hb : b s g (lanesFor i g) = .trap s' k d) :
    runWord i s e b = .next (takeTrap (timed i s g s') ((s'.group?).getD g) k d (lanesFor i g)) := by
  obtain ⟨hc, hl, hm, he⟩ := h
  have hm' := mask_test i g hm
  simp only [lanesFor] at hb ⊢
  simp only [runWord, hc, hl, hm', if_false, hb]
  simp only [eventFree, Bool.and_eq_true, beq_iff_eq] at he
  simp [he.2, timed]

/-- A word that cannot issue in this clock goes back to the head of its offset's words. -/
theorem runWord_stall (i : Instr) (s : State) (g : Group) (e : State → Group → State) (b : State → Group → Mask → Res)
    (h : Issues i s g) (hb : b s g (lanesFor i g) = .stall) : runWord i s e b = .next (s.put g.retry) := by
  obtain ⟨hc, hl, hm, he⟩ := h
  have hm' := mask_test i g hm
  simp only [lanesFor] at hb
  simp only [runWord, hc, hl, hm', if_false, hb]

/-- A word of a resident group always answers a next state. -/
theorem runWord_next (i : Instr) (s : State) (g : Group) (e : State → Group → State) (b : State → Group → Mask → Res) (h : s.group? = some g) :
    ∃ t, runWord i s e b = .next t := by
  simp only [runWord, h]
  split
  · exact ⟨_, rfl⟩
  · split
    · exact ⟨_, rfl⟩
    · split
      · split <;> exact ⟨_, rfl⟩
      · split <;> exact ⟨_, rfl⟩
      · exact ⟨_, rfl⟩

/-! ### groupWord and statWord -/

/-- A word whose effect lies within its group. -/
theorem groupWord_ok (i : Instr) (s : State) (g : Group) (f : State → Group → Mask → Group) (h : Issues i s g) :
    groupWord i s f = .next (timed i s g (s.put (f s g (lanesFor i g)))) :=
  runWord_ok i s _ g _ _ h rfl

theorem groupWord_next (i : Instr) (s : State) (g : Group) (f : State → Group → Mask → Group) (h : s.group? = some g) :
    ∃ t, groupWord i s f = .next t :=
  runWord_next i s g _ _ h

/-! ### The order log -/

/-- An abandoned cut changes nothing but the Lifeline engine's lists and registers, and drops a slot on its way to a global target. -/
theorem abandonCut_frame (s : State) (k : Nat) :
    abandonCut s k = { s with ll := (abandonCut s k).ll, regs := (abandonCut s k).regs, copies := (abandonCut s k).copies } := by
  cases s
  unfold abandonCut setLlst State.setReg
  split <;> rfl

theorem abandonCuts_frame (s : State) : abandonCuts s = { s with ll := (abandonCuts s).ll, regs := (abandonCuts s).regs, copies := (abandonCuts s).copies } := by
  unfold abandonCuts
  generalize s.ll.cuts.map Cut.k = ks
  induction ks generalizing s with
  | nil => rfl
  | cons k r ih => rw [List.foldl_cons, ih, abandonCut_frame]

/-- One order-log entry, made or taken off, changes nothing but the Lifeline engine's lists, registers and packets. -/
theorem logEvent_frame (s : State) (w : Who) (k o d : Nat) :
    logEvent s w k o d = { s with ll := (logEvent s w k o d).ll, regs := (logEvent s w k o d).regs, copies := (logEvent s w k o d).copies } := by
  unfold logEvent
  split
  · split
    · split <;> rfl
    · rfl
  · split
    · dsimp only
      split
      · rw [abandonCuts_frame]
      · rfl
    · rfl

theorem logTime_frame (rs : List Nat) (w : Who) (f : Nat → Nat) (t : State) :
    rs.foldl (fun t n => logEvent t w 8 0 (f n)) t = { t with
      ll := (rs.foldl (fun t n => logEvent t w 8 0 (f n)) t).ll
      regs := (rs.foldl (fun t n => logEvent t w 8 0 (f n)) t).regs
      copies := (rs.foldl (fun t n => logEvent t w 8 0 (f n)) t).copies } := by
  induction rs generalizing t with
  | nil => rfl
  | cons n r ih =>
    rw [List.foldl_cons, ih, logEvent_frame]

theorem timed_frame (i : Instr) (s : State) (g : Group) (t : State) : timed i s g t = { t with ll := (timed i s g t).ll, regs := (timed i s g t).regs, copies := (timed i s g t).copies } :=
  logTime_frame _ _ _ _

/-- A word that reads no timed register leaves the log alone. -/
theorem timed_eq (i : Instr) (s : State) (g : Group) (t : State) (h : readsTime i = false) : timed i s g t = t := by
  simp only [readsTime, Bool.not_eq_false', List.isEmpty_iff] at h
  simp [timed, logTime, h]

/-! ### The current group -/

theorem State.put_group? (s : State) (g : Group) : (s.put g).group? = some g := Tab.get?_set_self _ _ _

/-- Every other group stands as it did. -/
theorem State.put_other (s : State) (g : Group) (k : Nat) (h : k ≠ s.cur) : (s.put g).groups.get? k = s.groups.get? k :=
  Tab.get?_set_ne _ _ _ _ h

end Sys2Proof.Machine
end

