-- ==== Sys2Proof/Laws/Memory.lean ====
section
/-! SUPPORT. The laws of the byte store: a byte reads back as it was stored, every other byte is as before, and every memory operation keeps the
canonical form. -/

namespace Sys2Proof.Machine
open Sys2Proof

/-! ### The canonical form -/

theorem wfFrom_mono (m : List Host.Cell) (lo lo' : Nat) (h : lo' ≤ lo) (hw : wfFrom lo m = true) : wfFrom lo' m = true := by
  cases m with
  | nil => rfl
  | cons x r =>
    simp only [wfFrom, Bool.and_eq_true, decide_eq_true_eq] at hw ⊢
    exact ⟨⟨by omega, hw.1.2⟩, hw.2⟩

theorem wfFrom_memPut (m : List Host.Cell) (a : Nat) (b : Byte) (lo : Nat) (hlo : lo ≤ a) (h : wfFrom lo m = true) :
    wfFrom lo (memPut m a b) = true := by
  induction m generalizing lo with
  | nil =>
    by_cases hb : b = 0#8
    · simp [memPut, wfFrom, hb]
    · simp [memPut, wfFrom, hb, hlo]
  | cons x r ih =>
    obtain ⟨i, y⟩ := x
    have h' := h
    simp only [wfFrom, Bool.and_eq_true, decide_eq_true_eq] at h'
    obtain ⟨⟨h1, h2⟩, h3⟩ := h'
    by_cases c1 : a < i
    · by_cases hb : b = 0#8
      · simpa [memPut, c1, hb] using h
      · simp only [memPut, c1, hb, BitVec.ofNat_eq_ofNat, if_true, if_false, wfFrom, Bool.and_eq_true, decide_eq_true_eq]
        exact ⟨⟨hlo, by simpa using hb⟩, ⟨by omega, h2⟩, h3⟩
    · by_cases c2 : i = a
      · subst c2
        by_cases hb : b = 0#8
        · simp only [memPut, hb, BitVec.ofNat_eq_ofNat, if_true, Nat.lt_irrefl, if_false]
          exact wfFrom_mono r (i + 1) lo (by omega) h3
        · simp only [memPut, hb, BitVec.ofNat_eq_ofNat, if_true, Nat.lt_irrefl, if_false, wfFrom, Bool.and_eq_true, decide_eq_true_eq]
          exact ⟨⟨h1, by simpa using hb⟩, h3⟩
      · simp only [memPut, c1, c2, if_false, wfFrom, Bool.and_eq_true, decide_eq_true_eq]
        exact ⟨⟨h1, h2⟩, ih (i + 1) (by omega) h3⟩

theorem Memory.wf_memPut (m : List Host.Cell) (a : Nat) (b : Byte) (h : Memory.wf m = true) : Memory.wf (memPut m a b) = true :=
  wfFrom_memPut m a b 0 (Nat.zero_le a) h

theorem Memory.wf_memStore (bs : List Byte) (m : List Host.Cell) (a : Nat) (h : Memory.wf m = true) : Memory.wf (memStore m a bs) = true := by
  induction bs generalizing m a with
  | nil => exact h
  | cons b r ih => exact ih (memPut m a b) (a + 1) (Memory.wf_memPut m a b h)

theorem wfFrom_filter (p : Host.Cell → Bool) (m : List Host.Cell) (lo : Nat) (h : wfFrom lo m = true) : wfFrom lo (m.filter p) = true := by
  induction m generalizing lo with
  | nil => exact h
  | cons x r ih =>
    obtain ⟨i, y⟩ := x
    simp only [wfFrom, Bool.and_eq_true, decide_eq_true_eq] at h
    obtain ⟨⟨h1, h2⟩, h3⟩ := h
    by_cases c : p (i, y) = true
    · simp only [List.filter_cons, c, if_true, wfFrom, Bool.and_eq_true, decide_eq_true_eq]
      exact ⟨⟨h1, h2⟩, ih (i + 1) h3⟩
    · simp only [List.filter_cons, c]
      exact wfFrom_mono _ (i + 1) lo (by omega) (ih (i + 1) h3)

/-- Cells taken out of a canonical store leave a canonical store. -/
theorem Memory.wf_filter (p : Host.Cell → Bool) (m : List Host.Cell) (h : Memory.wf m = true) : Memory.wf (m.filter p) = true :=
  wfFrom_filter p m 0 h

/-! ### Read after write -/

theorem memGet_below (m : List Host.Cell) (lo a : Nat) (h : wfFrom lo m = true) (ha : a < lo) : memGet m a = 0 := by
  cases m with
  | nil => rfl
  | cons x r =>
    obtain ⟨i, y⟩ := x
    simp only [wfFrom, Bool.and_eq_true, decide_eq_true_eq] at h
    have h1 : i ≠ a := by omega
    have h2 : a < i := by omega
    simp [memGet, h1, h2]

theorem memGet_memPut_from (m : List Host.Cell) (a c : Nat) (b : Byte) (lo : Nat) (h : wfFrom lo m = true) :
    memGet (memPut m a b) c = if c = a then b else memGet m c := by
  induction m generalizing lo with
  | nil =>
    by_cases hb : b = 0#8
    · subst hb; simp [memPut, memGet]
    · by_cases hc : c = a
      · simp [memPut, memGet, hb, hc]
      · simp [memPut, memGet, hb, hc, Ne.symm hc]
  | cons x r ih =>
    obtain ⟨i, y⟩ := x
    simp only [wfFrom, Bool.and_eq_true, decide_eq_true_eq] at h
    obtain ⟨⟨h1, h2⟩, h3⟩ := h
    by_cases c1 : a < i
    · by_cases hb : b = 0#8
      · subst hb
        by_cases hc : c = a
        · subst hc
          have n1 : i ≠ c := by omega
          simp [memPut, c1, memGet, n1]
        · simp [memPut, c1, hc]
      · by_cases hc : c = a
        · simp [memPut, c1, hb, hc, memGet]
        · have n1 : a ≠ c := Ne.symm hc
          by_cases hl : c < a
          · have n2 : i ≠ c := by omega
            have n3 : c < i := by omega
            simp [memPut, c1, hb, hc, memGet, n1, hl, n2, n3]
          · simp [memPut, c1, hb, hc, memGet, n1, hl]
    · by_cases c2 : i = a
      · subst c2
        by_cases hb : b = 0#8
        · subst hb
          by_cases hc : c = i
          · subst hc
            simp only [memPut, Nat.lt_irrefl, if_false, if_true]
            exact memGet_below r (c + 1) c h3 (by omega)
          · by_cases hl : c < i
            · simp only [memPut, Nat.lt_irrefl, if_false, if_true, hc, BitVec.ofNat_eq_ofNat]
              rw [memGet_below r (i + 1) c h3 (by omega)]
              simp [memGet, Ne.symm hc, hl]
            · simp [memPut, hc, memGet, Ne.symm hc, hl]
        · by_cases hc : c = i
          · simp [memPut, hb, hc, memGet]
          · simp [memPut, hb, hc, memGet, Ne.symm hc]
      · by_cases hc : i = c
        · subst hc; simp [memPut, c1, c2, memGet]
        · by_cases hl : c < i
          · have n1 : c ≠ a := by omega
            simp [memPut, c1, c2, memGet, hc, hl, n1]
          · simp only [memPut, c1, c2, if_false, memGet, hc, hl]
            exact ih (i + 1) h3

/-- A byte stored reads back; every other byte is as before. -/
theorem memGet_memPut (m : List Host.Cell) (a c : Nat) (b : Byte) (h : Memory.wf m = true) :
    memGet (memPut m a b) c = if c = a then b else memGet m c :=
  memGet_memPut_from m a c b 0 h

/-- A byte outside the stored range is as before. -/
theorem memGet_memStore_outside (bs : List Byte) (m : List Host.Cell) (a c : Nat) (h : Memory.wf m = true)
    (hc : c < a ∨ a + bs.length ≤ c) : memGet (memStore m a bs) c = memGet m c := by
  induction bs generalizing m a with
  | nil => rfl
  | cons b r ih =>
    simp only [List.length_cons] at hc
    simp only [memStore]
    rw [ih (memPut m a b) (a + 1) (Memory.wf_memPut m a b h) (by omega), memGet_memPut m a c b h]
    simp; omega

/-- A byte of the stored range reads as it was stored. -/
theorem memGet_memStore_inside (bs : List Byte) (m : List Host.Cell) (a k : Nat) (h : Memory.wf m = true) (hk : k < bs.length) :
    memGet (memStore m a bs) (a + k) = bs.getD k 0 := by
  induction bs generalizing m a k with
  | nil => simp at hk
  | cons b r ih =>
    cases k with
    | zero =>
      simp only [memStore, Nat.add_zero, List.getD_cons_zero]
      rw [memGet_memStore_outside r _ _ _ (Memory.wf_memPut m a b h) (by omega), memGet_memPut m a a b h]
      simp
    | succ k =>
      simp only [List.length_cons] at hk
      have e : a + (k + 1) = a + 1 + k := by omega
      simp only [memStore, List.getD_cons_succ]
      rw [e]
      exact ih (memPut m a b) (a + 1) k (Memory.wf_memPut m a b h) (by omega)

/-- The bytes stored over a range read back whole. -/
theorem memBytes_memStore_same (bs : List Byte) (m : List Host.Cell) (a : Nat) (h : Memory.wf m = true) :
    memBytes (memStore m a bs) a bs.length = bs := by
  induction bs generalizing m a with
  | nil => rfl
  | cons b r ih =>
    simp only [List.length_cons, memBytes, memStore]
    rw [memGet_memStore_outside r _ _ _ (Memory.wf_memPut m a b h) (by omega), memGet_memPut m a a b h,
      ih (memPut m a b) (a + 1) (Memory.wf_memPut m a b h)]
    simp

theorem leBytes_length (n x : Nat) : (leBytes n x).length = n := by
  induction n generalizing x with
  | zero => rfl
  | succ n ih => simp [leBytes, ih]

theorem leVal_leBytes (n x : Nat) : leVal (leBytes n x) = x % 256 ^ n := by
  induction n generalizing x with
  | zero => simp [leBytes, leVal, Nat.mod_one]
  | succ n ih =>
    simp only [leBytes, leVal, ih, BitVec.toNat_ofNat]
    have e : 256 ^ (n + 1) = 256 * 256 ^ n := by rw [Nat.pow_succ, Nat.mul_comm]
    rw [e, Nat.mod_mul]

/-! ### The operations of the state that write memory -/

theorem State.poke_wf (s : State) (p : Nat) (bs : List Byte) (h : Memory.wf s.mem = true) : Memory.wf (s.poke p bs).mem = true :=
  Memory.wf_memStore bs s.mem p h

/-- Bytes placed leave every byte outside them as it was. -/
theorem State.poke_outside (s : State) (p c : Nat) (bs : List Byte) (h : Memory.wf s.mem = true) (hc : c < p ∨ p + bs.length ≤ c) :
    memGet (s.poke p bs).mem c = memGet s.mem c :=
  memGet_memStore_outside bs s.mem p c h hc

end Sys2Proof.Machine
end

