-- ==== Sys2Proof/Laws/State.lean ====
section
/-! SUPPORT. What each update of the state leaves: one lemma per field per update, true by definition, so that no proof unfolds a record update. -/

namespace Sys2Proof.Machine

set_option Elab.async false

/-! ### The current group replaced -/

@[simp] theorem State.put_clock (s : State) (g : Group) : (s.put g).clock = s.clock := rfl
@[simp] theorem State.put_sched (s : State) (g : Group) : (s.put g).sched = s.sched := rfl
@[simp] theorem State.put_inp (s : State) (g : Group) : (s.put g).inp = s.inp := rfl
@[simp] theorem State.put_cur (s : State) (g : Group) : (s.put g).cur = s.cur := rfl
@[simp] theorem State.put_seq (s : State) (g : Group) : (s.put g).seq = s.seq := rfl
@[simp] theorem State.put_freeCtr (s : State) (g : Group) : (s.put g).freeCtr = s.freeCtr := rfl
@[simp] theorem State.put_reply (s : State) (g : Group) : (s.put g).reply = s.reply := rfl
@[simp] theorem State.put_poison (s : State) (g : Group) : (s.put g).poison = s.poison := rfl
@[simp] theorem State.put_mem (s : State) (g : Group) : (s.put g).mem = s.mem := rfl
@[simp] theorem State.put_regs (s : State) (g : Group) : (s.put g).regs = s.regs := rfl
@[simp] theorem State.put_pwrNext (s : State) (g : Group) : (s.put g).pwrNext = s.pwrNext := rfl
@[simp] theorem State.put_energy (s : State) (g : Group) : (s.put g).energy = s.energy := rfl
@[simp] theorem State.put_allow (s : State) (g : Group) : (s.put g).allow = s.allow := rfl
@[simp] theorem State.put_power (s : State) (g : Group) : (s.put g).power = s.power := rfl
@[simp] theorem State.put_rows (s : State) (g : Group) : (s.put g).rows = s.rows := rfl
@[simp] theorem State.put_hqueue (s : State) (g : Group) : (s.put g).hqueue = s.hqueue := rfl
@[simp] theorem State.put_flaws (s : State) (g : Group) : (s.put g).flaws = s.flaws := rfl
@[simp] theorem State.put_ctxs (s : State) (g : Group) : (s.put g).ctxs = s.ctxs := rfl
@[simp] theorem State.put_jobs (s : State) (g : Group) : (s.put g).jobs = s.jobs := rfl
@[simp] theorem State.put_posts (s : State) (g : Group) : (s.put g).posts = s.posts := rfl
@[simp] theorem State.put_queues (s : State) (g : Group) : (s.put g).queues = s.queues := rfl
@[simp] theorem State.put_resvs (s : State) (g : Group) : (s.put g).resvs = s.resvs := rfl
@[simp] theorem State.put_blocks (s : State) (g : Group) : (s.put g).blocks = s.blocks := rfl
@[simp] theorem State.put_lastQ (s : State) (g : Group) : (s.put g).lastQ = s.lastQ := rfl
@[simp] theorem State.put_lastTile (s : State) (g : Group) : (s.put g).lastTile = s.lastTile := rfl
@[simp] theorem State.put_far (s : State) (g : Group) : (s.put g).far = s.far := rfl
@[simp] theorem State.put_copies (s : State) (g : Group) : (s.put g).copies = s.copies := rfl
@[simp] theorem State.put_shadows (s : State) (g : Group) : (s.put g).shadows = s.shadows := rfl
@[simp] theorem State.put_watches (s : State) (g : Group) : (s.put g).watches = s.watches := rfl
@[simp] theorem State.put_mats (s : State) (g : Group) : (s.put g).mats = s.mats := rfl
@[simp] theorem State.put_tags (s : State) (g : Group) : (s.put g).tags = s.tags := rfl
@[simp] theorem State.put_skeins (s : State) (g : Group) : (s.put g).skeins = s.skeins := rfl
@[simp] theorem State.put_trans (s : State) (g : Group) : (s.put g).trans = s.trans := rfl
@[simp] theorem State.put_walks (s : State) (g : Group) : (s.put g).walks = s.walks := rfl
@[simp] theorem State.put_faults (s : State) (g : Group) : (s.put g).faults = s.faults := rfl
@[simp] theorem State.put_icache (s : State) (g : Group) : (s.put g).icache = s.icache := rfl
@[simp] theorem State.put_icinvs (s : State) (g : Group) : (s.put g).icinvs = s.icinvs := rfl
@[simp] theorem State.put_loops (s : State) (g : Group) : (s.put g).loops = s.loops := rfl
@[simp] theorem State.put_pmap (s : State) (g : Group) : (s.put g).pmap = s.pmap := rfl
@[simp] theorem State.put_dead (s : State) (g : Group) : (s.put g).dead = s.dead := rfl
@[simp] theorem State.put_retx (s : State) (g : Group) : (s.put g).retx = s.retx := rfl
@[simp] theorem State.put_pcs (s : State) (g : Group) : (s.put g).pcs = s.pcs := rfl
@[simp] theorem State.put_gens (s : State) (g : Group) : (s.put g).gens = s.gens := rfl
@[simp] theorem State.put_placed (s : State) (g : Group) : (s.put g).placed = s.placed := rfl
@[simp] theorem State.put_rtcache (s : State) (g : Group) : (s.put g).rtcache = s.rtcache := rfl
@[simp] theorem State.put_rtwait (s : State) (g : Group) : (s.put g).rtwait = s.rtwait := rfl
@[simp] theorem State.put_rtmiss (s : State) (g : Group) : (s.put g).rtmiss = s.rtmiss := rfl
@[simp] theorem State.put_podRtt (s : State) (g : Group) : (s.put g).podRtt = s.podRtt := rfl
@[simp] theorem State.put_peerRtt (s : State) (g : Group) : (s.put g).peerRtt = s.peerRtt := rfl
@[simp] theorem State.put_portRtt (s : State) (g : Group) : (s.put g).portRtt = s.portRtt := rfl
@[simp] theorem State.put_vers (s : State) (g : Group) : (s.put g).vers = s.vers := rfl
@[simp] theorem State.put_pubs (s : State) (g : Group) : (s.put g).pubs = s.pubs := rfl
@[simp] theorem State.put_castoffs (s : State) (g : Group) : (s.put g).castoffs = s.castoffs := rfl
@[simp] theorem State.put_ll (s : State) (g : Group) : (s.put g).ll = s.ll := rfl
@[simp] theorem State.put_dbgs (s : State) (g : Group) : (s.put g).dbgs = s.dbgs := rfl
@[simp] theorem State.put_acted (s : State) (g : Group) : (s.put g).acted = s.acted := rfl
@[simp] theorem State.put_went (s : State) (g : Group) : (s.put g).went = s.went := rfl
@[simp] theorem State.put_seeds (s : State) (g : Group) : (s.put g).seeds = s.seeds := rfl
@[simp] theorem State.put_veils (s : State) (g : Group) : (s.put g).veils = s.veils := rfl
@[simp] theorem State.put_hostAts (s : State) (g : Group) : (s.put g).hostAts = s.hostAts := rfl
@[simp] theorem State.put_answers (s : State) (g : Group) : (s.put g).answers = s.answers := rfl
@[simp] theorem State.put_pwrDone (s : State) (g : Group) : (s.put g).pwrDone = s.pwrDone := rfl


/-! ### A register stored -/

@[simp] theorem State.setReg_clock (s : State) (a : Nat) (v : W64) : (s.setReg a v).clock = s.clock := rfl
@[simp] theorem State.setReg_sched (s : State) (a : Nat) (v : W64) : (s.setReg a v).sched = s.sched := rfl
@[simp] theorem State.setReg_inp (s : State) (a : Nat) (v : W64) : (s.setReg a v).inp = s.inp := rfl
@[simp] theorem State.setReg_cur (s : State) (a : Nat) (v : W64) : (s.setReg a v).cur = s.cur := rfl
@[simp] theorem State.setReg_seq (s : State) (a : Nat) (v : W64) : (s.setReg a v).seq = s.seq := rfl
@[simp] theorem State.setReg_freeCtr (s : State) (a : Nat) (v : W64) : (s.setReg a v).freeCtr = s.freeCtr := rfl
@[simp] theorem State.setReg_reply (s : State) (a : Nat) (v : W64) : (s.setReg a v).reply = s.reply := rfl
@[simp] theorem State.setReg_poison (s : State) (a : Nat) (v : W64) : (s.setReg a v).poison = s.poison := rfl
@[simp] theorem State.setReg_mem (s : State) (a : Nat) (v : W64) : (s.setReg a v).mem = s.mem := rfl
@[simp] theorem State.setReg_pwrNext (s : State) (a : Nat) (v : W64) : (s.setReg a v).pwrNext = s.pwrNext := rfl
@[simp] theorem State.setReg_energy (s : State) (a : Nat) (v : W64) : (s.setReg a v).energy = s.energy := rfl
@[simp] theorem State.setReg_allow (s : State) (a : Nat) (v : W64) : (s.setReg a v).allow = s.allow := rfl
@[simp] theorem State.setReg_power (s : State) (a : Nat) (v : W64) : (s.setReg a v).power = s.power := rfl
@[simp] theorem State.setReg_rows (s : State) (a : Nat) (v : W64) : (s.setReg a v).rows = s.rows := rfl
@[simp] theorem State.setReg_hqueue (s : State) (a : Nat) (v : W64) : (s.setReg a v).hqueue = s.hqueue := rfl
@[simp] theorem State.setReg_flaws (s : State) (a : Nat) (v : W64) : (s.setReg a v).flaws = s.flaws := rfl
@[simp] theorem State.setReg_ctxs (s : State) (a : Nat) (v : W64) : (s.setReg a v).ctxs = s.ctxs := rfl
@[simp] theorem State.setReg_jobs (s : State) (a : Nat) (v : W64) : (s.setReg a v).jobs = s.jobs := rfl
@[simp] theorem State.setReg_posts (s : State) (a : Nat) (v : W64) : (s.setReg a v).posts = s.posts := rfl
@[simp] theorem State.setReg_queues (s : State) (a : Nat) (v : W64) : (s.setReg a v).queues = s.queues := rfl
@[simp] theorem State.setReg_resvs (s : State) (a : Nat) (v : W64) : (s.setReg a v).resvs = s.resvs := rfl
@[simp] theorem State.setReg_blocks (s : State) (a : Nat) (v : W64) : (s.setReg a v).blocks = s.blocks := rfl
@[simp] theorem State.setReg_lastQ (s : State) (a : Nat) (v : W64) : (s.setReg a v).lastQ = s.lastQ := rfl
@[simp] theorem State.setReg_lastTile (s : State) (a : Nat) (v : W64) : (s.setReg a v).lastTile = s.lastTile := rfl
@[simp] theorem State.setReg_groups (s : State) (a : Nat) (v : W64) : (s.setReg a v).groups = s.groups := rfl
@[simp] theorem State.setReg_far (s : State) (a : Nat) (v : W64) : (s.setReg a v).far = s.far := rfl
@[simp] theorem State.setReg_copies (s : State) (a : Nat) (v : W64) : (s.setReg a v).copies = s.copies := rfl
@[simp] theorem State.setReg_shadows (s : State) (a : Nat) (v : W64) : (s.setReg a v).shadows = s.shadows := rfl
@[simp] theorem State.setReg_watches (s : State) (a : Nat) (v : W64) : (s.setReg a v).watches = s.watches := rfl
@[simp] theorem State.setReg_mats (s : State) (a : Nat) (v : W64) : (s.setReg a v).mats = s.mats := rfl
@[simp] theorem State.setReg_tags (s : State) (a : Nat) (v : W64) : (s.setReg a v).tags = s.tags := rfl
@[simp] theorem State.setReg_skeins (s : State) (a : Nat) (v : W64) : (s.setReg a v).skeins = s.skeins := rfl
@[simp] theorem State.setReg_trans (s : State) (a : Nat) (v : W64) : (s.setReg a v).trans = s.trans := rfl
@[simp] theorem State.setReg_walks (s : State) (a : Nat) (v : W64) : (s.setReg a v).walks = s.walks := rfl
@[simp] theorem State.setReg_faults (s : State) (a : Nat) (v : W64) : (s.setReg a v).faults = s.faults := rfl
@[simp] theorem State.setReg_icache (s : State) (a : Nat) (v : W64) : (s.setReg a v).icache = s.icache := rfl
@[simp] theorem State.setReg_icinvs (s : State) (a : Nat) (v : W64) : (s.setReg a v).icinvs = s.icinvs := rfl
@[simp] theorem State.setReg_loops (s : State) (a : Nat) (v : W64) : (s.setReg a v).loops = s.loops := rfl
@[simp] theorem State.setReg_pmap (s : State) (a : Nat) (v : W64) : (s.setReg a v).pmap = s.pmap := rfl
@[simp] theorem State.setReg_dead (s : State) (a : Nat) (v : W64) : (s.setReg a v).dead = s.dead := rfl
@[simp] theorem State.setReg_retx (s : State) (a : Nat) (v : W64) : (s.setReg a v).retx = s.retx := rfl
@[simp] theorem State.setReg_pcs (s : State) (a : Nat) (v : W64) : (s.setReg a v).pcs = s.pcs := rfl
@[simp] theorem State.setReg_gens (s : State) (a : Nat) (v : W64) : (s.setReg a v).gens = s.gens := rfl
@[simp] theorem State.setReg_placed (s : State) (a : Nat) (v : W64) : (s.setReg a v).placed = s.placed := rfl
@[simp] theorem State.setReg_rtcache (s : State) (a : Nat) (v : W64) : (s.setReg a v).rtcache = s.rtcache := rfl
@[simp] theorem State.setReg_rtwait (s : State) (a : Nat) (v : W64) : (s.setReg a v).rtwait = s.rtwait := rfl
@[simp] theorem State.setReg_rtmiss (s : State) (a : Nat) (v : W64) : (s.setReg a v).rtmiss = s.rtmiss := rfl
@[simp] theorem State.setReg_podRtt (s : State) (a : Nat) (v : W64) : (s.setReg a v).podRtt = s.podRtt := rfl
@[simp] theorem State.setReg_peerRtt (s : State) (a : Nat) (v : W64) : (s.setReg a v).peerRtt = s.peerRtt := rfl
@[simp] theorem State.setReg_portRtt (s : State) (a : Nat) (v : W64) : (s.setReg a v).portRtt = s.portRtt := rfl
@[simp] theorem State.setReg_vers (s : State) (a : Nat) (v : W64) : (s.setReg a v).vers = s.vers := rfl
@[simp] theorem State.setReg_pubs (s : State) (a : Nat) (v : W64) : (s.setReg a v).pubs = s.pubs := rfl
@[simp] theorem State.setReg_castoffs (s : State) (a : Nat) (v : W64) : (s.setReg a v).castoffs = s.castoffs := rfl
@[simp] theorem State.setReg_ll (s : State) (a : Nat) (v : W64) : (s.setReg a v).ll = s.ll := rfl
@[simp] theorem State.setReg_dbgs (s : State) (a : Nat) (v : W64) : (s.setReg a v).dbgs = s.dbgs := rfl
@[simp] theorem State.setReg_acted (s : State) (a : Nat) (v : W64) : (s.setReg a v).acted = s.acted := rfl
@[simp] theorem State.setReg_went (s : State) (a : Nat) (v : W64) : (s.setReg a v).went = s.went := rfl
@[simp] theorem State.setReg_seeds (s : State) (a : Nat) (v : W64) : (s.setReg a v).seeds = s.seeds := rfl
@[simp] theorem State.setReg_veils (s : State) (a : Nat) (v : W64) : (s.setReg a v).veils = s.veils := rfl
@[simp] theorem State.setReg_hostAts (s : State) (a : Nat) (v : W64) : (s.setReg a v).hostAts = s.hostAts := rfl
@[simp] theorem State.setReg_answers (s : State) (a : Nat) (v : W64) : (s.setReg a v).answers = s.answers := rfl
@[simp] theorem State.setReg_pwrDone (s : State) (a : Nat) (v : W64) : (s.setReg a v).pwrDone = s.pwrDone := rfl

@[simp] theorem State.setReg_reg_self (s : State) (a : Nat) (v : W64) : (s.setReg a v).reg a = v := Tab.getD_set_self _ _ _ _
theorem State.setReg_reg_ne (s : State) (a b : Nat) (v : W64) (h : b ≠ a) : (s.setReg a v).reg b = s.reg b := by
  unfold State.reg State.setReg
  exact Tab.getD_set_ne _ _ _ _ _ h

/-! ### Bytes placed -/

@[simp] theorem State.poke_clock (s : State) (p : Nat) (bs : List Byte) : (s.poke p bs).clock = s.clock := rfl
@[simp] theorem State.poke_sched (s : State) (p : Nat) (bs : List Byte) : (s.poke p bs).sched = s.sched := rfl
@[simp] theorem State.poke_inp (s : State) (p : Nat) (bs : List Byte) : (s.poke p bs).inp = s.inp := rfl
@[simp] theorem State.poke_cur (s : State) (p : Nat) (bs : List Byte) : (s.poke p bs).cur = s.cur := rfl
@[simp] theorem State.poke_seq (s : State) (p : Nat) (bs : List Byte) : (s.poke p bs).seq = s.seq := rfl
@[simp] theorem State.poke_freeCtr (s : State) (p : Nat) (bs : List Byte) : (s.poke p bs).freeCtr = s.freeCtr := rfl
@[simp] theorem State.poke_reply (s : State) (p : Nat) (bs : List Byte) : (s.poke p bs).reply = s.reply := rfl
@[simp] theorem State.poke_poison (s : State) (p : Nat) (bs : List Byte) : (s.poke p bs).poison = s.poison := rfl
@[simp] theorem State.poke_regs (s : State) (p : Nat) (bs : List Byte) : (s.poke p bs).regs = s.regs := rfl
@[simp] theorem State.poke_pwrNext (s : State) (p : Nat) (bs : List Byte) : (s.poke p bs).pwrNext = s.pwrNext := rfl
@[simp] theorem State.poke_energy (s : State) (p : Nat) (bs : List Byte) : (s.poke p bs).energy = s.energy := rfl
@[simp] theorem State.poke_allow (s : State) (p : Nat) (bs : List Byte) : (s.poke p bs).allow = s.allow := rfl
@[simp] theorem State.poke_power (s : State) (p : Nat) (bs : List Byte) : (s.poke p bs).power = s.power := rfl
@[simp] theorem State.poke_rows (s : State) (p : Nat) (bs : List Byte) : (s.poke p bs).rows = s.rows := rfl
@[simp] theorem State.poke_hqueue (s : State) (p : Nat) (bs : List Byte) : (s.poke p bs).hqueue = s.hqueue := rfl
@[simp] theorem State.poke_ctxs (s : State) (p : Nat) (bs : List Byte) : (s.poke p bs).ctxs = s.ctxs := rfl
@[simp] theorem State.poke_jobs (s : State) (p : Nat) (bs : List Byte) : (s.poke p bs).jobs = s.jobs := rfl
@[simp] theorem State.poke_posts (s : State) (p : Nat) (bs : List Byte) : (s.poke p bs).posts = s.posts := rfl
@[simp] theorem State.poke_queues (s : State) (p : Nat) (bs : List Byte) : (s.poke p bs).queues = s.queues := rfl
@[simp] theorem State.poke_resvs (s : State) (p : Nat) (bs : List Byte) : (s.poke p bs).resvs = s.resvs := rfl
@[simp] theorem State.poke_blocks (s : State) (p : Nat) (bs : List Byte) : (s.poke p bs).blocks = s.blocks := rfl
@[simp] theorem State.poke_lastQ (s : State) (p : Nat) (bs : List Byte) : (s.poke p bs).lastQ = s.lastQ := rfl
@[simp] theorem State.poke_lastTile (s : State) (p : Nat) (bs : List Byte) : (s.poke p bs).lastTile = s.lastTile := rfl
@[simp] theorem State.poke_groups (s : State) (p : Nat) (bs : List Byte) : (s.poke p bs).groups = s.groups := rfl
@[simp] theorem State.poke_far (s : State) (p : Nat) (bs : List Byte) : (s.poke p bs).far = s.far := rfl
@[simp] theorem State.poke_copies (s : State) (p : Nat) (bs : List Byte) : (s.poke p bs).copies = s.copies := rfl
@[simp] theorem State.poke_shadows (s : State) (p : Nat) (bs : List Byte) : (s.poke p bs).shadows = s.shadows := rfl
@[simp] theorem State.poke_watches (s : State) (p : Nat) (bs : List Byte) : (s.poke p bs).watches = s.watches := rfl
@[simp] theorem State.poke_mats (s : State) (p : Nat) (bs : List Byte) : (s.poke p bs).mats = s.mats := rfl
@[simp] theorem State.poke_tags (s : State) (p : Nat) (bs : List Byte) : (s.poke p bs).tags = s.tags := rfl
@[simp] theorem State.poke_skeins (s : State) (p : Nat) (bs : List Byte) : (s.poke p bs).skeins = s.skeins := rfl
@[simp] theorem State.poke_trans (s : State) (p : Nat) (bs : List Byte) : (s.poke p bs).trans = s.trans := rfl
@[simp] theorem State.poke_walks (s : State) (p : Nat) (bs : List Byte) : (s.poke p bs).walks = s.walks := rfl
@[simp] theorem State.poke_faults (s : State) (p : Nat) (bs : List Byte) : (s.poke p bs).faults = s.faults := rfl
@[simp] theorem State.poke_icache (s : State) (p : Nat) (bs : List Byte) : (s.poke p bs).icache = s.icache := rfl
@[simp] theorem State.poke_icinvs (s : State) (p : Nat) (bs : List Byte) : (s.poke p bs).icinvs = s.icinvs := rfl
@[simp] theorem State.poke_loops (s : State) (p : Nat) (bs : List Byte) : (s.poke p bs).loops = s.loops := rfl
@[simp] theorem State.poke_pmap (s : State) (p : Nat) (bs : List Byte) : (s.poke p bs).pmap = s.pmap := rfl
@[simp] theorem State.poke_dead (s : State) (p : Nat) (bs : List Byte) : (s.poke p bs).dead = s.dead := rfl
@[simp] theorem State.poke_retx (s : State) (p : Nat) (bs : List Byte) : (s.poke p bs).retx = s.retx := rfl
@[simp] theorem State.poke_pcs (s : State) (p : Nat) (bs : List Byte) : (s.poke p bs).pcs = s.pcs := rfl
@[simp] theorem State.poke_gens (s : State) (p : Nat) (bs : List Byte) : (s.poke p bs).gens = s.gens := rfl
@[simp] theorem State.poke_placed (s : State) (p : Nat) (bs : List Byte) : (s.poke p bs).placed = s.placed := rfl
@[simp] theorem State.poke_rtcache (s : State) (p : Nat) (bs : List Byte) : (s.poke p bs).rtcache = s.rtcache := rfl
@[simp] theorem State.poke_rtwait (s : State) (p : Nat) (bs : List Byte) : (s.poke p bs).rtwait = s.rtwait := rfl
@[simp] theorem State.poke_rtmiss (s : State) (p : Nat) (bs : List Byte) : (s.poke p bs).rtmiss = s.rtmiss := rfl
@[simp] theorem State.poke_podRtt (s : State) (p : Nat) (bs : List Byte) : (s.poke p bs).podRtt = s.podRtt := rfl
@[simp] theorem State.poke_peerRtt (s : State) (p : Nat) (bs : List Byte) : (s.poke p bs).peerRtt = s.peerRtt := rfl
@[simp] theorem State.poke_portRtt (s : State) (p : Nat) (bs : List Byte) : (s.poke p bs).portRtt = s.portRtt := rfl
@[simp] theorem State.poke_vers (s : State) (p : Nat) (bs : List Byte) : (s.poke p bs).vers = s.vers := rfl
@[simp] theorem State.poke_pubs (s : State) (p : Nat) (bs : List Byte) : (s.poke p bs).pubs = s.pubs := rfl
@[simp] theorem State.poke_castoffs (s : State) (p : Nat) (bs : List Byte) : (s.poke p bs).castoffs = s.castoffs := rfl
@[simp] theorem State.poke_ll (s : State) (p : Nat) (bs : List Byte) : (s.poke p bs).ll = s.ll := rfl
@[simp] theorem State.poke_dbgs (s : State) (p : Nat) (bs : List Byte) : (s.poke p bs).dbgs = s.dbgs := rfl
@[simp] theorem State.poke_acted (s : State) (p : Nat) (bs : List Byte) : (s.poke p bs).acted = s.acted := rfl
@[simp] theorem State.poke_went (s : State) (p : Nat) (bs : List Byte) : (s.poke p bs).went = s.went := rfl
@[simp] theorem State.poke_seeds (s : State) (p : Nat) (bs : List Byte) : (s.poke p bs).seeds = s.seeds := rfl
@[simp] theorem State.poke_veils (s : State) (p : Nat) (bs : List Byte) : (s.poke p bs).veils = s.veils := rfl
@[simp] theorem State.poke_hostAts (s : State) (p : Nat) (bs : List Byte) : (s.poke p bs).hostAts = s.hostAts := rfl
@[simp] theorem State.poke_answers (s : State) (p : Nat) (bs : List Byte) : (s.poke p bs).answers = s.answers := rfl
@[simp] theorem State.poke_pwrDone (s : State) (p : Nat) (bs : List Byte) : (s.poke p bs).pwrDone = s.pwrDone := rfl


/-! ### The debug block of a tile -/

@[simp] theorem State.setDbg_clock (s : State) (t : Nat) (d : Dbg) : (s.setDbg t d).clock = s.clock := rfl
@[simp] theorem State.setDbg_sched (s : State) (t : Nat) (d : Dbg) : (s.setDbg t d).sched = s.sched := rfl
@[simp] theorem State.setDbg_inp (s : State) (t : Nat) (d : Dbg) : (s.setDbg t d).inp = s.inp := rfl
@[simp] theorem State.setDbg_cur (s : State) (t : Nat) (d : Dbg) : (s.setDbg t d).cur = s.cur := rfl
@[simp] theorem State.setDbg_seq (s : State) (t : Nat) (d : Dbg) : (s.setDbg t d).seq = s.seq := rfl
@[simp] theorem State.setDbg_freeCtr (s : State) (t : Nat) (d : Dbg) : (s.setDbg t d).freeCtr = s.freeCtr := rfl
@[simp] theorem State.setDbg_reply (s : State) (t : Nat) (d : Dbg) : (s.setDbg t d).reply = s.reply := rfl
@[simp] theorem State.setDbg_poison (s : State) (t : Nat) (d : Dbg) : (s.setDbg t d).poison = s.poison := rfl
@[simp] theorem State.setDbg_mem (s : State) (t : Nat) (d : Dbg) : (s.setDbg t d).mem = s.mem := rfl
@[simp] theorem State.setDbg_regs (s : State) (t : Nat) (d : Dbg) : (s.setDbg t d).regs = s.regs := rfl
@[simp] theorem State.setDbg_pwrNext (s : State) (t : Nat) (d : Dbg) : (s.setDbg t d).pwrNext = s.pwrNext := rfl
@[simp] theorem State.setDbg_energy (s : State) (t : Nat) (d : Dbg) : (s.setDbg t d).energy = s.energy := rfl
@[simp] theorem State.setDbg_allow (s : State) (t : Nat) (d : Dbg) : (s.setDbg t d).allow = s.allow := rfl
@[simp] theorem State.setDbg_power (s : State) (t : Nat) (d : Dbg) : (s.setDbg t d).power = s.power := rfl
@[simp] theorem State.setDbg_rows (s : State) (t : Nat) (d : Dbg) : (s.setDbg t d).rows = s.rows := rfl
@[simp] theorem State.setDbg_hqueue (s : State) (t : Nat) (d : Dbg) : (s.setDbg t d).hqueue = s.hqueue := rfl
@[simp] theorem State.setDbg_flaws (s : State) (t : Nat) (d : Dbg) : (s.setDbg t d).flaws = s.flaws := rfl
@[simp] theorem State.setDbg_ctxs (s : State) (t : Nat) (d : Dbg) : (s.setDbg t d).ctxs = s.ctxs := rfl
@[simp] theorem State.setDbg_jobs (s : State) (t : Nat) (d : Dbg) : (s.setDbg t d).jobs = s.jobs := rfl
@[simp] theorem State.setDbg_posts (s : State) (t : Nat) (d : Dbg) : (s.setDbg t d).posts = s.posts := rfl
@[simp] theorem State.setDbg_queues (s : State) (t : Nat) (d : Dbg) : (s.setDbg t d).queues = s.queues := rfl
@[simp] theorem State.setDbg_resvs (s : State) (t : Nat) (d : Dbg) : (s.setDbg t d).resvs = s.resvs := rfl
@[simp] theorem State.setDbg_blocks (s : State) (t : Nat) (d : Dbg) : (s.setDbg t d).blocks = s.blocks := rfl
@[simp] theorem State.setDbg_lastQ (s : State) (t : Nat) (d : Dbg) : (s.setDbg t d).lastQ = s.lastQ := rfl
@[simp] theorem State.setDbg_lastTile (s : State) (t : Nat) (d : Dbg) : (s.setDbg t d).lastTile = s.lastTile := rfl
@[simp] theorem State.setDbg_groups (s : State) (t : Nat) (d : Dbg) : (s.setDbg t d).groups = s.groups := rfl
@[simp] theorem State.setDbg_far (s : State) (t : Nat) (d : Dbg) : (s.setDbg t d).far = s.far := rfl
@[simp] theorem State.setDbg_copies (s : State) (t : Nat) (d : Dbg) : (s.setDbg t d).copies = s.copies := rfl
@[simp] theorem State.setDbg_shadows (s : State) (t : Nat) (d : Dbg) : (s.setDbg t d).shadows = s.shadows := rfl
@[simp] theorem State.setDbg_watches (s : State) (t : Nat) (d : Dbg) : (s.setDbg t d).watches = s.watches := rfl
@[simp] theorem State.setDbg_mats (s : State) (t : Nat) (d : Dbg) : (s.setDbg t d).mats = s.mats := rfl
@[simp] theorem State.setDbg_tags (s : State) (t : Nat) (d : Dbg) : (s.setDbg t d).tags = s.tags := rfl
@[simp] theorem State.setDbg_skeins (s : State) (t : Nat) (d : Dbg) : (s.setDbg t d).skeins = s.skeins := rfl
@[simp] theorem State.setDbg_trans (s : State) (t : Nat) (d : Dbg) : (s.setDbg t d).trans = s.trans := rfl
@[simp] theorem State.setDbg_walks (s : State) (t : Nat) (d : Dbg) : (s.setDbg t d).walks = s.walks := rfl
@[simp] theorem State.setDbg_faults (s : State) (t : Nat) (d : Dbg) : (s.setDbg t d).faults = s.faults := rfl
@[simp] theorem State.setDbg_icache (s : State) (t : Nat) (d : Dbg) : (s.setDbg t d).icache = s.icache := rfl
@[simp] theorem State.setDbg_icinvs (s : State) (t : Nat) (d : Dbg) : (s.setDbg t d).icinvs = s.icinvs := rfl
@[simp] theorem State.setDbg_loops (s : State) (t : Nat) (d : Dbg) : (s.setDbg t d).loops = s.loops := rfl
@[simp] theorem State.setDbg_pmap (s : State) (t : Nat) (d : Dbg) : (s.setDbg t d).pmap = s.pmap := rfl
@[simp] theorem State.setDbg_dead (s : State) (t : Nat) (d : Dbg) : (s.setDbg t d).dead = s.dead := rfl
@[simp] theorem State.setDbg_retx (s : State) (t : Nat) (d : Dbg) : (s.setDbg t d).retx = s.retx := rfl
@[simp] theorem State.setDbg_pcs (s : State) (t : Nat) (d : Dbg) : (s.setDbg t d).pcs = s.pcs := rfl
@[simp] theorem State.setDbg_gens (s : State) (t : Nat) (d : Dbg) : (s.setDbg t d).gens = s.gens := rfl
@[simp] theorem State.setDbg_placed (s : State) (t : Nat) (d : Dbg) : (s.setDbg t d).placed = s.placed := rfl
@[simp] theorem State.setDbg_rtcache (s : State) (t : Nat) (d : Dbg) : (s.setDbg t d).rtcache = s.rtcache := rfl
@[simp] theorem State.setDbg_rtwait (s : State) (t : Nat) (d : Dbg) : (s.setDbg t d).rtwait = s.rtwait := rfl
@[simp] theorem State.setDbg_rtmiss (s : State) (t : Nat) (d : Dbg) : (s.setDbg t d).rtmiss = s.rtmiss := rfl
@[simp] theorem State.setDbg_podRtt (s : State) (t : Nat) (d : Dbg) : (s.setDbg t d).podRtt = s.podRtt := rfl
@[simp] theorem State.setDbg_peerRtt (s : State) (t : Nat) (d : Dbg) : (s.setDbg t d).peerRtt = s.peerRtt := rfl
@[simp] theorem State.setDbg_portRtt (s : State) (t : Nat) (d : Dbg) : (s.setDbg t d).portRtt = s.portRtt := rfl
@[simp] theorem State.setDbg_vers (s : State) (t : Nat) (d : Dbg) : (s.setDbg t d).vers = s.vers := rfl
@[simp] theorem State.setDbg_pubs (s : State) (t : Nat) (d : Dbg) : (s.setDbg t d).pubs = s.pubs := rfl
@[simp] theorem State.setDbg_castoffs (s : State) (t : Nat) (d : Dbg) : (s.setDbg t d).castoffs = s.castoffs := rfl
@[simp] theorem State.setDbg_ll (s : State) (t : Nat) (d : Dbg) : (s.setDbg t d).ll = s.ll := rfl
@[simp] theorem State.setDbg_acted (s : State) (t : Nat) (d : Dbg) : (s.setDbg t d).acted = s.acted := rfl
@[simp] theorem State.setDbg_went (s : State) (t : Nat) (d : Dbg) : (s.setDbg t d).went = s.went := rfl
@[simp] theorem State.setDbg_seeds (s : State) (t : Nat) (d : Dbg) : (s.setDbg t d).seeds = s.seeds := rfl
@[simp] theorem State.setDbg_veils (s : State) (t : Nat) (d : Dbg) : (s.setDbg t d).veils = s.veils := rfl
@[simp] theorem State.setDbg_hostAts (s : State) (t : Nat) (d : Dbg) : (s.setDbg t d).hostAts = s.hostAts := rfl
@[simp] theorem State.setDbg_answers (s : State) (t : Nat) (d : Dbg) : (s.setDbg t d).answers = s.answers := rfl
@[simp] theorem State.setDbg_pwrDone (s : State) (t : Nat) (d : Dbg) : (s.setDbg t d).pwrDone = s.pwrDone := rfl


/-! ### Flags set in %status -/

@[simp] theorem Group.raise_env (g : Group) (fl : Nat) : (g.raise fl).env = g.env := rfl
@[simp] theorem Group.raise_v (g : Group) (fl : Nat) : (g.raise fl).v = g.v := rfl
@[simp] theorem Group.raise_s (g : Group) (fl : Nat) : (g.raise fl).s = g.s := rfl
@[simp] theorem Group.raise_p (g : Group) (fl : Nat) : (g.raise fl).p = g.p := rfl
@[simp] theorem Group.raise_ac (g : Group) (fl : Nat) : (g.raise fl).ac = g.ac := rfl
@[simp] theorem Group.raise_gauges (g : Group) (fl : Nat) : (g.raise fl).gauges = g.gauges := rfl
@[simp] theorem Group.raise_stores (g : Group) (fl : Nat) : (g.raise fl).stores = g.stores := rfl
@[simp] theorem Group.raise_paths (g : Group) (fl : Nat) : (g.raise fl).paths = g.paths := rfl
@[simp] theorem Group.raise_stamp (g : Group) (fl : Nat) : (g.raise fl).stamp = g.stamp := rfl
@[simp] theorem Group.raise_planes (g : Group) (fl : Nat) : (g.raise fl).planes = g.planes := rfl
@[simp] theorem Group.raise_exited (g : Group) (fl : Nat) : (g.raise fl).exited = g.exited := rfl
@[simp] theorem Group.raise_parked (g : Group) (fl : Nat) : (g.raise fl).parked = g.parked := rfl
@[simp] theorem Group.raise_plane (g : Group) (fl : Nat) : (g.raise fl).plane = g.plane := rfl
@[simp] theorem Group.raise_common (g : Group) (fl : Nat) : (g.raise fl).common = g.common := rfl
@[simp] theorem Group.raise_todo (g : Group) (fl : Nat) : (g.raise fl).todo = g.todo := rfl
@[simp] theorem Group.raise_rcd (g : Group) (fl : Nat) : (g.raise fl).rcd = g.rcd := rfl
@[simp] theorem Group.raise_wait (g : Group) (fl : Nat) : (g.raise fl).wait = g.wait := rfl
@[simp] theorem Group.raise_waitNo (g : Group) (fl : Nat) : (g.raise fl).waitNo = g.waitNo := rfl
@[simp] theorem Group.raise_ready (g : Group) (fl : Nat) : (g.raise fl).ready = g.ready := rfl
@[simp] theorem Group.raise_busy (g : Group) (fl : Nat) : (g.raise fl).busy = g.busy := rfl
@[simp] theorem Group.raise_issued (g : Group) (fl : Nat) : (g.raise fl).issued = g.issued := rfl
@[simp] theorem Group.raise_stalled (g : Group) (fl : Nat) : (g.raise fl).stalled = g.stalled := rfl
@[simp] theorem Group.raise_frame (g : Group) (fl : Nat) : (g.raise fl).frame = g.frame := rfl
@[simp] theorem Group.raise_budget (g : Group) (fl : Nat) : (g.raise fl).budget = g.budget := rfl
@[simp] theorem Group.raise_preempt (g : Group) (fl : Nat) : (g.raise fl).preempt = g.preempt := rfl
@[simp] theorem Group.raise_saveMask (g : Group) (fl : Nat) : (g.raise fl).saveMask = g.saveMask := rfl
@[simp] theorem Group.raise_leaving (g : Group) (fl : Nat) : (g.raise fl).leaving = g.leaving := rfl
@[simp] theorem Group.raise_forced (g : Group) (fl : Nat) : (g.raise fl).forced = g.forced := rfl
@[simp] theorem Group.raise_abandoned (g : Group) (fl : Nat) : (g.raise fl).abandoned = g.abandoned := rfl
@[simp] theorem Group.raise_ended (g : Group) (fl : Nat) : (g.raise fl).ended = g.ended := rfl
@[simp] theorem Group.raise_holds (g : Group) (fl : Nat) : (g.raise fl).holds = g.holds := rfl
@[simp] theorem Group.raise_bopen (g : Group) (fl : Nat) : (g.raise fl).bopen = g.bopen := rfl
@[simp] theorem Group.raise_bdone (g : Group) (fl : Nat) : (g.raise fl).bdone = g.bdone := rfl
@[simp] theorem Group.raise_merr (g : Group) (fl : Nat) : (g.raise fl).merr = g.merr := rfl
@[simp] theorem Group.raise_nerr (g : Group) (fl : Nat) : (g.raise fl).nerr = g.nerr := rfl
@[simp] theorem Group.raise_quiet (g : Group) (fl : Nat) : (g.raise fl).quiet = g.quiet := rfl
@[simp] theorem Group.raise_qpend (g : Group) (fl : Nat) : (g.raise fl).qpend = g.qpend := rfl
@[simp] theorem Group.raise_qhandler (g : Group) (fl : Nat) : (g.raise fl).qhandler = g.qhandler := rfl
@[simp] theorem Group.raise_still (g : Group) (fl : Nat) : (g.raise fl).still = g.still := rfl
@[simp] theorem Group.raise_trace (g : Group) (fl : Nat) : (g.raise fl).trace = g.trace := rfl
@[simp] theorem Group.raise_owes (g : Group) (fl : Nat) : (g.raise fl).owes = g.owes := rfl
@[simp] theorem Group.raise_lastMark (g : Group) (fl : Nat) : (g.raise fl).lastMark = g.lastMark := rfl
@[simp] theorem Group.raise_serial (g : Group) (fl : Nat) : (g.raise fl).serial = g.serial := rfl
@[simp] theorem Group.raise_pre (g : Group) (fl : Nat) : (g.raise fl).pre = g.pre := rfl
@[simp] theorem Group.raise_bad (g : Group) (fl : Nat) : (g.raise fl).bad = g.bad := rfl
@[simp] theorem Group.raise_late (g : Group) (fl : Nat) : (g.raise fl).late = g.late := rfl
@[simp] theorem Group.raise_delayed (g : Group) (fl : Nat) : (g.raise fl).delayed = g.delayed := rfl
@[simp] theorem Group.raise_opens (g : Group) (fl : Nat) : (g.raise fl).opens = g.opens := rfl
@[simp] theorem Group.raise_view (g : Group) (fl : Nat) : (g.raise fl).view = g.view := rfl
@[simp] theorem Group.raise_pops (g : Group) (fl : Nat) : (g.raise fl).pops = g.pops := rfl
@[simp] theorem Group.raise_struck (g : Group) (fl : Nat) : (g.raise fl).struck = g.struck := rfl
@[simp] theorem Group.raise_redo (g : Group) (fl : Nat) : (g.raise fl).redo = g.redo := rfl
@[simp] theorem Group.raise_skips (g : Group) (fl : Nat) : (g.raise fl).skips = g.skips := rfl
@[simp] theorem Group.raise_look (g : Group) (fl : Nat) : (g.raise fl).look = g.look := rfl
@[simp] theorem Group.raise_fills (g : Group) (fl : Nat) : (g.raise fl).fills = g.fills := rfl
@[simp] theorem Group.raise_halted (g : Group) (fl : Nat) : (g.raise fl).halted = g.halted := rfl
@[simp] theorem Group.raise_follow (g : Group) (fl : Nat) : (g.raise fl).follow = g.follow := rfl

/-! ### Flags cleared in %status -/

@[simp] theorem Group.clearFlags_env (g : Group) (x : W64) : (g.clearFlags x).env = g.env := rfl
@[simp] theorem Group.clearFlags_v (g : Group) (x : W64) : (g.clearFlags x).v = g.v := rfl
@[simp] theorem Group.clearFlags_s (g : Group) (x : W64) : (g.clearFlags x).s = g.s := rfl
@[simp] theorem Group.clearFlags_p (g : Group) (x : W64) : (g.clearFlags x).p = g.p := rfl
@[simp] theorem Group.clearFlags_ac (g : Group) (x : W64) : (g.clearFlags x).ac = g.ac := rfl
@[simp] theorem Group.clearFlags_gauges (g : Group) (x : W64) : (g.clearFlags x).gauges = g.gauges := rfl
@[simp] theorem Group.clearFlags_stores (g : Group) (x : W64) : (g.clearFlags x).stores = g.stores := rfl
@[simp] theorem Group.clearFlags_paths (g : Group) (x : W64) : (g.clearFlags x).paths = g.paths := rfl
@[simp] theorem Group.clearFlags_stamp (g : Group) (x : W64) : (g.clearFlags x).stamp = g.stamp := rfl
@[simp] theorem Group.clearFlags_planes (g : Group) (x : W64) : (g.clearFlags x).planes = g.planes := rfl
@[simp] theorem Group.clearFlags_exited (g : Group) (x : W64) : (g.clearFlags x).exited = g.exited := rfl
@[simp] theorem Group.clearFlags_parked (g : Group) (x : W64) : (g.clearFlags x).parked = g.parked := rfl
@[simp] theorem Group.clearFlags_plane (g : Group) (x : W64) : (g.clearFlags x).plane = g.plane := rfl
@[simp] theorem Group.clearFlags_common (g : Group) (x : W64) : (g.clearFlags x).common = g.common := rfl
@[simp] theorem Group.clearFlags_todo (g : Group) (x : W64) : (g.clearFlags x).todo = g.todo := rfl
@[simp] theorem Group.clearFlags_rcd (g : Group) (x : W64) : (g.clearFlags x).rcd = g.rcd := rfl
@[simp] theorem Group.clearFlags_wait (g : Group) (x : W64) : (g.clearFlags x).wait = g.wait := rfl
@[simp] theorem Group.clearFlags_waitNo (g : Group) (x : W64) : (g.clearFlags x).waitNo = g.waitNo := rfl
@[simp] theorem Group.clearFlags_ready (g : Group) (x : W64) : (g.clearFlags x).ready = g.ready := rfl
@[simp] theorem Group.clearFlags_busy (g : Group) (x : W64) : (g.clearFlags x).busy = g.busy := rfl
@[simp] theorem Group.clearFlags_issued (g : Group) (x : W64) : (g.clearFlags x).issued = g.issued := rfl
@[simp] theorem Group.clearFlags_stalled (g : Group) (x : W64) : (g.clearFlags x).stalled = g.stalled := rfl
@[simp] theorem Group.clearFlags_frame (g : Group) (x : W64) : (g.clearFlags x).frame = g.frame := rfl
@[simp] theorem Group.clearFlags_budget (g : Group) (x : W64) : (g.clearFlags x).budget = g.budget := rfl
@[simp] theorem Group.clearFlags_preempt (g : Group) (x : W64) : (g.clearFlags x).preempt = g.preempt := rfl
@[simp] theorem Group.clearFlags_saveMask (g : Group) (x : W64) : (g.clearFlags x).saveMask = g.saveMask := rfl
@[simp] theorem Group.clearFlags_leaving (g : Group) (x : W64) : (g.clearFlags x).leaving = g.leaving := rfl
@[simp] theorem Group.clearFlags_forced (g : Group) (x : W64) : (g.clearFlags x).forced = g.forced := rfl
@[simp] theorem Group.clearFlags_abandoned (g : Group) (x : W64) : (g.clearFlags x).abandoned = g.abandoned := rfl
@[simp] theorem Group.clearFlags_ended (g : Group) (x : W64) : (g.clearFlags x).ended = g.ended := rfl
@[simp] theorem Group.clearFlags_holds (g : Group) (x : W64) : (g.clearFlags x).holds = g.holds := rfl
@[simp] theorem Group.clearFlags_bopen (g : Group) (x : W64) : (g.clearFlags x).bopen = g.bopen := rfl
@[simp] theorem Group.clearFlags_bdone (g : Group) (x : W64) : (g.clearFlags x).bdone = g.bdone := rfl
@[simp] theorem Group.clearFlags_merr (g : Group) (x : W64) : (g.clearFlags x).merr = g.merr := rfl
@[simp] theorem Group.clearFlags_nerr (g : Group) (x : W64) : (g.clearFlags x).nerr = g.nerr := rfl
@[simp] theorem Group.clearFlags_quiet (g : Group) (x : W64) : (g.clearFlags x).quiet = g.quiet := rfl
@[simp] theorem Group.clearFlags_qpend (g : Group) (x : W64) : (g.clearFlags x).qpend = g.qpend := rfl
@[simp] theorem Group.clearFlags_qhandler (g : Group) (x : W64) : (g.clearFlags x).qhandler = g.qhandler := rfl
@[simp] theorem Group.clearFlags_still (g : Group) (x : W64) : (g.clearFlags x).still = g.still := rfl
@[simp] theorem Group.clearFlags_trace (g : Group) (x : W64) : (g.clearFlags x).trace = g.trace := rfl
@[simp] theorem Group.clearFlags_owes (g : Group) (x : W64) : (g.clearFlags x).owes = g.owes := rfl
@[simp] theorem Group.clearFlags_lastMark (g : Group) (x : W64) : (g.clearFlags x).lastMark = g.lastMark := rfl
@[simp] theorem Group.clearFlags_serial (g : Group) (x : W64) : (g.clearFlags x).serial = g.serial := rfl
@[simp] theorem Group.clearFlags_pre (g : Group) (x : W64) : (g.clearFlags x).pre = g.pre := rfl
@[simp] theorem Group.clearFlags_bad (g : Group) (x : W64) : (g.clearFlags x).bad = g.bad := rfl
@[simp] theorem Group.clearFlags_late (g : Group) (x : W64) : (g.clearFlags x).late = g.late := rfl
@[simp] theorem Group.clearFlags_delayed (g : Group) (x : W64) : (g.clearFlags x).delayed = g.delayed := rfl
@[simp] theorem Group.clearFlags_opens (g : Group) (x : W64) : (g.clearFlags x).opens = g.opens := rfl
@[simp] theorem Group.clearFlags_view (g : Group) (x : W64) : (g.clearFlags x).view = g.view := rfl
@[simp] theorem Group.clearFlags_pops (g : Group) (x : W64) : (g.clearFlags x).pops = g.pops := rfl
@[simp] theorem Group.clearFlags_struck (g : Group) (x : W64) : (g.clearFlags x).struck = g.struck := rfl
@[simp] theorem Group.clearFlags_redo (g : Group) (x : W64) : (g.clearFlags x).redo = g.redo := rfl
@[simp] theorem Group.clearFlags_skips (g : Group) (x : W64) : (g.clearFlags x).skips = g.skips := rfl
@[simp] theorem Group.clearFlags_look (g : Group) (x : W64) : (g.clearFlags x).look = g.look := rfl
@[simp] theorem Group.clearFlags_fills (g : Group) (x : W64) : (g.clearFlags x).fills = g.fills := rfl
@[simp] theorem Group.clearFlags_halted (g : Group) (x : W64) : (g.clearFlags x).halted = g.halted := rfl
@[simp] theorem Group.clearFlags_follow (g : Group) (x : W64) : (g.clearFlags x).follow = g.follow := rfl

/-! ### An arrival counter raised -/

@[simp] theorem Group.landed_env (g : Group) (n : Nat) : (g.landed n).env = g.env := rfl
@[simp] theorem Group.landed_v (g : Group) (n : Nat) : (g.landed n).v = g.v := rfl
@[simp] theorem Group.landed_s (g : Group) (n : Nat) : (g.landed n).s = g.s := rfl
@[simp] theorem Group.landed_p (g : Group) (n : Nat) : (g.landed n).p = g.p := rfl
@[simp] theorem Group.landed_gauges (g : Group) (n : Nat) : (g.landed n).gauges = g.gauges := rfl
@[simp] theorem Group.landed_status (g : Group) (n : Nat) : (g.landed n).status = g.status := rfl
@[simp] theorem Group.landed_stores (g : Group) (n : Nat) : (g.landed n).stores = g.stores := rfl
@[simp] theorem Group.landed_paths (g : Group) (n : Nat) : (g.landed n).paths = g.paths := rfl
@[simp] theorem Group.landed_stamp (g : Group) (n : Nat) : (g.landed n).stamp = g.stamp := rfl
@[simp] theorem Group.landed_planes (g : Group) (n : Nat) : (g.landed n).planes = g.planes := rfl
@[simp] theorem Group.landed_exited (g : Group) (n : Nat) : (g.landed n).exited = g.exited := rfl
@[simp] theorem Group.landed_parked (g : Group) (n : Nat) : (g.landed n).parked = g.parked := rfl
@[simp] theorem Group.landed_plane (g : Group) (n : Nat) : (g.landed n).plane = g.plane := rfl
@[simp] theorem Group.landed_common (g : Group) (n : Nat) : (g.landed n).common = g.common := rfl
@[simp] theorem Group.landed_todo (g : Group) (n : Nat) : (g.landed n).todo = g.todo := rfl
@[simp] theorem Group.landed_rcd (g : Group) (n : Nat) : (g.landed n).rcd = g.rcd := rfl
@[simp] theorem Group.landed_wait (g : Group) (n : Nat) : (g.landed n).wait = g.wait := rfl
@[simp] theorem Group.landed_waitNo (g : Group) (n : Nat) : (g.landed n).waitNo = g.waitNo := rfl
@[simp] theorem Group.landed_ready (g : Group) (n : Nat) : (g.landed n).ready = g.ready := rfl
@[simp] theorem Group.landed_busy (g : Group) (n : Nat) : (g.landed n).busy = g.busy := rfl
@[simp] theorem Group.landed_issued (g : Group) (n : Nat) : (g.landed n).issued = g.issued := rfl
@[simp] theorem Group.landed_stalled (g : Group) (n : Nat) : (g.landed n).stalled = g.stalled := rfl
@[simp] theorem Group.landed_frame (g : Group) (n : Nat) : (g.landed n).frame = g.frame := rfl
@[simp] theorem Group.landed_budget (g : Group) (n : Nat) : (g.landed n).budget = g.budget := rfl
@[simp] theorem Group.landed_preempt (g : Group) (n : Nat) : (g.landed n).preempt = g.preempt := rfl
@[simp] theorem Group.landed_saveMask (g : Group) (n : Nat) : (g.landed n).saveMask = g.saveMask := rfl
@[simp] theorem Group.landed_leaving (g : Group) (n : Nat) : (g.landed n).leaving = g.leaving := rfl
@[simp] theorem Group.landed_forced (g : Group) (n : Nat) : (g.landed n).forced = g.forced := rfl
@[simp] theorem Group.landed_abandoned (g : Group) (n : Nat) : (g.landed n).abandoned = g.abandoned := rfl
@[simp] theorem Group.landed_ended (g : Group) (n : Nat) : (g.landed n).ended = g.ended := rfl
@[simp] theorem Group.landed_holds (g : Group) (n : Nat) : (g.landed n).holds = g.holds := rfl
@[simp] theorem Group.landed_bopen (g : Group) (n : Nat) : (g.landed n).bopen = g.bopen := rfl
@[simp] theorem Group.landed_bdone (g : Group) (n : Nat) : (g.landed n).bdone = g.bdone := rfl
@[simp] theorem Group.landed_merr (g : Group) (n : Nat) : (g.landed n).merr = g.merr := rfl
@[simp] theorem Group.landed_nerr (g : Group) (n : Nat) : (g.landed n).nerr = g.nerr := rfl
@[simp] theorem Group.landed_quiet (g : Group) (n : Nat) : (g.landed n).quiet = g.quiet := rfl
@[simp] theorem Group.landed_qpend (g : Group) (n : Nat) : (g.landed n).qpend = g.qpend := rfl
@[simp] theorem Group.landed_qhandler (g : Group) (n : Nat) : (g.landed n).qhandler = g.qhandler := rfl
@[simp] theorem Group.landed_still (g : Group) (n : Nat) : (g.landed n).still = g.still := rfl
@[simp] theorem Group.landed_trace (g : Group) (n : Nat) : (g.landed n).trace = g.trace := rfl
@[simp] theorem Group.landed_owes (g : Group) (n : Nat) : (g.landed n).owes = g.owes := rfl
@[simp] theorem Group.landed_lastMark (g : Group) (n : Nat) : (g.landed n).lastMark = g.lastMark := rfl
@[simp] theorem Group.landed_serial (g : Group) (n : Nat) : (g.landed n).serial = g.serial := rfl
@[simp] theorem Group.landed_pre (g : Group) (n : Nat) : (g.landed n).pre = g.pre := rfl
@[simp] theorem Group.landed_bad (g : Group) (n : Nat) : (g.landed n).bad = g.bad := rfl
@[simp] theorem Group.landed_late (g : Group) (n : Nat) : (g.landed n).late = g.late := rfl
@[simp] theorem Group.landed_delayed (g : Group) (n : Nat) : (g.landed n).delayed = g.delayed := rfl
@[simp] theorem Group.landed_opens (g : Group) (n : Nat) : (g.landed n).opens = g.opens := rfl
@[simp] theorem Group.landed_view (g : Group) (n : Nat) : (g.landed n).view = g.view := rfl
@[simp] theorem Group.landed_pops (g : Group) (n : Nat) : (g.landed n).pops = g.pops := rfl
@[simp] theorem Group.landed_struck (g : Group) (n : Nat) : (g.landed n).struck = g.struck := rfl
@[simp] theorem Group.landed_redo (g : Group) (n : Nat) : (g.landed n).redo = g.redo := rfl
@[simp] theorem Group.landed_skips (g : Group) (n : Nat) : (g.landed n).skips = g.skips := rfl
@[simp] theorem Group.landed_look (g : Group) (n : Nat) : (g.landed n).look = g.look := rfl
@[simp] theorem Group.landed_fills (g : Group) (n : Nat) : (g.landed n).fills = g.fills := rfl
@[simp] theorem Group.landed_halted (g : Group) (n : Nat) : (g.landed n).halted = g.halted := rfl
@[simp] theorem Group.landed_follow (g : Group) (n : Nat) : (g.landed n).follow = g.follow := rfl

/-! ### A word that could not issue -/

@[simp] theorem Group.retry_env (g : Group) : (g.retry).env = g.env := rfl
@[simp] theorem Group.retry_v (g : Group) : (g.retry).v = g.v := rfl
@[simp] theorem Group.retry_s (g : Group) : (g.retry).s = g.s := rfl
@[simp] theorem Group.retry_p (g : Group) : (g.retry).p = g.p := rfl
@[simp] theorem Group.retry_ac (g : Group) : (g.retry).ac = g.ac := rfl
@[simp] theorem Group.retry_gauges (g : Group) : (g.retry).gauges = g.gauges := rfl
@[simp] theorem Group.retry_status (g : Group) : (g.retry).status = g.status := rfl
@[simp] theorem Group.retry_stores (g : Group) : (g.retry).stores = g.stores := rfl
@[simp] theorem Group.retry_paths (g : Group) : (g.retry).paths = g.paths := rfl
@[simp] theorem Group.retry_stamp (g : Group) : (g.retry).stamp = g.stamp := rfl
@[simp] theorem Group.retry_planes (g : Group) : (g.retry).planes = g.planes := rfl
@[simp] theorem Group.retry_exited (g : Group) : (g.retry).exited = g.exited := rfl
@[simp] theorem Group.retry_parked (g : Group) : (g.retry).parked = g.parked := rfl
@[simp] theorem Group.retry_plane (g : Group) : (g.retry).plane = g.plane := rfl
@[simp] theorem Group.retry_common (g : Group) : (g.retry).common = g.common := rfl
@[simp] theorem Group.retry_rcd (g : Group) : (g.retry).rcd = g.rcd := rfl
@[simp] theorem Group.retry_wait (g : Group) : (g.retry).wait = g.wait := rfl
@[simp] theorem Group.retry_waitNo (g : Group) : (g.retry).waitNo = g.waitNo := rfl
@[simp] theorem Group.retry_ready (g : Group) : (g.retry).ready = g.ready := rfl
@[simp] theorem Group.retry_busy (g : Group) : (g.retry).busy = g.busy := rfl
@[simp] theorem Group.retry_issued (g : Group) : (g.retry).issued = g.issued := rfl
@[simp] theorem Group.retry_frame (g : Group) : (g.retry).frame = g.frame := rfl
@[simp] theorem Group.retry_budget (g : Group) : (g.retry).budget = g.budget := rfl
@[simp] theorem Group.retry_preempt (g : Group) : (g.retry).preempt = g.preempt := rfl
@[simp] theorem Group.retry_saveMask (g : Group) : (g.retry).saveMask = g.saveMask := rfl
@[simp] theorem Group.retry_leaving (g : Group) : (g.retry).leaving = g.leaving := rfl
@[simp] theorem Group.retry_forced (g : Group) : (g.retry).forced = g.forced := rfl
@[simp] theorem Group.retry_abandoned (g : Group) : (g.retry).abandoned = g.abandoned := rfl
@[simp] theorem Group.retry_ended (g : Group) : (g.retry).ended = g.ended := rfl
@[simp] theorem Group.retry_holds (g : Group) : (g.retry).holds = g.holds := rfl
@[simp] theorem Group.retry_bopen (g : Group) : (g.retry).bopen = g.bopen := rfl
@[simp] theorem Group.retry_bdone (g : Group) : (g.retry).bdone = g.bdone := rfl
@[simp] theorem Group.retry_merr (g : Group) : (g.retry).merr = g.merr := rfl
@[simp] theorem Group.retry_nerr (g : Group) : (g.retry).nerr = g.nerr := rfl
@[simp] theorem Group.retry_quiet (g : Group) : (g.retry).quiet = g.quiet := rfl
@[simp] theorem Group.retry_qpend (g : Group) : (g.retry).qpend = g.qpend := rfl
@[simp] theorem Group.retry_qhandler (g : Group) : (g.retry).qhandler = g.qhandler := rfl
@[simp] theorem Group.retry_still (g : Group) : (g.retry).still = g.still := rfl
@[simp] theorem Group.retry_trace (g : Group) : (g.retry).trace = g.trace := rfl
@[simp] theorem Group.retry_owes (g : Group) : (g.retry).owes = g.owes := rfl
@[simp] theorem Group.retry_lastMark (g : Group) : (g.retry).lastMark = g.lastMark := rfl
@[simp] theorem Group.retry_serial (g : Group) : (g.retry).serial = g.serial := rfl
@[simp] theorem Group.retry_pre (g : Group) : (g.retry).pre = g.pre := rfl
@[simp] theorem Group.retry_bad (g : Group) : (g.retry).bad = g.bad := rfl
@[simp] theorem Group.retry_late (g : Group) : (g.retry).late = g.late := rfl
@[simp] theorem Group.retry_delayed (g : Group) : (g.retry).delayed = g.delayed := rfl
@[simp] theorem Group.retry_opens (g : Group) : (g.retry).opens = g.opens := rfl
@[simp] theorem Group.retry_view (g : Group) : (g.retry).view = g.view := rfl
@[simp] theorem Group.retry_pops (g : Group) : (g.retry).pops = g.pops := rfl
@[simp] theorem Group.retry_struck (g : Group) : (g.retry).struck = g.struck := rfl
@[simp] theorem Group.retry_redo (g : Group) : (g.retry).redo = g.redo := rfl
@[simp] theorem Group.retry_skips (g : Group) : (g.retry).skips = g.skips := rfl
@[simp] theorem Group.retry_look (g : Group) : (g.retry).look = g.look := rfl
@[simp] theorem Group.retry_fills (g : Group) : (g.retry).fills = g.fills := rfl
@[simp] theorem Group.retry_halted (g : Group) : (g.retry).halted = g.halted := rfl

/-! ### A group saved by force -/

@[simp] theorem Group.force_env (g : Group) : (g.force).env = g.env := rfl
@[simp] theorem Group.force_v (g : Group) : (g.force).v = g.v := rfl
@[simp] theorem Group.force_s (g : Group) : (g.force).s = g.s := rfl
@[simp] theorem Group.force_p (g : Group) : (g.force).p = g.p := rfl
@[simp] theorem Group.force_ac (g : Group) : (g.force).ac = g.ac := rfl
@[simp] theorem Group.force_gauges (g : Group) : (g.force).gauges = g.gauges := rfl
@[simp] theorem Group.force_status (g : Group) : (g.force).status = g.status := rfl
@[simp] theorem Group.force_stores (g : Group) : (g.force).stores = g.stores := rfl
@[simp] theorem Group.force_paths (g : Group) : (g.force).paths = g.paths := rfl
@[simp] theorem Group.force_stamp (g : Group) : (g.force).stamp = g.stamp := rfl
@[simp] theorem Group.force_planes (g : Group) : (g.force).planes = g.planes := rfl
@[simp] theorem Group.force_exited (g : Group) : (g.force).exited = g.exited := rfl
@[simp] theorem Group.force_parked (g : Group) : (g.force).parked = g.parked := rfl
@[simp] theorem Group.force_plane (g : Group) : (g.force).plane = g.plane := rfl
@[simp] theorem Group.force_common (g : Group) : (g.force).common = g.common := rfl
@[simp] theorem Group.force_todo (g : Group) : (g.force).todo = g.todo := rfl
@[simp] theorem Group.force_rcd (g : Group) : (g.force).rcd = g.rcd := rfl
@[simp] theorem Group.force_wait (g : Group) : (g.force).wait = g.wait := rfl
@[simp] theorem Group.force_waitNo (g : Group) : (g.force).waitNo = g.waitNo := rfl
@[simp] theorem Group.force_ready (g : Group) : (g.force).ready = g.ready := rfl
@[simp] theorem Group.force_busy (g : Group) : (g.force).busy = g.busy := rfl
@[simp] theorem Group.force_issued (g : Group) : (g.force).issued = g.issued := rfl
@[simp] theorem Group.force_stalled (g : Group) : (g.force).stalled = g.stalled := rfl
@[simp] theorem Group.force_frame (g : Group) : (g.force).frame = g.frame := rfl
@[simp] theorem Group.force_budget (g : Group) : (g.force).budget = g.budget := rfl
@[simp] theorem Group.force_abandoned (g : Group) : (g.force).abandoned = g.abandoned := rfl
@[simp] theorem Group.force_ended (g : Group) : (g.force).ended = g.ended := rfl
@[simp] theorem Group.force_holds (g : Group) : (g.force).holds = g.holds := rfl
@[simp] theorem Group.force_bopen (g : Group) : (g.force).bopen = g.bopen := rfl
@[simp] theorem Group.force_bdone (g : Group) : (g.force).bdone = g.bdone := rfl
@[simp] theorem Group.force_merr (g : Group) : (g.force).merr = g.merr := rfl
@[simp] theorem Group.force_nerr (g : Group) : (g.force).nerr = g.nerr := rfl
@[simp] theorem Group.force_quiet (g : Group) : (g.force).quiet = g.quiet := rfl
@[simp] theorem Group.force_qpend (g : Group) : (g.force).qpend = g.qpend := rfl
@[simp] theorem Group.force_still (g : Group) : (g.force).still = g.still := rfl
@[simp] theorem Group.force_trace (g : Group) : (g.force).trace = g.trace := rfl
@[simp] theorem Group.force_owes (g : Group) : (g.force).owes = g.owes := rfl
@[simp] theorem Group.force_lastMark (g : Group) : (g.force).lastMark = g.lastMark := rfl
@[simp] theorem Group.force_serial (g : Group) : (g.force).serial = g.serial := rfl
@[simp] theorem Group.force_pre (g : Group) : (g.force).pre = g.pre := rfl
@[simp] theorem Group.force_bad (g : Group) : (g.force).bad = g.bad := rfl
@[simp] theorem Group.force_late (g : Group) : (g.force).late = g.late := rfl
@[simp] theorem Group.force_delayed (g : Group) : (g.force).delayed = g.delayed := rfl
@[simp] theorem Group.force_opens (g : Group) : (g.force).opens = g.opens := rfl
@[simp] theorem Group.force_view (g : Group) : (g.force).view = g.view := rfl
@[simp] theorem Group.force_pops (g : Group) : (g.force).pops = g.pops := rfl
@[simp] theorem Group.force_struck (g : Group) : (g.force).struck = g.struck := rfl
@[simp] theorem Group.force_redo (g : Group) : (g.force).redo = g.redo := rfl
@[simp] theorem Group.force_skips (g : Group) : (g.force).skips = g.skips := rfl
@[simp] theorem Group.force_look (g : Group) : (g.force).look = g.look := rfl
@[simp] theorem Group.force_fills (g : Group) : (g.force).fills = g.fills := rfl
@[simp] theorem Group.force_halted (g : Group) : (g.force).halted = g.halted := rfl

end Sys2Proof.Machine
end

