-- ==== Sys2Proof/Laws/Access.lean ====
section
/-! SUPPORT. Everything the shared operations over contexts, records and memory can do to memory and to the groups: the end of a context, an error record,
a consumption, a read and a write of a requester, and a trap. -/

namespace Sys2Proof.Machine
open Sys2Proof

/-! ### What a step of another kind leaves of a group -/

/-- g' is g as a step that ends contexts or releases waits may leave it: its registers, predicates, %status, environment and frame stand. -/
def SameRegisters (g g' : Group) : Prop :=
  g'.v = g.v ∧ g'.s = g.s ∧ g'.p = g.p ∧ g'.status = g.status ∧ g'.env = g.env ∧ g'.frame = g.frame

theorem SameRegisters.refl (g : Group) : SameRegisters g g := ⟨rfl, rfl, rfl, rfl, rfl, rfl⟩

theorem SameRegisters.trans {a b c : Group} (h : SameRegisters a b) (k : SameRegisters b c) : SameRegisters a c :=
  ⟨k.1.trans h.1, k.2.1.trans h.2.1, k.2.2.1.trans h.2.2.1, k.2.2.2.1.trans h.2.2.2.1, k.2.2.2.2.1.trans h.2.2.2.2.1,
    k.2.2.2.2.2.trans h.2.2.2.2.2⟩

/-- Every group of s but the one with key c stands in t with its registers. -/
def OthersKeep (s t : State) (c : Nat) : Prop :=
  ∀ k g, k ≠ c → s.groups.get? k = some g → ∃ g', t.groups.get? k = some g' ∧ SameRegisters g g'

theorem OthersKeep.of_groups {s t : State} {c : Nat} (h : t.groups = s.groups) : OthersKeep s t c :=
  fun _ g _ hg => ⟨g, h ▸ hg, .refl g⟩

theorem OthersKeep.trans {s t u : State} {c : Nat} (h : OthersKeep s t c) (k : OthersKeep t u c) : OthersKeep s u c := by
  intro key g hk hg
  obtain ⟨g1, h1, r1⟩ := h key g hk hg
  obtain ⟨g2, h2, r2⟩ := k key g1 hk h1
  exact ⟨g2, h2, r1.trans r2⟩

theorem OthersKeep.put (s : State) (g : Group) : OthersKeep s (s.put g) s.cur :=
  fun k h hk hg => ⟨h, (State.put_other s g k hk).trans hg, .refl h⟩

/-! ### Writes of an engine, and the HBM4 command queues -/

theorem pastHost_mem (s : State) (p n : Nat) : (s.pastHost p n).mem = s.mem := by unfold State.pastHost; split <;> rfl

theorem pastHost_groups (s : State) (p n : Nat) : (s.pastHost p n).groups = s.groups := by unfold State.pastHost; split <;> rfl

theorem pastHost_ll (s : State) (p n : Nat) : (s.pastHost p n).ll = s.ll := by unfold State.pastHost; split <;> rfl

/-- An access of the device while the host has no atomic under way concerns the host's side in nothing. -/
theorem pastHost_quiet (s : State) (p n : Nat) (h : s.hostAts = []) : s.pastHost p n = s := by simp [State.pastHost, h]

/-- A write of an engine stores exactly its bytes. -/
theorem engineWrite_mem (s : State) (p : Nat) (bs : List Byte) : (s.engineWrite p bs).mem = memStore s.mem p bs :=
  congrArg (fun m => memStore m p bs) (pastHost_mem s p bs.length)

theorem engineWrite_groups (s : State) (p : Nat) (bs : List Byte) : (s.engineWrite p bs).groups = s.groups := pastHost_groups s p bs.length

theorem engineWrite_wf (s : State) (p : Nat) (bs : List Byte) (h : Memory.wf s.mem = true) : Memory.wf (s.engineWrite p bs).mem = true := by
  rw [engineWrite_mem]; exact Memory.wf_memStore _ _ _ h

/-- Bytes of a near store stand as they are stored; outside a replay nothing else changes but their errors. -/
theorem nearStore_mem (s : State) (p : Nat) (bs : List Byte) : (s.nearStore p bs).mem = memStore s.mem p bs := by
  unfold State.nearStore State.phases; split <;> rfl

theorem nearStore_groups (s : State) (p : Nat) (bs : List Byte) : (s.nearStore p bs).groups = s.groups := by
  unfold State.nearStore State.phases; split <;> rfl

theorem nearStore_live (s : State) (p : Nat) (bs : List Byte) (h : s.ll.replay = none) : s.nearStore p bs = s.poke p bs := by
  simp [State.nearStore, State.phases, h]

theorem nearStore_wf (s : State) (p : Nat) (bs : List Byte) (h : Memory.wf s.mem = true) : Memory.wf (s.nearStore p bs).mem = true := by
  rw [nearStore_mem]; exact Memory.wf_memStore _ _ _ h

theorem served_frame (s : State) (r : Nat × Nat) : served s r = { s with hqueue := (served s r).hqueue, rows := (served s r).rows } := by
  unfold served; dsimp only; split <;> rfl

/-- An access that its pseudo-channel serves changes the queues and the rows, nothing else. -/
theorem hbmServe_frame (s t : State) (p : Nat) (h : hbmServe s p = some t) : t = { s with hqueue := t.hqueue, rows := t.rows } := by
  unfold hbmServe at h
  split at h
  · cases h; rfl
  · dsimp only at h
    split at h
    · cases h
    · split at h
      · split at h
        · cases h
          rw [served_frame]
          split <;> rfl
        · cases h
      · cases h

theorem hbmServes_frame (f : Nat → Nat) (l : List Nat) (s t : State)
    (h : l.foldl (fun r i => r.bind (fun s => hbmServe s (f i))) (some s) = some t) : t = { s with hqueue := t.hqueue, rows := t.rows } := by
  induction l generalizing s with
  | nil => cases h; rfl
  | cons i r ih =>
    rw [List.foldl_cons, Option.bind_some] at h
    cases e : hbmServe s (f i) with
    | none =>
      rw [e] at h
      have n : ∀ l : List Nat, l.foldl (fun r i => r.bind (fun s => hbmServe s (f i))) none = none := by
        intro l
        induction l with
        | nil => rfl
        | cons _ _ k => exact k
      rw [n] at h
      cases h
    | some s1 =>
      rw [e] at h
      rw [ih s1 h, hbmServe_frame s s1 _ e]

theorem hbmRun_frame (s t : State) (p n : Nat) (h : hbmRun s p n = some t) : t = { s with hqueue := t.hqueue, rows := t.rows } := by
  unfold hbmRun at h
  split at h
  · cases h; rfl
  · exact hbmServes_frame _ _ _ _ h

theorem hbmRuns_frame (ps : List (Nat × Nat)) (s t : State) (h : hbmRuns s ps = some t) : t = { s with hqueue := t.hqueue, rows := t.rows } := by
  unfold hbmRuns at h
  induction ps generalizing s with
  | nil => cases h; rfl
  | cons x r ih =>
    rw [List.foldl_cons, Option.bind_some] at h
    cases e : hbmRun s x.1 x.2 with
    | none =>
      rw [e] at h
      have n : ∀ l : List (Nat × Nat), l.foldl (fun r x => r.bind (fun s => hbmRun s x.1 x.2)) none = none := by
        intro l
        induction l with
        | nil => rfl
        | cons _ _ k => exact k
      rw [n] at h
      cases h
    | some s1 =>
      rw [e] at h
      rw [ih s1 h, hbmRun_frame s s1 _ _ e]

/-! ### Records -/

theorem errRecord_wf (s : State) (c u a x t d : Nat) (i : W64) (h : Memory.wf s.mem = true) : Memory.wf (errRecord s c u a x t d i).mem = true := by
  unfold errRecord
  dsimp only
  split
  · exact h
  · split
    · exact h
    · rw [State.setReg_mem]
      exact engineWrite_wf _ _ _ h

theorem errRecord_groups (s : State) (c u a x t d : Nat) (i : W64) : (errRecord s c u a x t d i).groups = s.groups := by
  unfold errRecord
  dsimp only
  split
  · rfl
  · split
    · rfl
    · rw [State.setReg_groups, engineWrite_groups]

/-! ### The end of a context -/

theorem reportsOver_wf (s : State) (ctx : Nat) (gs : Tab Group) (h : Memory.wf s.mem = true) : Memory.wf (reportsOver s ctx gs).mem = true := by
  unfold reportsOver
  induction gs generalizing s with
  | nil => exact h
  | cons x r ih =>
    refine ih _ ?_
    dsimp only
    split
    · exact errRecord_wf _ _ _ _ _ _ _ _ h
    · exact h

theorem reportsOver_groups (s : State) (ctx : Nat) (gs : Tab Group) : (reportsOver s ctx gs).groups = s.groups := by
  unfold reportsOver
  induction gs generalizing s with
  | nil => rfl
  | cons x r ih =>
    refine (ih _).trans ?_
    dsimp only
    split
    · exact errRecord_groups _ _ _ _ _ _ _ _
    · rfl

theorem handOver_fold_wf (bs : Tab Block) (ctx : Nat) (s : State) (h : Memory.wf s.mem = true) :
    Memory.wf (bs.foldl (fun t x => if x.2.ctx = ctx then reportsOver t ctx x.2.saved else t) s).mem = true := by
  induction bs generalizing s with
  | nil => exact h
  | cons x r ih =>
    refine ih _ ?_
    dsimp only
    split
    · exact reportsOver_wf _ _ _ h
    · exact h

theorem handOver_fold_groups (bs : Tab Block) (ctx : Nat) (s : State) :
    (bs.foldl (fun t x => if x.2.ctx = ctx then reportsOver t ctx x.2.saved else t) s).groups = s.groups := by
  induction bs generalizing s with
  | nil => rfl
  | cons x r ih =>
    refine (ih _).trans ?_
    dsimp only
    split
    · exact reportsOver_groups _ _ _
    · rfl

/-- Handing reports over keeps memory canonical and the groups as they are. -/
theorem handOver_wf (s : State) (ctx : Nat) (h : Memory.wf s.mem = true) : Memory.wf (handOver s ctx).mem = true := handOver_fold_wf _ _ _ h

theorem handOver_groups (s : State) (ctx : Nat) : (handOver s ctx).groups = s.groups := handOver_fold_groups _ _ _

theorem endContext_wf (s : State) (ctx st : Nat) (c : Option (Nat × W64)) (h : Memory.wf s.mem = true) : Memory.wf (endContext s ctx st c).mem = true := by
  unfold endContext
  dsimp only
  split
  · exact h
  · exact handOver_wf _ _ h

/-- Where no swapped-out group keeps a report the end of a context touches no byte. -/
theorem endContext_mem (s : State) (ctx st : Nat) (c : Option (Nat × W64)) (h : handOver s ctx = s) : (endContext s ctx st c).mem = s.mem := by
  unfold endContext; dsimp only; rw [h]; split <;> rfl

theorem endContext_keeps (s : State) (ctx st : Nat) (c : Option (Nat × W64)) (key : Nat) : OthersKeep s (endContext s ctx st c) key := by
  unfold endContext
  dsimp only
  split
  · exact .of_groups rfl
  · intro k g _ hg
    refine ⟨_, (Tab.get?_map_if (handOver s ctx).groups (fun g => g.env.ctx = ctx) (fun g => { g with ended := true, wait := none, todo := none, redo := none }) k).trans
      (congrArg _ ((congrArg (fun t => Tab.get? t k) (handOver_groups s ctx)).trans hg)), ?_⟩
    dsimp only
    split
    · exact ⟨rfl, rfl, rfl, rfl, rfl, rfl⟩
    · exact .refl g

/-! ### Consumptions -/

theorem countCorrected_mem (s : State) (u : Nat) : (countCorrected s u).mem = s.mem := rfl
theorem countCorrected_groups (s : State) (u : Nat) : (countCorrected s u).groups = s.groups := rfl

theorem consumeAt_wf (s : State) (w : Who) (u p a x : Nat) (h : Memory.wf s.mem = true) : Memory.wf (consumeAt s w u p a x).mem = true := by
  unfold consumeAt
  split
  · exact h
  · exact errRecord_wf _ _ _ _ _ _ _ _ h

theorem halt_keeps (s : State) (w : Who) (u a key : Nat) : OthersKeep s (halt s w u a) key := by
  intro k g _ hg
  refine ⟨_, (Tab.get?_map_if s.groups (fun g => w.names g = true) (fun g => { g with halted := true }) k).trans (congrArg _ hg), ?_⟩
  dsimp only
  split
  · exact ⟨rfl, rfl, rfl, rfl, rfl, rfl⟩
  · exact .refl g

theorem consumeAt_keeps (s : State) (w : Who) (u p a x key : Nat) : OthersKeep s (consumeAt s w u p a x) key := by
  unfold consumeAt
  split
  · exact .of_groups rfl
  · exact OthersKeep.trans (.of_groups (errRecord_groups _ _ _ _ _ _ _ _)) (halt_keeps _ _ _ _ _)

/-! ### Reads -/

theorem corrected_fold_mem (fs : List Flaw) (s : State) : (fs.foldl (fun s f => countCorrected s f.unit) s).mem = s.mem := by
  induction fs generalizing s with
  | nil => rfl
  | cons f r ih => exact (ih _).trans (countCorrected_mem s f.unit)

theorem corrected_fold_groups (fs : List Flaw) (s : State) : (fs.foldl (fun s f => countCorrected s f.unit) s).groups = s.groups := by
  induction fs generalizing s with
  | nil => rfl
  | cons f r ih => exact (ih _).trans (countCorrected_groups s f.unit)

/-- With no latent error a read returns the bytes and changes nothing. -/
theorem readAt_clean (s : State) (w : Who) (p n : Nat) (h : s.flaws = []) : s.readAt w p n = (s, some (s.peek p n)) := by
  simp [State.readAt, h]

theorem readAt_wf (s : State) (w : Who) (p n : Nat) (h : Memory.wf s.mem = true) : Memory.wf (s.readAt w p n).1.mem = true := by
  unfold State.readAt
  split
  · exact h
  · split
    · exact consumeAt_wf _ _ _ _ _ _ h
    · dsimp only
      rw [corrected_fold_mem]
      exact h

theorem readAt_keeps (s : State) (w : Who) (p n key : Nat) : OthersKeep s (s.readAt w p n).1 key := by
  unfold State.readAt
  split
  · exact .of_groups rfl
  · split
    · exact consumeAt_keeps _ _ _ _ _ _ _
    · exact .of_groups (corrected_fold_groups _ _)

/-! ### Writes -/

theorem setLlst_mem (s : State) (n v : Nat) : (setLlst s n v).mem = s.mem := rfl
theorem setLlst_groups (s : State) (n v : Nat) : (setLlst s n v).groups = s.groups := rfl

theorem abandonCut_mem (s : State) (k : Nat) : (abandonCut s k).mem = s.mem := by unfold abandonCut; split <;> rfl
theorem abandonCut_groups (s : State) (k : Nat) : (abandonCut s k).groups = s.groups := by unfold abandonCut; split <;> rfl

theorem asideCopy_wf (s : State) (c k fr : Nat) (h : Memory.wf s.mem = true) : Memory.wf (asideCopy s c k fr).mem = true := by
  unfold asideCopy
  split
  · rw [abandonCut_mem]; exact h
  · split
    · rename_i hr
      rw [abandonCut_mem]
      exact (congrArg (fun x : State × Option (List Byte) => Memory.wf x.1.mem) hr).symm.trans (readAt_wf _ _ _ _ h)
    · rename_i hr
      exact engineWrite_wf _ _ _ ((congrArg (fun x : State × Option (List Byte) => Memory.wf x.1.mem) hr).symm.trans (readAt_wf _ _ _ _ h))

theorem asideCopy_keeps (s : State) (c k fr key : Nat) : OthersKeep s (asideCopy s c k fr) key := by
  unfold asideCopy
  split
  · exact .of_groups (abandonCut_groups _ _)
  · split
    · rename_i s1 hr
      have h1 := readAt_keeps s (lifeWho c (asideAcc k)) (hbmPlace (fr * 65536)) 65536 key
      rw [hr] at h1
      exact h1.trans (.of_groups (abandonCut_groups _ _))
    · rename_i s1 bs hr
      have h1 := readAt_keeps s (lifeWho c (asideAcc k)) (hbmPlace (fr * 65536)) 65536 key
      rw [hr] at h1
      exact h1.trans (.of_groups (engineWrite_groups s1 _ bs))

theorem asideWrite_wf (s : State) (c k q n : Nat) (f : List Byte → List Byte) (op : Option (List Byte → List Byte)) (h : Memory.wf s.mem = true) :
    Memory.wf (asideWrite s c k q n f op).mem = true := by
  unfold asideWrite
  split
  · exact engineWrite_wf _ _ _ h
  · split
    · rename_i hr
      rw [abandonCut_mem]
      exact (congrArg (fun x : State × Option (List Byte) => Memory.wf x.1.mem) hr).symm.trans (readAt_wf _ _ _ _ h)
    · rename_i hr
      exact engineWrite_wf _ _ _ ((congrArg (fun x : State × Option (List Byte) => Memory.wf x.1.mem) hr).symm.trans (readAt_wf _ _ _ _ h))

theorem asideWrite_keeps (s : State) (c k q n : Nat) (f : List Byte → List Byte) (op : Option (List Byte → List Byte)) (key : Nat) :
    OthersKeep s (asideWrite s c k q n f op) key := by
  unfold asideWrite
  split
  · exact .of_groups (engineWrite_groups _ _ _)
  · split
    · rename_i s1 hr
      have h1 := readAt_keeps s (lifeWho c (asideAcc k)) q n key
      rw [hr] at h1
      exact h1.trans (.of_groups (abandonCut_groups _ _))
    · rename_i s1 bs hr
      have h1 := readAt_keeps s (lifeWho c (asideAcc k)) q n key
      rw [hr] at h1
      exact h1.trans (.of_groups (engineWrite_groups s1 _ _))

/-- Lifeline's part in a write keeps memory canonical and the registers of every group. -/
theorem cutWrite_wf (w : Who) (p n fr : Nat) (f : List Byte → List Byte) (c : Option (List Byte → List Byte)) (s : State) (k : Nat)
    (h : Memory.wf s.mem = true) : Memory.wf (cutWrite w p n fr f c s k).mem = true := by
  unfold cutWrite
  repeat' split
  all_goals first
    | exact h
    | exact asideWrite_wf _ _ _ _ _ _ _ h
    | exact asideCopy_wf _ _ _ _ h

theorem cutWrite_keeps (w : Who) (p n fr : Nat) (f : List Byte → List Byte) (c : Option (List Byte → List Byte)) (s : State) (k key : Nat) :
    OthersKeep s (cutWrite w p n fr f c s k) key := by
  unfold cutWrite
  repeat' split
  all_goals first
    | exact .of_groups rfl
    | exact OthersKeep.trans (asideWrite_keeps _ _ _ _ _ _ _ _) (.of_groups rfl)
    | exact asideCopy_keeps _ _ _ _ _

theorem cutWrites_wf (w : Who) (p n fr : Nat) (f : List Byte → List Byte) (c : Option (List Byte → List Byte)) (ks : List Nat) (s : State)
    (h : Memory.wf s.mem = true) : Memory.wf (ks.foldl (cutWrite w p n fr f c) s).mem = true := by
  induction ks generalizing s with
  | nil => exact h
  | cons k r ih => exact ih _ (cutWrite_wf _ _ _ _ _ _ _ _ h)

theorem cutWrites_keeps (w : Who) (p n fr : Nat) (f : List Byte → List Byte) (c : Option (List Byte → List Byte)) (ks : List Nat) (s : State)
    (key : Nat) : OthersKeep s (ks.foldl (cutWrite w p n fr f c) s) key := by
  induction ks generalizing s with
  | nil => exact .of_groups rfl
  | cons k r ih => exact OthersKeep.trans (cutWrite_keeps _ _ _ _ _ _ _ _ _) (ih _)

theorem lifeWrite_wf (s : State) (w : Who) (p n : Nat) (f : List Byte → List Byte) (c : Option (List Byte → List Byte)) (h : Memory.wf s.mem = true) :
    Memory.wf (lifeWrite s w p n f c).mem = true := by
  unfold lifeWrite
  split
  · exact cutWrites_wf _ _ _ _ _ _ _ _ h
  · exact h

theorem lifeWrite_keeps (s : State) (w : Who) (p n : Nat) (f : List Byte → List Byte) (c : Option (List Byte → List Byte)) (key : Nat) :
    OthersKeep s (lifeWrite s w p n f c) key := by
  unfold lifeWrite
  split
  · intro k g hk hg
    exact cutWrites_keeps w p n _ f c _ _ key k g hk hg
  · exact .of_groups rfl

/-- While no cut is unsealed Lifeline's part in a write is the list of written frames. -/
theorem lifeWrite_quiet (s : State) (w : Who) (p n : Nat) (f : List Byte → List Byte) (c : Option (List Byte → List Byte)) (h : s.ll.cuts = []) :
    lifeWrite s w p n f c = { s with ll := (lifeWrite s w p n f c).ll } := by
  unfold lifeWrite
  split
  · simp only [h, List.map_nil, List.foldl_nil]
  · rfl

/-- A write of a requester while no cut is unsealed stores exactly its bytes. -/
theorem update_mem (s : State) (w : Who) (p n : Nat) (f : List Byte → List Byte) (c : Option (List Byte → List Byte)) (h : s.ll.cuts = []) :
    (s.update w p n f c).mem = memStore s.mem p (f (s.peek p n)) := by
  unfold State.update
  dsimp only
  rw [nearStore_mem, pastHost_mem]
  show memStore (lifeWrite s w p n f c).mem p (f (memBytes ((lifeWrite s w p n f c).pastHost p n).mem p n)) = _
  rw [pastHost_mem, lifeWrite_quiet s w p n f c h]
  rfl

theorem modify_mem (s : State) (w : Who) (p n : Nat) (f : List Byte → List Byte) (c : Option (List Byte → List Byte)) (h : s.ll.cuts = []) :
    (s.modify w p n f c).mem = memStore s.mem p (f (s.peek p n)) :=
  update_mem s w p n f c h

theorem update_wf (s : State) (w : Who) (p n : Nat) (f : List Byte → List Byte) (c : Option (List Byte → List Byte)) (h : Memory.wf s.mem = true) :
    Memory.wf (s.update w p n f c).mem = true :=
  nearStore_wf _ _ _ ((congrArg Memory.wf (pastHost_mem _ _ _)).trans (lifeWrite_wf s w p n f c h))

theorem update_keeps (s : State) (w : Who) (p n : Nat) (f : List Byte → List Byte) (c : Option (List Byte → List Byte)) (key : Nat) :
    OthersKeep s (s.update w p n f c) key :=
  OthersKeep.trans (lifeWrite_keeps s w p n f c key) (.of_groups ((nearStore_groups _ _ _).trans (pastHost_groups _ _ _)))

theorem modify_wf (s : State) (w : Who) (p n : Nat) (f : List Byte → List Byte) (c : Option (List Byte → List Byte)) (h : Memory.wf s.mem = true) :
    Memory.wf (s.modify w p n f c).mem = true :=
  update_wf s w p n f c h

theorem modify_keeps (s : State) (w : Who) (p n : Nat) (f : List Byte → List Byte) (c : Option (List Byte → List Byte)) (key : Nat) :
    OthersKeep s (s.modify w p n f c) key :=
  OthersKeep.trans (update_keeps s w p n f c key) (.of_groups rfl)

theorem atomicAt_wf (s : State) (w : Who) (p n : Nat) (sys : Bool) (old : Option (List Byte)) (op : List Byte → List Byte)
    (h : Memory.wf s.mem = true) : Memory.wf (s.atomicAt w p n sys old op).mem = true := by
  unfold State.atomicAt
  dsimp only
  split <;> exact update_wf s w p n _ _ h

theorem atomicAt_keeps (s : State) (w : Who) (p n : Nat) (sys : Bool) (old : Option (List Byte)) (op : List Byte → List Byte) (key : Nat) :
    OthersKeep s (s.atomicAt w p n sys old op) key := by
  unfold State.atomicAt
  dsimp only
  split <;> exact OthersKeep.trans (update_keeps s w p n _ _ key) (.of_groups rfl)

theorem write_wf (s : State) (w : Who) (p : Nat) (bs : List Byte) (h : Memory.wf s.mem = true) : Memory.wf (s.write w p bs).mem = true :=
  modify_wf _ _ _ _ _ _ h

theorem writes_wf (ps : List (Nat × Nat × List Byte)) (s : State) (w : Who) (h : Memory.wf s.mem = true) :
    Memory.wf (ps.foldl (fun s x => s.write w x.1 x.2.2) s).mem = true := by
  induction ps generalizing s with
  | nil => exact h
  | cons x r ih => exact ih _ (write_wf _ _ _ _ h)

theorem writeVia_wf (s t : State) (w : Who) (tile a : Nat) (bs : List Byte) (h : Memory.wf s.mem = true) (ht : s.writeVia w tile a bs = some t) :
    Memory.wf t.mem = true := by
  unfold State.writeVia at ht
  dsimp only at ht
  split at ht
  · cases ht
  · obtain ⟨qs, -, hr⟩ := Option.bind_eq_some_iff.1 ht
    obtain ⟨s1, h1, rfl⟩ := Option.map_eq_some_iff.1 hr
    refine writes_wf _ _ _ ?_
    rw [hbmRuns_frame _ _ _ h1]
    exact h

/-! ### Traps -/

theorem takeTrap_wf (s : State) (g : Group) (k : Nat) (d : W64) (m : Mask) (h : Memory.wf s.mem = true) : Memory.wf (takeTrap s g k d m).mem = true := by
  unfold takeTrap
  split
  · exact endContext_wf _ _ _ _ h
  · exact h

/-- A trap touches no byte of memory, but for the reports a context that ends with it hands over. -/
theorem takeTrap_mem (s : State) (g : Group) (k : Nat) (d : W64) (m : Mask) (h : handOver s g.env.ctx = s) : (takeTrap s g k d m).mem = s.mem := by
  unfold takeTrap
  split
  · exact endContext_mem _ _ _ _ h
  · rfl

theorem takeTrap_keeps (s : State) (g : Group) (k : Nat) (d : W64) (m : Mask) : OthersKeep s (takeTrap s g k d m) s.cur := by
  unfold takeTrap
  split
  · exact endContext_keeps _ _ _ _ _
  · exact .put _ _

/-- The handler is entered where the group has one and is not in it already (19 R310). -/
theorem takeTrap_enters (s : State) (g : Group) (k : Nat) (d : W64) (m : Mask) (hf : g.frame = none) (hh : g.env.handler ≠ 0) :
    takeTrap s g k d m = s.put (g.enter s.clock k d false false m) := by
  simp [takeTrap, hf, hh]

end Sys2Proof.Machine
end

