-- ==== Sys2Proof/Laws/Encoding.lean ====
section
/-! SUPPORT. The word and its fields: what `pack` writes `unpack` reads back, for fields within their widths, and each class's payload reads back from
its fields. -/

namespace Sys2Proof
open Sys2Proof.Machine

theorem Opnd.toNat_lt (o : Opnd) : o.toNat < 4096 := by
  cases o with
  | v n | s n | p n | imm n => have := n.isLt; simp only [Opnd.toNat]; omega

theorem Opnd.ofNat_toNat (o : Opnd) : Opnd.ofNat o.toNat = o := by
  cases o with
  | v n =>
    have h := n.isLt
    have e : n.toNat / 1024 % 4 = 0 := by omega
    simp [Opnd.toNat, Opnd.ofNat, e]
  | s n =>
    have h := n.isLt
    have e : (1024 + n.toNat) / 1024 % 4 = 1 := by omega
    have b : BitVec.ofNat 10 (1024 + n.toNat) = n := by apply BitVec.eq_of_toNat_eq; simp; omega
    simp only [Opnd.toNat, Opnd.ofNat, e, b]; simp
  | p n =>
    have h := n.isLt
    have e : (2048 + n.toNat) / 1024 % 4 = 2 := by omega
    have b : BitVec.ofNat 10 (2048 + n.toNat) = n := by apply BitVec.eq_of_toNat_eq; simp; omega
    simp [Opnd.toNat, Opnd.ofNat, e, b]
  | imm n =>
    have h := n.isLt
    have e : (3072 + n.toNat) / 1024 % 4 = 3 := by omega
    have b : BitVec.ofNat 10 (3072 + n.toNat) = n := by apply BitVec.eq_of_toNat_eq; simp; omega
    simp [Opnd.toNat, Opnd.ofNat, e, b]

theorem Ty.toNat_lt (t : Ty) : t.toNat < 16 := by cases t <;> decide
theorem Ty.ofCode_toNat (t : Ty) : Ty.ofCode t.toNat = t := by cases t <;> rfl
theorem RM.toNat_lt (t : RM) : t.toNat < 8 := by cases t <;> decide
theorem RM.ofCode_toNat (t : RM) : RM.ofCode t.toNat = t := by cases t <;> rfl
theorem Scope.toNat_lt (t : Scope) : t.toNat < 8 := by cases t <;> decide
theorem Scope.ofCode_toNat (t : Scope) : Scope.ofCode t.toNat = t := by cases t <;> rfl
theorem Ord.toNat_lt (t : Ord) : t.toNat < 4 := by cases t <;> decide
theorem Ord.ofCode_toNat (t : Ord) : Ord.ofCode t.toNat = t := by cases t <;> rfl

theorem Machine.b2n_lt (b : Bool) : b2n b < 2 := by cases b <;> decide
theorem Machine.b2n_eq_one (b : Bool) : (b2n b == 1) = b := by cases b <;> rfl

/-- The fields lie within their widths (04 R58). -/
def Fields.fits (f : Fields) : Prop := f.major < 256 ∧ f.minor < 16 ∧ f.mod < 2 ^ 30

theorem Machine.bit_eq_fld (x n : Nat) : bit x n = (fld x n 1 == 1) := by simp [bit, fld]

theorem unpack_pack (f : Fields) (h : f.fits) : unpack (pack f) = f := by
  obtain ⟨major, minor, ⟨gneg, gp, delay, yield, lasta, lastb, pair, common⟩, d, a, b, ty, mod⟩ := f
  obtain ⟨h1, h2, h3⟩ := h
  simp only at h1 h2 h3
  have e1 := gp.isLt
  have e2 := delay.isLt
  have e3 := d.toNat_lt
  have e4 := a.toNat_lt
  have e5 := b.toNat_lt
  have e6 := ty.toNat_lt
  have b1 := b2n_lt gneg
  have b2 := b2n_lt yield
  have b3 := b2n_lt lasta
  have b4 := b2n_lt lastb
  have b5 := b2n_lt pair
  have b6 := b2n_lt common
  generalize hw : pack _ = w
  simp only [pack] at hw
  have f1 : fld w 88 8 = major := by simp only [fld]; omega
  have f2 : fld w 84 4 = minor := by simp only [fld]; omega
  have f3 : fld w 83 1 = b2n gneg := by simp only [fld]; omega
  have f4 : fld w 79 4 = gp.toNat := by simp only [fld]; omega
  have f5 : fld w 75 4 = delay.toNat := by simp only [fld]; omega
  have f6 : fld w 74 1 = b2n yield := by simp only [fld]; omega
  have f7 : fld w 73 1 = b2n lasta := by simp only [fld]; omega
  have f8 : fld w 72 1 = b2n lastb := by simp only [fld]; omega
  have f9 : fld w 71 1 = b2n pair := by simp only [fld]; omega
  have f10 : fld w 70 1 = b2n common := by simp only [fld]; omega
  have f11 : fld w 58 12 = d.toNat := by simp only [fld]; omega
  have f12 : fld w 46 12 = a.toNat := by simp only [fld]; omega
  have f13 : fld w 34 12 = b.toNat := by simp only [fld]; omega
  have f14 : fld w 30 4 = ty.toNat := by simp only [fld]; omega
  have f15 : fld w 0 30 = mod := by simp only [fld]; omega
  simp [unpack, bit_eq_fld, f1, f2, f3, f4, f5, f6, f7, f8, f9, f10, f11, f12, f13, f14, f15, b2n_eq_one, Opnd.ofNat_toNat, Ty.ofCode_toNat]

/-- An encoded word takes 96 bits. -/
theorem pack_lt (f : Fields) (h : f.fits) : pack f < 2 ^ 96 := by
  obtain ⟨major, minor, ⟨gneg, gp, delay, yield, lasta, lastb, pair, common⟩, d, a, b, ty, mod⟩ := f
  obtain ⟨h1, h2, h3⟩ := h
  simp only at h1 h2 h3
  have e1 := gp.isLt
  have e2 := delay.isLt
  have e3 := d.toNat_lt
  have e4 := a.toNat_lt
  have e5 := b.toNat_lt
  have e6 := ty.toNat_lt
  have b1 := b2n_lt gneg
  have b2 := b2n_lt yield
  have b3 := b2n_lt lasta
  have b4 := b2n_lt lastb
  have b5 := b2n_lt pair
  have b6 := b2n_lt common
  simp only [pack]
  omega

/-! ### The payload of each class reads back from its fields -/

/-- The selector field of Reg3 (COND), Fused (NEGP NEGC), Imm24 (SUB), Branch (BSUB) and Sync (KIND), and the payload, of the fields a payload gives. -/
theorem R3.fields_back (w : R3) (a b c : Nat) (h : c < 64) : (w.fields a b c).toR3 = w ∧ (w.fields a b c).cond = c := by
  have h1 := w.rm.toNat_lt
  have h2 := b2n_lt w.sat
  have f1 : fld (w.fields a b c).mod 27 3 = w.rm.toNat := by simp only [R3.fields, fld]; omega
  have f2 : fld (w.fields a b c).mod 26 1 = b2n w.sat := by simp only [R3.fields, fld]; omega
  have f3 : fld (w.fields a b c).mod 20 6 = c := by simp only [R3.fields, fld]; omega
  refine ⟨?_, by simp [Fields.cond, f3]⟩
  simp only [Fields.toR3, Fields.rm, Fields.sat, bit_eq_fld, f1, f2, b2n_eq_one, RM.ofCode_toNat]
  rfl

theorem FU.fields_back (w : FU) (a b c : Nat) (h : c < 4) : (w.fields a b c).toFU = w ∧ (w.fields a b c).neg = c := by
  have h1 := w.rm.toNat_lt
  have h2 := b2n_lt w.sat
  have h3 := w.c.toNat_lt
  have f1 : fld (w.fields a b c).mod 27 3 = w.rm.toNat := by simp only [FU.fields, fld]; omega
  have f2 : fld (w.fields a b c).mod 26 1 = b2n w.sat := by simp only [FU.fields, fld]; omega
  have f3 : fld (w.fields a b c).mod 24 2 = c := by simp only [FU.fields, fld]; omega
  have f4 : fld (w.fields a b c).mod 12 12 = w.c.toNat := by simp only [FU.fields, fld]; omega
  refine ⟨?_, by simp [Fields.neg, f3]⟩
  simp only [Fields.toFU, Fields.rm, Fields.sat, Fields.c, bit_eq_fld, f1, f2, f4, b2n_eq_one, RM.ofCode_toNat, Opnd.ofNat_toNat]
  rfl

theorem IM.fields_back (w : IM) (a b c : Nat) (h : c < 8) : (w.fields a b c).toIM = w ∧ (w.fields a b c).sub = c := by
  have h1 := w.rm.toNat_lt
  have h2 := w.imm.isLt
  have f1 : fld (w.fields a b c).mod 27 3 = w.rm.toNat := by simp only [IM.fields, fld]; omega
  have f2 : fld (w.fields a b c).mod 24 3 = c := by simp only [IM.fields, fld]; omega
  have f3 : fld (w.fields a b c).mod 0 24 = w.imm.toNat := by simp only [IM.fields, fld]; omega
  refine ⟨?_, by simp [Fields.sub, f2]⟩
  simp only [Fields.toIM, Fields.rm, Fields.imm, f1, f3, RM.ofCode_toNat, BitVec.ofNat_toNat, BitVec.setWidth_eq]
  rfl

theorem BR.fields_back (w : BR) (a b c : Nat) (h : c < 64) :
    (w.fields a b c).toBR = w ∧ (w.fields a b c).bsub = c ∧ (w.fields a b c).imm = w.disp.toNat := by
  have h2 := w.disp.isLt
  have f2 : fld (w.fields a b c).mod 24 6 = c := by simp only [BR.fields, fld]; omega
  have f3 : fld (w.fields a b c).mod 0 24 = w.disp.toNat := by simp only [BR.fields, fld]; omega
  refine ⟨?_, by simp [Fields.bsub, f2], by simp [Fields.imm, f3]⟩
  simp only [Fields.toBR, Fields.imm, f3, BitVec.ofNat_toNat, BitVec.setWidth_eq]
  rfl

theorem CV.fields_back (w : CV) (a b c : Nat) : (w.fields a b c).toCV = w := by
  have h1 := w.rm.toNat_lt
  have h2 := b2n_lt w.sat
  have h3 := w.dty.toNat_lt
  have h4 := w.scale.isLt
  have f1 : fld (w.fields a b c).mod 27 3 = w.rm.toNat := by simp only [CV.fields, fld]; omega
  have f2 : fld (w.fields a b c).mod 26 1 = b2n w.sat := by simp only [CV.fields, fld]; omega
  have f3 : fld (w.fields a b c).mod 22 4 = w.dty.toNat := by simp only [CV.fields, fld]; omega
  have f4 : fld (w.fields a b c).mod 14 8 = w.scale.toNat := by simp only [CV.fields, fld]; omega
  simp only [Fields.toCV, Fields.rm, Fields.sat, Fields.dty, Fields.scale, bit_eq_fld, f1, f2, f3, f4, b2n_eq_one, RM.ofCode_toNat, Ty.ofCode_toNat,
    BitVec.ofNat_toNat, BitVec.setWidth_eq]
  rfl

theorem ME.fields_back (w : ME) (a b c : Nat) : (w.fields a b c).toME = w := by
  have h1 := w.scope.toNat_lt
  have h2 := b2n_lt w.glob
  have h3 := w.order.toNat_lt
  have h4 := w.ac.isLt
  have h5 := w.ofs.isLt
  have f1 : fld (w.fields a b c).mod 27 3 = w.scope.toNat := by simp only [ME.fields, fld]; omega
  have f2 : fld (w.fields a b c).mod 23 4 = w.ac.toNat := by simp only [ME.fields, fld]; omega
  have f3 : fld (w.fields a b c).mod 22 1 = b2n w.glob := by simp only [ME.fields, fld]; omega
  have f4 : fld (w.fields a b c).mod 20 2 = w.order.toNat := by simp only [ME.fields, fld]; omega
  have f5 : fld (w.fields a b c).mod 0 20 = w.ofs.toNat := by simp only [ME.fields, fld]; omega
  simp only [Fields.toME, Fields.scopeM, Fields.ac, Fields.glob, Fields.order, Fields.ofs, bit_eq_fld, f1, f2, f3, f4, f5, b2n_eq_one,
    Scope.ofCode_toNat, Ord.ofCode_toNat, BitVec.ofNat_toNat, BitVec.setWidth_eq]
  rfl

theorem SY.fields_back (w : SY) (a b c : Nat) (h : c < 8) : (w.fields a b c).toSY = w ∧ (w.fields a b c).kind = c := by
  have h1 := w.scope.toNat_lt
  have h2 := w.imm.isLt
  have f1 : fld (w.fields a b c).mod 27 3 = w.scope.toNat := by simp only [SY.fields, fld]; omega
  have f2 : fld (w.fields a b c).mod 24 3 = c := by simp only [SY.fields, fld]; omega
  have f3 : fld (w.fields a b c).mod 0 24 = w.imm.toNat := by simp only [SY.fields, fld]; omega
  refine ⟨?_, by simp [Fields.kind, f2]⟩
  simp only [Fields.toSY, Fields.scopeM, Fields.imm, f1, f3, Scope.ofCode_toNat, BitVec.ofNat_toNat, BitVec.setWidth_eq]
  rfl

theorem EN.fields_back (w : EN) (a b c : Nat) : (w.fields a b c).toEN = w := by
  have h1 := w.tag.isLt
  have h2 := w.index.isLt
  have h3 := w.scope.toNat_lt
  have h4 := w.param.isLt
  have f1 : fld (w.fields a b c).mod 24 6 = w.tag.toNat := by simp only [EN.fields, fld]; omega
  have f2 : fld (w.fields a b c).mod 20 4 = w.index.toNat := by simp only [EN.fields, fld]; omega
  have f3 : fld (w.fields a b c).mod 17 3 = w.scope.toNat := by simp only [EN.fields, fld]; omega
  have f4 : fld (w.fields a b c).mod 0 17 = w.param.toNat := by simp only [EN.fields, fld]; omega
  simp only [Fields.toEN, Fields.tag, Fields.index, Fields.scopeE, Fields.param, f1, f2, f3, f4, Scope.ofCode_toNat, BitVec.ofNat_toNat, BitVec.setWidth_eq]
  rfl

/-! ### The fields of a payload fit -/

theorem R3.fits (w : R3) (a b c : Nat) (ha : a < 256) (hb : b < 16) (h : c < 64) : (w.fields a b c).fits := by
  have h1 := w.rm.toNat_lt
  have h2 := b2n_lt w.sat
  refine ⟨ha, hb, ?_⟩; simp only [R3.fields]; omega
theorem FU.fits (w : FU) (a b c : Nat) (ha : a < 256) (hb : b < 16) (h : c < 4) : (w.fields a b c).fits := by
  have h1 := w.rm.toNat_lt
  have h2 := b2n_lt w.sat
  have h3 := w.c.toNat_lt
  refine ⟨ha, hb, ?_⟩; simp only [FU.fields]; omega
theorem IM.fits (w : IM) (a b c : Nat) (ha : a < 256) (hb : b < 16) (h : c < 8) : (w.fields a b c).fits := by
  have h1 := w.rm.toNat_lt
  have h2 := w.imm.isLt
  refine ⟨ha, hb, ?_⟩; simp only [IM.fields]; omega
theorem BR.fits (w : BR) (a b c : Nat) (ha : a < 256) (hb : b < 16) (h : c < 64) : (w.fields a b c).fits := by
  have h2 := w.disp.isLt
  refine ⟨ha, hb, ?_⟩; simp only [BR.fields]; omega
theorem CV.fits (w : CV) (a b c : Nat) (ha : a < 256) (hb : b < 16) : (w.fields a b c).fits := by
  have h1 := w.rm.toNat_lt
  have h2 := b2n_lt w.sat
  have h3 := w.dty.toNat_lt
  have h4 := w.scale.isLt
  refine ⟨ha, hb, ?_⟩; simp only [CV.fields]; omega
theorem ME.fits (w : ME) (a b c : Nat) (ha : a < 256) (hb : b < 16) : (w.fields a b c).fits := by
  have h1 := w.scope.toNat_lt
  have h2 := b2n_lt w.glob
  have h3 := w.order.toNat_lt
  have h4 := w.ac.isLt
  have h5 := w.ofs.isLt
  refine ⟨ha, hb, ?_⟩; simp only [ME.fields]; omega
theorem SY.fits (w : SY) (a b c : Nat) (ha : a < 256) (hb : b < 16) (h : c < 8) : (w.fields a b c).fits := by
  have h1 := w.scope.toNat_lt
  have h2 := w.imm.isLt
  refine ⟨ha, hb, ?_⟩; simp only [SY.fields]; omega
theorem EN.fits (w : EN) (a b c : Nat) (ha : a < 256) (hb : b < 16) : (w.fields a b c).fits := by
  have h1 := w.tag.isLt
  have h2 := w.index.isLt
  have h3 := w.scope.toNat_lt
  have h4 := w.param.isLt
  refine ⟨ha, hb, ?_⟩; simp only [EN.fields]; omega

end Sys2Proof
end

