-- ==== Sys2Proof/Laws/Operands.lean ====
section
/-! SUPPORT. What writing each kind of destination does, once for each: the register, pair or predicate written and nothing else; and the group after a
word that writes one. -/

namespace Sys2Proof.Machine
open Sys2Proof Sys2Proof.Claims

/-! ### Scalars -/

theorem Group.writeS_written (g : Group) (d : Opnd) (x : Nat) : ScalarWritten g (g.writeS d x) d x := by
  unfold ScalarWritten Group.writeS
  cases d with
  | s n =>
    by_cases h : n.toNat < 192
    · simp only [h, if_true]
      refine ⟨trivial, fun e he => (List.mem_filter.mp he).1, fun e he => (List.mem_filter.mp he).1, fun r => ?_⟩
      by_cases hr : r = n.toNat
      · subst hr; simp [Group.sreg, Opnd.kind, Opnd.idx, h, Tab.getD_set_self]
      · simp [Group.sreg, Opnd.kind, Opnd.idx, Tab.getD_set_ne _ _ _ _ _ hr, Ne.symm hr]
    · simp only [h, if_false]
      refine ⟨trivial, fun e he => he, fun e he => he, fun r => ?_⟩
      have : ¬ (n.toNat = r ∧ r < 192) := by omega
      simp [Opnd.kind, Opnd.idx, this]
  | v n => exact ⟨rfl, fun e he => he, fun e he => he, fun r => by simp [Opnd.kind]⟩
  | p n => exact ⟨rfl, fun e he => he, fun e he => he, fun r => by simp [Opnd.kind]⟩
  | imm n => exact ⟨rfl, fun e he => he, fun e he => he, fun r => by simp [Opnd.kind]⟩

theorem Group.raise_zero (g : Group) : g.raise 0 = g := by simp [Group.raise]

/-- A word whose effect is to write one scalar register. -/
theorem writesScalar_of (i : Instr) (s : State) (g : Group) (d : Opnd) (x : Nat) (f : State → Group → Mask → Group) (h : Issues i s g)
    (he : exec i s = groupWord i s f) (hf : f s g (lanesFor i g) = g.writeS d x) : WritesScalar i s g d x 0 := by
  refine ⟨g.writeS d x, ?_, g.writeS_written d x⟩
  rw [he, groupWord_ok _ _ _ _ h, hf, Group.raise_zero]

/-- A word that writes one scalar register and raises flags. -/
theorem writesScalar_flags (i : Instr) (s : State) (g : Group) (d : Opnd) (x fl : Nat) (f : State → Group → Mask → Group) (h : Issues i s g)
    (he : exec i s = groupWord i s f) (hf : f s g (lanesFor i g) = (g.writeS d x).raise fl) : WritesScalar i s g d x fl := by
  refine ⟨g.writeS d x, ?_, g.writeS_written d x⟩
  rw [he, groupWord_ok _ _ _ _ h, hf]

/-! ### Vectors -/

theorem getD_lanes_map (f : Nat → W32) (l : Nat) (h : l < 64) : (lanes.map f).getD l 0 = f l := by
  simp [lanes, List.getD, h]

theorem Group.setLanes_vreg (g : Group) (r : Nat) (m : Mask) (f : Nat → Nat) (q l : Nat) (hl : l < 64) :
    (g.setLanes r m f).vreg q l = if q = r ∧ lane m l = true then BitVec.ofNat 32 (f l) else g.vreg q l := by
  by_cases h : q = r
  · subst h
    simp only [Group.vreg, Group.setLanes, Tab.getD_set_self]
    rw [getD_lanes_map _ _ hl]
    simp
  · simp [Group.vreg, Group.setLanes, Tab.getD_set_ne _ _ _ _ _ h, h]

theorem Group.setLanes_frame (g : Group) (r : Nat) (m : Mask) (f : Nat → Nat) :
    g.setLanes r m f = { g with v := (g.setLanes r m f).v, bad := (g.setLanes r m f).bad, view := (g.setLanes r m f).view } := rfl

theorem Group.setLanes_bad (g : Group) (r : Nat) (m : Mask) (f : Nat → Nat) : ∀ e ∈ (g.setLanes r m f).bad, e ∈ g.bad :=
  fun _ he => (List.mem_filter.mp he).1

theorem Group.setLanes_view (g : Group) (r : Nat) (m : Mask) (f : Nat → Nat) : ∀ e ∈ (g.setLanes r m f).view, e ∈ g.view :=
  fun _ he => (List.mem_filter.mp he).1

theorem Group.writeV_written (g : Group) (t : Ty) (d : Opnd) (m : Mask) (f : Nat → Nat) : VectorWritten g (g.writeV t d m f) t d m f := by
  unfold VectorWritten Group.writeV
  cases d with
  | v n =>
    cases ht : t.wide with
    | false =>
      simp only [Bool.false_eq_true, if_false]
      refine ⟨rfl, g.setLanes_bad _ _ _, g.setLanes_view _ _ _, fun r l hl => ?_⟩
      rw [Group.setLanes_vreg _ _ _ _ _ _ hl]
      by_cases hr : r = n.toNat
      · subst hr; simp [Opnd.kind, Opnd.idx]
      · simp [Opnd.kind, Opnd.idx, hr, Ne.symm hr]
    | true =>
      simp only [if_true]
      refine ⟨rfl, fun e he => g.setLanes_bad _ _ _ e (Group.setLanes_bad _ _ _ _ e he),
        fun e he => g.setLanes_view _ _ _ e (Group.setLanes_view _ _ _ _ e he), fun r l hl => ?_⟩
      rw [Group.setLanes_vreg _ _ _ _ _ _ hl, Group.setLanes_vreg _ _ _ _ _ _ hl]
      by_cases hr : r = n.toNat
      · subst hr; simp [Opnd.kind, Opnd.idx]
      · by_cases hs : r = n.toNat + 1
        · subst hs; simp [Opnd.kind, Opnd.idx]
        · simp [Opnd.kind, Opnd.idx, hr, hs, Ne.symm hr, Ne.symm hs]
  | s n => exact ⟨rfl, fun e he => he, fun e he => he, fun r l _ => by simp [Opnd.kind]⟩
  | p n => exact ⟨rfl, fun e he => he, fun e he => he, fun r l _ => by simp [Opnd.kind]⟩
  | imm n => exact ⟨rfl, fun e he => he, fun e he => he, fun r l _ => by simp [Opnd.kind]⟩

/-- A word whose effect is to write the active lanes of one vector register or pair. -/
theorem writesVector_of (i : Instr) (s : State) (g : Group) (t : Ty) (d : Opnd) (x : Nat → Nat) (f : State → Group → Mask → Group)
    (h : Issues i s g) (he : exec i s = groupWord i s f) (hf : f s g (lanesFor i g) = g.writeV t d (lanesFor i g) x) :
    WritesVector i s g t d x 0 := by
  refine ⟨g.writeV t d (lanesFor i g) x, ?_, g.writeV_written t d _ x⟩
  rw [he, groupWord_ok _ _ _ _ h, hf, Group.raise_zero]

/-- A word that computes lane by lane, with flags. -/
theorem writesVector_lanes (i : Instr) (s : State) (g : Group) (t : Ty) (d : Opnd) (x : Nat → Nat × Nat) (f : State → Group → Mask → Group)
    (h : Issues i s g) (he : exec i s = groupWord i s f) (hf : f s g (lanesFor i g) = g.vecWrite t d (lanesFor i g) x) :
    WritesVector i s g t d (fun l => ((lanes.map (fun l => if lane (lanesFor i g) l then x l else (0, 0))).getD l (0, 0)).1)
      (orFlags (lanes.map (fun l => if lane (lanesFor i g) l then x l else (0, 0)))) := by
  refine ⟨g.writeV t d (lanesFor i g) (fun l => ((lanes.map (fun l => if lane (lanesFor i g) l then x l else (0, 0))).getD l (0, 0)).1), ?_,
    g.writeV_written t d _ _⟩
  rw [he, groupWord_ok _ _ _ _ h, hf]
  rfl

/-! ### Predicates -/

theorem maskOf_fold (p : Nat → Bool) (ls : List Nat) (a : Nat) :
    ls.foldl (fun a l => if p l then a + 2 ^ l else a) a = a + (ls.map (fun l => if p l then 2 ^ l else 0)).sum := by
  induction ls generalizing a with
  | nil => simp
  | cons x r ih =>
    simp only [List.foldl_cons, List.map_cons, List.sum_cons, ih]
    split <;> omega

theorem sum_pow_testBit (p : Nat → Bool) (n : Nat) :
    ((List.range n).map (fun l => if p l then 2 ^ l else 0)).sum < 2 ^ n ∧
    ∀ l, ((List.range n).map (fun l => if p l then 2 ^ l else 0)).sum.testBit l = (decide (l < n) && p l) := by
  induction n with
  | zero => simp
  | succ n ih =>
    obtain ⟨h1, h2⟩ := ih
    rw [List.range_succ, List.map_append, List.sum_append]
    simp only [List.map_cons, List.map_nil, List.sum_cons, List.sum_nil, Nat.add_zero]
    generalize ((List.range n).map (fun l => if p l then 2 ^ l else 0)).sum = x at h1 h2
    cases hp : p n with
    | false =>
      simp only [Bool.false_eq_true, if_false, Nat.add_zero]
      refine ⟨by rw [Nat.pow_succ]; omega, fun l => ?_⟩
      rw [h2 l]
      by_cases hl : l = n
      · subst hl; simp [hp]
      · by_cases h : l < n
        · simp [h, Nat.lt_succ_of_lt h]
        · have : ¬ l < n + 1 := by omega
          simp [h, this]
    | true =>
      simp only [if_true]
      refine ⟨by rw [Nat.pow_succ]; omega, fun l => ?_⟩
      rw [Nat.add_comm]
      by_cases hl : l = n
      · subst hl
        rw [Nat.testBit_two_pow_add_eq, h2]; simp [hp]
      · by_cases h : l < n
        · rw [Nat.testBit_two_pow_add_gt h, h2]; simp [h, Nat.lt_succ_of_lt h]
        · have h3 : ¬ l < n + 1 := by omega
          have : 2 ^ n + x < 2 ^ l := by
            have : 2 ^ (n + 1) ≤ 2 ^ l := Nat.pow_le_pow_right (by decide) (by omega)
            rw [Nat.pow_succ] at this; omega
          rw [Nat.testBit_lt_two_pow this]; simp [h3]

/-- A lane of the mask built from a test. -/
theorem lane_maskOf (p : Nat → Bool) (l : Nat) : lane (maskOf p) l = (decide (l < 64) && p l) := by
  have h := (sum_pow_testBit p 64).2 l
  simp only [lane, maskOf, lanes, maskOf_fold, Nat.zero_add, BitVec.getLsbD_ofNat]
  rw [h]; simp

theorem Group.writeP_written (g : Group) (d : Opnd) (m : Mask) (f : Nat → Bool) : PredWritten g (g.writeP d m f) d m f := by
  have p0 : ∀ (g : Group) (l : Nat), l < 64 → lane (g.pred 0) l = true := by
    intro g l hl
    show (BitVec.allOnes 64).getLsbD l = true
    rw [BitVec.getLsbD_allOnes]; simp [hl]
  unfold PredWritten Group.writeP
  cases d with
  | p n =>
    by_cases h : n = 0
    · simp only [h, if_true]
      refine ⟨trivial, p0 g, fun r l _ => ?_⟩
      by_cases hr : r = 0
      · simp [hr]
      · simp [Opnd.kind, Opnd.idx, Ne.symm hr]
    · simp only [h, if_false]
      refine ⟨trivial, p0 _, fun r l hl => ?_⟩
      have hn : n.toNat ≠ 0 := fun e => h (BitVec.eq_of_toNat_eq (by simpa using e))
      by_cases hr : r = n.toNat
      · subst hr
        have lm := lane_maskOf f l
        simp only [lane, BitVec.getLsbD_eq_getElem hl, hl, decide_true, Bool.true_and] at lm
        by_cases hm : m[l] = true
        · simp [Opnd.kind, Opnd.idx, hn, Group.pred, Tab.getD_set_self, lane, BitVec.getLsbD_eq_getElem hl, lm, hm]
        · simp [Opnd.kind, Opnd.idx, hn, Group.pred, Tab.getD_set_self, lane, BitVec.getLsbD_eq_getElem hl, hm]
      · simp [Opnd.kind, Opnd.idx, Group.pred, Tab.getD_set_ne _ _ _ _ _ hr, Ne.symm hr, lane]
  | v n => exact ⟨rfl, p0 g, fun r l _ => by simp [Opnd.kind]⟩
  | s n => exact ⟨rfl, p0 g, fun r l _ => by simp [Opnd.kind]⟩
  | imm n => exact ⟨rfl, p0 g, fun r l _ => by simp [Opnd.kind]⟩

/-- A word whose effect is to write the active lanes of one predicate. -/
theorem writesPred_of (i : Instr) (s : State) (g : Group) (d : Opnd) (x : Nat → Bool) (f : State → Group → Mask → Group)
    (h : Issues i s g) (he : exec i s = groupWord i s f) (hf : f s g (lanesFor i g) = g.writeP d (lanesFor i g) x) :
    WritesPred i s g d x 0 := by
  refine ⟨g.writeP d (lanesFor i g) x, ?_, g.writeP_written d _ x⟩
  rw [he, groupWord_ok _ _ _ _ h, hf, Group.raise_zero]

end Sys2Proof.Machine
end

