-- ==== Sys2Proof/Laws/PerInstr.lean ====
section
/-! SUPPORT. For each instruction: the fields it is encoded with fit their widths, and the decoder's builder gives the instruction back from them. -/

namespace Sys2Proof.Laws.Encoding
open Sys2Proof Sys2Proof.Machine

set_option Elab.async false
set_option linter.unusedSimpArgs false

/-- The encoding of an instruction says all of it (04 R58, R59). -/
def Statement (i : Instr) : Prop := retForm i = true → ∀ f, fieldsOf i = some f → f.fits ∧ build f = some i

theorem major_R3 (w : R3) (a b c : Nat) : (w.fields a b c).major = a ∧ (w.fields a b c).minor = b := ⟨rfl, rfl⟩
theorem major_FU (w : FU) (a b c : Nat) : (w.fields a b c).major = a ∧ (w.fields a b c).minor = b := ⟨rfl, rfl⟩
theorem major_IM (w : IM) (a b c : Nat) : (w.fields a b c).major = a ∧ (w.fields a b c).minor = b := ⟨rfl, rfl⟩
theorem major_BR (w : BR) (a b c : Nat) : (w.fields a b c).major = a ∧ (w.fields a b c).minor = b := ⟨rfl, rfl⟩
theorem major_CV (w : CV) (a b c : Nat) : (w.fields a b c).major = a ∧ (w.fields a b c).minor = b := ⟨rfl, rfl⟩
theorem major_ME (w : ME) (a b c : Nat) : (w.fields a b c).major = a ∧ (w.fields a b c).minor = b := ⟨rfl, rfl⟩
theorem major_SY (w : SY) (a b c : Nat) : (w.fields a b c).major = a ∧ (w.fields a b c).minor = b := ⟨rfl, rfl⟩
theorem major_EN (w : EN) (a b c : Nat) : (w.fields a b c).major = a ∧ (w.fields a b c).minor = b := ⟨rfl, rfl⟩

theorem nop (w : Hd) : Statement (.nop w) := by
  intro _ f h
  cases h
  exact ⟨⟨by simp [Hd.fields], by simp [Hd.fields], by simp [Hd.fields]⟩, rfl⟩

theorem bra (w : BR) : Statement (.bra w) := by
  intro _ fs h
  simp only [fieldsOf, Option.some.injEq] at h
  subst h
  refine ⟨w.fits _ _ _ (by decide) (by decide) (by decide), ?_⟩
  obtain ⟨h1, h2, h3⟩ := w.fields_back 1 1 (0) (by omega)
  have hb : bit (0) 3 = false := by simp only [bit, beq_iff_eq, beq_eq_false_iff_ne]; omega
  simp only [build, (major_BR w _ _ _).1, build01, (major_BR w _ _ _).2, h1, h2, h3, hb, Bool.false_eq_true, if_true, if_false]

theorem brapl (k : BitVec 3) (w : BR) : Statement (.brapl k w) := by
  intro _ fs h
  have hk := k.isLt
  simp only [fieldsOf, Option.some.injEq] at h
  subst h
  refine ⟨w.fits _ _ _ (by decide) (by decide) (by omega), ?_⟩
  obtain ⟨h1, h2, h3⟩ := w.fields_back 1 1 (8 + k.toNat) (by omega)
  have k_back : BitVec.ofNat 3 (fld (8 + k.toNat) 0 3) = k := by apply BitVec.eq_of_toNat_eq; simp only [fld, BitVec.toNat_ofNat]; omega
  have hb : bit (8 + k.toNat) 3 = true := by simp only [bit, beq_iff_eq, beq_eq_false_iff_ne]; omega
  simp only [build, (major_BR w _ _ _).1, build01, (major_BR w _ _ _).2, h1, h2, h3, k_back, hb, Bool.false_eq_true, if_true, if_false]

theorem brs (c : BitVec 4) (w : BR) : Statement (.brs c w) := by
  intro _ fs h
  have hc := c.isLt
  simp only [fieldsOf, Option.some.injEq] at h
  subst h
  refine ⟨w.fits _ _ _ (by decide) (by decide) (by omega), ?_⟩
  obtain ⟨h1, h2, h3⟩ := w.fields_back 1 2 (c.toNat) (by omega)
  have c_back : BitVec.ofNat 4 (fld (c.toNat) 0 4) = c := by apply BitVec.eq_of_toNat_eq; simp only [fld, BitVec.toNat_ofNat]; omega
  simp only [build, (major_BR w _ _ _).1, build01, (major_BR w _ _ _).2, h1, h2, h3, c_back]

theorem bany (w : BR) : Statement (.bany w) := by
  intro _ fs h
  simp only [fieldsOf, Option.some.injEq] at h
  subst h
  refine ⟨w.fits _ _ _ (by decide) (by decide) (by decide), ?_⟩
  obtain ⟨h1, h2, h3⟩ := w.fields_back 1 3 (0) (by omega)
  simp only [build, (major_BR w _ _ _).1, build01, (major_BR w _ _ _).2, h1, h2, h3]

theorem ball (w : BR) : Statement (.ball w) := by
  intro _ fs h
  simp only [fieldsOf, Option.some.injEq] at h
  subst h
  refine ⟨w.fits _ _ _ (by decide) (by decide) (by decide), ?_⟩
  obtain ⟨h1, h2, h3⟩ := w.fields_back 1 3 (1) (by omega)
  simp only [build, (major_BR w _ _ _).1, build01, (major_BR w _ _ _).2, h1, h2, h3]

theorem bnone (w : BR) : Statement (.bnone w) := by
  intro _ fs h
  simp only [fieldsOf, Option.some.injEq] at h
  subst h
  refine ⟨w.fits _ _ _ (by decide) (by decide) (by decide), ?_⟩
  obtain ⟨h1, h2, h3⟩ := w.fields_back 1 3 (2) (by omega)
  simp only [build, (major_BR w _ _ _).1, build01, (major_BR w _ _ _).2, h1, h2, h3]

theorem call (w : BR) : Statement (.call w) := by
  intro _ fs h
  simp only [fieldsOf, Option.some.injEq] at h
  subst h
  refine ⟨w.fits _ _ _ (by decide) (by decide) (by decide), ?_⟩
  obtain ⟨h1, h2, h3⟩ := w.fields_back 1 4 (0) (by omega)
  simp only [build, (major_BR w _ _ _).1, build01, (major_BR w _ _ _).2, h1, h2, h3]

theorem jmp (w : BR) : Statement (.jmp w) := by
  intro hr fs h
  simp only [fieldsOf, Option.some.injEq] at h
  subst h
  refine ⟨w.fits _ _ _ (by decide) (by decide) (by decide), ?_⟩
  obtain ⟨h1, h2, h3⟩ := w.fields_back 1 5 (0) (by omega)
  simp only [retForm] at hr
  simp only [build, (major_BR w _ _ _).1, build01, (major_BR w _ _ _).2, h1, h2, h3]
  simp_all [BitVec.toNat_eq]

theorem ret (w : BR) : Statement (.ret w) := by
  intro hr fs h
  simp only [fieldsOf, Option.some.injEq] at h
  subst h
  refine ⟨w.fits _ _ _ (by decide) (by decide) (by decide), ?_⟩
  obtain ⟨h1, h2, h3⟩ := w.fields_back 1 5 (0) (by omega)
  simp only [retForm] at hr
  simp only [build, (major_BR w _ _ _).1, build01, (major_BR w _ _ _).2, h1, h2, h3]
  simp_all [BitVec.toNat_eq]

theorem exit (w : R3) : Statement (.exit w) := by
  intro _ fs h
  simp only [fieldsOf, Option.some.injEq] at h
  subst h
  refine ⟨w.fits _ _ _ (by decide) (by decide) (by decide), ?_⟩
  obtain ⟨h1, h2⟩ := w.fields_back 1 6 (0) (by omega)
  simp only [build, (major_R3 w _ _ _).1, build01, (major_R3 w _ _ _).2, h1, h2]

theorem pset (k : BitVec 3) (w : BR) : Statement (.pset k w) := by
  intro _ fs h
  have hk := k.isLt
  simp only [fieldsOf, Option.some.injEq] at h
  subst h
  refine ⟨w.fits _ _ _ (by decide) (by decide) (by omega), ?_⟩
  obtain ⟨h1, h2, h3⟩ := w.fields_back 1 7 (k.toNat) (by omega)
  have k_back : BitVec.ofNat 3 (fld (k.toNat) 0 3) = k := by apply BitVec.eq_of_toNat_eq; simp only [fld, BitVec.toNat_ofNat]; omega
  simp only [build, (major_BR w _ _ _).1, build01, (major_BR w _ _ _).2, h1, h2, h3, k_back]

theorem psetv (w : BR) : Statement (.psetv w) := by
  intro _ fs h
  simp only [fieldsOf, Option.some.injEq] at h
  subst h
  refine ⟨w.fits _ _ _ (by decide) (by decide) (by decide), ?_⟩
  obtain ⟨h1, h2, h3⟩ := w.fields_back 1 8 (0) (by omega)
  simp only [build, (major_BR w _ _ _).1, build01, (major_BR w _ _ _).2, h1, h2, h3]

theorem elect (w : R3) : Statement (.elect w) := by
  intro _ fs h
  simp only [fieldsOf, Option.some.injEq] at h
  subst h
  refine ⟨w.fits _ _ _ (by decide) (by decide) (by decide), ?_⟩
  obtain ⟨h1, h2⟩ := w.fields_back 2 0 (0) (by omega)
  simp only [build, (major_R3 w _ _ _).1, build02, (major_R3 w _ _ _).2, h1, h2]

theorem pmask (w : R3) : Statement (.pmask w) := by
  intro _ fs h
  simp only [fieldsOf, Option.some.injEq] at h
  subst h
  refine ⟨w.fits _ _ _ (by decide) (by decide) (by decide), ?_⟩
  obtain ⟨h1, h2⟩ := w.fields_back 2 1 (0) (by omega)
  simp only [build, (major_R3 w _ _ _).1, build02, (major_R3 w _ _ _).2, h1, h2]

theorem pload (w : R3) : Statement (.pload w) := by
  intro _ fs h
  simp only [fieldsOf, Option.some.injEq] at h
  subst h
  refine ⟨w.fits _ _ _ (by decide) (by decide) (by decide), ?_⟩
  obtain ⟨h1, h2⟩ := w.fields_back 2 2 (0) (by omega)
  simp only [build, (major_R3 w _ _ _).1, build02, (major_R3 w _ _ _).2, h1, h2]

theorem pathq (q : BitVec 2) (w : R3) : Statement (.pathq q w) := by
  intro _ fs h
  have hq := q.isLt
  simp only [fieldsOf, Option.some.injEq] at h
  subst h
  refine ⟨w.fits _ _ _ (by decide) (by decide) (by omega), ?_⟩
  obtain ⟨h1, h2⟩ := w.fields_back 2 3 (q.toNat) (by omega)
  have q_back : BitVec.ofNat 2 (fld (q.toNat) 0 2) = q := by apply BitVec.eq_of_toNat_eq; simp only [fld, BitVec.toNat_ofNat]; omega
  simp only [build, (major_R3 w _ _ _).1, build02, (major_R3 w _ _ _).2, h1, h2, q_back]

theorem add (w : R3) : Statement (.add w) := by
  intro _ fs h
  simp only [fieldsOf, Option.some.injEq] at h
  subst h
  refine ⟨w.fits _ _ _ (by decide) (by decide) (by decide), ?_⟩
  obtain ⟨h1, h2⟩ := w.fields_back 16 0 (0) (by omega)
  simp only [build, (major_R3 w _ _ _).1, build10, (major_R3 w _ _ _).2, h1, h2]

theorem sub (w : R3) : Statement (.sub w) := by
  intro _ fs h
  simp only [fieldsOf, Option.some.injEq] at h
  subst h
  refine ⟨w.fits _ _ _ (by decide) (by decide) (by decide), ?_⟩
  obtain ⟨h1, h2⟩ := w.fields_back 16 1 (0) (by omega)
  simp only [build, (major_R3 w _ _ _).1, build10, (major_R3 w _ _ _).2, h1, h2]

theorem mul (w : R3) : Statement (.mul w) := by
  intro _ fs h
  simp only [fieldsOf, Option.some.injEq] at h
  subst h
  refine ⟨w.fits _ _ _ (by decide) (by decide) (by decide), ?_⟩
  obtain ⟨h1, h2⟩ := w.fields_back 16 2 (0) (by omega)
  simp only [build, (major_R3 w _ _ _).1, build10, (major_R3 w _ _ _).2, h1, h2]

theorem mulhi (w : R3) : Statement (.mulhi w) := by
  intro _ fs h
  simp only [fieldsOf, Option.some.injEq] at h
  subst h
  refine ⟨w.fits _ _ _ (by decide) (by decide) (by decide), ?_⟩
  obtain ⟨h1, h2⟩ := w.fields_back 16 2 (1) (by omega)
  simp only [build, (major_R3 w _ _ _).1, build10, (major_R3 w _ _ _).2, h1, h2]

theorem div (w : R3) : Statement (.div w) := by
  intro _ fs h
  simp only [fieldsOf, Option.some.injEq] at h
  subst h
  refine ⟨w.fits _ _ _ (by decide) (by decide) (by decide), ?_⟩
  obtain ⟨h1, h2⟩ := w.fields_back 16 3 (0) (by omega)
  simp only [build, (major_R3 w _ _ _).1, build10, (major_R3 w _ _ _).2, h1, h2]

theorem rem (w : R3) : Statement (.rem w) := by
  intro _ fs h
  simp only [fieldsOf, Option.some.injEq] at h
  subst h
  refine ⟨w.fits _ _ _ (by decide) (by decide) (by decide), ?_⟩
  obtain ⟨h1, h2⟩ := w.fields_back 16 3 (1) (by omega)
  simp only [build, (major_R3 w _ _ _).1, build10, (major_R3 w _ _ _).2, h1, h2]

theorem min (w : R3) : Statement (.min w) := by
  intro _ fs h
  simp only [fieldsOf, Option.some.injEq] at h
  subst h
  refine ⟨w.fits _ _ _ (by decide) (by decide) (by decide), ?_⟩
  obtain ⟨h1, h2⟩ := w.fields_back 16 4 (0) (by omega)
  simp only [build, (major_R3 w _ _ _).1, build10, (major_R3 w _ _ _).2, h1, h2]

theorem max (w : R3) : Statement (.max w) := by
  intro _ fs h
  simp only [fieldsOf, Option.some.injEq] at h
  subst h
  refine ⟨w.fits _ _ _ (by decide) (by decide) (by decide), ?_⟩
  obtain ⟨h1, h2⟩ := w.fields_back 16 4 (1) (by omega)
  simp only [build, (major_R3 w _ _ _).1, build10, (major_R3 w _ _ _).2, h1, h2]

theorem and (w : R3) : Statement (.and w) := by
  intro _ fs h
  simp only [fieldsOf, Option.some.injEq] at h
  subst h
  refine ⟨w.fits _ _ _ (by decide) (by decide) (by decide), ?_⟩
  obtain ⟨h1, h2⟩ := w.fields_back 16 5 (0) (by omega)
  simp only [build, (major_R3 w _ _ _).1, build10, (major_R3 w _ _ _).2, h1, h2]

theorem or (w : R3) : Statement (.or w) := by
  intro _ fs h
  simp only [fieldsOf, Option.some.injEq] at h
  subst h
  refine ⟨w.fits _ _ _ (by decide) (by decide) (by decide), ?_⟩
  obtain ⟨h1, h2⟩ := w.fields_back 16 5 (1) (by omega)
  simp only [build, (major_R3 w _ _ _).1, build10, (major_R3 w _ _ _).2, h1, h2]

theorem xor (w : R3) : Statement (.xor w) := by
  intro _ fs h
  simp only [fieldsOf, Option.some.injEq] at h
  subst h
  refine ⟨w.fits _ _ _ (by decide) (by decide) (by decide), ?_⟩
  obtain ⟨h1, h2⟩ := w.fields_back 16 5 (2) (by omega)
  simp only [build, (major_R3 w _ _ _).1, build10, (major_R3 w _ _ _).2, h1, h2]

theorem andn (w : R3) : Statement (.andn w) := by
  intro _ fs h
  simp only [fieldsOf, Option.some.injEq] at h
  subst h
  refine ⟨w.fits _ _ _ (by decide) (by decide) (by decide), ?_⟩
  obtain ⟨h1, h2⟩ := w.fields_back 16 5 (3) (by omega)
  simp only [build, (major_R3 w _ _ _).1, build10, (major_R3 w _ _ _).2, h1, h2]

theorem shl (w : R3) : Statement (.shl w) := by
  intro _ fs h
  simp only [fieldsOf, Option.some.injEq] at h
  subst h
  refine ⟨w.fits _ _ _ (by decide) (by decide) (by decide), ?_⟩
  obtain ⟨h1, h2⟩ := w.fields_back 16 6 (0) (by omega)
  simp only [build, (major_R3 w _ _ _).1, build10, (major_R3 w _ _ _).2, h1, h2]

theorem shr (w : R3) : Statement (.shr w) := by
  intro _ fs h
  simp only [fieldsOf, Option.some.injEq] at h
  subst h
  refine ⟨w.fits _ _ _ (by decide) (by decide) (by decide), ?_⟩
  obtain ⟨h1, h2⟩ := w.fields_back 16 6 (1) (by omega)
  simp only [build, (major_R3 w _ _ _).1, build10, (major_R3 w _ _ _).2, h1, h2]

theorem sar (w : R3) : Statement (.sar w) := by
  intro _ fs h
  simp only [fieldsOf, Option.some.injEq] at h
  subst h
  refine ⟨w.fits _ _ _ (by decide) (by decide) (by decide), ?_⟩
  obtain ⟨h1, h2⟩ := w.fields_back 16 6 (2) (by omega)
  simp only [build, (major_R3 w _ _ _).1, build10, (major_R3 w _ _ _).2, h1, h2]

theorem rotl (w : R3) : Statement (.rotl w) := by
  intro _ fs h
  simp only [fieldsOf, Option.some.injEq] at h
  subst h
  refine ⟨w.fits _ _ _ (by decide) (by decide) (by decide), ?_⟩
  obtain ⟨h1, h2⟩ := w.fields_back 16 6 (3) (by omega)
  simp only [build, (major_R3 w _ _ _).1, build10, (major_R3 w _ _ _).2, h1, h2]

theorem scmp (c : BitVec 3) (w : R3) : Statement (.scmp c w) := by
  intro _ fs h
  have hc := c.isLt
  simp only [fieldsOf, Option.some.injEq] at h
  subst h
  refine ⟨w.fits _ _ _ (by decide) (by decide) (by omega), ?_⟩
  obtain ⟨h1, h2⟩ := w.fields_back 16 7 (c.toNat) (by omega)
  have c_back : BitVec.ofNat 3 (fld (c.toNat) 0 3) = c := by apply BitVec.eq_of_toNat_eq; simp only [fld, BitVec.toNat_ofNat]; omega
  simp only [build, (major_R3 w _ _ _).1, build10, (major_R3 w _ _ _).2, h1, h2, c_back]

theorem clz (w : R3) : Statement (.clz w) := by
  intro _ fs h
  simp only [fieldsOf, Option.some.injEq] at h
  subst h
  refine ⟨w.fits _ _ _ (by decide) (by decide) (by decide), ?_⟩
  obtain ⟨h1, h2⟩ := w.fields_back 16 8 (0) (by omega)
  simp only [build, (major_R3 w _ _ _).1, build10, (major_R3 w _ _ _).2, h1, h2]

theorem ctz (w : R3) : Statement (.ctz w) := by
  intro _ fs h
  simp only [fieldsOf, Option.some.injEq] at h
  subst h
  refine ⟨w.fits _ _ _ (by decide) (by decide) (by decide), ?_⟩
  obtain ⟨h1, h2⟩ := w.fields_back 16 8 (1) (by omega)
  simp only [build, (major_R3 w _ _ _).1, build10, (major_R3 w _ _ _).2, h1, h2]

theorem popc (w : R3) : Statement (.popc w) := by
  intro _ fs h
  simp only [fieldsOf, Option.some.injEq] at h
  subst h
  refine ⟨w.fits _ _ _ (by decide) (by decide) (by decide), ?_⟩
  obtain ⟨h1, h2⟩ := w.fields_back 16 8 (2) (by omega)
  simp only [build, (major_R3 w _ _ _).1, build10, (major_R3 w _ _ _).2, h1, h2]

theorem brev (w : R3) : Statement (.brev w) := by
  intro _ fs h
  simp only [fieldsOf, Option.some.injEq] at h
  subst h
  refine ⟨w.fits _ _ _ (by decide) (by decide) (by decide), ?_⟩
  obtain ⟨h1, h2⟩ := w.fields_back 16 8 (3) (by omega)
  simp only [build, (major_R3 w _ _ _).1, build10, (major_R3 w _ _ _).2, h1, h2]

theorem neg (w : R3) : Statement (.neg w) := by
  intro _ fs h
  simp only [fieldsOf, Option.some.injEq] at h
  subst h
  refine ⟨w.fits _ _ _ (by decide) (by decide) (by decide), ?_⟩
  obtain ⟨h1, h2⟩ := w.fields_back 16 9 (0) (by omega)
  simp only [build, (major_R3 w _ _ _).1, build10, (major_R3 w _ _ _).2, h1, h2]

theorem abs (w : R3) : Statement (.abs w) := by
  intro _ fs h
  simp only [fieldsOf, Option.some.injEq] at h
  subst h
  refine ⟨w.fits _ _ _ (by decide) (by decide) (by decide), ?_⟩
  obtain ⟨h1, h2⟩ := w.fields_back 16 9 (1) (by omega)
  simp only [build, (major_R3 w _ _ _).1, build10, (major_R3 w _ _ _).2, h1, h2]

theorem mov (w : R3) : Statement (.mov w) := by
  intro _ fs h
  simp only [fieldsOf, Option.some.injEq] at h
  subst h
  refine ⟨w.fits _ _ _ (by decide) (by decide) (by decide), ?_⟩
  obtain ⟨h1, h2⟩ := w.fields_back 16 10 (0) (by omega)
  simp only [build, (major_R3 w _ _ _).1, build10, (major_R3 w _ _ _).2, h1, h2]

theorem lea (k : BitVec 3) (w : R3) : Statement (.lea k w) := by
  intro _ fs h
  have hk := k.isLt
  simp only [fieldsOf, Option.some.injEq] at h
  subst h
  refine ⟨w.fits _ _ _ (by decide) (by decide) (by omega), ?_⟩
  obtain ⟨h1, h2⟩ := w.fields_back 16 11 (k.toNat) (by omega)
  have k_back : BitVec.ofNat 3 (fld (k.toNat) 0 3) = k := by apply BitVec.eq_of_toNat_eq; simp only [fld, BitVec.toNat_ofNat]; omega
  simp only [build, (major_R3 w _ _ _).1, build10, (major_R3 w _ _ _).2, h1, h2, k_back]

theorem gaddr (r : BitVec 5) (w : R3) : Statement (.gaddr r w) := by
  intro _ fs h
  have hr := r.isLt
  simp only [fieldsOf, Option.some.injEq] at h
  subst h
  refine ⟨w.fits _ _ _ (by decide) (by decide) (by omega), ?_⟩
  obtain ⟨h1, h2⟩ := w.fields_back 16 12 (r.toNat) (by omega)
  have r_back : BitVec.ofNat 5 (fld (r.toNat) 0 5) = r := by apply BitVec.eq_of_toNat_eq; simp only [fld, BitVec.toNat_ofNat]; omega
  simp only [build, (major_R3 w _ _ _).1, build10, (major_R3 w _ _ _).2, h1, h2, r_back]

theorem gfld (f : BitVec 2) (w : R3) : Statement (.gfld f w) := by
  intro _ fs h
  have hf := f.isLt
  simp only [fieldsOf, Option.some.injEq] at h
  subst h
  refine ⟨w.fits _ _ _ (by decide) (by decide) (by omega), ?_⟩
  obtain ⟨h1, h2⟩ := w.fields_back 16 13 (f.toNat) (by omega)
  have f_back : BitVec.ofNat 2 (fld (f.toNat) 0 2) = f := by apply BitVec.eq_of_toNat_eq; simp only [fld, BitVec.toNat_ofNat]; omega
  simp only [build, (major_R3 w _ _ _).1, build10, (major_R3 w _ _ _).2, h1, h2, f_back]

theorem addi (w : IM) : Statement (.addi w) := by
  intro _ fs h
  simp only [fieldsOf, Option.some.injEq] at h
  subst h
  refine ⟨w.fits _ _ _ (by decide) (by decide) (by decide), ?_⟩
  obtain ⟨h1, h2⟩ := w.fields_back 17 0 (0) (by omega)
  simp only [build, (major_IM w _ _ _).1, build11, (major_IM w _ _ _).2, h1, h2]

theorem movi (w : IM) : Statement (.movi w) := by
  intro _ fs h
  simp only [fieldsOf, Option.some.injEq] at h
  subst h
  refine ⟨w.fits _ _ _ (by decide) (by decide) (by decide), ?_⟩
  obtain ⟨h1, h2⟩ := w.fields_back 17 1 (0) (by omega)
  simp only [build, (major_IM w _ _ _).1, build11, (major_IM w _ _ _).2, h1, h2]

theorem movm (w : IM) : Statement (.movm w) := by
  intro _ fs h
  simp only [fieldsOf, Option.some.injEq] at h
  subst h
  refine ⟨w.fits _ _ _ (by decide) (by decide) (by decide), ?_⟩
  obtain ⟨h1, h2⟩ := w.fields_back 17 1 (1) (by omega)
  simp only [build, (major_IM w _ _ _).1, build11, (major_IM w _ _ _).2, h1, h2]

theorem movh (w : IM) : Statement (.movh w) := by
  intro _ fs h
  simp only [fieldsOf, Option.some.injEq] at h
  subst h
  refine ⟨w.fits _ _ _ (by decide) (by decide) (by decide), ?_⟩
  obtain ⟨h1, h2⟩ := w.fields_back 17 1 (2) (by omega)
  simp only [build, (major_IM w _ _ _).1, build11, (major_IM w _ _ _).2, h1, h2]

theorem andi (w : IM) : Statement (.andi w) := by
  intro _ fs h
  simp only [fieldsOf, Option.some.injEq] at h
  subst h
  refine ⟨w.fits _ _ _ (by decide) (by decide) (by decide), ?_⟩
  obtain ⟨h1, h2⟩ := w.fields_back 17 2 (0) (by omega)
  simp only [build, (major_IM w _ _ _).1, build11, (major_IM w _ _ _).2, h1, h2]

theorem ori (w : IM) : Statement (.ori w) := by
  intro _ fs h
  simp only [fieldsOf, Option.some.injEq] at h
  subst h
  refine ⟨w.fits _ _ _ (by decide) (by decide) (by decide), ?_⟩
  obtain ⟨h1, h2⟩ := w.fields_back 17 2 (1) (by omega)
  simp only [build, (major_IM w _ _ _).1, build11, (major_IM w _ _ _).2, h1, h2]

theorem xori (w : IM) : Statement (.xori w) := by
  intro _ fs h
  simp only [fieldsOf, Option.some.injEq] at h
  subst h
  refine ⟨w.fits _ _ _ (by decide) (by decide) (by decide), ?_⟩
  obtain ⟨h1, h2⟩ := w.fields_back 17 2 (2) (by omega)
  simp only [build, (major_IM w _ _ _).1, build11, (major_IM w _ _ _).2, h1, h2]

theorem bfxu (w : IM) : Statement (.bfxu w) := by
  intro _ fs h
  simp only [fieldsOf, Option.some.injEq] at h
  subst h
  refine ⟨w.fits _ _ _ (by decide) (by decide) (by decide), ?_⟩
  obtain ⟨h1, h2⟩ := w.fields_back 17 3 (0) (by omega)
  simp only [build, (major_IM w _ _ _).1, build11, (major_IM w _ _ _).2, h1, h2]

theorem bfxs (w : IM) : Statement (.bfxs w) := by
  intro _ fs h
  simp only [fieldsOf, Option.some.injEq] at h
  subst h
  refine ⟨w.fits _ _ _ (by decide) (by decide) (by decide), ?_⟩
  obtain ⟨h1, h2⟩ := w.fields_back 17 3 (1) (by omega)
  simp only [build, (major_IM w _ _ _).1, build11, (major_IM w _ _ _).2, h1, h2]

theorem bfi (w : IM) : Statement (.bfi w) := by
  intro _ fs h
  simp only [fieldsOf, Option.some.injEq] at h
  subst h
  refine ⟨w.fits _ _ _ (by decide) (by decide) (by decide), ?_⟩
  obtain ⟨h1, h2⟩ := w.fields_back 17 3 (2) (by omega)
  simp only [build, (major_IM w _ _ _).1, build11, (major_IM w _ _ _).2, h1, h2]

theorem ldl (w : IM) : Statement (.ldl w) := by
  intro _ fs h
  simp only [fieldsOf, Option.some.injEq] at h
  subst h
  refine ⟨w.fits _ _ _ (by decide) (by decide) (by decide), ?_⟩
  obtain ⟨h1, h2⟩ := w.fields_back 18 0 (0) (by omega)
  simp only [build, (major_IM w _ _ _).1, build12, (major_IM w _ _ _).2, h1, h2]

theorem vaddInt (w : R3) : Statement (.vaddInt w) := by
  intro _ fs h
  simp only [fieldsOf, Option.some.injEq] at h
  subst h
  refine ⟨w.fits _ _ _ (by decide) (by decide) (by decide), ?_⟩
  obtain ⟨h1, h2⟩ := w.fields_back 32 0 (0) (by omega)
  simp only [build, (major_R3 w _ _ _).1, build20, (major_R3 w _ _ _).2, h1, h2]

theorem vsubInt (w : R3) : Statement (.vsubInt w) := by
  intro _ fs h
  simp only [fieldsOf, Option.some.injEq] at h
  subst h
  refine ⟨w.fits _ _ _ (by decide) (by decide) (by decide), ?_⟩
  obtain ⟨h1, h2⟩ := w.fields_back 32 1 (0) (by omega)
  simp only [build, (major_R3 w _ _ _).1, build20, (major_R3 w _ _ _).2, h1, h2]

theorem vmulInt (w : R3) : Statement (.vmulInt w) := by
  intro _ fs h
  simp only [fieldsOf, Option.some.injEq] at h
  subst h
  refine ⟨w.fits _ _ _ (by decide) (by decide) (by decide), ?_⟩
  obtain ⟨h1, h2⟩ := w.fields_back 32 2 (0) (by omega)
  simp only [build, (major_R3 w _ _ _).1, build20, (major_R3 w _ _ _).2, h1, h2]

theorem vmulhi (w : R3) : Statement (.vmulhi w) := by
  intro _ fs h
  simp only [fieldsOf, Option.some.injEq] at h
  subst h
  refine ⟨w.fits _ _ _ (by decide) (by decide) (by decide), ?_⟩
  obtain ⟨h1, h2⟩ := w.fields_back 32 2 (1) (by omega)
  simp only [build, (major_R3 w _ _ _).1, build20, (major_R3 w _ _ _).2, h1, h2]

theorem vminInt (w : R3) : Statement (.vminInt w) := by
  intro _ fs h
  simp only [fieldsOf, Option.some.injEq] at h
  subst h
  refine ⟨w.fits _ _ _ (by decide) (by decide) (by decide), ?_⟩
  obtain ⟨h1, h2⟩ := w.fields_back 32 3 (0) (by omega)
  simp only [build, (major_R3 w _ _ _).1, build20, (major_R3 w _ _ _).2, h1, h2]

theorem vmaxInt (w : R3) : Statement (.vmaxInt w) := by
  intro _ fs h
  simp only [fieldsOf, Option.some.injEq] at h
  subst h
  refine ⟨w.fits _ _ _ (by decide) (by decide) (by decide), ?_⟩
  obtain ⟨h1, h2⟩ := w.fields_back 32 3 (1) (by omega)
  simp only [build, (major_R3 w _ _ _).1, build20, (major_R3 w _ _ _).2, h1, h2]

theorem vnegInt (w : R3) : Statement (.vnegInt w) := by
  intro _ fs h
  simp only [fieldsOf, Option.some.injEq] at h
  subst h
  refine ⟨w.fits _ _ _ (by decide) (by decide) (by decide), ?_⟩
  obtain ⟨h1, h2⟩ := w.fields_back 32 4 (0) (by omega)
  simp only [build, (major_R3 w _ _ _).1, build20, (major_R3 w _ _ _).2, h1, h2]

theorem vabsInt (w : R3) : Statement (.vabsInt w) := by
  intro _ fs h
  simp only [fieldsOf, Option.some.injEq] at h
  subst h
  refine ⟨w.fits _ _ _ (by decide) (by decide) (by decide), ?_⟩
  obtain ⟨h1, h2⟩ := w.fields_back 32 4 (1) (by omega)
  simp only [build, (major_R3 w _ _ _).1, build20, (major_R3 w _ _ _).2, h1, h2]

theorem vand (w : R3) : Statement (.vand w) := by
  intro _ fs h
  simp only [fieldsOf, Option.some.injEq] at h
  subst h
  refine ⟨w.fits _ _ _ (by decide) (by decide) (by decide), ?_⟩
  obtain ⟨h1, h2⟩ := w.fields_back 32 5 (0) (by omega)
  simp only [build, (major_R3 w _ _ _).1, build20, (major_R3 w _ _ _).2, h1, h2]

theorem vor (w : R3) : Statement (.vor w) := by
  intro _ fs h
  simp only [fieldsOf, Option.some.injEq] at h
  subst h
  refine ⟨w.fits _ _ _ (by decide) (by decide) (by decide), ?_⟩
  obtain ⟨h1, h2⟩ := w.fields_back 32 5 (1) (by omega)
  simp only [build, (major_R3 w _ _ _).1, build20, (major_R3 w _ _ _).2, h1, h2]

theorem vxor (w : R3) : Statement (.vxor w) := by
  intro _ fs h
  simp only [fieldsOf, Option.some.injEq] at h
  subst h
  refine ⟨w.fits _ _ _ (by decide) (by decide) (by decide), ?_⟩
  obtain ⟨h1, h2⟩ := w.fields_back 32 5 (2) (by omega)
  simp only [build, (major_R3 w _ _ _).1, build20, (major_R3 w _ _ _).2, h1, h2]

theorem vandn (w : R3) : Statement (.vandn w) := by
  intro _ fs h
  simp only [fieldsOf, Option.some.injEq] at h
  subst h
  refine ⟨w.fits _ _ _ (by decide) (by decide) (by decide), ?_⟩
  obtain ⟨h1, h2⟩ := w.fields_back 32 5 (3) (by omega)
  simp only [build, (major_R3 w _ _ _).1, build20, (major_R3 w _ _ _).2, h1, h2]

theorem vshl (w : R3) : Statement (.vshl w) := by
  intro _ fs h
  simp only [fieldsOf, Option.some.injEq] at h
  subst h
  refine ⟨w.fits _ _ _ (by decide) (by decide) (by decide), ?_⟩
  obtain ⟨h1, h2⟩ := w.fields_back 32 6 (0) (by omega)
  simp only [build, (major_R3 w _ _ _).1, build20, (major_R3 w _ _ _).2, h1, h2]

theorem vshr (w : R3) : Statement (.vshr w) := by
  intro _ fs h
  simp only [fieldsOf, Option.some.injEq] at h
  subst h
  refine ⟨w.fits _ _ _ (by decide) (by decide) (by decide), ?_⟩
  obtain ⟨h1, h2⟩ := w.fields_back 32 6 (1) (by omega)
  simp only [build, (major_R3 w _ _ _).1, build20, (major_R3 w _ _ _).2, h1, h2]

theorem vsar (w : R3) : Statement (.vsar w) := by
  intro _ fs h
  simp only [fieldsOf, Option.some.injEq] at h
  subst h
  refine ⟨w.fits _ _ _ (by decide) (by decide) (by decide), ?_⟩
  obtain ⟨h1, h2⟩ := w.fields_back 32 6 (2) (by omega)
  simp only [build, (major_R3 w _ _ _).1, build20, (major_R3 w _ _ _).2, h1, h2]

theorem vrotl (w : R3) : Statement (.vrotl w) := by
  intro _ fs h
  simp only [fieldsOf, Option.some.injEq] at h
  subst h
  refine ⟨w.fits _ _ _ (by decide) (by decide) (by decide), ?_⟩
  obtain ⟨h1, h2⟩ := w.fields_back 32 6 (3) (by omega)
  simp only [build, (major_R3 w _ _ _).1, build20, (major_R3 w _ _ _).2, h1, h2]

theorem vclz (w : R3) : Statement (.vclz w) := by
  intro _ fs h
  simp only [fieldsOf, Option.some.injEq] at h
  subst h
  refine ⟨w.fits _ _ _ (by decide) (by decide) (by decide), ?_⟩
  obtain ⟨h1, h2⟩ := w.fields_back 32 7 (0) (by omega)
  simp only [build, (major_R3 w _ _ _).1, build20, (major_R3 w _ _ _).2, h1, h2]

theorem vctz (w : R3) : Statement (.vctz w) := by
  intro _ fs h
  simp only [fieldsOf, Option.some.injEq] at h
  subst h
  refine ⟨w.fits _ _ _ (by decide) (by decide) (by decide), ?_⟩
  obtain ⟨h1, h2⟩ := w.fields_back 32 7 (1) (by omega)
  simp only [build, (major_R3 w _ _ _).1, build20, (major_R3 w _ _ _).2, h1, h2]

theorem vpopc (w : R3) : Statement (.vpopc w) := by
  intro _ fs h
  simp only [fieldsOf, Option.some.injEq] at h
  subst h
  refine ⟨w.fits _ _ _ (by decide) (by decide) (by decide), ?_⟩
  obtain ⟨h1, h2⟩ := w.fields_back 32 7 (2) (by omega)
  simp only [build, (major_R3 w _ _ _).1, build20, (major_R3 w _ _ _).2, h1, h2]

theorem vbrev (w : R3) : Statement (.vbrev w) := by
  intro _ fs h
  simp only [fieldsOf, Option.some.injEq] at h
  subst h
  refine ⟨w.fits _ _ _ (by decide) (by decide) (by decide), ?_⟩
  obtain ⟨h1, h2⟩ := w.fields_back 32 7 (3) (by omega)
  simp only [build, (major_R3 w _ _ _).1, build20, (major_R3 w _ _ _).2, h1, h2]

theorem vmov (w : R3) : Statement (.vmov w) := by
  intro _ fs h
  simp only [fieldsOf, Option.some.injEq] at h
  subst h
  refine ⟨w.fits _ _ _ (by decide) (by decide) (by decide), ?_⟩
  obtain ⟨h1, h2⟩ := w.fields_back 32 8 (0) (by omega)
  simp only [build, (major_R3 w _ _ _).1, build20, (major_R3 w _ _ _).2, h1, h2]

theorem vcmp (c : BitVec 3) (w : R3) : Statement (.vcmp c w) := by
  intro _ fs h
  have hc := c.isLt
  simp only [fieldsOf, Option.some.injEq] at h
  subst h
  refine ⟨w.fits _ _ _ (by decide) (by decide) (by omega), ?_⟩
  obtain ⟨h1, h2⟩ := w.fields_back 32 9 (c.toNat) (by omega)
  have c_back : BitVec.ofNat 3 (fld (c.toNat) 0 3) = c := by apply BitVec.eq_of_toNat_eq; simp only [fld, BitVec.toNat_ofNat]; omega
  simp only [build, (major_R3 w _ _ _).1, build20, (major_R3 w _ _ _).2, h1, h2, c_back]

theorem pand (w : R3) : Statement (.pand w) := by
  intro _ fs h
  simp only [fieldsOf, Option.some.injEq] at h
  subst h
  refine ⟨w.fits _ _ _ (by decide) (by decide) (by decide), ?_⟩
  obtain ⟨h1, h2⟩ := w.fields_back 32 10 (0) (by omega)
  simp only [build, (major_R3 w _ _ _).1, build20, (major_R3 w _ _ _).2, h1, h2]

theorem por (w : R3) : Statement (.por w) := by
  intro _ fs h
  simp only [fieldsOf, Option.some.injEq] at h
  subst h
  refine ⟨w.fits _ _ _ (by decide) (by decide) (by decide), ?_⟩
  obtain ⟨h1, h2⟩ := w.fields_back 32 10 (1) (by omega)
  simp only [build, (major_R3 w _ _ _).1, build20, (major_R3 w _ _ _).2, h1, h2]

theorem pxor (w : R3) : Statement (.pxor w) := by
  intro _ fs h
  simp only [fieldsOf, Option.some.injEq] at h
  subst h
  refine ⟨w.fits _ _ _ (by decide) (by decide) (by decide), ?_⟩
  obtain ⟨h1, h2⟩ := w.fields_back 32 10 (2) (by omega)
  simp only [build, (major_R3 w _ _ _).1, build20, (major_R3 w _ _ _).2, h1, h2]

theorem pandn (w : R3) : Statement (.pandn w) := by
  intro _ fs h
  simp only [fieldsOf, Option.some.injEq] at h
  subst h
  refine ⟨w.fits _ _ _ (by decide) (by decide) (by decide), ?_⟩
  obtain ⟨h1, h2⟩ := w.fields_back 32 10 (3) (by omega)
  simp only [build, (major_R3 w _ _ _).1, build20, (major_R3 w _ _ _).2, h1, h2]

theorem pnot (w : R3) : Statement (.pnot w) := by
  intro _ fs h
  simp only [fieldsOf, Option.some.injEq] at h
  subst h
  refine ⟨w.fits _ _ _ (by decide) (by decide) (by decide), ?_⟩
  obtain ⟨h1, h2⟩ := w.fields_back 32 10 (4) (by omega)
  simp only [build, (major_R3 w _ _ _).1, build20, (major_R3 w _ _ _).2, h1, h2]

theorem vmad (n : BitVec 2) (w : FU) : Statement (.vmad n w) := by
  intro _ fs h
  have hn := n.isLt
  simp only [fieldsOf, Option.some.injEq] at h
  subst h
  refine ⟨w.fits _ _ _ (by decide) (by decide) (by omega), ?_⟩
  obtain ⟨h1, h2⟩ := w.fields_back 33 0 (n.toNat) (by omega)
  have n_back : BitVec.ofNat 2 (fld (n.toNat) 0 2) = n := by apply BitVec.eq_of_toNat_eq; simp only [fld, BitVec.toNat_ofNat]; omega
  simp only [build, (major_FU w _ _ _).1, build21, (major_FU w _ _ _).2, h1, h2, n_back]

theorem vsel (w : FU) : Statement (.vsel w) := by
  intro _ fs h
  simp only [fieldsOf, Option.some.injEq] at h
  subst h
  refine ⟨w.fits _ _ _ (by decide) (by decide) (by decide), ?_⟩
  obtain ⟨h1, h2⟩ := w.fields_back 33 1 (0) (by omega)
  simp only [build, (major_FU w _ _ _).1, build21, (major_FU w _ _ _).2, h1, h2]

theorem vclamp (w : FU) : Statement (.vclamp w) := by
  intro _ fs h
  simp only [fieldsOf, Option.some.injEq] at h
  subst h
  refine ⟨w.fits _ _ _ (by decide) (by decide) (by decide), ?_⟩
  obtain ⟨h1, h2⟩ := w.fields_back 33 2 (0) (by omega)
  simp only [build, (major_FU w _ _ _).1, build21, (major_FU w _ _ _).2, h1, h2]

theorem vdp4 (w : FU) : Statement (.vdp4 w) := by
  intro _ fs h
  simp only [fieldsOf, Option.some.injEq] at h
  subst h
  refine ⟨w.fits _ _ _ (by decide) (by decide) (by decide), ?_⟩
  obtain ⟨h1, h2⟩ := w.fields_back 33 3 (0) (by omega)
  simp only [build, (major_FU w _ _ _).1, build21, (major_FU w _ _ _).2, h1, h2]

theorem vfma (w : FU) : Statement (.vfma w) := by
  intro _ fs h
  simp only [fieldsOf, Option.some.injEq] at h
  subst h
  refine ⟨w.fits _ _ _ (by decide) (by decide) (by decide), ?_⟩
  obtain ⟨h1, h2⟩ := w.fields_back 48 0 (0) (by omega)
  simp only [build, (major_FU w _ _ _).1, build30, (major_FU w _ _ _).2, h1, h2]

theorem vfms (w : FU) : Statement (.vfms w) := by
  intro _ fs h
  simp only [fieldsOf, Option.some.injEq] at h
  subst h
  refine ⟨w.fits _ _ _ (by decide) (by decide) (by decide), ?_⟩
  obtain ⟨h1, h2⟩ := w.fields_back 48 0 (1) (by omega)
  simp only [build, (major_FU w _ _ _).1, build30, (major_FU w _ _ _).2, h1, h2]

theorem vfnma (w : FU) : Statement (.vfnma w) := by
  intro _ fs h
  simp only [fieldsOf, Option.some.injEq] at h
  subst h
  refine ⟨w.fits _ _ _ (by decide) (by decide) (by decide), ?_⟩
  obtain ⟨h1, h2⟩ := w.fields_back 48 0 (2) (by omega)
  simp only [build, (major_FU w _ _ _).1, build30, (major_FU w _ _ _).2, h1, h2]

theorem vfnms (w : FU) : Statement (.vfnms w) := by
  intro _ fs h
  simp only [fieldsOf, Option.some.injEq] at h
  subst h
  refine ⟨w.fits _ _ _ (by decide) (by decide) (by decide), ?_⟩
  obtain ⟨h1, h2⟩ := w.fields_back 48 0 (3) (by omega)
  simp only [build, (major_FU w _ _ _).1, build30, (major_FU w _ _ _).2, h1, h2]

theorem vfclamp (w : FU) : Statement (.vfclamp w) := by
  intro _ fs h
  simp only [fieldsOf, Option.some.injEq] at h
  subst h
  refine ⟨w.fits _ _ _ (by decide) (by decide) (by decide), ?_⟩
  obtain ⟨h1, h2⟩ := w.fields_back 48 1 (0) (by omega)
  simp only [build, (major_FU w _ _ _).1, build30, (major_FU w _ _ _).2, h1, h2]

theorem vdot2 (w : FU) : Statement (.vdot2 w) := by
  intro _ fs h
  simp only [fieldsOf, Option.some.injEq] at h
  subst h
  refine ⟨w.fits _ _ _ (by decide) (by decide) (by decide), ?_⟩
  obtain ⟨h1, h2⟩ := w.fields_back 50 0 (0) (by omega)
  simp only [build, (major_FU w _ _ _).1, build32, (major_FU w _ _ _).2, h1, h2]

theorem vaddFloat (w : R3) : Statement (.vaddFloat w) := by
  intro _ fs h
  simp only [fieldsOf, Option.some.injEq] at h
  subst h
  refine ⟨w.fits _ _ _ (by decide) (by decide) (by decide), ?_⟩
  obtain ⟨h1, h2⟩ := w.fields_back 49 0 (0) (by omega)
  simp only [build, (major_R3 w _ _ _).1, build31, (major_R3 w _ _ _).2, h1, h2]

theorem vsubFloat (w : R3) : Statement (.vsubFloat w) := by
  intro _ fs h
  simp only [fieldsOf, Option.some.injEq] at h
  subst h
  refine ⟨w.fits _ _ _ (by decide) (by decide) (by decide), ?_⟩
  obtain ⟨h1, h2⟩ := w.fields_back 49 1 (0) (by omega)
  simp only [build, (major_R3 w _ _ _).1, build31, (major_R3 w _ _ _).2, h1, h2]

theorem vmulFloat (w : R3) : Statement (.vmulFloat w) := by
  intro _ fs h
  simp only [fieldsOf, Option.some.injEq] at h
  subst h
  refine ⟨w.fits _ _ _ (by decide) (by decide) (by decide), ?_⟩
  obtain ⟨h1, h2⟩ := w.fields_back 49 2 (0) (by omega)
  simp only [build, (major_R3 w _ _ _).1, build31, (major_R3 w _ _ _).2, h1, h2]

theorem vdiv (w : R3) : Statement (.vdiv w) := by
  intro _ fs h
  simp only [fieldsOf, Option.some.injEq] at h
  subst h
  refine ⟨w.fits _ _ _ (by decide) (by decide) (by decide), ?_⟩
  obtain ⟨h1, h2⟩ := w.fields_back 49 3 (0) (by omega)
  simp only [build, (major_R3 w _ _ _).1, build31, (major_R3 w _ _ _).2, h1, h2]

theorem vminFloat (w : R3) : Statement (.vminFloat w) := by
  intro _ fs h
  simp only [fieldsOf, Option.some.injEq] at h
  subst h
  refine ⟨w.fits _ _ _ (by decide) (by decide) (by decide), ?_⟩
  obtain ⟨h1, h2⟩ := w.fields_back 49 4 (0) (by omega)
  simp only [build, (major_R3 w _ _ _).1, build31, (major_R3 w _ _ _).2, h1, h2]

theorem vmaxFloat (w : R3) : Statement (.vmaxFloat w) := by
  intro _ fs h
  simp only [fieldsOf, Option.some.injEq] at h
  subst h
  refine ⟨w.fits _ _ _ (by decide) (by decide) (by decide), ?_⟩
  obtain ⟨h1, h2⟩ := w.fields_back 49 4 (1) (by omega)
  simp only [build, (major_R3 w _ _ _).1, build31, (major_R3 w _ _ _).2, h1, h2]

theorem vminn (w : R3) : Statement (.vminn w) := by
  intro _ fs h
  simp only [fieldsOf, Option.some.injEq] at h
  subst h
  refine ⟨w.fits _ _ _ (by decide) (by decide) (by decide), ?_⟩
  obtain ⟨h1, h2⟩ := w.fields_back 49 4 (2) (by omega)
  simp only [build, (major_R3 w _ _ _).1, build31, (major_R3 w _ _ _).2, h1, h2]

theorem vmaxn (w : R3) : Statement (.vmaxn w) := by
  intro _ fs h
  simp only [fieldsOf, Option.some.injEq] at h
  subst h
  refine ⟨w.fits _ _ _ (by decide) (by decide) (by decide), ?_⟩
  obtain ⟨h1, h2⟩ := w.fields_back 49 4 (3) (by omega)
  simp only [build, (major_R3 w _ _ _).1, build31, (major_R3 w _ _ _).2, h1, h2]

theorem vnegFloat (w : R3) : Statement (.vnegFloat w) := by
  intro _ fs h
  simp only [fieldsOf, Option.some.injEq] at h
  subst h
  refine ⟨w.fits _ _ _ (by decide) (by decide) (by decide), ?_⟩
  obtain ⟨h1, h2⟩ := w.fields_back 49 5 (0) (by omega)
  simp only [build, (major_R3 w _ _ _).1, build31, (major_R3 w _ _ _).2, h1, h2]

theorem vabsFloat (w : R3) : Statement (.vabsFloat w) := by
  intro _ fs h
  simp only [fieldsOf, Option.some.injEq] at h
  subst h
  refine ⟨w.fits _ _ _ (by decide) (by decide) (by decide), ?_⟩
  obtain ⟨h1, h2⟩ := w.fields_back 49 5 (1) (by omega)
  simp only [build, (major_R3 w _ _ _).1, build31, (major_R3 w _ _ _).2, h1, h2]

theorem vcopysign (w : R3) : Statement (.vcopysign w) := by
  intro _ fs h
  simp only [fieldsOf, Option.some.injEq] at h
  subst h
  refine ⟨w.fits _ _ _ (by decide) (by decide) (by decide), ?_⟩
  obtain ⟨h1, h2⟩ := w.fields_back 49 5 (2) (by omega)
  simp only [build, (major_R3 w _ _ _).1, build31, (major_R3 w _ _ _).2, h1, h2]

theorem vfcmp (c : BitVec 3) (w : R3) : Statement (.vfcmp c w) := by
  intro _ fs h
  have hc := c.isLt
  simp only [fieldsOf, Option.some.injEq] at h
  subst h
  refine ⟨w.fits _ _ _ (by decide) (by decide) (by omega), ?_⟩
  obtain ⟨h1, h2⟩ := w.fields_back 49 6 (c.toNat) (by omega)
  have c_back : BitVec.ofNat 3 (fld (c.toNat) 0 3) = c := by apply BitVec.eq_of_toNat_eq; simp only [fld, BitVec.toNat_ofNat]; omega
  simp only [build, (major_R3 w _ _ _).1, build31, (major_R3 w _ _ _).2, h1, h2, c_back]

theorem vfclass (w : R3) : Statement (.vfclass w) := by
  intro _ fs h
  simp only [fieldsOf, Option.some.injEq] at h
  subst h
  refine ⟨w.fits _ _ _ (by decide) (by decide) (by decide), ?_⟩
  obtain ⟨h1, h2⟩ := w.fields_back 49 7 (0) (by omega)
  simp only [build, (major_R3 w _ _ _).1, build31, (major_R3 w _ _ _).2, h1, h2]

theorem vfrnd (w : R3) : Statement (.vfrnd w) := by
  intro _ fs h
  simp only [fieldsOf, Option.some.injEq] at h
  subst h
  refine ⟨w.fits _ _ _ (by decide) (by decide) (by decide), ?_⟩
  obtain ⟨h1, h2⟩ := w.fields_back 49 8 (0) (by omega)
  simp only [build, (major_R3 w _ _ _).1, build31, (major_R3 w _ _ _).2, h1, h2]

theorem vcvt (w : CV) : Statement (.vcvt w) := by
  intro _ fs h
  simp only [fieldsOf, Option.some.injEq] at h
  subst h
  refine ⟨w.fits _ _ _ (by decide) (by decide), ?_⟩
  have h1 := w.fields_back 64 0 0
  simp only [build, (major_CV w _ _ _).1, build40, (major_CV w _ _ _).2, h1]

theorem vcvtn (w : CV) : Statement (.vcvtn w) := by
  intro _ fs h
  simp only [fieldsOf, Option.some.injEq] at h
  subst h
  refine ⟨w.fits _ _ _ (by decide) (by decide), ?_⟩
  have h1 := w.fields_back 64 1 0
  simp only [build, (major_CV w _ _ _).1, build40, (major_CV w _ _ _).2, h1]

theorem vcvtw (w : CV) : Statement (.vcvtw w) := by
  intro _ fs h
  simp only [fieldsOf, Option.some.injEq] at h
  subst h
  refine ⟨w.fits _ _ _ (by decide) (by decide), ?_⟩
  have h1 := w.fields_back 64 2 0
  simp only [build, (major_CV w _ _ _).1, build40, (major_CV w _ _ _).2, h1]

theorem vshfl (m : BitVec 2) (g : BitVec 3) (w : R3) : Statement (.vshfl m g w) := by
  intro _ fs h
  have hm := m.isLt
  have hg := g.isLt
  simp only [fieldsOf, Option.some.injEq] at h
  subst h
  refine ⟨w.fits _ _ _ (by decide) (by decide) (by omega), ?_⟩
  obtain ⟨h1, h2⟩ := w.fields_back 72 0 (m.toNat + g.toNat * 4) (by omega)
  have m_back : BitVec.ofNat 2 (fld (m.toNat + g.toNat * 4) 0 2) = m := by apply BitVec.eq_of_toNat_eq; simp only [fld, BitVec.toNat_ofNat]; omega
  have g_back : BitVec.ofNat 3 (fld (m.toNat + g.toNat * 4) 2 3) = g := by apply BitVec.eq_of_toNat_eq; simp only [fld, BitVec.toNat_ofNat]; omega
  simp only [build, (major_R3 w _ _ _).1, build48, (major_R3 w _ _ _).2, h1, h2, m_back, g_back]

theorem vredlog (o : BitVec 3) (w : R3) : Statement (.vredlog o w) := by
  intro _ fs h
  have ho := o.isLt
  simp only [fieldsOf, Option.some.injEq] at h
  subst h
  refine ⟨w.fits _ _ _ (by decide) (by decide) (by omega), ?_⟩
  obtain ⟨h1, h2⟩ := w.fields_back 72 1 (o.toNat) (by omega)
  have o_back : BitVec.ofNat 3 (fld (o.toNat) 0 3) = o := by apply BitVec.eq_of_toNat_eq; simp only [fld, BitVec.toNat_ofNat]; omega
  simp only [build, (major_R3 w _ _ _).1, build48, (major_R3 w _ _ _).2, h1, h2, o_back]

theorem vscan (o : BitVec 3) (w : R3) : Statement (.vscan o w) := by
  intro _ fs h
  have ho := o.isLt
  simp only [fieldsOf, Option.some.injEq] at h
  subst h
  refine ⟨w.fits _ _ _ (by decide) (by decide) (by omega), ?_⟩
  obtain ⟨h1, h2⟩ := w.fields_back 72 2 (o.toNat) (by omega)
  have o_back : BitVec.ofNat 3 (fld (o.toNat) 0 3) = o := by apply BitVec.eq_of_toNat_eq; simp only [fld, BitVec.toNat_ofNat]; omega
  have hb : bit (o.toNat) 3 = false := by simp only [bit, beq_iff_eq, beq_eq_false_iff_ne]; omega
  simp only [build, (major_R3 w _ _ _).1, build48, (major_R3 w _ _ _).2, h1, h2, o_back, hb, Bool.false_eq_true, if_true, if_false]

theorem vscanx (o : BitVec 3) (w : R3) : Statement (.vscanx o w) := by
  intro _ fs h
  have ho := o.isLt
  simp only [fieldsOf, Option.some.injEq] at h
  subst h
  refine ⟨w.fits _ _ _ (by decide) (by decide) (by omega), ?_⟩
  obtain ⟨h1, h2⟩ := w.fields_back 72 2 (8 + o.toNat) (by omega)
  have o_back : BitVec.ofNat 3 (fld (8 + o.toNat) 0 3) = o := by apply BitVec.eq_of_toNat_eq; simp only [fld, BitVec.toNat_ofNat]; omega
  have hb : bit (8 + o.toNat) 3 = true := by simp only [bit, beq_iff_eq, beq_eq_false_iff_ne]; omega
  simp only [build, (major_R3 w _ _ _).1, build48, (major_R3 w _ _ _).2, h1, h2, o_back, hb, Bool.false_eq_true, if_true, if_false]

theorem vtopk (k : BitVec 3) (w : R3) : Statement (.vtopk k w) := by
  intro _ fs h
  have hk := k.isLt
  simp only [fieldsOf, Option.some.injEq] at h
  subst h
  refine ⟨w.fits _ _ _ (by decide) (by decide) (by omega), ?_⟩
  obtain ⟨h1, h2⟩ := w.fields_back 72 3 (k.toNat) (by omega)
  have k_back : BitVec.ofNat 3 (fld (k.toNat) 0 3) = k := by apply BitVec.eq_of_toNat_eq; simp only [fld, BitVec.toNat_ofNat]; omega
  have hb : bit (k.toNat) 3 = false := by simp only [bit, beq_iff_eq, beq_eq_false_iff_ne]; omega
  simp only [build, (major_R3 w _ _ _).1, build48, (major_R3 w _ _ _).2, h1, h2, k_back, hb, Bool.false_eq_true, if_true, if_false]

theorem vtopkNorm (k : BitVec 3) (w : R3) : Statement (.vtopkNorm k w) := by
  intro _ fs h
  have hk := k.isLt
  simp only [fieldsOf, Option.some.injEq] at h
  subst h
  refine ⟨w.fits _ _ _ (by decide) (by decide) (by omega), ?_⟩
  obtain ⟨h1, h2⟩ := w.fields_back 72 3 (8 + k.toNat) (by omega)
  have k_back : BitVec.ofNat 3 (fld (8 + k.toNat) 0 3) = k := by apply BitVec.eq_of_toNat_eq; simp only [fld, BitVec.toNat_ofNat]; omega
  have hb : bit (8 + k.toNat) 3 = true := by simp only [bit, beq_iff_eq, beq_eq_false_iff_ne]; omega
  simp only [build, (major_R3 w _ _ _).1, build48, (major_R3 w _ _ _).2, h1, h2, k_back, hb, Bool.false_eq_true, if_true, if_false]

theorem vrcp (w : IM) : Statement (.vrcp w) := by
  intro _ fs h
  simp only [fieldsOf, Option.some.injEq] at h
  subst h
  refine ⟨w.fits _ _ _ (by decide) (by decide) (by decide), ?_⟩
  obtain ⟨h1, h2⟩ := w.fields_back 73 0 (0) (by omega)
  simp only [build, (major_IM w _ _ _).1, build49, (major_IM w _ _ _).2, h1, h2]

theorem vrsqrt (w : IM) : Statement (.vrsqrt w) := by
  intro _ fs h
  simp only [fieldsOf, Option.some.injEq] at h
  subst h
  refine ⟨w.fits _ _ _ (by decide) (by decide) (by decide), ?_⟩
  obtain ⟨h1, h2⟩ := w.fields_back 73 0 (1) (by omega)
  simp only [build, (major_IM w _ _ _).1, build49, (major_IM w _ _ _).2, h1, h2]

theorem vsqrt (w : IM) : Statement (.vsqrt w) := by
  intro _ fs h
  simp only [fieldsOf, Option.some.injEq] at h
  subst h
  refine ⟨w.fits _ _ _ (by decide) (by decide) (by decide), ?_⟩
  obtain ⟨h1, h2⟩ := w.fields_back 73 0 (2) (by omega)
  simp only [build, (major_IM w _ _ _).1, build49, (major_IM w _ _ _).2, h1, h2]

theorem vexpo (w : IM) : Statement (.vexpo w) := by
  intro _ fs h
  simp only [fieldsOf, Option.some.injEq] at h
  subst h
  refine ⟨w.fits _ _ _ (by decide) (by decide) (by decide), ?_⟩
  obtain ⟨h1, h2⟩ := w.fields_back 73 0 (3) (by omega)
  simp only [build, (major_IM w _ _ _).1, build49, (major_IM w _ _ _).2, h1, h2]

theorem vexp2i (w : IM) : Statement (.vexp2i w) := by
  intro _ fs h
  simp only [fieldsOf, Option.some.injEq] at h
  subst h
  refine ⟨w.fits _ _ _ (by decide) (by decide) (by decide), ?_⟩
  obtain ⟨h1, h2⟩ := w.fields_back 73 1 (0) (by omega)
  simp only [build, (major_IM w _ _ _).1, build49, (major_IM w _ _ _).2, h1, h2]

theorem vscalb (w : IM) : Statement (.vscalb w) := by
  intro _ fs h
  simp only [fieldsOf, Option.some.injEq] at h
  subst h
  refine ⟨w.fits _ _ _ (by decide) (by decide) (by decide), ?_⟩
  obtain ⟨h1, h2⟩ := w.fields_back 73 2 (0) (by omega)
  simp only [build, (major_IM w _ _ _).1, build49, (major_IM w _ _ _).2, h1, h2]

theorem vrand (w : IM) : Statement (.vrand w) := by
  intro _ fs h
  simp only [fieldsOf, Option.some.injEq] at h
  subst h
  refine ⟨w.fits _ _ _ (by decide) (by decide) (by decide), ?_⟩
  obtain ⟨h1, h2⟩ := w.fields_back 73 3 (0) (by omega)
  simp only [build, (major_IM w _ _ _).1, build49, (major_IM w _ _ _).2, h1, h2]

theorem rseed (w : IM) : Statement (.rseed w) := by
  intro _ fs h
  simp only [fieldsOf, Option.some.injEq] at h
  subst h
  refine ⟨w.fits _ _ _ (by decide) (by decide) (by decide), ?_⟩
  obtain ⟨h1, h2⟩ := w.fields_back 73 4 (0) (by omega)
  simp only [build, (major_IM w _ _ _).1, build49, (major_IM w _ _ _).2, h1, h2]

theorem ldn (w : ME) : Statement (.ldn w) := by
  intro _ fs h
  simp only [fieldsOf, Option.some.injEq] at h
  subst h
  refine ⟨w.fits _ _ _ (by decide) (by decide), ?_⟩
  have h1 := w.fields_back 80 0 0
  simp only [build, (major_ME w _ _ _).1, build50, (major_ME w _ _ _).2, h1]

theorem stn (w : ME) : Statement (.stn w) := by
  intro _ fs h
  simp only [fieldsOf, Option.some.injEq] at h
  subst h
  refine ⟨w.fits _ _ _ (by decide) (by decide), ?_⟩
  have h1 := w.fields_back 80 1 0
  simp only [build, (major_ME w _ _ _).1, build50, (major_ME w _ _ _).2, h1]

theorem ldnr (w : ME) : Statement (.ldnr w) := by
  intro _ fs h
  simp only [fieldsOf, Option.some.injEq] at h
  subst h
  refine ⟨w.fits _ _ _ (by decide) (by decide), ?_⟩
  have h1 := w.fields_back 80 2 0
  simp only [build, (major_ME w _ _ _).1, build50, (major_ME w _ _ _).2, h1]

theorem stnr (w : ME) : Statement (.stnr w) := by
  intro _ fs h
  simp only [fieldsOf, Option.some.injEq] at h
  subst h
  refine ⟨w.fits _ _ _ (by decide) (by decide), ?_⟩
  have h1 := w.fields_back 80 3 0
  simp only [build, (major_ME w _ _ _).1, build50, (major_ME w _ _ _).2, h1]

theorem ldf (w : ME) : Statement (.ldf w) := by
  intro _ fs h
  simp only [fieldsOf, Option.some.injEq] at h
  subst h
  refine ⟨w.fits _ _ _ (by decide) (by decide), ?_⟩
  have h1 := w.fields_back 80 4 0
  simp only [build, (major_ME w _ _ _).1, build50, (major_ME w _ _ _).2, h1]

theorem stf (w : ME) : Statement (.stf w) := by
  intro _ fs h
  simp only [fieldsOf, Option.some.injEq] at h
  subst h
  refine ⟨w.fits _ _ _ (by decide) (by decide), ?_⟩
  have h1 := w.fields_back 80 5 0
  simp only [build, (major_ME w _ _ _).1, build50, (major_ME w _ _ _).2, h1]

theorem atomAdd (w : ME) : Statement (.atomAdd w) := by
  intro _ fs h
  simp only [fieldsOf, Option.some.injEq] at h
  subst h
  refine ⟨w.fits _ _ _ (by decide) (by decide), ?_⟩
  have h1 := w.fields_back 81 0 0
  simp only [build, (major_ME w _ _ _).1, build51, (major_ME w _ _ _).2, h1]

theorem atomMin (w : ME) : Statement (.atomMin w) := by
  intro _ fs h
  simp only [fieldsOf, Option.some.injEq] at h
  subst h
  refine ⟨w.fits _ _ _ (by decide) (by decide), ?_⟩
  have h1 := w.fields_back 81 1 0
  simp only [build, (major_ME w _ _ _).1, build51, (major_ME w _ _ _).2, h1]

theorem atomMax (w : ME) : Statement (.atomMax w) := by
  intro _ fs h
  simp only [fieldsOf, Option.some.injEq] at h
  subst h
  refine ⟨w.fits _ _ _ (by decide) (by decide), ?_⟩
  have h1 := w.fields_back 81 2 0
  simp only [build, (major_ME w _ _ _).1, build51, (major_ME w _ _ _).2, h1]

theorem atomAnd (w : ME) : Statement (.atomAnd w) := by
  intro _ fs h
  simp only [fieldsOf, Option.some.injEq] at h
  subst h
  refine ⟨w.fits _ _ _ (by decide) (by decide), ?_⟩
  have h1 := w.fields_back 81 3 0
  simp only [build, (major_ME w _ _ _).1, build51, (major_ME w _ _ _).2, h1]

theorem atomOr (w : ME) : Statement (.atomOr w) := by
  intro _ fs h
  simp only [fieldsOf, Option.some.injEq] at h
  subst h
  refine ⟨w.fits _ _ _ (by decide) (by decide), ?_⟩
  have h1 := w.fields_back 81 4 0
  simp only [build, (major_ME w _ _ _).1, build51, (major_ME w _ _ _).2, h1]

theorem atomXor (w : ME) : Statement (.atomXor w) := by
  intro _ fs h
  simp only [fieldsOf, Option.some.injEq] at h
  subst h
  refine ⟨w.fits _ _ _ (by decide) (by decide), ?_⟩
  have h1 := w.fields_back 81 5 0
  simp only [build, (major_ME w _ _ _).1, build51, (major_ME w _ _ _).2, h1]

theorem atomExch (w : ME) : Statement (.atomExch w) := by
  intro _ fs h
  simp only [fieldsOf, Option.some.injEq] at h
  subst h
  refine ⟨w.fits _ _ _ (by decide) (by decide), ?_⟩
  have h1 := w.fields_back 81 6 0
  simp only [build, (major_ME w _ _ _).1, build51, (major_ME w _ _ _).2, h1]

theorem atomCas (w : ME) : Statement (.atomCas w) := by
  intro _ fs h
  simp only [fieldsOf, Option.some.injEq] at h
  subst h
  refine ⟨w.fits _ _ _ (by decide) (by decide), ?_⟩
  have h1 := w.fields_back 81 7 0
  simp only [build, (major_ME w _ _ _).1, build51, (major_ME w _ _ _).2, h1]

theorem vatomAdd (w : ME) : Statement (.vatomAdd w) := by
  intro _ fs h
  simp only [fieldsOf, Option.some.injEq] at h
  subst h
  refine ⟨w.fits _ _ _ (by decide) (by decide), ?_⟩
  have h1 := w.fields_back 81 8 0
  simp only [build, (major_ME w _ _ _).1, build51, (major_ME w _ _ _).2, h1]

theorem waitAc (w : SY) : Statement (.waitAc w) := by
  intro _ fs h
  simp only [fieldsOf, Option.some.injEq] at h
  subst h
  refine ⟨w.fits _ _ _ (by decide) (by decide) (by decide), ?_⟩
  obtain ⟨h1, h2⟩ := w.fields_back 96 0 (0) (by omega)
  simp only [build, (major_SY w _ _ _).1, build60, (major_SY w _ _ _).2, h1, h2]

theorem waitAny (w : SY) : Statement (.waitAny w) := by
  intro _ fs h
  simp only [fieldsOf, Option.some.injEq] at h
  subst h
  refine ⟨w.fits _ _ _ (by decide) (by decide) (by decide), ?_⟩
  obtain ⟨h1, h2⟩ := w.fields_back 96 0 (1) (by omega)
  simp only [build, (major_SY w _ _ _).1, build60, (major_SY w _ _ _).2, h1, h2]

theorem waitAll (w : SY) : Statement (.waitAll w) := by
  intro _ fs h
  simp only [fieldsOf, Option.some.injEq] at h
  subst h
  refine ⟨w.fits _ _ _ (by decide) (by decide) (by decide), ?_⟩
  obtain ⟨h1, h2⟩ := w.fields_back 96 0 (2) (by omega)
  simp only [build, (major_SY w _ _ _).1, build60, (major_SY w _ _ _).2, h1, h2]

theorem waitBatch (w : SY) : Statement (.waitBatch w) := by
  intro _ fs h
  simp only [fieldsOf, Option.some.injEq] at h
  subst h
  refine ⟨w.fits _ _ _ (by decide) (by decide) (by decide), ?_⟩
  obtain ⟨h1, h2⟩ := w.fields_back 96 0 (3) (by omega)
  simp only [build, (major_SY w _ _ _).1, build60, (major_SY w _ _ _).2, h1, h2]

theorem waitSt (w : SY) : Statement (.waitSt w) := by
  intro _ fs h
  simp only [fieldsOf, Option.some.injEq] at h
  subst h
  refine ⟨w.fits _ _ _ (by decide) (by decide) (by decide), ?_⟩
  obtain ⟨h1, h2⟩ := w.fields_back 96 0 (4) (by omega)
  simp only [build, (major_SY w _ _ _).1, build60, (major_SY w _ _ _).2, h1, h2]

theorem ffr (w : SY) : Statement (.ffr w) := by
  intro _ fs h
  simp only [fieldsOf, Option.some.injEq] at h
  subst h
  refine ⟨w.fits _ _ _ (by decide) (by decide) (by decide), ?_⟩
  obtain ⟨h1, h2⟩ := w.fields_back 96 1 (0) (by omega)
  simp only [build, (major_SY w _ _ _).1, build60, (major_SY w _ _ _).2, h1, h2]

theorem fenceAcq (w : SY) : Statement (.fenceAcq w) := by
  intro _ fs h
  simp only [fieldsOf, Option.some.injEq] at h
  subst h
  refine ⟨w.fits _ _ _ (by decide) (by decide) (by decide), ?_⟩
  obtain ⟨h1, h2⟩ := w.fields_back 96 2 (1) (by omega)
  simp only [build, (major_SY w _ _ _).1, build60, (major_SY w _ _ _).2, h1, h2]

theorem fenceRel (w : SY) : Statement (.fenceRel w) := by
  intro _ fs h
  simp only [fieldsOf, Option.some.injEq] at h
  subst h
  refine ⟨w.fits _ _ _ (by decide) (by decide) (by decide), ?_⟩
  obtain ⟨h1, h2⟩ := w.fields_back 96 2 (2) (by omega)
  simp only [build, (major_SY w _ _ _).1, build60, (major_SY w _ _ _).2, h1, h2]

theorem fenceAcqrel (w : SY) : Statement (.fenceAcqrel w) := by
  intro _ fs h
  simp only [fieldsOf, Option.some.injEq] at h
  subst h
  refine ⟨w.fits _ _ _ (by decide) (by decide) (by decide), ?_⟩
  obtain ⟨h1, h2⟩ := w.fields_back 96 2 (3) (by omega)
  simp only [build, (major_SY w _ _ _).1, build60, (major_SY w _ _ _).2, h1, h2]

theorem publish (w : SY) : Statement (.publish w) := by
  intro _ fs h
  simp only [fieldsOf, Option.some.injEq] at h
  subst h
  refine ⟨w.fits _ _ _ (by decide) (by decide) (by decide), ?_⟩
  obtain ⟨h1, h2⟩ := w.fields_back 96 3 (0) (by omega)
  simp only [build, (major_SY w _ _ _).1, build60, (major_SY w _ _ _).2, h1, h2]

theorem acrd (w : SY) : Statement (.acrd w) := by
  intro _ fs h
  simp only [fieldsOf, Option.some.injEq] at h
  subst h
  refine ⟨w.fits _ _ _ (by decide) (by decide) (by decide), ?_⟩
  obtain ⟨h1, h2⟩ := w.fields_back 96 4 (0) (by omega)
  simp only [build, (major_SY w _ _ _).1, build60, (major_SY w _ _ _).2, h1, h2]

theorem acwr (w : SY) : Statement (.acwr w) := by
  intro _ fs h
  simp only [fieldsOf, Option.some.injEq] at h
  subst h
  refine ⟨w.fits _ _ _ (by decide) (by decide) (by decide), ?_⟩
  obtain ⟨h1, h2⟩ := w.fields_back 96 5 (0) (by omega)
  simp only [build, (major_SY w _ _ _).1, build60, (major_SY w _ _ _).2, h1, h2]

theorem cp (w : EN) : Statement (.cp w) := by
  intro _ fs h
  simp only [fieldsOf, Option.some.injEq] at h
  subst h
  refine ⟨w.fits _ _ _ (by decide) (by decide), ?_⟩
  have h1 := w.fields_back 104 0 0
  simp only [build, (major_EN w _ _ _).1, build68, (major_EN w _ _ _).2, h1]

theorem cpfill (w : EN) : Statement (.cpfill w) := by
  intro _ fs h
  simp only [fieldsOf, Option.some.injEq] at h
  subst h
  refine ⟨w.fits _ _ _ (by decide) (by decide), ?_⟩
  have h1 := w.fields_back 104 1 0
  simp only [build, (major_EN w _ _ _).1, build68, (major_EN w _ _ _).2, h1]

theorem cpd (w : EN) : Statement (.cpd w) := by
  intro _ fs h
  simp only [fieldsOf, Option.some.injEq] at h
  subst h
  refine ⟨w.fits _ _ _ (by decide) (by decide), ?_⟩
  have h1 := w.fields_back 104 2 0
  simp only [build, (major_EN w _ _ _).1, build68, (major_EN w _ _ _).2, h1]

theorem tagst (w : EN) : Statement (.tagst w) := by
  intro _ fs h
  simp only [fieldsOf, Option.some.injEq] at h
  subst h
  refine ⟨w.fits _ _ _ (by decide) (by decide), ?_⟩
  have h1 := w.fields_back 104 3 0
  simp only [build, (major_EN w _ _ _).1, build68, (major_EN w _ _ _).2, h1]

theorem tagclr (w : EN) : Statement (.tagclr w) := by
  intro _ fs h
  simp only [fieldsOf, Option.some.injEq] at h
  subst h
  refine ⟨w.fits _ _ _ (by decide) (by decide), ?_⟩
  have h1 := w.fields_back 104 4 0
  simp only [build, (major_EN w _ _ _).1, build68, (major_EN w _ _ _).2, h1]

theorem qpush (w : EN) : Statement (.qpush w) := by
  intro _ fs h
  simp only [fieldsOf, Option.some.injEq] at h
  subst h
  refine ⟨w.fits _ _ _ (by decide) (by decide), ?_⟩
  have h1 := w.fields_back 112 0 0
  simp only [build, (major_EN w _ _ _).1, build70, (major_EN w _ _ _).2, h1]

theorem qpop (w : EN) : Statement (.qpop w) := by
  intro _ fs h
  simp only [fieldsOf, Option.some.injEq] at h
  subst h
  refine ⟨w.fits _ _ _ (by decide) (by decide), ?_⟩
  have h1 := w.fields_back 112 1 0
  simp only [build, (major_EN w _ _ _).1, build70, (major_EN w _ _ _).2, h1]

theorem qstat (w : EN) : Statement (.qstat w) := by
  intro _ fs h
  simp only [fieldsOf, Option.some.injEq] at h
  subst h
  refine ⟨w.fits _ _ _ (by decide) (by decide), ?_⟩
  have h1 := w.fields_back 112 2 0
  simp only [build, (major_EN w _ _ _).1, build70, (major_EN w _ _ _).2, h1]

theorem qbase (w : EN) : Statement (.qbase w) := by
  intro _ fs h
  simp only [fieldsOf, Option.some.injEq] at h
  subst h
  refine ⟨w.fits _ _ _ (by decide) (by decide), ?_⟩
  have h1 := w.fields_back 112 3 0
  simp only [build, (major_EN w _ _ _).1, build70, (major_EN w _ _ _).2, h1]

theorem barinit (w : EN) : Statement (.barinit w) := by
  intro _ fs h
  simp only [fieldsOf, Option.some.injEq] at h
  subst h
  refine ⟨w.fits _ _ _ (by decide) (by decide), ?_⟩
  have h1 := w.fields_back 112 4 0
  simp only [build, (major_EN w _ _ _).1, build70, (major_EN w _ _ _).2, h1]

theorem bara (w : EN) : Statement (.bara w) := by
  intro _ fs h
  simp only [fieldsOf, Option.some.injEq] at h
  subst h
  refine ⟨w.fits _ _ _ (by decide) (by decide), ?_⟩
  have h1 := w.fields_back 112 5 0
  simp only [build, (major_EN w _ _ _).1, build70, (major_EN w _ _ _).2, h1]

theorem barw (w : EN) : Statement (.barw w) := by
  intro _ fs h
  simp only [fieldsOf, Option.some.injEq] at h
  subst h
  refine ⟨w.fits _ _ _ (by decide) (by decide), ?_⟩
  have h1 := w.fields_back 112 6 0
  simp only [build, (major_EN w _ _ _).1, build70, (major_EN w _ _ _).2, h1]

theorem barrd (w : EN) : Statement (.barrd w) := by
  intro _ fs h
  simp only [fieldsOf, Option.some.injEq] at h
  subst h
  refine ⟨w.fits _ _ _ (by decide) (by decide), ?_⟩
  have h1 := w.fields_back 112 7 0
  simp only [build, (major_EN w _ _ _).1, build70, (major_EN w _ _ _).2, h1]

theorem barb (w : EN) : Statement (.barb w) := by
  intro _ fs h
  simp only [fieldsOf, Option.some.injEq] at h
  subst h
  refine ⟨w.fits _ _ _ (by decide) (by decide), ?_⟩
  have h1 := w.fields_back 112 8 0
  simp only [build, (major_EN w _ _ _).1, build70, (major_EN w _ _ _).2, h1]

theorem gset (w : EN) : Statement (.gset w) := by
  intro _ fs h
  simp only [fieldsOf, Option.some.injEq] at h
  subst h
  refine ⟨w.fits _ _ _ (by decide) (by decide), ?_⟩
  have h1 := w.fields_back 120 0 0
  simp only [build, (major_EN w _ _ _).1, build78, (major_EN w _ _ _).2, h1]

theorem gmod (w : EN) : Statement (.gmod w) := by
  intro _ fs h
  simp only [fieldsOf, Option.some.injEq] at h
  subst h
  refine ⟨w.fits _ _ _ (by decide) (by decide), ?_⟩
  have h1 := w.fields_back 120 1 0
  simp only [build, (major_EN w _ _ _).1, build78, (major_EN w _ _ _).2, h1]

theorem ginv (w : EN) : Statement (.ginv w) := by
  intro _ fs h
  simp only [fieldsOf, Option.some.injEq] at h
  subst h
  refine ⟨w.fits _ _ _ (by decide) (by decide), ?_⟩
  have h1 := w.fields_back 120 2 0
  simp only [build, (major_EN w _ _ _).1, build78, (major_EN w _ _ _).2, h1]

theorem mma (w : EN) : Statement (.mma w) := by
  intro _ fs h
  simp only [fieldsOf, Option.some.injEq] at h
  subst h
  refine ⟨w.fits _ _ _ (by decide) (by decide), ?_⟩
  have h1 := w.fields_back 120 3 0
  simp only [build, (major_EN w _ _ _).1, build78, (major_EN w _ _ _).2, h1]

theorem mmfence (w : EN) : Statement (.mmfence w) := by
  intro _ fs h
  simp only [fieldsOf, Option.some.injEq] at h
  subst h
  refine ⟨w.fits _ _ _ (by decide) (by decide), ?_⟩
  have h1 := w.fields_back 120 4 0
  simp only [build, (major_EN w _ _ _).1, build78, (major_EN w _ _ _).2, h1]

theorem mmconv (w : CV) : Statement (.mmconv w) := by
  intro _ fs h
  simp only [fieldsOf, Option.some.injEq] at h
  subst h
  refine ⟨w.fits _ _ _ (by decide) (by decide), ?_⟩
  have h1 := w.fields_back 120 5 0
  simp only [build, (major_CV w _ _ _).1, build78, (major_CV w _ _ _).2, h1]

theorem mmrd (w : EN) : Statement (.mmrd w) := by
  intro _ fs h
  simp only [fieldsOf, Option.some.injEq] at h
  subst h
  refine ⟨w.fits _ _ _ (by decide) (by decide), ?_⟩
  have h1 := w.fields_back 120 6 0
  simp only [build, (major_EN w _ _ _).1, build78, (major_EN w _ _ _).2, h1]

theorem mmwr (w : EN) : Statement (.mmwr w) := by
  intro _ fs h
  simp only [fieldsOf, Option.some.injEq] at h
  subst h
  refine ⟨w.fits _ _ _ (by decide) (by decide), ?_⟩
  have h1 := w.fields_back 120 7 0
  simp only [build, (major_EN w _ _ _).1, build78, (major_EN w _ _ _).2, h1]

theorem gget (w : EN) : Statement (.gget w) := by
  intro _ fs h
  simp only [fieldsOf, Option.some.injEq] at h
  subst h
  refine ⟨w.fits _ _ _ (by decide) (by decide), ?_⟩
  have h1 := w.fields_back 120 8 0
  simp only [build, (major_EN w _ _ _).1, build78, (major_EN w _ _ _).2, h1]

theorem mmstat (w : EN) : Statement (.mmstat w) := by
  intro _ fs h
  simp only [fieldsOf, Option.some.injEq] at h
  subst h
  refine ⟨w.fits _ _ _ (by decide) (by decide), ?_⟩
  have h1 := w.fields_back 120 9 0
  simp only [build, (major_EN w _ _ _).1, build78, (major_EN w _ _ _).2, h1]

theorem redAdd (w : ME) : Statement (.redAdd w) := by
  intro _ fs h
  simp only [fieldsOf, Option.some.injEq] at h
  subst h
  refine ⟨w.fits _ _ _ (by decide) (by decide), ?_⟩
  have h1 := w.fields_back 128 0 0
  simp only [build, (major_ME w _ _ _).1, build80, (major_ME w _ _ _).2, h1]

theorem redMin (w : ME) : Statement (.redMin w) := by
  intro _ fs h
  simp only [fieldsOf, Option.some.injEq] at h
  subst h
  refine ⟨w.fits _ _ _ (by decide) (by decide), ?_⟩
  have h1 := w.fields_back 128 1 0
  simp only [build, (major_ME w _ _ _).1, build80, (major_ME w _ _ _).2, h1]

theorem redMax (w : ME) : Statement (.redMax w) := by
  intro _ fs h
  simp only [fieldsOf, Option.some.injEq] at h
  subst h
  refine ⟨w.fits _ _ _ (by decide) (by decide), ?_⟩
  have h1 := w.fields_back 128 2 0
  simp only [build, (major_ME w _ _ _).1, build80, (major_ME w _ _ _).2, h1]

theorem rput (w : EN) : Statement (.rput w) := by
  intro _ fs h
  simp only [fieldsOf, Option.some.injEq] at h
  subst h
  refine ⟨w.fits _ _ _ (by decide) (by decide), ?_⟩
  have h1 := w.fields_back 129 0 0
  simp only [build, (major_EN w _ _ _).1, build81, (major_EN w _ _ _).2, h1]

theorem rget (w : EN) : Statement (.rget w) := by
  intro _ fs h
  simp only [fieldsOf, Option.some.injEq] at h
  subst h
  refine ⟨w.fits _ _ _ (by decide) (by decide), ?_⟩
  have h1 := w.fields_back 129 1 0
  simp only [build, (major_EN w _ _ _).1, build81, (major_EN w _ _ _).2, h1]

theorem gath (w : EN) : Statement (.gath w) := by
  intro _ fs h
  simp only [fieldsOf, Option.some.injEq] at h
  subst h
  refine ⟨w.fits _ _ _ (by decide) (by decide), ?_⟩
  have h1 := w.fields_back 129 2 0
  simp only [build, (major_EN w _ _ _).1, build81, (major_EN w _ _ _).2, h1]

theorem publishShadow (w : EN) : Statement (.publishShadow w) := by
  intro _ fs h
  simp only [fieldsOf, Option.some.injEq] at h
  subst h
  refine ⟨w.fits _ _ _ (by decide) (by decide), ?_⟩
  have h1 := w.fields_back 129 3 0
  simp only [build, (major_EN w _ _ _).1, build81, (major_EN w _ _ _).2, h1]

theorem pcarm (w : EN) : Statement (.pcarm w) := by
  intro _ fs h
  simp only [fieldsOf, Option.some.injEq] at h
  subst h
  refine ⟨w.fits _ _ _ (by decide) (by decide), ?_⟩
  have h1 := w.fields_back 129 4 0
  simp only [build, (major_EN w _ _ _).1, build81, (major_EN w _ _ _).2, h1]

theorem pcrd (w : EN) : Statement (.pcrd w) := by
  intro _ fs h
  simp only [fieldsOf, Option.some.injEq] at h
  subst h
  refine ⟨w.fits _ _ _ (by decide) (by decide), ?_⟩
  have h1 := w.fields_back 129 5 0
  simp only [build, (major_EN w _ _ _).1, build81, (major_EN w _ _ _).2, h1]

theorem pcadd (w : EN) : Statement (.pcadd w) := by
  intro _ fs h
  simp only [fieldsOf, Option.some.injEq] at h
  subst h
  refine ⟨w.fits _ _ _ (by decide) (by decide), ?_⟩
  have h1 := w.fields_back 129 6 0
  simp only [build, (major_EN w _ _ _).1, build81, (major_EN w _ _ _).2, h1]

theorem genst (w : EN) : Statement (.genst w) := by
  intro _ fs h
  simp only [fieldsOf, Option.some.injEq] at h
  subst h
  refine ⟨w.fits _ _ _ (by decide) (by decide), ?_⟩
  have h1 := w.fields_back 129 7 0
  simp only [build, (major_EN w _ _ _).1, build81, (major_EN w _ _ _).2, h1]

theorem genrd (w : EN) : Statement (.genrd w) := by
  intro _ fs h
  simp only [fieldsOf, Option.some.injEq] at h
  subst h
  refine ⟨w.fits _ _ _ (by decide) (by decide), ?_⟩
  have h1 := w.fields_back 129 8 0
  simp only [build, (major_EN w _ _ _).1, build81, (major_EN w _ _ _).2, h1]

theorem fabst (w : EN) : Statement (.fabst w) := by
  intro _ fs h
  simp only [fieldsOf, Option.some.injEq] at h
  subst h
  refine ⟨w.fits _ _ _ (by decide) (by decide), ?_⟩
  have h1 := w.fields_back 129 9 0
  simp only [build, (major_EN w _ _ _).1, build81, (major_EN w _ _ _).2, h1]

theorem trap (w : SY) : Statement (.trap w) := by
  intro _ fs h
  simp only [fieldsOf, Option.some.injEq] at h
  subst h
  refine ⟨w.fits _ _ _ (by decide) (by decide) (by decide), ?_⟩
  obtain ⟨h1, h2⟩ := w.fields_back 144 0 (0) (by omega)
  simp only [build, (major_SY w _ _ _).1, build90, (major_SY w _ _ _).2, h1, h2]

theorem tinfo (f : BitVec 3) (w : SY) : Statement (.tinfo f w) := by
  intro _ fs h
  have hf := f.isLt
  simp only [fieldsOf, Option.some.injEq] at h
  subst h
  refine ⟨w.fits _ _ _ (by decide) (by decide) (by omega), ?_⟩
  obtain ⟨h1, h2⟩ := w.fields_back 144 1 (f.toNat) (by omega)
  have f_back : BitVec.ofNat 3 (fld (f.toNat) 0 3) = f := by apply BitVec.eq_of_toNat_eq; simp only [fld, BitVec.toNat_ofNat]; omega
  simp only [build, (major_SY w _ _ _).1, build90, (major_SY w _ _ _).2, h1, h2, f_back]

theorem rte (w : SY) : Statement (.rte w) := by
  intro _ fs h
  simp only [fieldsOf, Option.some.injEq] at h
  subst h
  refine ⟨w.fits _ _ _ (by decide) (by decide) (by decide), ?_⟩
  obtain ⟨h1, h2⟩ := w.fields_back 144 2 (0) (by omega)
  simp only [build, (major_SY w _ _ _).1, build90, (major_SY w _ _ _).2, h1, h2]

theorem rteSkip (w : SY) : Statement (.rteSkip w) := by
  intro _ fs h
  simp only [fieldsOf, Option.some.injEq] at h
  subst h
  refine ⟨w.fits _ _ _ (by decide) (by decide) (by decide), ?_⟩
  obtain ⟨h1, h2⟩ := w.fields_back 144 2 (1) (by omega)
  simp only [build, (major_SY w _ _ _).1, build90, (major_SY w _ _ _).2, h1, h2]

theorem save (w : SY) : Statement (.save w) := by
  intro _ fs h
  simp only [fieldsOf, Option.some.injEq] at h
  subst h
  refine ⟨w.fits _ _ _ (by decide) (by decide) (by decide), ?_⟩
  obtain ⟨h1, h2⟩ := w.fields_back 144 3 (0) (by omega)
  simp only [build, (major_SY w _ _ _).1, build90, (major_SY w _ _ _).2, h1, h2]

theorem yield (w : SY) : Statement (.yield w) := by
  intro _ fs h
  simp only [fieldsOf, Option.some.injEq] at h
  subst h
  refine ⟨w.fits _ _ _ (by decide) (by decide) (by decide), ?_⟩
  obtain ⟨h1, h2⟩ := w.fields_back 144 4 (0) (by omega)
  simp only [build, (major_SY w _ _ _).1, build90, (major_SY w _ _ _).2, h1, h2]

theorem launch (w : SY) : Statement (.launch w) := by
  intro _ fs h
  simp only [fieldsOf, Option.some.injEq] at h
  subst h
  refine ⟨w.fits _ _ _ (by decide) (by decide) (by decide), ?_⟩
  obtain ⟨h1, h2⟩ := w.fields_back 144 5 (0) (by omega)
  simp only [build, (major_SY w _ _ _).1, build90, (major_SY w _ _ _).2, h1, h2]

theorem tpost (w : SY) : Statement (.tpost w) := by
  intro _ fs h
  simp only [fieldsOf, Option.some.injEq] at h
  subst h
  refine ⟨w.fits _ _ _ (by decide) (by decide) (by decide), ?_⟩
  obtain ⟨h1, h2⟩ := w.fields_back 144 6 (0) (by omega)
  simp only [build, (major_SY w _ _ _).1, build90, (major_SY w _ _ _).2, h1, h2]

theorem tfence (w : SY) : Statement (.tfence w) := by
  intro _ fs h
  simp only [fieldsOf, Option.some.injEq] at h
  subst h
  refine ⟨w.fits _ _ _ (by decide) (by decide) (by decide), ?_⟩
  obtain ⟨h1, h2⟩ := w.fields_back 144 7 (0) (by omega)
  simp only [build, (major_SY w _ _ _).1, build90, (major_SY w _ _ _).2, h1, h2]

theorem icinv (w : SY) : Statement (.icinv w) := by
  intro _ fs h
  simp only [fieldsOf, Option.some.injEq] at h
  subst h
  refine ⟨w.fits _ _ _ (by decide) (by decide) (by decide), ?_⟩
  obtain ⟨h1, h2⟩ := w.fields_back 144 7 (1) (by omega)
  simp only [build, (major_SY w _ _ _).1, build90, (major_SY w _ _ _).2, h1, h2]

theorem quiesce (w : SY) : Statement (.quiesce w) := by
  intro _ fs h
  simp only [fieldsOf, Option.some.injEq] at h
  subst h
  refine ⟨w.fits _ _ _ (by decide) (by decide) (by decide), ?_⟩
  obtain ⟨h1, h2⟩ := w.fields_back 144 8 (0) (by omega)
  simp only [build, (major_SY w _ _ _).1, build90, (major_SY w _ _ _).2, h1, h2]

theorem graceWait (w : SY) : Statement (.graceWait w) := by
  intro _ fs h
  simp only [fieldsOf, Option.some.injEq] at h
  subst h
  refine ⟨w.fits _ _ _ (by decide) (by decide) (by decide), ?_⟩
  obtain ⟨h1, h2⟩ := w.fields_back 144 9 (0) (by omega)
  simp only [build, (major_SY w _ _ _).1, build90, (major_SY w _ _ _).2, h1, h2]

theorem dfree (w : SY) : Statement (.dfree w) := by
  intro _ fs h
  simp only [fieldsOf, Option.some.injEq] at h
  subst h
  refine ⟨w.fits _ _ _ (by decide) (by decide) (by decide), ?_⟩
  obtain ⟨h1, h2⟩ := w.fields_back 144 10 (0) (by omega)
  simp only [build, (major_SY w _ _ _).1, build90, (major_SY w _ _ _).2, h1, h2]

theorem gracest (w : SY) : Statement (.gracest w) := by
  intro _ fs h
  simp only [fieldsOf, Option.some.injEq] at h
  subst h
  refine ⟨w.fits _ _ _ (by decide) (by decide) (by decide), ?_⟩
  obtain ⟨h1, h2⟩ := w.fields_back 144 11 (0) (by omega)
  simp only [build, (major_SY w _ _ _).1, build90, (major_SY w _ _ _).2, h1, h2]

theorem tmark (w : IM) : Statement (.tmark w) := by
  intro _ fs h
  simp only [fieldsOf, Option.some.injEq] at h
  subst h
  refine ⟨w.fits _ _ _ (by decide) (by decide) (by decide), ?_⟩
  obtain ⟨h1, h2⟩ := w.fields_back 152 0 (0) (by omega)
  simp only [build, (major_IM w _ _ _).1, build98, (major_IM w _ _ _).2, h1, h2]

theorem temit (w : IM) : Statement (.temit w) := by
  intro _ fs h
  simp only [fieldsOf, Option.some.injEq] at h
  subst h
  refine ⟨w.fits _ _ _ (by decide) (by decide) (by decide), ?_⟩
  obtain ⟨h1, h2⟩ := w.fields_back 152 1 (0) (by omega)
  simp only [build, (major_IM w _ _ _).1, build98, (major_IM w _ _ _).2, h1, h2]

theorem trcdis (w : IM) : Statement (.trcdis w) := by
  intro _ fs h
  simp only [fieldsOf, Option.some.injEq] at h
  subst h
  refine ⟨w.fits _ _ _ (by decide) (by decide) (by decide), ?_⟩
  obtain ⟨h1, h2⟩ := w.fields_back 152 2 (0) (by omega)
  simp only [build, (major_IM w _ _ _).1, build98, (major_IM w _ _ _).2, h1, h2]

theorem trcen (w : IM) : Statement (.trcen w) := by
  intro _ fs h
  simp only [fieldsOf, Option.some.injEq] at h
  subst h
  refine ⟨w.fits _ _ _ (by decide) (by decide) (by decide), ?_⟩
  obtain ⟨h1, h2⟩ := w.fields_back 152 2 (1) (by omega)
  simp only [build, (major_IM w _ _ _).1, build98, (major_IM w _ _ _).2, h1, h2]

theorem bkpt (w : IM) : Statement (.bkpt w) := by
  intro _ fs h
  simp only [fieldsOf, Option.some.injEq] at h
  subst h
  refine ⟨w.fits _ _ _ (by decide) (by decide) (by decide), ?_⟩
  obtain ⟨h1, h2⟩ := w.fields_back 152 3 (0) (by omega)
  simp only [build, (major_IM w _ _ _).1, build98, (major_IM w _ _ _).2, h1, h2]

theorem trcst (w : IM) : Statement (.trcst w) := by
  intro _ fs h
  simp only [fieldsOf, Option.some.injEq] at h
  subst h
  refine ⟨w.fits _ _ _ (by decide) (by decide) (by decide), ?_⟩
  obtain ⟨h1, h2⟩ := w.fields_back 152 4 (0) (by omega)
  simp only [build, (major_IM w _ _ _).1, build98, (major_IM w _ _ _).2, h1, h2]

theorem tflush (w : IM) : Statement (.tflush w) := by
  intro _ fs h
  simp only [fieldsOf, Option.some.injEq] at h
  subst h
  refine ⟨w.fits _ _ _ (by decide) (by decide) (by decide), ?_⟩
  obtain ⟨h1, h2⟩ := w.fields_back 152 5 (0) (by omega)
  simp only [build, (major_IM w _ _ _).1, build98, (major_IM w _ _ _).2, h1, h2]

theorem illegal (r n maj mi : Nat) : Statement (.illegal r n maj mi) := fun _ _ h => nomatch h
theorem offsetComplete : Statement .offsetComplete := fun _ _ h => nomatch h
theorem mod3Retry : Statement .mod3Retry := fun _ _ h => nomatch h
theorem handlerEligible : Statement .handlerEligible := fun _ _ h => nomatch h
theorem farAccessAtHome : Statement .farAccessAtHome := fun _ _ h => nomatch h
theorem farLoadLand : Statement .farLoadLand := fun _ _ h => nomatch h
theorem storeAck : Statement .storeAck := fun _ _ h => nomatch h
theorem groupUnblocked : Statement .groupUnblocked := fun _ _ h => nomatch h
theorem groupEnd : Statement .groupEnd := fun _ _ h => nomatch h
theorem copySectorComplete : Statement .copySectorComplete := fun _ _ h => nomatch h
theorem skeinReserve : Statement .skeinReserve := fun _ _ h => nomatch h
theorem entryPoppable : Statement .entryPoppable := fun _ _ h => nomatch h
theorem skeinTake : Statement .skeinTake := fun _ _ h => nomatch h
theorem qpopData : Statement .qpopData := fun _ _ h => nomatch h
theorem allowanceRise : Statement .allowanceRise := fun _ _ h => nomatch h
theorem baraArrival : Statement .baraArrival := fun _ _ h => nomatch h
theorem blockBarrierComplete : Statement .blockBarrierComplete := fun _ _ h => nomatch h
theorem publishVersionAdvance : Statement .publishVersionAdvance := fun _ _ h => nomatch h
theorem matrixStart : Statement .matrixStart := fun _ _ h => nomatch h
theorem mmaRowStep : Statement .mmaRowStep := fun _ _ h => nomatch h
theorem mmaComplete : Statement .mmaComplete := fun _ _ h => nomatch h
theorem mmconvComplete : Statement .mmconvComplete := fun _ _ h => nomatch h
theorem batchComplete : Statement .batchComplete := fun _ _ h => nomatch h
theorem matrixFaultWait : Statement .matrixFaultWait := fun _ _ h => nomatch h
theorem sample : Statement .sample := fun _ _ h => nomatch h
theorem markerTimeout : Statement .markerTimeout := fun _ _ h => nomatch h
theorem traceDrain : Statement .traceDrain := fun _ _ h => nomatch h
theorem dropped : Statement .dropped := fun _ _ h => nomatch h
theorem trcctlWrite : Statement .trcctlWrite := fun _ _ h => nomatch h
theorem dbgcmdRelease : Statement .dbgcmdRelease := fun _ _ h => nomatch h
theorem dbgcmdReleaseAll : Statement .dbgcmdReleaseAll := fun _ _ h => nomatch h
theorem qtailDoorbell : Statement .qtailDoorbell := fun _ _ h => nomatch h
theorem qctlWrite : Statement .qctlWrite := fun _ _ h => nomatch h
theorem recordAdmission : Statement .recordAdmission := fun _ _ h => nomatch h
theorem blockPlace : Statement .blockPlace := fun _ _ h => nomatch h
theorem queueAging : Statement .queueAging := fun _ _ h => nomatch h
theorem blockEnd : Statement .blockEnd := fun _ _ h => nomatch h
theorem dependenceTagReady : Statement .dependenceTagReady := fun _ _ h => nomatch h
theorem launchComplete : Statement .launchComplete := fun _ _ h => nomatch h
theorem taskTake : Statement .taskTake := fun _ _ h => nomatch h
theorem preemptRaise : Statement .preemptRaise := fun _ _ h => nomatch h
theorem forcedSave : Statement .forcedSave := fun _ _ h => nomatch h
theorem groupLeave : Statement .groupLeave := fun _ _ h => nomatch h
theorem restore : Statement .restore := fun _ _ h => nomatch h
theorem pageWalk : Statement .pageWalk := fun _ _ h => nomatch h
theorem faultEntryWrite : Statement .faultEntryWrite := fun _ _ h => nomatch h
theorem fqackRetry : Statement .fqackRetry := fun _ _ h => nomatch h
theorem fqackNomem : Statement .fqackNomem := fun _ _ h => nomatch h
theorem fqackKilled : Statement .fqackKilled := fun _ _ h => nomatch h
theorem xlinv : Statement .xlinv := fun _ _ h => nomatch h
theorem fqctlWrite : Statement .fqctlWrite := fun _ _ h => nomatch h
theorem icinvComplete : Statement .icinvComplete := fun _ _ h => nomatch h
theorem packetSend : Statement .packetSend := fun _ _ h => nomatch h
theorem packetPlace : Statement .packetPlace := fun _ _ h => nomatch h
theorem packetAck : Statement .packetAck := fun _ _ h => nomatch h
theorem rtoExpiry : Statement .rtoExpiry := fun _ _ h => nomatch h
theorem pcarmComplete : Statement .pcarmComplete := fun _ _ h => nomatch h
theorem gatherComplete : Statement .gatherComplete := fun _ _ h => nomatch h
theorem planeFail : Statement .planeFail := fun _ _ h => nomatch h
theorem rtfill : Statement .rtfill := fun _ _ h => nomatch h
theorem rtmiss : Statement .rtmiss := fun _ _ h => nomatch h
theorem jobctlWrite : Statement .jobctlWrite := fun _ _ h => nomatch h
theorem regionValid : Statement .regionValid := fun _ _ h => nomatch h
theorem torusPortDown : Statement .torusPortDown := fun _ _ h => nomatch h
theorem verbaseWrite : Statement .verbaseWrite := fun _ _ h => nomatch h
theorem hostAccess : Statement .hostAccess := fun _ _ h => nomatch h
theorem graceElapse : Statement .graceElapse := fun _ _ h => nomatch h
theorem castoffReturn : Statement .castoffReturn := fun _ _ h => nomatch h
theorem dfreeAppend : Statement .dfreeAppend := fun _ _ h => nomatch h
theorem cut : Statement .cut := fun _ _ h => nomatch h
theorem llctlNow : Statement .llctlNow := fun _ _ h => nomatch h
theorem llctlEn : Statement .llctlEn := fun _ _ h => nomatch h
theorem llseal : Statement .llseal := fun _ _ h => nomatch h
theorem sealCut : Statement .sealCut := fun _ _ h => nomatch h
theorem logDrain : Statement .logDrain := fun _ _ h => nomatch h
theorem llrep : Statement .llrep := fun _ _ h => nomatch h
theorem replayEnd : Statement .replayEnd := fun _ _ h => nomatch h
theorem scrub : Statement .scrub := fun _ _ h => nomatch h
theorem tileoffWrite : Statement .tileoffWrite := fun _ _ h => nomatch h
theorem cecntRead : Statement .cecntRead := fun _ _ h => nomatch h
theorem errlostRead : Statement .errlostRead := fun _ _ h => nomatch h
theorem errctlWrite : Statement .errctlWrite := fun _ _ h => nomatch h
theorem powerRound : Statement .powerRound := fun _ _ h => nomatch h
theorem throttle : Statement .throttle := fun _ _ h => nomatch h
theorem pwrctlWrite : Statement .pwrctlWrite := fun _ _ h => nomatch h
theorem hbmRequest : Statement .hbmRequest := fun _ _ h => nomatch h
theorem idlePrecharge : Statement .idlePrecharge := fun _ _ h => nomatch h
theorem refresh : Statement .refresh := fun _ _ h => nomatch h
theorem coldReset : Statement .coldReset := fun _ _ h => nomatch h
theorem warmReset : Statement .warmReset := fun _ _ h => nomatch h
theorem registerWrite : Statement .registerWrite := fun _ _ h => nomatch h
theorem instructionFetch : Statement .instructionFetch := fun _ _ h => nomatch h
theorem softError : Statement .softError := fun _ _ h => nomatch h
theorem serviceCoreStore : Statement .serviceCoreStore := fun _ _ h => nomatch h

end Sys2Proof.Laws.Encoding
end

