-- ==== Sys2Proof/Tests/Slice0.lean ====
section
/-! SUPPORT. Small tests of the model: the words the manual writes out, one refused term for each check, one step of each family with the result
the manual's rules give, and for each statement states and operands that meet its premises. -/

namespace Sys2Proof.Tests
open Sys2Proof Sys2Proof.Machine Sys2Proof.Claims

set_option Elab.async false

/-! ### What the tests are made of -/

def hd0 : Hd := { gneg := false, gp := 0, delay := 0, yield := false, lasta := false, lastb := false, pair := false, common := false }
def o0 : Opnd := .v 0
def r3 (d a b : Opnd) (ty : Ty) (sat : Bool := false) : R3 := { hd := hd0, d := d, a := a, b := b, ty := ty, rm := .rne, sat := sat }
def im (d a : Opnd) (ty : Ty) (n : BitVec 24) : IM := { hd := hd0, d := d, a := a, b := o0, ty := ty, rm := .rne, imm := n }
def br (d a b : Opnd) (n : BitVec 24) : BR := { hd := hd0, d := d, a := a, b := b, ty := .none, disp := n }
def fu (d a b c : Opnd) (ty : Ty) : FU := { hd := hd0, d := d, a := a, b := b, c := c, ty := ty, rm := .rne, sat := false }
def cv (d a b : Opnd) (ty dty : Ty) : CV := { hd := hd0, d := d, a := a, b := b, ty := ty, rm := .rne, sat := false, dty := dty, scale := 0 }
def me (d a b : Opnd) (ty : Ty) (scope : Scope) (ac : BitVec 4) (order : Ord) (ofs : BitVec 20) : ME :=
  { hd := hd0, d := d, a := a, b := b, ty := ty, scope := scope, ac := ac, glob := false, order := order, ofs := ofs }
def sy (d a b : Opnd) (scope : Scope) (n : BitVec 24) : SY := { hd := hd0, d := d, a := a, b := b, ty := .none, scope := scope, imm := n }
def en (d a b : Opnd) (ty : Ty) (tag : BitVec 6) (ix : BitVec 4) (scope : Scope) (n : BitVec 17) : EN :=
  { hd := hd0, d := d, a := a, b := b, ty := ty, tag := tag, index := ix, scope := scope, param := n }

/-- A valid gauge record: one row by one column, one step, A and B from virtual address 8 GiB. -/
def dgauge : Gauge :=
  { valid := true, inuse := 0, m := 1, n := 1, steps := 1, bord := 0, abase := 0x200000000, bbase := 0x200000000, astride := 64, bstride := 64, cstride := 16, cexp := 0 }

/-- A group of block 0 with a handler at offset 1: v1 holds 250, 100 and then 3, v2 the lane times 4, v4 the floating-point numbers 1 and then 2, v5 twos; p1 holds lanes 0
and 2; the scalars hold numbers, near addresses (s10, s15 to s19) and addresses of the page (s11, s13, and s21 the same page of rank 1); gauge record 1 is valid. -/
def dg : Group :=
  { newGroup { Env.blank with planes := 8, handler := 1 } [(4, 100), (5, 7), (6, 0), (7, 0x8000000000000000), (8, 0xFFFFFFFFFFFFFFFF), (10, 0x400),
      (11, 0x200000000), (12, 0x1000), (13, 0x200001000), (14, 3), (15, 0x500), (16, 0x7EFFF8), (17, 0x7EFF00), (18, 0x600), (19, 0x700), (20, 64), (21, 0x8000420000000000)] with
    v := [(1, 250 :: 100 :: List.replicate 62 3), (2, (List.range 64).map (fun l => BitVec.ofNat 32 (4 * l))), (4, 0x3F800000 :: List.replicate 63 0x40000000),
      (5, List.replicate 64 2)]
    p := [(1, 5)]
    gauges := [(1, dgauge)] }

/-- The block of the demo group, on tile 0. -/
def db : Block :=
  { job := 1, ctx := 0, linear := 0, hdr := 0, decls := [], epoch := -1, launch := 0, tiles := [0], bases := [0], keys := [some 0], gone := [], arrived := [],
    tagBases := [0], accBases := [0], needs := [], early := false, raised := none, slot := 0, out := false, accDue := false, saved := [], otags := [],
    orecs := [], oskeins := [], owed := [] }

/-- A machine with the one group, its block, one page of HBM4 at virtual address 8 GiB, a skein 3 of four entries of 64 bytes with one to take, a literal word at code
offset 3, eight bytes at 0x400 and a barrier at 0x700 with EXPECT and PENDING 1. -/
def demo : State :=
  { State.reset with
    clock := 100
    groups := [(0, dg)]
    blocks := [(0, db)]
    trans := [{ tile := 0, ctx := 0, va := 0x200000000, size := 2 ^ 21, pa := 0x100000, host := false, sys := false, w := true, x := true }]
    skeins := [(3, { block := 0, base := 0x800, entries := 4, bytes := 64, allowance := 3, reserved := 1, taken := 0, live := [⟨0, [], true⟩], rises := 0 })]
    mem := memStore (memStore (memStore [] (slicePlace 0 36) (leBytes 12 0xFE0000000000000012345678)) (slicePlace 0 0x400) (leBytes 8 0x1122334455667788))
      (slicePlace 0 0x702) (leBytes 4 0x10001) }

/-- The state after a word, if it goes on. -/
def after (s : State) (i : Instr) : Option State := match exec i s with | .next t => some t | _ => none
/-- The group after a word. -/
def groupAfter (s : State) (i : Instr) : Option Group := (after s i).bind (fun t => t.groups.get? s.cur)
/-- A scalar register after a word. -/
def sAfter (i : Instr) (r : Nat) : Option Nat := (groupAfter demo i).map (fun g => (g.sreg r).toNat)
/-- A lane of a vector register after a word. -/
def vAfter (i : Instr) (r l : Nat) : Option Nat := (groupAfter demo i).map (fun g => (g.vreg r l).toNat)
/-- A predicate after a word. -/
def pAfter (i : Instr) (r : Nat) : Option Nat := (groupAfter demo i).map (fun g => (g.pred r).toNat)
/-- %status after a word. -/
def statusAfter (i : Instr) : Option Nat := (groupAfter demo i).map (fun g => g.status.toNat)

/-- Issues, as a computation. -/
def issuesB (i : Instr) (s : State) (g : Group) : Bool :=
  s.group? == some g && illegalOf g.limits i == none && (g.active (hdOf i) != 0 || maskIndependent i) && eventFree i s g

theorem issues_of {i : Instr} {s : State} {g : Group} (h : issuesB i s g = true) : Issues i s g := by
  simp only [issuesB, Bool.and_eq_true, Bool.or_eq_true, beq_iff_eq, bne_iff_ne, ne_eq] at h
  exact ⟨h.1.1.1, h.1.1.2, h.1.2, h.2⟩

theorem all_issue {is : List Instr} {s : State} {g : Group} (h : is.all (fun i => issuesB i s g) = true) : ∀ i ∈ is, Issues i s g :=
  fun i hi => issues_of (List.all_eq_true.mp h i hi)

/-! ### Words and their instructions: written out bit by bit from the tables of 04 to 22, or as the manual writes them -/

def dec (w : Nat) : Instr := decode Limits.widest w

/-- 05 Tables 1, 4: `nop`, `(p3) bra +2`, `brs.ne s5, 0, -20` with COMMON, `exit`'s neighbours, `elect p3`, `pathq.live s7`. -/
theorem test_words_control : dec 0x010000000000000000000000 = .nop hd0 ∧ dec 0x011180000000000000000002 = .bra { br o0 o0 o0 2 with hd := { hd0 with gp := 3 } } ∧
    dec 0x012000400101700001FFFFEC = .brs 1 { br o0 (.s 5) (.imm 0) 0xFFFFEC with hd := { hd0 with common := true } } ∧
    dec 0x020000200C00000000000000 = .elect (r3 (.p 3) o0 o0 .none) ∧ dec 0x023000101C00000000300000 = .pathq 3 (r3 (.s 7) o0 o0 .none) := by decide

/-- 05 Tables 5, 7, R103: `add.n64 s4, s4, 1`, `sub.i64.sat`, `scmp.lt.i32 s9, s8, -1`, `lea s1, s2, s3, 5`, `movh s6, 0x1234`, `bfi.b64 s1, s2, 8, 16`, `ldl.n64 s7, +3`. -/
theorem test_words_scalar : dec 0x100000101101300600000000 = .add (r3 (.s 4) (.s 4) (.imm 1) .n64) ∧
    dec 0x101000100500900D04000000 = .sub (r3 (.s 1) (.s 2) (.s 3) .i64 true) ∧ dec 0x1070001025023FFCC0200000 = .scmp 2 (r3 (.s 9) (.s 8) (.imm 0x3FF) .i32) ∧
    dec 0x10B000100500900C00500000 = .lea 5 (r3 (.s 1) (.s 2) (.s 3) .none) ∧ dec 0x111000101800000002001234 = .movh (im (.s 6) o0 .none 0x1234) ∧
    dec 0x113000100500800202000408 = .bfi (im (.s 1) (.s 2) .n64 0x408) ∧ dec 0x120000101C00000200000003 = .ldl (im (.s 7) o0 .n64 3) := by decide

/-- 06 Tables 1, 2: `vsar.i16 v3, v4, 2`, `vcmp.ge.n32 p2, v1, v2`, `vmad.n32 v1, v2, v3, -v4`, `vsel.b32 v1, v2, v3, p4`. -/
theorem test_words_vector : dec 0x206000000C01300880200000 = .vsar (r3 (.v 3) (.v 4) (.imm 2) .i16) ∧ dec 0x2090002008004009C0500000 = .vcmp 5 (r3 (.p 2) (.v 1) (.v 2) .n32) ∧
    dec 0x210000000400800DC1004000 = .vmad 1 (fu (.v 1) (.v 2) (.v 3) (.v 4) .n32) ∧ dec 0x211000000400800DC0804000 = .vsel (fu (.v 1) (.v 2) (.v 3) (.p 4) .n32) := by decide

/-- 04 R67, 06 Tables 4, 5, 8: the worked `vfma`, the same with a bit of [11:0] set, `vdiv.f32.rz`, `vfclass.f16 p1, v2, 5`, `vdot2.bf16`, the worked `vcvtn`. -/
theorem test_words_float : dec 0x300108001001401B00004000 = .vfma { fu (.v 4) (.v 5) (.v 6) (.v 4) .f32 with hd := { hd0 with gp := 2, delay := 1 } } ∧
    dec 0x300108001001401B00004001 = .illegal 9 0 0x30 0 ∧ dec 0x313000000400800F08000000 = .vdiv { r3 (.v 1) (.v 2) (.v 3) .f32 with rm := .rz } ∧
    dec 0x317000200400B01680000000 = .vfclass (r3 (.p 1) (.v 2) (.imm 5) .f16) ∧ dec 0x320000000400800EC0004000 = .vdot2 (fu (.v 1) (.v 2) (.v 3) (.v 4) .bf16) ∧
    dec 0x401000005002B00302400000 = .vcvtn (cv (.v 20) (.v 10) (.imm 0) .f32 .f8e4) := by decide

/-- 07, as written there: a shuffle, a reduction to a scalar, a top-k and `vexp2i`. -/
theorem test_words_cross : dec 0x480000003002B041C0100000 = .vshfl 1 0 (r3 (.v 12) (.v 10) (.imm 16) .n32) ∧ dec 0x481000105000800200200000 = .vredlog 2 (r3 (.s 20) (.v 2) o0 .n64) ∧
    dec 0x483000005800E01700200000 = .vtopk 2 (r3 (.v 22) (.v 3) (.p 5) .f32) ∧ dec 0x491000003000402F00000000 = .vexp2i { im (.v 12) (.v 1) .f32 0 with b := .v 11 } := by decide

/-- 10 Tables 1, 2, 4: the worked far load and store, `ldn.i8 v3, [s4 - 1], v5`, the worked `atom.cas` and `vatom.add`, `wait.ac ac2, 5`, `fence.rel` at DEVICE, `acwr ac3, 7`. -/
theorem test_words_memory :
    dec 0x504280001102B001C0400000 = .ldf { me (.v 4) (.s 10) (.imm 0) .n32 .group 0 .plain 0 with hd := { hd0 with gp := 5 }, glob := true } ∧
    dec 0x505380002102B00210200008 = .stf { me (.v 8) (.s 10) (.imm 0) .n64 .device 0 .rel 8 with hd := { hd0 with gp := 7 } } ∧
    dec 0x500000000D010014400FFFFF = .ldn (me (.v 3) (.s 4) (.v 5) .i8 .group 0 .plain 0xFFFFF) ∧
    dec 0x517180001905001DC0800040 = .atomCas { me (.v 6) (.s 20) (.v 7) .n32 .group 1 .plain 0x40 with hd := { hd0 with gp := 3 } } ∧
    dec 0x518300000103408AC0000000 = .vatomAdd { me o0 (.s 13) (.v 34) .bf16 .group 0 .plain 0 with hd := { hd0 with gp := 6 } } ∧
    dec 0x600000000000000000200005 = .waitAc (sy o0 o0 o0 .group 0x200005) ∧ dec 0x602000000000000012000000 = .fenceRel (sy o0 o0 o0 .device 0) ∧
    dec 0x605000000301C00000300000 = .acwr (sy o0 (.imm 7) o0 .group 0x300000) := by decide

/-- 11 R188, Table 4: the worked `cp`, `tagst s1, t63`, the worked `qpush`, `qpop` and `bara`, `barb.tile 15`. -/
theorem test_words_copies : dec 0x680000102902D03005050000 = .cp (en (.s 10) (.s 11) (.s 12) .none 5 0 .device 0x10000) ∧ dec 0x68300010040000003F000000 = .tagst (en (.s 1) o0 o0 .none 63 0 .group 0) ∧
    dec 0x700000000101000000320000 = .qpush (en o0 (.s 4) o0 .none 0 3 .tile 0) ∧ dec 0x701000101400000000320000 = .qpop (en (.s 5) o0 o0 .none 0 3 .tile 0) ∧
    dec 0x705000000101904000040000 = .bara (en o0 (.s 6) (.s 16) .none 0 0 .device 0) ∧ dec 0x708000000000000000F20000 = .barb (en o0 o0 o0 .none 0 15 .tile 0) := by decide

/-- 12 Table 3: the worked `mma` and `mmconv`, `mmrd.f32 v9, m2, 17` (a full-width tile named m3 is refused), `gget.steps s5, g7`. -/
theorem test_words_matrix : dec 0x7830000000000002C0130404 = .mma (en o0 o0 o0 .bf16 0 1 .tile 0x10404) ∧ dec 0x785000000100F44B02C00000 = .mmconv (cv o0 (.s 3) (.imm 0x112) .f32 .bf16) ∧
    dec 0x786000002400304700000400 = .mmrd (en (.v 9) o0 (.imm 17) .f32 0 0 .group 0x400) ∧ dec 0x786000002400304700000600 = .illegal 7 0 0x78 6 ∧ dec 0x788000101400000000700002 = .gget (en (.s 5) o0 o0 .none 0 7 .group 2) := by decide

/-- 14 Tables 1, 2: `red.min.i64 [s4 + 8], v2` by global address at POD, the worked `rput` and `pcarm`, `pcadd 9, s3, 31`. -/
theorem test_words_fabric : dec 0x801000000901000118600008 = .redMin { me (.v 2) (.s 4) o0 .i64 .pod 0 .rel 8 with glob := true } ∧
    dec 0x810000102902D03003500002 = .rput (en (.s 10) (.s 11) (.s 12) .none 3 5 .group 2) ∧ dec 0x814000000100800000000002 = .pcarm (en o0 (.s 2) o0 .none 0 0 .group 2) ∧
    dec 0x816000000100C0000090001F = .pcadd (en o0 (.s 3) o0 .none 0 9 .group 31) := by decide

/-- 15, 19, 20, 22: `rte.skip`, the worked `save` and `icinv`, `dfree s20, s21, 3`, `gracest s7`, `tpost s1, s2`, `temit s9`, `trcen`, `tflush`, `bkpt 5`. -/
theorem test_words_system : dec 0x902000000000000001000000 = .rteSkip (sy o0 o0 o0 .group 0) ∧ dec 0x903000000000000000010001 = .save (sy o0 o0 o0 .group 0x10001) ∧
    dec 0x907000000102903011000000 = .icinv (sy o0 (.s 10) (.s 12) .device 0) ∧ dec 0x90A000105105400000000003 = .dfree (sy (.s 20) (.s 21) o0 .group 3) ∧
    dec 0x90B000101C00000000000000 = .gracest (sy (.s 7) o0 o0 .group 0) ∧ dec 0x906000100500800000000000 = .tpost (sy (.s 1) (.s 2) o0 .group 0) ∧
    dec 0x981000000102400000000000 = .temit (im o0 (.s 9) .none 0) ∧ dec 0x982000000000000001000000 = .trcen (im o0 o0 .none 0) ∧
    dec 0x985000000000000000000000 = .tflush (im o0 o0 .none 0) ∧ dec 0x983000000000000000000005 = .bkpt (im o0 o0 .none 5) := by decide

/-- The host's question asks the same decoder. -/
theorem test_table_word : decodeTableWord 96 0x120000101C00000200000003 = some (.ldl (im (.s 7) o0 .n64 3)) := by decide

/-! ### Refused words: one for each reason of 04 R66 Table 5, from the word and from the term -/

/-- Reasons 1, 2, 3: major 0x00 and 0x03, a literal word, minor 0x9 of major 0x01. -/
theorem test_refused_opcodes : dec 0 = .illegal 1 0 0 0 ∧ dec 0x030000000000000000000000 = .illegal 1 0 3 0 ∧ dec 0xFE0000000000000012345678 = .illegal 2 0 0xFE 0 ∧
    dec 0x019000000000000000000000 = .illegal 3 0 1 9 := by decide

/-- Reason 4: `wait.st` under the guard (p1); reason 5: `add` with no type, `vneg` of an unsigned type. -/
theorem test_refused_guard_and_type : illegalOf Limits.widest (.waitSt { sy o0 o0 o0 .group 0 with hd := { hd0 with gp := 1 } }) = some (4, 0) ∧
    illegalOf Limits.widest (.add (r3 (.s 4) (.s 4) (.s 4) .none)) = some (5, 0) ∧ illegalOf Limits.widest (.vnegInt (r3 (.v 1) (.v 2) o0 .n32)) = some (5, 0) := by decide

/-- Reason 6: an immediate destination, a nonzero unused B, %lane as a source of a scalar destination. -/
theorem test_refused_kinds : illegalOf Limits.widest (.add (r3 (.imm 4) (.s 4) (.s 4) .n64)) = some (6, 1) ∧ illegalOf Limits.widest (.neg (r3 (.s 4) (.s 4) (.s 5) .i64)) = some (6, 3) ∧
    illegalOf Limits.widest (.mov (r3 (.s 4) (.s 0x300) o0 .none)) = some (6, 2) := by decide

/-- Reason 7: s192, v256, an odd pair, p16, a group of 16 vector registers that names v16, %clock as a destination. -/
theorem test_refused_registers : illegalOf Limits.widest (.mov (r3 (.s 192) (.s 4) o0 .none)) = some (7, 1) ∧ illegalOf Limits.widest (.vmov (r3 (.v 0) (.v 256) o0 .n32)) = some (7, 2) ∧
    illegalOf Limits.widest (.vmov (r3 (.v 3) (.v 4) o0 .n64)) = some (7, 1) ∧ illegalOf Limits.widest (.pnot (r3 (.p 1) (.p 16) o0 .none)) = some (7, 2) ∧
    illegalOf { Limits.widest with vregs := 16 } (.vmov (r3 (.v 16) (.v 4) o0 .n32)) = some (7, 1) ∧ illegalOf Limits.widest (.mov (r3 (.s 0x30D) (.s 4) o0 .none)) = some (7, 1) := by decide

/-- Reason 8: a comparison code, a rounding mode and a scope that the form does not list; reason 9: IMM24 [7:4] of `publish`; reason 10: LASTA on a scalar operand. -/
theorem test_refused_modifiers : illegalOf Limits.widest (.scmp 6 (r3 (.s 4) (.s 4) (.s 4) .n64)) = some (8, 0) ∧
    illegalOf Limits.widest (.vaddFloat { r3 (.v 1) (.v 2) (.v 3) .f32 with rm := .rna }) = some (8, 0) ∧ illegalOf Limits.widest (.cp (en (.s 4) (.s 5) (.s 6) .none 0 0 .group 0)) = some (8, 0) ∧
    illegalOf Limits.widest (.publish (sy o0 o0 o0 .group 0x10)) = some (9, 0) ∧ illegalOf Limits.widest (.mov { r3 (.s 4) (.s 5) o0 .none with hd := { hd0 with lasta := true } }) = some (10, 2) := by decide

/-- Every check of WellFormed refuses a term: a reason of R66, the two spellings of `jmp` and `ret`, and the outcome of a refused word. -/
theorem test_ill_formed : WellFormed (.add (r3 (.imm 4) (.s 4) (.s 4) .n64)) = false ∧ WellFormed (.jmp (br o0 (.s 4) o0 0)) = false ∧ WellFormed (.ret (br o0 (.s 4) o0 1)) = false ∧
    WellFormed (.illegal 1 0 0 0) = false ∧ WellFormed (.jmp (br o0 (.s 4) o0 1)) = true ∧ WellFormed (.ret (br o0 (.s 4) o0 0)) = true := by decide

/-- A well-formed word and its 96 bits, both ways. -/
theorem test_encode : encode (.vfma { fu (.v 4) (.v 5) (.v 6) (.v 4) .f32 with hd := { hd0 with gp := 2, delay := 1 } }) = 0x300108001001401B00004000 := by decide

/-! ### One step of each family, with the result the rules give -/

/-- 05 R98, Table 5: all ones plus 1 is 0 under .i32; -2^63 - 1 clamps and sets SAT (02 Table 4 bit 10). -/
theorem test_add_wraps_and_saturates : sAfter (.add (r3 (.s 4) (.s 8) (.imm 1) .i32)) 4 = some 0 ∧
    sAfter (.sub (r3 (.s 4) (.s 7) (.imm 1) .i64 true)) 4 = some 0x8000000000000000 ∧ statusAfter (.sub (r3 (.s 4) (.s 7) (.imm 1) .i64 true)) = some 0x400 := by decide

/-- 05 R99: by zero, and -2^63 by -1; R98: the high half of (2^64 - 1)^2; -(-2^63) wraps. -/
theorem test_division_corners : sAfter (.div (r3 (.s 4) (.s 5) (.s 6) .n64)) 4 = some 0xFFFFFFFFFFFFFFFF ∧ sAfter (.rem (r3 (.s 4) (.s 5) (.s 6) .n64)) 4 = some 7 ∧
    sAfter (.div (r3 (.s 4) (.s 7) (.s 8) .i64)) 4 = some 0x8000000000000000 ∧ sAfter (.rem (r3 (.s 4) (.s 7) (.s 8) .i64)) 4 = some 0 ∧
    sAfter (.mulhi (r3 (.s 4) (.s 8) (.s 8) .n64)) 4 = some 0xFFFFFFFFFFFFFFFE ∧ sAfter (.neg (r3 (.s 4) (.s 7) o0 .i64)) 4 = some 0x8000000000000000 := by decide

/-- 05 R99: 100 div -8 rounds toward zero, with remainder 4. -/
theorem test_division_signs : sAfter (.div (r3 (.s 9) (.s 4) (.imm (-8)) .i64)) 9 = some 0xFFFFFFFFFFFFFFF4 ∧ sAfter (.rem (r3 (.s 9) (.s 4) (.imm (-8)) .i64)) 9 = some 4 := by decide

/-- 05 R100: a shift of the whole width and beyond; a rotation by 9 of eight bits. -/
theorem test_shifts : sAfter (.shl (r3 (.s 9) (.s 8) (.imm 32) .n32)) 9 = some 0 ∧ sAfter (.sar (r3 (.s 9) (.s 7) (.imm 200) .i64)) 9 = some 0xFFFFFFFFFFFFFFFF ∧
    sAfter (.rotl (r3 (.s 9) (.s 5) (.imm 9) .n8)) 9 = some 14 ∧ sAfter (.shr (r3 (.s 9) (.s 7) (.imm 63) .n64)) 9 = some 1 := by decide

/-- 05 Tables 5, 6: all ones is below 7 signed and above it unsigned; counts of 0 and 7; seven with its bits reversed. -/
theorem test_compare_and_count : sAfter (.scmp 2 (r3 (.s 9) (.s 8) (.s 5) .i64)) 9 = some 1 ∧ sAfter (.scmp 2 (r3 (.s 9) (.s 8) (.s 5) .n64)) 9 = some 0 ∧
    sAfter (.clz (r3 (.s 9) (.s 6) o0 .n32)) 9 = some 32 ∧ sAfter (.ctz (r3 (.s 9) (.s 4) o0 .n64)) 9 = some 2 ∧ sAfter (.popc (r3 (.s 9) (.s 5) o0 .n8)) 9 = some 3 ∧
    sAfter (.brev (r3 (.s 9) (.s 5) o0 .n8)) 9 = some 0xE0 := by decide

/-- 05 R101, Table 7: addresses, and the immediate forms. -/
theorem test_addresses_and_immediates : sAfter (.lea 3 (r3 (.s 9) (.s 4) (.s 5) .none)) 9 = some 156 ∧ sAfter (.gaddr 2 (r3 (.s 9) (.s 5) (.s 4) .none)) 9 = some 0x8001C40000000064 ∧
    sAfter (.gfld 3 (r3 (.s 9) (.s 7) o0 .none)) 9 = some 1 ∧ sAfter (.movi (im (.s 9) o0 .none 0xFFFFFF)) 9 = some 0xFFFFFFFFFFFFFFFF ∧
    sAfter (.movm (im (.s 8) o0 .none 0)) 8 = some 0xFFFF000000FFFFFF ∧ sAfter (.movh (im (.s 8) o0 .none 0x1234)) 8 = some 0x1234FFFFFFFFFFFF ∧
    sAfter (.bfxs (im (.s 9) (.s 5) .n64 0x80)) 9 = some 0xFFFFFFFFFFFFFFFF ∧ sAfter (.bfi (im (.s 8) (.s 6) .n64 0x408)) 8 = some 0xFFFFFFFFFF0000FF := by decide

/-- 02 R22, 05 Table 4: p0 discards; `elect` leaves the lowest lane; `pmask` reads the active lanes; `pathq.live` all of them. -/
theorem test_predicates : pAfter (.elect (r3 (.p 3) o0 o0 .none)) 3 = some 1 ∧ pAfter (.elect (r3 (.p 0) o0 o0 .none)) 0 = some 0xFFFFFFFFFFFFFFFF ∧
    sAfter (.pmask (r3 (.s 9) (.p 1) o0 .none)) 9 = some 5 ∧ pAfter (.pload (r3 (.p 3) (.s 4) o0 .none)) 3 = some 100 ∧
    sAfter (.pathq 3 (r3 (.s 9) o0 o0 .none)) 9 = some 0xFFFFFFFFFFFFFFFF := by decide

/-- 05 R91, R92: a branch from offset 0 by -1 lands at plane_stride - 1, `(p1)` moves lanes 0 and 2 alone, `call` writes the link 1. -/
theorem test_branches : (groupAfter demo (.bra (br o0 o0 o0 0xFFFFFF))).map (fun g => g.rcd.next.get? 63) = some (some 15) ∧
    (groupAfter demo (.bra { br o0 o0 o0 2 with hd := { hd0 with gp := 1 } })).map (fun g => g.rcd.next) = some [(0, 2), (2, 2)] ∧
    sAfter (.call (br (.s 9) o0 o0 5)) 9 = some 1 ∧ (groupAfter demo (.brs 0 (br o0 (.s 4) (.s 5) 3))).map (fun g => g.rcd.next) = some [] := by decide

/-- 05 R95: plane 7 of eight is declared; the group with four planes traps PLANE and enters its handler at 1 after 8 clk (19 R310). -/
theorem test_planes : (groupAfter demo (.pset 7 (br o0 o0 o0 0))).map (fun g => g.rcd.plane.get? 5) = some (some 7) ∧
    (groupAfter { demo with groups := [(0, { dg with env := { dg.env with planes := 4 } })] } (.pset 7 (br o0 o0 o0 0))).map
      (fun g => (g.frame.map (fun f => (f.kind, f.detail)), g.ofs, g.ready)) = some (some (4, 0x0000000700000000), 1, 108) := by decide

/-- 06 R108: bytes wrap on their own: (250, 0, 0, 0) + 10; R110: lane 0 is above 100; Table 2: a clamp whose bounds cross gives c. -/
theorem test_vector_integer : vAfter (.vaddInt (r3 (.v 3) (.v 1) (.imm 10) .n8)) 3 0 = some 0x0A0A0A04 ∧ pAfter (.vcmp 4 (r3 (.p 3) (.v 1) (.imm 100) .n32)) 3 = some 1 ∧
    vAfter (.vclamp (fu (.v 3) (.v 1) (.imm 9) (.imm 4) .n32)) 3 5 = some 4 ∧ vAfter (.vmad 1 (fu (.v 3) (.v 1) (.v 1) (.v 2) .n32)) 3 1 = some 9996 ∧
    vAfter (.vdp4 (fu (.v 3) (.v 1) (.v 1) (.v 2) .n8)) 3 2 = some 17 ∧ vAfter (.vsel (fu (.v 3) (.v 1) (.v 2) (.p 1) .n32)) 3 1 = some 4 := by decide

/-- 06 R106, R107: a 64-bit type writes a pair; a lane outside the guard keeps its value. -/
theorem test_pairs_and_guards : vAfter (.vmov (r3 (.v 6) (.imm (-1)) o0 .n64)) 7 9 = some 0xFFFFFFFF ∧
    vAfter (.vmov { r3 (.v 1) (.imm 1) o0 .n32 with hd := { hd0 with gp := 1 } }) 1 1 = some 100 ∧
    vAfter (.vmov { r3 (.v 1) (.imm 1) o0 .n32 with hd := { hd0 with gp := 1 } }) 1 2 = some 1 := by decide

/-- 03 R40, 06 Tables 4, 5: 1 + 1, 2 x 2 + 2, 1 / 0 with DZ (02 Table 4 bit 1), -1, and 2 > 1. -/
theorem test_float : vAfter (.vaddFloat (r3 (.v 3) (.v 4) (.v 4) .f32)) 3 0 = some 0x40000000 ∧ vAfter (.vfma (fu (.v 3) (.v 4) (.v 4) (.v 4) .f32)) 3 1 = some 0x40C00000 ∧
    vAfter (.vdiv (r3 (.v 3) (.v 4) (.v 9) .f32)) 3 0 = some 0x7F800000 ∧ statusAfter (.vdiv (r3 (.v 3) (.v 4) (.v 9) .f32)) = some 2 ∧
    vAfter (.vnegFloat (r3 (.v 3) (.v 4) o0 .f32)) 3 0 = some 0xBF800000 ∧ pAfter (.vfcmp 4 (r3 (.p 3) (.v 4) (.imm 1) .f32)) 3 = some 0xFFFFFFFFFFFFFFFE := by decide

/-- 06 R118, Table 8: 2.0 is the integer 2, half-precision 1.0 is 0x3C00, and one byte of a lane alone takes the .f8e4 of 1.0 (0x38). -/
theorem test_conversions : vAfter (.vcvt (cv (.v 3) (.v 4) o0 .f32 .i32)) 3 1 = some 2 ∧ vAfter (.vcvtn (cv (.v 1) (.v 4) (.imm 1) .f32 .f8e4)) 1 0 = some 0x38FA ∧
    vAfter (.vcvtn (cv (.v 1) (.v 4) (.imm 0) .f32 .f16)) 1 0 = some 0x3C00 := by decide

/-- 07 R123 to R126: lane 16 to all, the sum of 64 twos, the prefix below lane 3, the two largest of v1 and their lanes. -/
theorem test_cross_lane : vAfter (.vshfl 0 0 (r3 (.v 3) (.v 2) (.imm 16) .n32)) 3 5 = some 64 ∧ sAfter (.vredlog 0 (r3 (.s 9) (.v 5) o0 .i32)) 9 = some 128 ∧
    vAfter (.vscanx 0 (r3 (.v 3) (.v 5) o0 .i32)) 3 3 = some 6 ∧ vAfter (.vtopk 1 (r3 (.v 6) (.v 1) (.p 0) .i32)) 6 1 = some 100 ∧
    vAfter (.vtopk 1 (r3 (.v 6) (.v 1) (.p 0) .i32)) 7 1 = some 1 := by decide +kernel

/-- 07 R129, R130: 1 / 2, the root of 1, the exponent of 2, 2 x 2^3, and the hash of key 100, counter 0, lane 1. -/
theorem test_special : vAfter (.vrcp (im (.v 3) (.v 4) .f32 0)) 3 1 = some 0x3F000000 ∧ vAfter (.vsqrt (im (.v 3) (.v 4) .f32 0)) 3 0 = some 0x3F800000 ∧
    vAfter (.vexpo (im (.v 3) (.v 4) .f32 0)) 3 1 = some 1 ∧ vAfter (.vscalb { im (.v 3) (.v 4) .f32 0 with b := .imm 3 }) 3 1 = some 0x41800000 ∧
    vAfter (.vrand { im (.v 3) (.s 4) .n32 0 with b := .imm 0 }) 3 1 = some 0xF13CF544 := by decide +kernel

/-- A byte, or bytes, of memory after a word. -/
def memAfter (i : Instr) (p n : Nat) : Option Nat := (after demo i).map (fun t => memVal t.mem p n)
/-- The kind and detail of the trap a word takes. -/
def trapOf (s : State) (i : Instr) : Option (Nat × Nat) := ((groupAfter s i).bind (fun g => g.frame)).map (fun f => (f.kind, f.detail.toNat))
/-- The group of the demo machine after an event that acts on a, b, c. -/
def event (s : State) (i : Instr) (a b c : Nat) : Option State := after { s with inp := { Inp.zero with a := a, b := b, c := c } } i

/-- 10 R163 to R165, 01 R6: eight bytes little-endian; the byte 0x88 is negative under .i8; the last eight bytes of the near window can be read. -/
theorem test_near_loads : sAfter (.ldn (me (.s 9) (.s 10) o0 .n64 .group 0 .plain 0)) 9 = some 0x1122334455667788 ∧
    vAfter (.ldn (me (.v 3) (.s 10) (.imm 0) .i8 .group 0 .plain 0)) 3 7 = some 0xFFFFFF88 ∧ sAfter (.ldn (me (.s 9) (.s 16) o0 .n64 .group 0 .plain 0)) 9 = some 0 := by decide

/-- 10 R163, 09 R157 Table 4: a misaligned access is reason 9, the first byte past the near window reason 10, each with its address. -/
theorem test_near_faults : trapOf demo (.ldn (me (.s 9) (.s 10) o0 .n32 .group 0 .plain 1)) = some (3, 0x0090000000000401) ∧
    trapOf demo (.ldn (me (.s 9) (.s 16) o0 .n64 .group 0 .plain 8)) = some (3, 0x00A00000007F0000) := by decide

/-- 10 R164, R165: `(p1) stn.n16` of v2 indexed by v2 stores lane 2's 8 at 0x500 + 8, and nothing for lane 1. -/
theorem test_near_store : memAfter (.stn { me (.v 2) (.s 15) (.v 2) .n16 .group 0 .plain 0 with hd := { hd0 with gp := 1 } }) (slicePlace 0 0x508) 2 = some 8 ∧
    memAfter (.stn { me (.v 2) (.s 15) (.v 2) .n16 .group 0 .plain 0 with hd := { hd0 with gp := 1 } }) (slicePlace 0 0x504) 2 = some 0 := by decide

/-- 10 R166: the row form takes lane 1's word from byte 4; a row must be aligned to 256 bytes. -/
theorem test_rows : vAfter (.ldnr (me (.v 3) (.s 10) o0 .n32 .group 0 .plain 0)) 3 1 = some 0x11223344 ∧
    memAfter (.stnr (me (.v 2) (.s 15) o0 .n32 .group 0 .plain 0)) (slicePlace 0 0x5FC) 4 = some 252 ∧
    trapOf demo (.ldnr (me (.v 3) (.s 10) o0 .n32 .group 0 .plain 4)) = some (3, 0x0090000000000404) := by decide +kernel

/-- 05 R103, 04 R75: a literal 3 words on; offset 4 holds no literal word (reason 11 of 04 Table 5). -/
theorem test_literal : sAfter (.ldl (im (.s 9) o0 .n64 3)) 9 = some 0x12345678 ∧ trapOf demo (.ldl (im (.s 9) o0 .n64 4)) = some (1, 0x0B12000000000000) := by decide

/-- 10 R168, R171: a far load counts on its arrival counter and has an element for each lane; a store raises the outstanding-store counter. -/
theorem test_far_words : (after demo (.ldf (me (.v 3) (.s 11) (.imm 0) .n32 .group 2 .plain 0))).map (fun t => t.far.map (fun o => (o.ac, o.els.length))) = some [(some 2, 64)] ∧
    (groupAfter demo (.stf (me (.v 2) (.s 11) (.v 2) .n32 .group 0 .plain 0))).map (fun g => g.stores) = some 1 ∧
    trapOf demo (.ldf (me (.v 6) (.s 16) (.imm 0) .n64 .group 2 .plain 8)) = some (3, 0x00200000007F0000) := by decide

/-- 10 R174 Table 2: `atom.exch` at its home returns what stood there and leaves the operand. -/
theorem test_atomic : ((after demo (.atomExch (me (.v 8) (.s 11) (.v 5) .n32 .group 2 .plain 0))).bind (fun t => event t .farAccessAtHome 0 0 0)).map
    (fun t => (memVal t.mem (2 ^ 48 + 0x100000) 4, (t.far.map (fun o => (o.els.map El.val).take 3)))) = some (2, [[0, 2, 2]]) := by decide

/-- 10 R179: ac0 is 0: it has reached 0 and not 5, and 65,535 counts as 1 before 0. -/
theorem test_waits : (groupAfter demo (.waitAc (sy o0 o0 o0 .group 0))).map (fun g => g.wait) = some none ∧
    (groupAfter demo (.waitAc (sy o0 o0 o0 .group 5))).map (fun g => g.wait) = some (some (.ac 0 5)) ∧
    (groupAfter demo (.waitAc (sy o0 o0 o0 .group 0xFFFF))).map (fun g => g.wait) = some none ∧
    (groupAfter demo (.acwr (sy o0 (.imm (-1)) o0 .group 0x300000))).map (fun g => g.ac) = some [(3, 0xFFFF)] := by decide

/-- 10 R180, 11 Table 3: every tag is ready: the lowest of mask 100 is 2, and 64 for the empty mask; `tagst` shows READY. -/
theorem test_tags : sAfter (.ffr (sy (.s 9) (.s 4) o0 .group 0)) 9 = some 2 ∧ sAfter (.ffr (sy (.s 9) (.s 6) o0 .group 0)) 9 = some 64 ∧
    sAfter (.tagst (en (.s 9) o0 o0 .none 5 0 .group 0)) 9 = some 0x4000000000000000 := by decide

/-- 11 R186, R190, R192: a fill of 64 bytes at 8 GiB + 0x1000 takes its tag; its sector writes the pattern, adds 64 to BYTES and leaves the tag ready. -/
theorem test_copy : (after demo (.cpfill (en (.s 13) (.s 10) (.s 20) .none 5 0 .device 0))).map (fun t => (t.tags, t.copies.length)) = some ([(5, ⟨1, false, 0⟩)], 1) ∧
    ((after demo (.cpfill (en (.s 13) (.s 10) (.s 20) .none 5 0 .device 0))).bind (fun t => event t .copySectorComplete 0 0x2000010 0)).map
      (fun t => (t.tags, t.copies.length, memVal t.mem (2 ^ 48 + 0x101038) 8)) = some ([(5, ⟨0, true, 64⟩)], 0, 0x400) := by decide

/-- 11 R199, R200: a push takes one of the allowance and adds an entry; a pop takes entry 0. -/
theorem test_skeins : (after demo (.qpush (en o0 (.s 4) o0 .none 0 3 .tile 0))).map (fun t => (t.skein 3).live.map SkEntry.j) = some [0, 1] ∧
    (after demo (.qpush (en o0 (.s 4) o0 .none 0 3 .tile 0))).map (fun t => ((t.skein 3).allowance, memVal t.mem (slicePlace 0 0x840) 8)) = some (2, 100) ∧
    (after demo (.qpop (en (.s 9) o0 o0 .none 0 3 .tile 0))).map (fun t => ((t.skein 3).live.length, (t.skein 3).taken, (t.skein 3).rises)) = some (0, 1, 1) := by decide

/-- 11 R204, R205: the only arrival flips PHASE and reloads PENDING; one with 16 bytes announced leaves PENDING 0 and 16 bytes outstanding. -/
theorem test_barrier : memAfter (.bara (en o0 (.s 19) (.imm 0) .none 0 0 .tile 0)) (slicePlace 0 0x700) 8 = some 0x8000000100010000 ∧
    memAfter (.bara (en o0 (.s 19) (.imm 16) .none 0 0 .tile 0)) (slicePlace 0 0x702) 2 = some 0 ∧
    memAfter (.bara (en o0 (.s 19) (.imm 16) .none 0 0 .tile 0)) (slicePlace 0 0x708) 4 = some 16 ∧
    sAfter (.barrd (en (.s 9) (.s 19) o0 .none 0 0 .group 0)) 9 = some 0x0000000100010000 := by decide

/-- 12 R216, R218, R220, Table 5: an `mma` on record 1 queues a command and raises INUSE; on record 2 it raises MATRIX; `mmstat` at the start is 0x20001. -/
theorem test_matrix : (after demo (.mma (en o0 o0 o0 .bf16 0 1 .tile 0x10000))).map (fun t => t.mats.map (fun c => (c.rcd, c.zero, c.steps, c.batch))) = some [(1, true, 1, 1)] ∧
    (groupAfter demo (.mma (en o0 o0 o0 .bf16 0 1 .tile 0x10000))).map (fun g => (g.gauge 1).inuse) = some 1 ∧
    (trapOf demo (.mma (en o0 o0 o0 .bf16 0 2 .tile 0x10000))).map Prod.fst = some 2 ∧ sAfter (.mmfence (en (.s 9) o0 o0 .none 0 0 .group 0)) 9 = some 1 := by decide

/-- 12 Table 5, the worked status word: OPEN 2, DONE 1 gives 0x20001. -/
theorem test_mmstat : (groupAfter { demo with groups := [(0, { dg with bopen := 2, bdone := 1 })] } (.mmstat (en (.s 9) o0 o0 .none 0 0 .group 0))).map (fun g => (g.sreg 9).toNat) =
    some 0x20001 := by decide

/-- 14 R263: no region is valid at reset, so `pcadd` raises ADDR with reason 6 and the region's offset 0. -/
theorem test_no_region : trapOf demo (.pcadd (en o0 (.s 4) o0 .none 0 9 .group 1)) = some (3, 0x0060020000000000) := by decide

/-- 19 R310, R314, R316: `trap 9` enters the handler with kind 6 and detail 9; from there `tinfo` reads them, and `rte` goes back to offset 0. -/
theorem test_trap_and_return : trapOf demo (.trap (sy o0 o0 o0 .group 9)) = some (6, 9) ∧
    ((after demo (.trap (sy o0 o0 o0 .group 9))).bind (fun t => groupAfter t (.tinfo 1 (sy (.s 9) o0 o0 .group 0)))).map (fun g => (g.ofs, g.sreg 9)) = some (1, 9) ∧
    ((after demo (.trap (sy o0 o0 o0 .group 9))).bind (fun t => groupAfter t (.rte (sy o0 o0 o0 .group 0)))).map (fun g => (g.ofs, g.frame, g.todo)) = some (0, none, some [0]) := by decide

/-- 04 R66 Table 5: the all-zero word traps with reason 1 at its offset. -/
theorem test_illegal : trapOf demo (dec 0) = some (1, 0x0100000000000000) := by decide

/-- 15 R278, R280, Table 8: with TEN 1, `temit` puts type 7, no delta, its group and eight bytes in the FIFO, once its clock has passed. -/
theorem test_trace : (after { demo with regs := [(0x20000, 0x8000000000000000)], groups := [(0, { dg with owes := false })], dbgs := [(0, { Dbg.idle with srise := 100 })] }
    (.temit (im o0 (.s 5) .none 0))).map (fun t => ((settleTrace { t with clock := 101 } 0).dbg 0).fifo) = some [0x70, 0, 7, 0, 0, 0, 0, 0, 0, 0] := by decide

/-- 05 R88, R93: `exit` under (p1) and the end of its offset take lanes 0 and 2 away; the rest goes on at offset 1. -/
theorem test_offset : ((after demo (.exit { r3 o0 o0 o0 .none with hd := { hd0 with gp := 1 } })).bind (fun t =>
    event { t with groups := t.groups.map (fun x => (x.1, { x.2 with todo := some [] })) } .offsetComplete 0 0 0)).map
    (fun t => t.groups.map (fun x => (x.2.exited, x.2.paths.map (fun e => (e.ofs, e.lanes))))) = some [(5, [(1, 0xFFFFFFFFFFFFFFFA)])] := by decide

/-- 28 R409, 14 R255: after a cold reset READY is 1, STEP 5, PMAP the identity, and no group is resident. -/
theorem test_cold_reset : (after demo .coldReset).map (fun t => ((t.reg 0x1A008).toNat / 2 ^ 56, t.pmap, t.groups.length)) = some (0x85, 0xE4, 0) := by decide

/-- 20 Table 1, R331: an entry that is not valid is fault 1, a leaf that forbids writing fault 2 for a store and a page for a load. -/
theorem test_walk : walkEntry 0 3 0 = .fault 1 ∧ walkEntry 1 3 0x10003 = .fault 2 ∧ walkEntry 0 3 0x10003 = .leaf 0x10000 65536 := by decide

/-- 18 R294, R297: a header of zeros passes the reserved words and names no plane: BADCODE, status 2. -/
theorem test_admission : admission demo 0 0 0 [] = 2 := by decide +kernel

/-- 26 R382: without EN no cut is taken. -/
theorem test_cut : event demo .cut 0 0 0 = some { demo with inp := Inp.zero } := by decide

/-- 28 R403: energy at the allowance throttles at level 1. -/
theorem test_throttle : (event { demo with allow := [(0, 80)], clock := 1750, pwrDone := some 0 } .throttle 0 80 0).map (fun t => (t.power.getD 0 Pow.idle).level) = some 1 := by decide

/-- A word placed by withFetchWord runs in the very next step. -/
theorem test_step : (match step (State.reset.withFetchWord 96 0x111000101800000000000007) with | .next t => (t.groups.get? 0).map (fun g => (g.sreg 6).toNat) | _ => none) = some 7 := by decide

/-! ### For each statement, states and operands that meet its premises -/

/-- The group in its handler, and there with lane 5 parked on barrier 2 where the trap came. -/
def trapped : Group := dg.enter 50 6 9 false false allLanes
def trappedParked : Group := { trapped with frame := trapped.frame.map (fun f => { f with parked := [(5, 2)] }) }
/-- A guard under which no lane is active: p9 is 0. -/
def noLane : Hd := { hd0 with gp := 9 }
/-- The demo machine with another group, registers, events' operands. -/
def with_ (g : Group) : State := { demo with groups := [(0, g)] }
/-- What an event acts on. -/
def on (s : State) (a b c : Nat) : State := { s with inp := { Inp.zero with a := a, b := b, c := c } }
def x3 : R3 := r3 (.s 9) (.s 4) (.s 5) .n32
def i3 : R3 := r3 (.s 9) (.s 4) o0 .i32
def v3 : R3 := r3 (.v 3) (.v 1) (.v 2) .n32
def vi : R3 := r3 (.v 3) (.v 1) (.v 2) .i32
def vu : R3 := r3 (.v 3) (.v 1) o0 .n32
def f3 : R3 := r3 (.v 3) (.v 4) (.v 4) .f32
def f1 : R3 := r3 (.v 3) (.v 4) o0 .f32

theorem witness_ScalarArithmeticIsExactThenNarrowed :
    ∀ i ∈ [Instr.add x3, .sub { x3 with sat := true }, .mul x3, .neg i3, .abs { i3 with sat := true }], Issues i demo dg := all_issue (by decide)

theorem witness_DivisionRoundsTowardZeroAndMulhiTakesTheHighBits : (∀ i ∈ [Instr.div x3, .rem x3, .mulhi x3, .div (r3 (.s 9) (.s 7) (.s 8) .i64), .div (r3 (.s 9) (.s 4) (.s 6) .n64)],
    Issues i demo dg) ∧ intSrc demo dg .n64 (.s 6) = 0 ∧ intSrc demo dg .i64 (.s 7) = loOf .i64 ∧ intSrc demo dg .i64 (.s 8) = -1 ∧ intSrc demo dg .n32 (.s 5) = 7 :=
  ⟨all_issue (by decide), by decide⟩

theorem witness_ShiftsOfAnyAmountAndRotation : ∀ i ∈ [Instr.shl x3, .shr x3, .sar x3, .rotl x3, .shl (r3 (.s 9) (.s 4) (.imm 32) .n32)], Issues i demo dg := all_issue (by decide)

theorem witness_ScalarLogicComparisonAndBitCounts : ∀ i ∈ [Instr.and x3, .or x3, .xor x3, .andn x3, .min x3, .max x3, .scmp 0 x3, .scmp 5 x3, .clz (r3 (.s 9) (.s 4) o0 .n32),
    .ctz (r3 (.s 9) (.s 6) o0 .n32), .popc (r3 (.s 9) (.s 4) o0 .n32), .brev (r3 (.s 9) (.s 4) o0 .n32)], Issues i demo dg := all_issue (by decide)

theorem witness_ScalarMovesAddressesAndImmediateForms : ∀ i ∈ [Instr.addi (im (.s 9) (.s 4) .n32 5), .movi (im (.s 9) o0 .none 5), .movm (im (.s 9) o0 .none 5), .movh (im (.s 9) o0 .none 5),
    .andi (im (.s 9) (.s 4) .n32 5), .ori (im (.s 9) (.s 4) .n32 5), .xori (im (.s 9) (.s 4) .n32 5), .bfxu (im (.s 9) (.s 4) .n64 0x1000), .bfxs (im (.s 9) (.s 4) .n64 0x7F),
    .bfi (im (.s 9) (.s 4) .n64 0x408), .mov (r3 (.s 9) (.s 4) o0 .none), .mov (r3 (.s 0x30C) (.s 4) o0 .none), .mov (r3 (.s 9) (.s 0x309) o0 .none), .lea 7 (r3 (.s 9) (.s 4) (.s 5) .none),
    .gaddr 31 (r3 (.s 9) (.s 4) (.s 5) .none), .gfld 0 (r3 (.s 9) (.s 4) o0 .none), .gfld 3 (r3 (.s 9) (.s 4) o0 .none)], Issues i demo dg := all_issue (by decide)

theorem witness_BranchesAndExitsAreRecorded : (∀ i ∈ [Instr.bra (br o0 o0 o0 2), .bany (br o0 (.p 1) o0 2), .bany (br o0 (.p 9) o0 2), .ball (br o0 (.p 0) o0 2), .ball (br o0 (.p 1) o0 2),
    .bnone (br o0 (.p 9) o0 2), .bnone (br o0 (.p 1) o0 2), .brs 0 (br o0 (.s 4) (.s 5) 2), .brs 5 (br o0 (.s 4) (.s 5) 2), .call (br (.s 9) o0 o0 2), .jmp (br o0 (.s 4) o0 2),
    .ret (br o0 (.s 4) o0 0), .exit (r3 o0 o0 o0 .none), .nop hd0], Issues i demo dg) ∧ predVal dg (.p 1) = 5 ∧ predVal dg (.p 9) = 0 := ⟨all_issue (by decide), by decide⟩

/-- The group with four planes: planes 4 to 7 are not declared. -/
def four : Group := { dg with env := { dg.env with planes := 4 } }
theorem witness_PlaneSwitchesAreRecordedOrRaisePlane : (∀ i ∈ [Instr.brapl 3 (br o0 o0 o0 2), .brapl 4 (br o0 o0 o0 2), .pset 3 (br o0 o0 o0 0), .pset 4 (br o0 o0 o0 0), .psetv (br o0 (.v 5) o0 0),
    .psetv (br o0 (.v 1) o0 0)], Issues i (with_ four) four) ∧ (∀ l, l < 64 → laneVal (with_ four) four .n32 (.v 5) l < four.env.planes) ∧
    four.env.planes ≤ laneVal (with_ four) four .n32 (.v 1) 0 := ⟨all_issue (by decide), by decide⟩

theorem witness_GroupStateWordsAndLiteralLoads : (∀ i ∈ [Instr.elect (r3 (.p 3) o0 o0 .none), .pmask (r3 (.s 9) (.p 1) o0 .none), .pload (r3 (.p 3) (.s 4) o0 .none), .pload (r3 (.p 3) (.s 0x300) o0 .none),
    .pathq 0 (r3 (.s 9) o0 o0 .none), .pathq 3 (r3 (.s 9) o0 o0 .none), .ldl (im (.v 6) o0 .n64 3), .ldl (im (.s 9) o0 .n64 3)], Issues i demo dg) ∧ perLane (.s 4) = false ∧ perLane (.s 0x300) = true ∧
    demo.flaws = [] ∧ ∀ l ∈ lanesOf (lanesFor (.ldl (im (.s 9) o0 .n64 3)) dg), litAt demo dg (dg.planeOf l) ((dg.ofs : Int) + (3 : BitVec 24).toInt) = .val 0x12345678 :=
  ⟨all_issue (by decide), by decide +kernel⟩

theorem witness_VectorIntegerArithmeticIsPerElement : ∀ i ∈ [Instr.vaddInt { v3 with sat := true }, .vsubInt v3, .vmulInt v3, .vnegInt (r3 (.v 3) (.v 1) o0 .i8), .vabsInt (r3 (.v 3) (.v 1) o0 .i16),
    .vmad 0 (fu (.v 3) (.v 1) (.v 2) (.v 5) .n32), .vmad 3 (fu (.v 3) (.v 1) (.v 2) (.v 5) .i8)], Issues i demo dg := all_issue (by decide)

theorem witness_VectorOrderClampHighProductAndDotProduct : ∀ i ∈ [Instr.vminInt v3, .vmaxInt vi, .vmulhi v3, .vclamp (fu (.v 3) (.v 1) (.v 2) (.v 5) .n32), .vdp4 (fu (.v 3) (.v 1) (.v 2) (.v 5) .n8)],
    Issues i demo dg := all_issue (by decide)

theorem witness_VectorLogicShiftsAndCounts : ∀ i ∈ [Instr.vand v3, .vor v3, .vxor v3, .vandn v3, .vshl v3, .vshr v3, .vsar vi, .vrotl v3, .vclz vu, .vctz vu, .vpopc vu, .vbrev vu, .vmov vu],
    Issues i demo dg := all_issue (by decide)

theorem witness_ComparisonsPredicatesAndSelection : ∀ i ∈ [Instr.vcmp 0 (r3 (.p 3) (.v 1) (.v 2) .n32), .vcmp 5 (r3 (.p 0) (.v 1) (.v 2) .i32), .pand (r3 (.p 3) (.p 1) (.p 0) .none),
    .por (r3 (.p 3) (.p 1) (.p 0) .none), .pxor (r3 (.p 3) (.p 1) (.p 0) .none), .pandn (r3 (.p 3) (.p 1) (.p 0) .none), .pnot (r3 (.p 0) (.p 1) o0 .none),
    .vsel (fu (.v 3) (.v 1) (.v 2) (.p 1) .n32)], Issues i demo dg := all_issue (by decide)

theorem witness_VectorFloatComparisonAndClass : ∀ i ∈ [Instr.vaddFloat f3, .vsubFloat f3, .vmulFloat { f3 with rm := .rz }, .vdiv f3, .vminFloat f3, .vmaxFloat f3, .vminn f3, .vmaxn f3, .vnegFloat f1, .vabsFloat f1,
    .vcopysign f3, .vfrnd f1, .vfma (fu (.v 3) (.v 4) (.v 4) (.v 4) .f32), .vfms (fu (.v 3) (.v 4) (.v 4) (.v 4) .f16), .vfnma (fu (.v 3) (.v 4) (.v 4) (.v 4) .f32),
    .vfnms (fu (.v 3) (.v 4) (.v 4) (.v 4) .f32), .vfclamp (fu (.v 3) (.v 4) (.v 4) (.v 4) .f32), .vdot2 (fu (.v 3) (.v 4) (.v 4) (.v 4) .bf16), .vfcmp 0 (r3 (.p 3) (.v 4) (.v 4) .f32),
    .vfcmp 7 (r3 (.p 3) (.v 4) (.v 4) .f32), .vfclass (r3 (.p 3) (.v 4) (.imm 5) .f32)], Issues i demo dg := all_issue (by decide)

theorem witness_ConversionsRoundingAndTheResidueCheck : (∀ i ∈ [Instr.vcvt (cv (.v 3) (.v 4) o0 .f32 .i32), .vcvtn (cv (.v 3) (.v 4) (.imm 1) .f32 .f16), .vcvtw (cv (.v 3) (.v 4) (.imm 3) .f8e4 .f32),
    .vcvt (cv (.v 3) (.v 9) o0 .rn24 .f32), .vcvt (cv (.v 3) (.v 1) o0 .rn24 .f32)], Issues i demo dg) ∧ (∀ l, l < 64 → (rn24Decode (laneVal demo dg .rn24 (.v 9) l)).2 = true) ∧
    (rn24Decode (laneVal demo dg .rn24 (.v 1) 0)).2 = false ∧ (fromBits (fmtOf .f16) 0x3C00).isNan = false := ⟨all_issue (by decide), by decide⟩

theorem witness_ShufflesReductionsAndScans : ∀ i ∈ [Instr.vshfl 0 0 v3, .vshfl 3 5 v3, .vredlog 0 (r3 (.v 3) (.v 5) o0 .i32), .vredlog 1 (r3 (.s 9) (.v 5) o0 .i32), .vscan 0 (r3 (.v 3) (.v 5) o0 .i32),
    .vscanx 0 (r3 (.v 3) (.v 4) o0 .f32)], Issues i demo dg := all_issue (by decide)

theorem witness_TopKDeliversValuesAndLanes : ∀ i ∈ [Instr.vtopk 7 (r3 (.v 254) (.v 1) (.p 0) .i32), .vtopkNorm 0 (r3 (.v 6) (.v 4) (.p 1) .f32)], Issues i demo dg := all_issue (by decide)

theorem witness_SpecialFunctionsTheGeneratorAndEntropy : (∀ i ∈ [Instr.vrcp (im (.v 3) (.v 4) .f32 0), .vrsqrt (im (.v 3) (.v 4) .f32 0), .vsqrt (im (.v 3) (.v 4) .f32 0), .vexpo (im (.v 3) (.v 4) .f32 0),
    .vexp2i { im (.v 3) (.v 4) .f32 0 with b := .v 5 }, .vscalb { im (.v 3) (.v 4) .f32 0 with b := .imm 3 }, .vrand { im (.v 3) (.s 4) .f32 0 with b := .v 5 },
    .vrand { im (.v 6) (.s 4) .n64 0 with b := .imm 0 }, .rseed (im (.s 9) o0 .n64 0)], Issues i demo dg) ∧ demo.ll.replay = none ∧ demo.seeds.length < 2 ^ 64 := ⟨all_issue (by decide), rfl, by decide⟩

/-! Near and far memory: the first and the last element of the near window, the page at 8 GiB. -/

theorem clean_demo (p n : Nat) : Clean demo p n := fun _ h => nomatch h

theorem witness_NearLoadsDeliverTheElementsAtTheirAddresses : let i := me (.v 6) (.s 16) (.imm 0) .n64 .group 0 .plain 0
    (∀ k ∈ [Instr.ldn i, .ldn (me (.s 9) (.s 16) o0 .n64 .group 0 .plain 0), .ldnr (me (.v 3) (.s 17) o0 .n32 .group 0 .plain 0)], Issues k demo dg) ∧
    (∀ l, l < 64 → NearElement (scalarVal demo dg i.a) (effAddr demo dg i l) 8) ∧ rowAddr demo dg (me (.v 3) (.s 17) o0 .n32 .group 0 .plain 0) = 0x7EFF00 :=
  ⟨all_issue (by decide), by decide⟩

theorem witness_NearStoresWriteTheirElementsAndNoOtherByte : let i := me (.v 2) (.s 15) (.v 2) .n16 .group 0 .plain 0
    Memory.wf demo.mem = true ∧ (∀ k ∈ [Instr.stn i, .stn (me (.s 9) (.s 16) o0 .n64 .group 0 .plain 0), .stnr (me (.v 3) (.s 17) o0 .n32 .group 0 .plain 0)], Issues k demo dg) ∧
    ∀ l, l < 64 → NearElement (scalarVal demo dg i.a) (effAddr demo dg i l) 2 := ⟨by decide, all_issue (by decide), by decide⟩

/-- One base for each clause of the checks, at the edges of the ranges; the lowest lane fails in a load from the first byte past the window. -/
theorem witness_AddressesAreCheckedBeforeAnyAccess :
    (resolve demo false true 0 8 (2 ^ 48) (-8) 0 == .error (3, 2 ^ 48 - 8)) ∧ (resolve demo false true 0 8 8 (-8) (-8) == .error (3, 2 ^ 48 - 8)) ∧ (resolve demo false false 0 8 (2 ^ 48 - 8) 0 8 == .error (3, 0)) ∧ (resolve demo false true 0 8 0x7F0001 0 0 == .error (9, 0x7F0001)) ∧
    (resolve demo false true 0 8 0x7F0000 0 0 == .error (10, 0x7F0000)) ∧ (resolve demo false false 0 8 0x7F0000 0 0 == .error (2, 0x7F0000)) ∧ (resolve demo false false 0 8 0x800000 0 0 == .error (1, 0x800000)) ∧
    (resolve demo false false 0 8 0x17FFFFFF8 0 0 == .error (2, 0x17FFFFFF8)) ∧ (resolve demo false false 0 8 0x180000000 0 0 == .error (1, 0x180000000)) ∧
    (resolve demo false false 0 8 0x100000000 0 0 == .ok ⟨0x100000000, none, none⟩) ∧ (resolve demo false false 0 8 0x200000000 0 0 == .ok ⟨0x200000000, none, none⟩) ∧
    (resolve demo false false 0 8 0x7EFFF8 0 0 == .ok ⟨slicePlace 0 0x7EFFF8, none, none⟩) ∧
    issuesB (.ldn (me (.v 6) (.s 16) (.imm 0) .n64 .group 0 .plain 8)) demo dg = true ∧
    copyCheck false ⟨0x200000000, 0x200001000, 64, 1, 0, 0, true, none⟩ = none ∧ copyCheck false ⟨0x200000008, 0x200001000, 64, 1, 0, 0, false, none⟩ = some (9, 0x200000008) ∧
    copyCheck true ⟨0, 0x200001008, 64, 1, 0, 0, false, none⟩ = some (9, 0x200001008) ∧ copyCheck false ⟨0x200000000, 0x200001000, 8, 1, 0, 0, false, none⟩ = some (9, 0x200000000) := by decide

def far (d a b : Opnd) (ty : Ty) : ME := me d a b ty .group 2 .plain 0
theorem witness_FarWordsAreHandedToTheCopyEngine : (∀ i ∈ [Instr.ldf (far (.v 6) (.s 11) (.imm 0) .n32), .ldf (far (.s 9) (.s 11) o0 .n64), .stf (me (.v 6) (.s 11) (.v 2) .n32 .device 0 .rel 0),
    .redAdd (me (.v 6) (.s 11) (.v 2) .n32 .group 0 .plain 0), .redMin (me (.v 6) (.s 11) (.v 2) .n32 .group 0 .plain 0), .redMax (me (.v 6) (.s 11) (.v 2) .n32 .group 0 .plain 0),
    .vatomAdd (me o0 (.s 11) (.v 4) .f32 .group 0 .plain 0), .atomAdd (me (.v 6) (.s 11) (.v 5) .n32 .device 2 .acqrel 0), .atomMin (far (.v 6) (.s 11) (.v 5) .n32), .atomMax (far (.v 6) (.s 11) (.v 5) .n32),
    .atomAnd (far (.v 6) (.s 11) (.v 5) .n32), .atomOr (far (.v 6) (.s 11) (.v 5) .n32), .atomXor (far (.v 6) (.s 11) (.v 5) .n32), .atomExch (far (.v 6) (.s 11) (.v 5) .n32),
    .atomCas (far (.v 6) (.s 11) (.v 5) .n32)], Issues i demo dg) ∧ (∀ l : Nat, l < 64 → resolve demo false false 0 4 (scalarVal demo dg (.s 11)) 0 (4 * (l : Int)) = .ok ⟨0x200000000 + 4 * (l : Nat), none, none⟩) ∧
    enginePlaces demo 0 < Config.copyPlaces ∧ 0 < freeSlots demo 0 ∧ wrapN 64 (scalarVal demo dg (.s 11) : Int) % 128 = 0 := ⟨all_issue (by decide), by decide⟩

theorem witness_AnEmptyMaskLeavesTheArrivalCounterAndTheFabricMark : demo.group? = some dg ∧ (∀ i ∈ [Instr.ldf { far (.v 6) (.s 11) (.imm 0) .n32 with hd := noLane }, .atomAdd { far (.v 6) (.s 11) (.v 5) .n32 with hd := noLane },
    .stf { me (.v 6) (.s 11) (.v 2) .n32 .group 0 .plain 0 with hd := noLane, glob := true }, .add { x3 with hd := noLane }, .trap { sy o0 o0 o0 .group 9 with hd := noLane }],
    illegalOf dg.limits i = none ∧ dg.active (hdOf i) = 0 ∧ maskIndependent i = false ∧ i.isWord = true) := ⟨by decide, by decide⟩

/-- A group with a report for `wait.batch`, and one with a far word in flight. -/
def reported : Group := { dg with merr := some (1, 7), bdone := 1, bopen := 2 }
def inFlightState : State := { demo with seq := 6, far := [{ id := 5, group := 0, who := whoAt 0 dg 0, kind := .load, ty := .n32, els := [], dest := .v 6, ac := some 0, holds := [], slot := false, routes := [], sends := [] }] }
theorem witness_WaitsFencesAndArrivalCounters : (∀ i ∈ [Instr.waitAc (sy o0 o0 o0 .group 0), .waitAc (sy o0 (.s 4) o0 .group 0xF00000), .waitAny (sy o0 (.s 4) o0 .group 0), .waitAll (sy o0 (.s 4) o0 .group 0),
    .waitBatch (sy o0 o0 o0 .group 0), .waitSt (sy o0 o0 o0 .group 0), .fenceAcq (sy o0 o0 o0 .job 0), .fenceRel (sy o0 o0 o0 .tile 0), .fenceRel (sy o0 o0 o0 .device 0), .fenceAcqrel (sy o0 o0 o0 .pod 0),
    .publish (sy o0 o0 o0 .group 15), .acwr (sy o0 (.imm 7) o0 .group 0xF00000)], Issues i demo dg) ∧ dg.merr = none ∧
    Issues (.waitBatch (sy o0 o0 o0 .group 1)) (with_ reported) reported ∧ Issues (.publish (sy o0 o0 o0 .group 15)) inFlightState dg ∧ (inFlightState.far.map FarOp.id = [5]) :=
  ⟨all_issue (by decide), by decide, issues_of (by decide), issues_of (by decide), by decide⟩

/-- A machine in a job of two ranks of one pod, this one rank 0: region 1 is 1 MiB at 8 GiB, open to every access of context 0. -/
def job : State :=
  { demo with regs := [(0x10000, 0x8000000020000000), (0x10108, 0x8000000080000401), (0x11008, 0x8000000000000001), (0x13020, 0x20000000F), (0x13028, 0x100000)] }

theorem witness_StatWordsReportWhatTheyName : (∀ i ∈ [Instr.ffr (sy (.s 9) (.s 4) o0 .group 0), .acrd (sy (.s 9) o0 o0 .group 0xF00000), .gracest (sy (.s 9) o0 o0 .group 0), .tinfo 4 (sy (.s 9) o0 o0 .group 0),
    .tagst (en (.s 9) o0 o0 .none 63 0 .group 0), .qstat (en (.s 9) o0 o0 .none 0 3 .group 0), .barrd (en (.s 9) (.s 19) o0 .none 0 0 .group 0), .mmstat (en (.s 9) o0 o0 .none 0 0 .group 0),
    .gget (en (.s 9) o0 o0 .none 0 1 .group 4), .pcrd (en (.s 9) o0 o0 .none 0 9 .group 1), .genrd (en (.s 9) o0 o0 .none 0 0 .group 1), .fabst (en (.s 9) o0 o0 .none 0 0 .group 0),
    .trcst (im (.s 9) o0 .none 0)], Issues i job dg) ∧ Issues (.pcrd (en (.s 9) o0 o0 .none 0 9 .group 1)) demo dg ∧ regionOf job 1 ≠ none ∧ regionOf demo 1 = none ∧ scalarVal job dg (.s 19) = 0x700 ∧
    (dg.gauge 1).valid = true ∧ demo.tags = [] := ⟨all_issue (by decide), issues_of (by decide), by decide⟩

theorem witness_CopyWordsTakeTheirTagAndTagsClear : (∀ i ∈ [Instr.cp (en (.s 13) (.s 11) (.s 20) .none 63 0 .device 0x10000), .cp (en (.s 13) (.s 11) (.s 6) .none 0 0 .tile 0), .cp (en (.s 13) (.s 5) (.s 20) .none 0 0 .tile 0),
    .cpfill (en (.s 13) (.s 4) (.imm 511) .none 5 0 .device 0), .cpd (en o0 (.s 18) o0 .none 5 0 .device 0), .tagclr (en o0 (.s 4) o0 .none 0 0 .group 0)], Issues i demo dg) ∧
    demo.blocks.get? dg.env.block = some db ∧ db.out = false ∧ enginePlaces demo 0 < Config.copyPlaces ∧ copyCheck false ⟨0x200000000, 0x200001000, 64, 1, 0, 0, true, none⟩ = none ∧
    destBytes 64 1 0 true = 128 ∧ destBytes 0 1 0 false = 0 ∧ copyCheck false ⟨7, 0x200001000, 64, 1, 0, 0, false, none⟩ = some (9, 7) ∧ scalarVal demo dg (.s 18) % 64 = 0 :=
  ⟨all_issue (by decide), by decide⟩

/-- A copy of 512 bytes within the page, whose two sectors are both still to come. -/
def dcopy : Copy :=
  { id := 5, gid := 0, who := whoAt 0 dg 0, tile := 0, block := 0, tix := 0, kind := .copy, tag := 5, src := 0x200000000, dst := 0x200001000, rowBytes := 512, rows := 1, sstride := 0, dstride := 0,
    widen := false, bar := none, unit := 0, holds := [], done := [], bytes := 0, routes := [], sends := [], desc := 0, rstride := 0, gen := 0, space := false, own := none, marks := [], got := [] }
def copying : State := on { demo with copies := [dcopy], tags := [(5, ⟨1, false, 0⟩)], seq := 6 } 5 0x2000010 0
theorem witness_ACopySectorMovesItsBytes : Memory.wf copying.mem = true ∧ copying.flaws = [] ∧ bit (copying.reg llWin).toNat 63 = false ∧ copying.copies.find? (fun x => x.id == copying.inp.a) = some dcopy ∧
    copying.blocks.get? dcopy.block = some db ∧ copying.inp.c ≠ 1 ∧ copying.faults = [] ∧ copying.far = [] ∧ copying.inp.b ∉ dcopy.done ∧ max dcopy.dst (256 * copying.inp.b) = 0x200001000 ∧ min (dcopy.dst + dcopy.rowBytes) (256 * copying.inp.b + 256) = 0x200001100 ∧
    (∀ k, k < 256 → placeOf copying 0 0 (0x200001000 + k) 1 = some (2 ^ 48 + 0x101000 + k) ∧ placeOf copying 0 0 (0x200000000 + k) 0 = some (2 ^ 48 + 0x100000 + k)) := by decide +kernel

def dpop (d : Opnd) : Pop := ⟨d, allLanes, [1, 0, 0, 0, 2, 0, 0, 0]⟩
/-- The skein with no allowance, and the group that waits to push, to pop and for its data. -/
def dry : State := { demo with skeins := [(3, { (demo.skein 3) with allowance := 0, live := [⟨0, [], false⟩] })] }
theorem witness_QpushWritesAnEntryAndQpopTakesTheOldest : (∀ i ∈ [Instr.qpush (en o0 (.v 2) o0 .none 0 3 .tile 0), .qpush (en o0 (.s 4) o0 .none 0 3 .device 0), .qbase (en (.s 9) o0 o0 .none 0 3 .group 0),
    .qpop (en (.v 3) o0 o0 .none 0 3 .device 0)], Issues i demo dg) ∧ Issues (.qpush (en o0 (.v 2) o0 .none 0 3 .tile 0)) dry dg ∧ Issues (.qpop (en (.s 9) o0 o0 .none 0 3 .tile 0)) dry dg ∧
    Issues (.qpush (en o0 (.v 2) o0 .none 0 3 .device 0)) inFlightState dg ∧ Memory.wf demo.mem = true ∧ (demo.skein 3).allowance = 3 ∧ (demo.skein 3).bytes % 8 = 0 ∧ pushWaiters demo 3 = [] ∧ popWaiters demo 3 = [] ∧
    (demo.skein 3).live = [⟨0, [], true⟩] ∧ gate demo (whoOf demo dg allLanes) 3 3 = .free ∧ (dry.skein 3).allowance = 0 ∧ (∀ e ∈ (dry.skein 3).live.head?, e.poppable = false) ∧ (∃ o ∈ inFlightState.far, o.id ∈ relIds inFlightState 2) ∧
    (with_ { dg with pops := [dpop (.v 3)] }).groups.get? 0 = some { dg with pops := [dpop (.v 3)] } ∧ (with_ { dg with pops := [dpop (.s 9)] }).groups.get? 0 = some { dg with pops := [dpop (.s 9)] } :=
  ⟨all_issue (by decide), issues_of (by decide), issues_of (by decide), issues_of (by decide), by decide⟩

def pusher : Group := { dg with wait := some (.qpush 3 (.v 2) 0 none []) }
def popper : Group := { dg with wait := some (.qpop 3 (.s 9) allLanes) }
theorem witness_SkeinStepsFollowTheOrderOfBlocking : earliest (pushWaiters (on (with_ pusher) 3 0 0) 3) = some 0 ∧ (with_ pusher).groups.get? 0 = some pusher ∧ (dry.skein 3).allowance = 0 ∧ (demo.skein 3).allowance ≠ 0 ∧
    dry.skeins.get? 3 = some (dry.skein 3) ∧ (dry.skein 3).live = [] ++ ⟨0, [], false⟩ :: [] ∧ earliest (popWaiters (with_ popper) 3) = some 0 ∧ (with_ popper).groups.get? 0 = some popper ∧
    gate (with_ popper) (whoWait 0 popper allLanes) 3 3 = .free ∧ (∃ o ∈ inFlightState.far, o.id ∈ [5]) ∧ ({ (demo.skein 3) with rises := 1 } : Skein).rises ≠ 0 := by decide

def arriver : Group := { dg with wait := some (.bara (slicePlace 0 0x700) 16 []) }
def parkedAll : Block := { db with arrived := [(2 * 64, allLanes)] }
theorem witness_BarriersCountFlipAndReleaseEveryLane : (∀ i ∈ [Instr.barinit (en o0 (.s 19) (.imm 511) .none 0 0 .group 0), .bara (en o0 (.s 19) (.imm 16) .none 0 0 .tile 0), .barw (en o0 (.s 19) (.imm 0) .none 0 0 .tile 0),
    .barw (en o0 (.s 19) (.imm 1) .none 0 0 .device 0), .barb (en o0 o0 o0 .none 0 2 .device 0)], Issues i demo dg) ∧ Issues (.bara (en o0 (.s 19) (.imm 16) .none 0 0 .device 0)) inFlightState dg ∧
    Memory.wf demo.mem = true ∧ scalarVal demo dg (.s 19) % 16 = 0 ∧ memVal demo.mem (slicePlace 0 0x702) 2 = 1 ∧ memVal demo.mem (slicePlace 0 0x502) 2 = 0 ∧
    (with_ arriver).groups.get? 0 = some arriver ∧ demo.blocks.get? 0 = some db ∧ db.out = false ∧ db.saved = [] ∧ demo.flaws = [] ∧ barrierDone demo db 2 = false ∧
    barrierDone { demo with blocks := [(0, parkedAll)] } parkedAll 2 = true ∧ (dg.depart 100 2).frame = none ∧
    (trappedParked.depart 100 2).frame ≠ none ∧ ∀ e ∈ (trappedParked.depart 100 2).paths, e.idx < 16 :=
  ⟨all_issue (by decide), issues_of (by decide), by decide⟩

theorem witness_GaugeRecordsAndAccumulatorParts : (∀ i ∈ [Instr.gset (en o0 (.s 18) o0 .none 0 15 .group 0), .gmod (en o0 (.s 4) o0 .none 0 1 .group 8), .gmod (en o0 (.s 4) o0 .none 0 1 .group 3), .ginv (en o0 o0 o0 .none 0 1 .group 0),
    .gget (en (.s 9) o0 o0 .none 0 1 .group 3), .mma (en o0 o0 o0 .bf16 0 2 .tile 0), .gmod (en o0 (.s 4) o0 .none 0 2 .group 0), .gget (en (.s 9) o0 o0 .none 0 2 .group 0),
    .mmrd (en (.v 9) o0 (.imm 255) .f32 0 0 .group 0x1C00), .mmwr (en o0 (.v 2) (.imm 0) .bf16 0 0 .group 0x1E00)], Issues i demo dg) ∧ scalarVal demo dg (.s 18) % 64 = 0 ∧
    (dg.gauge 1).valid = true ∧ (dg.gauge 2).valid = false := ⟨all_issue (by decide), by decide⟩

/-- A command of the group on the page: one row by one column, one step. -/
def dmat : MatCmd :=
  { id := 5, gid := 0, who := whoAt 0 dg 0, tile := 0, block := 0, batch := 1, conv := false, rcd := 1, half := 2, full := true, m := 1, n := 1, steps := 1, abase := 0x200000000, bbase := 0x200000000, astride := 64, bstride := 64, bord := 0, ty := .bf16, acc := .f32, rm := .rne, zero := true, dst := 0, cstride := 0, dty := .f32, exp := 0, stage := 1024, holds := [], started := false, step := 0, row := 0, bbuf := [], faulted := false }
theorem witness_MatrixWordsQueueCommands : (∀ i ∈ [Instr.mma (en o0 o0 o0 .bf16 0 1 .tile 0x10000), .mma (en o0 o0 o0 .f8e4 0 1 .device 1), .mmconv (cv o0 (.s 13) (.imm 0x112) .f32 .bf16), .mmconv (cv o0 (.s 13) (.imm 0x122) .f32 .bf16),
    .mmfence (en (.s 9) o0 o0 .none 0 0 .group 0)], Issues i demo dg) ∧ mmaCheck dgauge 1 2 32 = none ∧ mmaCheck dgauge 1 1 64 = none ∧ throttle demo 0 = 0 ∧ throttle { demo with power := [(0, { round := 0, e := 0, level := 1, thr := true })] } 0 = 1 ∧ queueRoom demo 0 1024 = true ∧
    queueRoom { demo with mats := List.replicate 16 dmat } 0 1024 = false ∧ rangeCheck 0x200001000 false 1 16 2 = none := ⟨all_issue (by decide), by decide⟩

def mat (c : MatCmd) : State := on { demo with mats := [c], seq := 6 } 5 1 0
theorem witness_MatrixCommandsStartInOrder : (mat dmat).mats.find? (fun d => d.id == 5) = some dmat ∧ faulted (mat dmat) 5 = false ∧ Memory.wf (mat dmat).mem = true ∧
    faulted { mat { dmat with started := true } with faults := [{ ctx := 0, page := 0, kind := 1, lvl := 3, pte := 0, wr := false, agent := 3, tile := 0, count := 1, written := false, reqs := [5] }] } 5 = true := by decide

theorem witness_AnMmaAdvancesRowByRow : let c := { dmat with started := true }
    (mat c).mats.find? (fun d => d.id == 5) = some c ∧ throttle (mat c) 0 = 0 ∧ c.step < c.steps ∧ (∀ a ∈ c.bAddrs ++ c.aAddrs, (placeOf (mat c) 0 0 a 0).isSome = true) ∧
    ({ c with bbuf := List.replicate 32 0 }).bbuf ≠ [] ∧ (mat { c with step := 1 }).groups.find? (fun x => x.2.gid == 0) = some (0, dg) ∧ (mat c).blocks.get? 0 = some db := by decide

def dconv : MatCmd := { dmat with conv := true, started := true, steps := 0, zero := false, dst := 0x200001000, cstride := 16 }
theorem witness_ConversionsWriteRowsAndBatchesComplete : (mat dconv).mats.find? (fun d => d.id == 5) = some dconv ∧ (mat dconv).groups.find? (fun x => x.2.gid == 0) = some (0, dg) ∧ (mat dconv).blocks.get? 0 = some db ∧
    dconv.row < dconv.m ∧ placeOf (mat dconv) 0 0 0x200001000 1 = some (2 ^ 48 + 0x101000) ∧
    (badElem { mat { dconv with acc := .rn24 } with mem := memStore [] (dconv.accAt 0 0) (leBytes 4 250) } { dconv with acc := .rn24 }).2 = some (some (0, 0, 250)) ∧
    (({ dg with bopen := 3 } : Group).bdone + 1 ≠ ({ dg with bopen := 3 } : Group).bopen) ∧ dg.bdone + 1 = dg.bopen := by decide +kernel

theorem witness_FabricCopiesAndGathersAreAccepted : (∀ i ∈ [Instr.rput (en (.s 21) (.s 11) (.s 20) .none 63 15 .group 6), .rget (en (.s 13) (.s 21) (.imm 1) .none 5 0 .group 0x10006), .gath (en o0 (.s 18) o0 .none 5 0 .group 0)],
    Issues i job dg) ∧ job.blocks.get? 0 = some db ∧ enginePlaces job 0 < Config.copyPlaces ∧ localRange 64 0x200000000 false = .ok ⟨0x200000000, none, none⟩ ∧
    globalRange job 1 64 0x8000420000000000 false = .ok ⟨2 ^ 41, some 1, some (.pod 1)⟩ ∧ globalRange job 0 256 0x8000420000000000 false = .ok ⟨2 ^ 41, some 1, some (.pod 1)⟩ ∧
    localRange 512 0x200001000 false = .ok ⟨0x200001000, none, none⟩ ∧ scalarVal job dg (.s 18) % 64 = 0 ∧
    gathSources job ⟨0x200001000, 0x8000420000000000, 64, 1, false, 0, 0, 0⟩ false 0 1 = .ok [⟨2 ^ 41, some 1, some (.pod 1)⟩] ∧ localRange 64 0x200001000 false = .ok ⟨0x200001000, none, none⟩ :=
  ⟨all_issue (by decide), by decide⟩

/-- A gather that succeeded on the descriptor at 0x600, whose shadow of four bytes is held. -/
def dshadow : Shadow := { id := 7, due := false, ctx := 0, tile := 0, desc := 0x600, dst := 0x200001000, size := 4, who := whoAt 0 dg 0, got := [(0, 1), (3, 2)] }
def shadowed (code : Byte) : State := { job with shadows := [dshadow], mem := memStore job.mem (slicePlace 0 0x638) [code] }
theorem witness_CountersGenerationsAndShadows : (∀ i ∈ [Instr.pcarm (en o0 (.s 4) o0 .none 63 9 .group 1), .pcadd (en o0 (.imm 5) o0 .none 0 15 .group 1), .genst (en o0 (.s 4) o0 .none 0 0 .group 1),
    .pcadd (en o0 (.imm 5) o0 .none 0 15 .group 31), .publishShadow (en (.s 9) (.s 18) o0 .none 0 0 .group 0)], Issues i job dg) ∧
    (∀ i ∈ [Instr.publishShadow (en (.s 9) (.s 18) o0 .none 0 0 .group 0), .publishShadow (en (.s 9) (.s 18) o0 .none 0 0 .group 1)], Issues i (shadowed 1) dg ∧ Issues i (shadowed 2) dg) ∧
    regionOf job 1 ≠ none ∧ regionOf job 31 = none ∧ (job.watches.filter (fun x => x.tile == tileOf job.cur)).length < Config.watches ∧ job.ll.replay = none ∧
    bit (job.reg llWin).toNat 63 = false ∧ Memory.wf (shadowed 1).mem = true ∧ ({ shadowed 1 with shadows := [] } : State).shadows = [] ∧ memVal job.mem (slicePlace 0 0x638) 1 = 0 ∧ memVal (shadowed 1).mem (slicePlace 0 0x638) 1 = 1 ∧
    memVal (shadowed 2).mem (slicePlace 0 0x638) 1 = 2 ∧ (shadowed 1).shadows.find? (fun h => h.tile == 0 && h.desc == 0x600 && h.ctx == 0) = some dshadow ∧
    (∀ i, i < 4 → placeOf (shadowed 1) 0 0 (0x200001000 + i) 1 = some (2 ^ 48 + 0x101000 + i)) :=
  ⟨all_issue (by decide), fun i h => ⟨all_issue (is := [.publishShadow (en (.s 9) (.s 18) o0 .none 0 0 .group 0), .publishShadow (en (.s 9) (.s 18) o0 .none 0 0 .group 1)]) (by decide) i h,
    all_issue (is := [.publishShadow (en (.s 9) (.s 18) o0 .none 0 0 .group 0), .publishShadow (en (.s 9) (.s 18) o0 .none 0 0 .group 1)]) (by decide) i h⟩, by decide⟩

/-- A load of one element from rank 1, unsent, and the same with its request sent n times before. -/
def rel : El := { lane := 0, addr := 2 ^ 41, rank := some 1, data := 0, cmp := 0, performed := false, val := 0, acked := false, landed := false }
def rload (ss : List Send) (done : Bool) : FarOp :=
  { id := 5, group := 0, who := whoAt 0 dg 0, kind := .load, ty := .n32, els := [{ rel with performed := done }], dest := .v 3, ac := some 0, holds := [], slot := true, routes := [(1, .pod 1)], sends := ss }
def rline : Nat := 2 ^ 39 + 2 ^ 34
def sent (n rto : Nat) : Send := ⟨rline, n, 0, rto, 0, false, none⟩
def rstate (ss : List Send) (done : Bool) : State := on { job with far := [rload ss done], seq := 6 } 5 rline 0
theorem witness_RequestsAreTimedAndResent : demo.peerRtt = [] ∧ (rstate [] false).far.find? (fun o => o.id == 5) = some (rload [] false) ∧ (rload [] false).route rline = some (.pod 1) ∧ (rstate [] false).hqueue = [] ∧
    rttOf (rstate [] false) (.pod 1) = some (33000, 8250) ∧ (∃ y ∈ (rload [] false).onLine rline, y.acked = false) ∧ lineHeld (rstate [] false) (rload [] false) rline (.pod 1) = false ∧
    noPlane (rstate [] false) (.pod 1) = false ∧ (rload [sent 1 50] true).sends.find? (fun y => y.x == rline) = some (sent 1 50) ∧ (∀ y ∈ (rload [sent 1 50] true).onLine rline, y.performed = true) ∧
    (rstate [sent 1 50] false).clock = 100 ∧ (sent 1 50).at_ + (sent 1 50).rto ≤ 100 ∧ (sent 1 50).resends < 15 ∧ 15 ≤ (sent 15 50).resends ∧ 100 < (sent 0 101).at_ + (sent 0 101).rto ∧
    (rstate [sent 15 50] false).far.find? (fun o => o.id == 5) = some (rload [sent 15 50] false) ∧ (rload [sent 15 50] false).sends.find? (fun y => y.x == rline) = some (sent 15 50) := by decide +kernel

def arrived : State :=
  { on job 1 9 1 with inp := { Inp.zero with a := 1, b := 9, c := 1, v := BitVec.ofNat 64 (2 ^ 41 + 0x1000), bytes := [1, 2, 3, 4], nums := [0, 15, 0, 0] },
                      trans := [{ tile := 256, ctx := 0, va := 0x200000000, size := 2 ^ 21, pa := 0x100000, host := false, sys := false, w := true, x := true }] }
def dwatch (met : Bool) : Watch := { ctr := 25, thr := 0, who := whoAt 0 dg 0, gid := 0, tile := 0, block := 0, tix := 0, tag := 5, met := met }
def gathered (marks done : List Nat) (rows : Nat) : Copy := { dcopy with kind := .gather, rowBytes := 64, rows := rows, desc := 0x600, marks := marks, done := done, unit := 64, space := true }
theorem witness_PacketsArePlacedOnceAndGathersEndWithTheirCode : regionOf arrived 1 = some ⟨0x200000000, 0x100000, 0, false, true, true, true⟩ ∧ arrived.placed = [] ∧
    (∀ i, i < 4 → placeOf arrived midTile 0 (0x200001000 + i) 1 = some (2 ^ 48 + 0x101000 + i)) ∧ arrived.inp.c = 1 ∧ arrived.inp.nums.getD 0 0 = 0 ∧ arrived.inp.nums.getD 3 0 = 0 ∧
    arrived.ll.replay = none ∧ regionOf { arrived with regs := [] } (arrived.inp.v.toNat / 2 ^ 41 % 32) = none ∧ ({ arrived with watches := [dwatch true] } : State).watches[1 - 1]? = some (dwatch true) ∧
    (dwatch true).met = true ∧ (dwatch false).met = false ∧ arrived.blocks.get? (dwatch true).block = some db ∧ ((1, 9) ∈ ({ arrived with placed := [(1, 9)] } : State).placed) ∧ ((arrived.pcs.getD 25 0 - 0 : W64).toNat < 2 ^ 63) ∧ (2 ^ 63 ≤ (arrived.pcs.getD 25 0 - 1 : W64).toNat) ∧
    ((gathered [] [] 16777217).rows * 64 > 2 ^ 30) ∧ (gathered [] [0] 1).rows * (gathered [] [0] 1).packets ≤ 1 ∧ 0 < (gathered [] [] 1).rows * (gathered [] [] 1).packets ∧ 0 ∈ (gathered [0] [] 1).marks := by
  decide +kernel

/-- The load on its way to a pod that is not cached, and on a torus port whose PDOWN is written 1. -/
def onNet : State := on { job with far := [{ rload [] false with routes := [(1, .net 3 1 none)] }], seq := 6 } 5 1 0
def onPort : FarOp := { rload [sent 1 50] false with routes := [(1, .port 2 1 0)] }
def portFails : State := { job with far := [onPort], seq := 6, inp := { Inp.zero with v := 0x0400000000000000 } }
theorem witness_PlanesPodsAndPorts : bit demo.dead 0 = false ∧ bit ({ demo with dead := 1 } : State).dead 0 = true ∧ (∀ p, p < 4 → bit demo.dead (fld demo.pmap (2 * p) 2) = false) ∧
    bit (0 + 0x8000000000000000 * 2 ^ 64) 127 = true ∧ demo.rtcache = [] ∧ onNet.far.find? (fun o => o.id == onNet.inp.a) = some { rload [] false with routes := [(1, .net 3 1 none)] } ∧ onNet.rtcache = [] ∧ (∀ p, p < 8 → bit 0 (56 + p) = false) ∧
    onPort ∈ (portFails.far) ∧ sent 1 50 ∈ onPort.sends ∧ (sent 1 50).alt = none ∧ onPort.route (sent 1 50).x = some (.port 2 1 0) ∧ portFails.flaws = [] ∧ bit portFails.inp.v.toNat (56 + 2) = true ∧
    bit (portFails.reg (jobWin + 8)).toNat (56 + 2) = false ∧ demo.inp.a ≠ 1 := by decide +kernel

theorem witness_JobsRegionsHostAndVersions : bit (job.reg jobWin).toNat 63 = true ∧ bit (demo.reg jobWin).toNat 63 = false ∧ (markFabric demo 0).ctxs = [(0, { Ctx.live with fabric := true })] ∧
    bit (job.reg 0x13020).toNat 0 = true ∧ bit (demo.reg 0x13020).toNat 0 = false ∧ ({ demo with pubs := [⟨0, 3, 90, some 0, none, 80⟩] } : State).pubs[0]? = some ⟨0, 3, 90, some 0, none, 80⟩ ∧
    ({ demo with veils := [⟨some 0, none, 95, 2 ^ 48, 7, []⟩] } : State).veils.filter (fun x => x.place == 2 ^ 48 + 0) = [⟨some 0, none, 95, 2 ^ 48, 7, []⟩] ∧ demo.flaws = [] ∧ demo.inp.nums = [] ∧
    bit (({ demo with regs := [(0x2018, 1)] } : State).reg 0x2018).toNat 0 = true ∧ bit (demo.reg 0x2018).toNat 0 = false := by decide

theorem witness_TrapsEnterTheHandlerAndRteReturns : dg.frame = none ∧ dg.env.handler ≠ 0 ∧ trapped.frame.isSome = true ∧ ({ dg with env := { dg.env with handler := 0 } } : Group).env.handler = 0 ∧
    (demo.ctxs.getD 0 Ctx.live).status = 0 ∧ Issues (.trap (sy o0 o0 o0 .group 255)) demo dg ∧ Issues (.rte (sy o0 o0 o0 .group 0)) demo dg ∧ Issues (.rteSkip (sy o0 o0 o0 .group 0)) demo dg ∧
    Issues (.rte (sy o0 o0 o0 .group 0)) (with_ trapped) trapped ∧ Issues (.rteSkip (sy o0 o0 o0 .group 0)) (with_ trapped) trapped ∧ trapped.preempt = false ∧ trapped.frame.map (fun f => (f.late, f.fresh)) = some ([], false) ∧ demo.flaws = [] ∧ (∀ e ∈ trapped.paths ++ dg.paths, e.idx < 16) ∧
    Issues (.rte (sy o0 o0 o0 .group 0)) (with_ { trapped with exited := 1 }) { trapped with exited := 1 } ∧ ({ trapped with exited := 1 } : Group).exited &&& ~~~(0 : Mask) = 1 ∧
    fieldsOf (.neg (r3 (.imm 9) (.s 4) o0 .i32)) ≠ none ∧ illegalOf dg.limits (.neg (r3 (.imm 9) (.s 4) o0 .i32)) = some (6, 1) :=
  ⟨by decide, by decide, by decide, by decide, by decide, issues_of (by decide), issues_of (by decide), issues_of (by decide), issues_of (by decide), issues_of (by decide), by decide, by decide, by decide, by decide, issues_of (by decide), by decide, by decide, by decide⟩

def cast : Cast := { who := whoAt 0 dg 0, k := 3, obj := 0x200001000, ids := [], since := some 50, list := none, prog := 0, head := 0 }
/-- The group in its PREEMPT handler, of a block whose pre-emption is in progress. -/
def leaver : Group := dg.enter 50 7 0 false false allLanes
def leaving : State := { with_ leaver with blocks := [(0, { db with raised := some 40 })] }
/-- Queue 32 and the task queue enabled for context 0, and an allocator 3 with its list at 8 GiB. -/
def queued : State := { demo with regs := [(0x1408, 0x8000000000000006), (0x1608, 0x8000000000000006), (0x8018, 0x8000000200000000)] }
theorem witness_SystemWords : (∀ i ∈ [Instr.tinfo 0 (sy (.s 9) o0 o0 .group 0), .tinfo 3 (sy (.s 9) o0 o0 .group 0), .save (sy o0 o0 o0 .group 0x1FFFF), .yield (sy o0 o0 o0 .group 0), .tfence (sy o0 o0 o0 .tile 0),
    .tfence (sy o0 o0 o0 .device 0), .icinv (sy o0 (.s 11) (.s 20) .device 0), .icinv (sy o0 (.s 7) (.s 20) .tile 0), .quiesce (sy o0 o0 o0 .group 0), .graceWait (sy o0 o0 o0 .group 0),
    .dfree (sy (.s 9) (.s 13) o0 .group 3), .launch (sy (.s 9) (.s 18) o0 .group 0), .tpost (sy (.s 9) (.s 18) o0 .group 0)], Issues i demo dg ∧ Issues i queued dg) ∧
    Issues (.yield (sy o0 o0 o0 .group 0)) leaving leaver ∧ Issues (.save (sy o0 o0 o0 .group 1)) leaving leaver ∧ leaver.frame.map (fun f => f.kind) = some 7 ∧ leaver.preempt = false ∧
    scalarVal demo dg (.s 13) % 8 = 0 ∧ localReason false 8 (scalarVal demo dg (.s 13)) = none ∧ 2 ^ 48 ≤ scalarVal demo dg (.s 7) ∧ scalarVal demo dg (.s 11) + scalarVal demo dg (.s 20) < 2 ^ 48 ∧
    bit (queued.reg 0x8018).toNat 63 = true ∧ bit (demo.reg 0x8018).toNat 63 = false ∧ bit (queued.reg 0x1408).toNat 63 = true ∧ bit (demo.reg 0x1608).toNat 63 = false ∧ memVal queued.mem (slicePlace 0 0x600) 64 = 0 ∧ queued.ll.replay = none ∧ gate queued (whoOf queued dg allLanes) 5 32 = .free ∧ dfreeWaiters queued = [] ∧
    Config.castoffMax ≤ ({ queued with castoffs := List.replicate Config.castoffMax cast } : State).castoffs.length ∧ queued.castoffs.length < Config.castoffMax ∧ queued.far = [] ∧ queued.icinvs = [] ∧ bit (queued.reg llWin).toNat 63 = false ∧
    ({ queued with queues := [(32, { Qst.fresh with used := 64 })] } : State).queues.getD 32 Qst.fresh = { Qst.fresh with used := 64 } :=
  ⟨fun i h => ⟨all_issue (is := [.tinfo 0 (sy (.s 9) o0 o0 .group 0), .tinfo 3 (sy (.s 9) o0 o0 .group 0), .save (sy o0 o0 o0 .group 0x1FFFF), .yield (sy o0 o0 o0 .group 0), .tfence (sy o0 o0 o0 .tile 0),
    .tfence (sy o0 o0 o0 .device 0), .icinv (sy o0 (.s 11) (.s 20) .device 0), .icinv (sy o0 (.s 7) (.s 20) .tile 0), .quiesce (sy o0 o0 o0 .group 0), .graceWait (sy o0 o0 o0 .group 0),
    .dfree (sy (.s 9) (.s 13) o0 .group 3), .launch (sy (.s 9) (.s 18) o0 .group 0), .tpost (sy (.s 9) (.s 18) o0 .group 0)]) (by decide) i h,
    all_issue (is := [.tinfo 0 (sy (.s 9) o0 o0 .group 0), .tinfo 3 (sy (.s 9) o0 o0 .group 0), .save (sy o0 o0 o0 .group 0x1FFFF), .yield (sy o0 o0 o0 .group 0), .tfence (sy o0 o0 o0 .tile 0),
    .tfence (sy o0 o0 o0 .device 0), .icinv (sy o0 (.s 11) (.s 20) .device 0), .icinv (sy o0 (.s 7) (.s 20) .tile 0), .quiesce (sy o0 o0 o0 .group 0), .graceWait (sy o0 o0 o0 .group 0),
    .dfree (sy (.s 9) (.s 13) o0 .group 3), .launch (sy (.s 9) (.s 18) o0 .group 0), .tpost (sy (.s 9) (.s 18) o0 .group 0)]) (by decide) i h⟩,
   issues_of (by decide), issues_of (by decide), by decide +kernel⟩

/-- A packet of `temit` of the group. -/
def packet (c : Nat) : Due := { clock := c, key := 0, rank := 1, ty := 7, payload := leBytes 8 7, mark := [] }
/-- Tracing, breakpoints and the ring's drain on for tile 0. -/
def traced : State := { with_ { dg with owes := false } with regs := [(0x20000, 0xB00000000000000C)] }
theorem witness_TraceWords : (∀ i ∈ [Instr.trcdis (im o0 o0 .none 0), .trcen (im o0 o0 .none 0), .bkpt (im o0 o0 .none 255), .tmark (im o0 o0 .none 0), .temit (im o0 (.s 5) .none 0), .tflush (im o0 o0 .none 0)],
    Issues i demo dg ∧ Issues i traced { dg with owes := false }) ∧ bit (traced.reg 0x20000).toNat 63 = true ∧ bit (traced.reg 0x20000).toNat 61 = true ∧ bit (traced.reg 0x20000).toNat 60 = true ∧
    bit (demo.reg 0x20000).toNat 63 = false ∧ (dg.run?).isSome = true ∧ (traced.dbg 0).due = [] ∧ (traced.dbg 0).owed = 0 ∧
    tileOf (packet 99).key = 0 ∧ (packet 99).clock < traced.clock ∧ traced.groups.get? (packet 99).key = some { dg with owes := false } ∧ ({ Dbg.idle with due := [packet 99] } : Dbg).due = [packet 99] ∧
    Config.fifoBytes < ({ Dbg.idle with fifo := List.replicate 4090 0 } : Dbg).fifo.length + (2 + (packet 99).payload.length) :=
  ⟨fun i h => ⟨all_issue (is := [.trcdis (im o0 o0 .none 0), .trcen (im o0 o0 .none 0), .bkpt (im o0 o0 .none 255), .tmark (im o0 o0 .none 0), .temit (im o0 (.s 5) .none 0), .tflush (im o0 o0 .none 0)]) (by decide) i h,
    all_issue (is := [.trcdis (im o0 o0 .none 0), .trcen (im o0 o0 .none 0), .bkpt (im o0 o0 .none 255), .tmark (im o0 o0 .none 0), .temit (im o0 (.s 5) .none 0), .tflush (im o0 o0 .none 0)]) (by decide) i h⟩, by decide +kernel⟩

/-- A re-execution that will write lanes 0 and 63 of v3, and its group. -/
def retry : Retry :=
  { regs := [⟨false, 3, 0, 250, 0⟩, ⟨false, 3, 63, 255, 0⟩], preds := [], status := 0, mask := allLanes, ty := .n32, cleared := [], expects := [(0, 0, 1)] }
def again : Group := { dg with redo := some retry, busy := 12 }
/-- The group whose words have all issued at offset 0, with two lanes gone, all gone, and one entry. -/
def overG : Group := { dg with todo := some [], rcd := { Rec.empty with exits := 5, next := [(1, 9)], plane := [(3, 2)] } }
def gone : Group := { dg with todo := some [], rcd := { Rec.empty with exits := allLanes } }
theorem witness_OffsetsCompleteAndGroupsGoOn : dg.todo ≠ some [] ∧ dg.busy ≠ 2 ∧ overG.redo = none ∧ overG.late = [] ∧ overG.preempt = false ∧ overG.ended = false ∧ demo.flaws = [] ∧ check dg.limits (unpack (encode (.vaddInt v3))) = none ∧ overG.run? = overG.paths.head? ∧ (overG.paths.head?.map (fun e => e.lanes &&& ~~~overG.rcd.exits)) = some 0xFFFFFFFFFFFFFFFA ∧
    (gone.paths.head?.map (fun e => e.lanes &&& ~~~gone.rcd.exits)) = some 0 ∧ overG.wait = none ∧ overG.frame = none ∧
    ({ dg with busy := 2, ready := 100 } : Group).ready ≤ demo.clock ∧ demo.clock < ({ dg with busy := 2, ready := 101 } : Group).ready ∧ (beginOffset demo 0 dg).isSome = true ∧
    fetchAt { demo with mem := memStore [] (slicePlace 0 0) (leBytes 12 (encode (.vaddInt v3))) } 0 dg 0 0 = .word (encode (.vaddInt v3)) ∧
    mod3Checked (.vaddInt v3) = true ∧ ({ dg with struck := some 63 } : Group).struck = some 63 ∧ illegalOf dg.limits (.vaddInt v3) = none ∧ lane (dg.active (hdOf (.vaddInt v3))) 63 = true ∧ dg.ended = false ∧
    (with_ again).groups.get? 0 = some again ∧ again.redo = some retry ∧ again.issued = none ∧ ({ again with issued := some 97 } : Group).issued = some 97 ∧ demo.clock < 97 + 4 ∧
    (∀ x ∈ retry.regs, x.scalar = false ∧ x.lane < 64) ∧ retry.regs.Pairwise (fun x y => x.reg ≠ y.reg ∨ x.lane ≠ y.lane) ∧ demo.inp.b = 0 ∧ (on demo 0 1 0).inp.b ≠ 0 ∧ demo.icache = [] ∧
    ({ db with raised := none } : Block).raised = none ∧ dg.pops = [] ∧ demo.copies = [] ∧ demo.mats = [] ∧ codeReason dg 0 3 = none ∧
    (∀ i, i < 3 → placeOf demo 0 0 (36 + 4 * i) 2 = some (slicePlace 0 36 + 4 * i)) ∧ waitHolds demo 0 dg (.ac 0 0) = true ∧ waitHolds demo 0 dg (.ac 0 5) = false ∧ waitHolds demo 0 dg .st = true ∧
    ({ dg with ended := true } : Group).merr = none ∧ (∃ o ∈ inFlightState.far, o.group = 0) := by decide +kernel

def hel (l a : Nat) (d c : Bool) : El := { lane := l, addr := a, rank := none, data := 7, cmp := 0, performed := d, val := 9, acked := c, landed := false }
def hload (k : FarKind) (es : List El) (ac : Option Nat) : FarOp :=
  { id := 5, group := 0, who := whoAt 0 dg 0, kind := k, ty := .n32, els := es, dest := .v 3, ac := ac, holds := [], slot := false, routes := [], sends := [] }
def home (o : FarOp) : State := { on { demo with far := [o], seq := 6 } 5 0 0 with inp := { Inp.zero with a := 5, m := allLanes } }
def waiter : Group := { dg with wait := some (.grace [] (some 50) 0) }
def freer : Group := { dg with wait := some (.dfree (.s 9) 0x200001000 3 [] (some 50) 0) }
/-- The entry after its first and its second step. -/
def castAt (n : Nat) : Cast := { cast with prog := n }
theorem witness_FarElementsArePerformedAndCounted : (∀ k ∈ [FarKind.load, .store, .atom 0, .atom 7, .red 2, .vatom], (home (hload k [hel 0 0x200000000 false false] (some 0))).far.find? (fun o => o.id == 5) =
      some (hload k [hel 0 0x200000000 false false] (some 0)) ∧ earlierShares (home (hload k [hel 0 0x200000000 false false] (some 0))) (hload k [hel 0 0x200000000 false false] (some 0)) (hel 0 0x200000000 false false) = false ∧
      (hload k [hel 0 0x200000000 false false] (some 0)).same (home (hload k [hel 0 0x200000000 false false] (some 0))) (hel 0 0x200000000 false false) = [hel 0 0x200000000 false false]) ∧
    (home (hload .load [] none)).hostAts = [] ∧ (home (hload .load [] none)).faults = [] ∧ (home (hload .load [] none)).inp.c ≠ 1 ∧ (home (hload .load [] none)).ll.replay = none ∧
    (xlate (home (hload .load [] none)) 0 0 0x200000000 0).map Prod.fst = some (2 ^ 48 + 0x100000) ∧
    (∀ e ∈ (hload .load [hel 0 0 true true, hel 63 0 true true] (some 15)).els, e.acked = true ∧ e.landed = false ∧ e.lane < 64) ∧
    (hload .load [hel 0 0 true true, hel 63 0 true true] (some 15)).els.Pairwise (fun a b => a.lane ≠ b.lane) ∧ (∀ e ∈ (hload .store [hel 0 0 true true] none).els, e.acked = true) ∧
    elapsed (with_ waiter) 0 50 = elapsed (with_ waiter) waiter.env.ctx 50 ∧ elapsed { with_ { waiter with quiet := some 60 } with clock := 2000 } 0 50 = true ∧ elapsed (with_ dg) 0 50 = false ∧
    gate (with_ waiter) { whoWait 0 waiter 0 with lane := 0 } 10 0 = .free ∧ earliest (dfreeWaiters (with_ freer)) = some 0 ∧ (with_ freer).castoffs.length < Config.castoffMax ∧ postGate (with_ freer) { whoWait 0 freer 0 with lane := 0 } = .free ∧ ({ demo with castoffs := [cast] } : State).castoffs.find? (fun e => e.who.ctx == 0) = some cast ∧
    localReason false 8 (cast.obj.toNat + 8 * 0) = none ∧ localReason false 8 0x200000000 = none ∧ placeOf queued 0 0 0x200000000 1 = some (2 ^ 48 + 0x100000) ∧
    placeOf queued 0 0 0x200001000 1 = some (2 ^ 48 + 0x101000) ∧ memVal queued.mem (2 ^ 48 + 0x100000) 8 = (castAt 2).head.toNat ∧ memVal queued.mem (2 ^ 48 + 0x100000) 8 ≠ ({ castAt 2 with head := 8 } : Cast).head.toNat ∧
    (castAt 1).prog = 1 ∧ elapsed { queued with groups := [] } 0 50 = true := by decide +kernel

/-- The smallest record: PSLOG 4, one block of one group on one tile, no roles; its job in queue 32; queue 32 enabled with the record posted. -/
def hdr1 : Nat := 4 * 2 ^ 52 + 2 ^ 96
def job1 : Job :=
  { id := 1, queue := 32, num := 0, ctx := 0, launch := 0, hdr := hdr1, decls := [], args := [], blocks := 1, next := 0, ended := 0, bitmap := 0, status := 0, finished := false, task := false, haddr := 0, home := 0 }
def qhome : State :=
  { queued with regs := [(0x1400, 0x200010000), (0x1408, 0x8000000000000006), (0x1600, 0x200020000), (0x1608, 0x8000000000000006)], seq := 7
                trans := [{ tile := 256, ctx := 0, va := 0x200000000, size := 2 ^ 21, pa := 0x100000, host := false, sys := false, w := true, x := true }] }
def posted : State :=
  { on qhome 32 0 0 with posts := [{ queue := 32, bytes := leBytes 64 hdr1, slot := 0, ids := [], who := whoAt 0 dg 0 }, { queue := 48, bytes := leBytes 64 0x200030000, slot := 0, ids := [], who := whoAt 0 dg 0 }] }
/-- The job waiting for its place on an empty device; a consumer of it that came early. -/
def waiting : State := { State.reset with regs := [(0x1408, 0x8000000000000006)], jobs := [job1], seq := 2 }
theorem witness_QueuesLaunchesAndBlocks : bit (({ demo with regs := [(0x1A008, 0x8000000000000000)] } : State).reg 0x1A008).toNat 63 = true ∧ bit (demo.reg 0x1A008).toNat 63 = false ∧ bit (demo.reg 0x1408).toNat 63 = false ∧
    badRec hdr1 = false ∧ badCode hdr1 = false ∧ badShape hdr1 = false ∧ badRole hdr1 = false ∧ badQueue [] = false ∧ hdr1 / 2 ^ 416 % 2 ^ 96 = 0 ∧ badRec 0 = false ∧ 0 / 2 ^ 52 % 32 < 4 ∧
    badCode (4 * 2 ^ 52) = false ∧ 4 * 2 ^ 52 / 2 ^ 96 % 128 = 0 ∧ badShape (hdr1 + 5 * 2 ^ 119) = false ∧ 4 < (hdr1 + 5 * 2 ^ 119) / 2 ^ 119 % 8 ∧ badQueue (leBytes 4 0x80000000) = true ∧ hdr1 / 2 ^ 320 % 4 = 0 ∧ bit hdr1 111 = false ∧
    mayTake demo 32 = false ∧ mayTake posted 32 = true ∧ (nextBytes posted 32).map (fun x => (leVal x.2, x.1.ll == posted.ll && x.1.regs == posted.regs)) = some (hdr1, true) ∧ choose demo = none ∧
    (choose waiting).map (fun c => (c.place.tiles.length, c.place.bases.length, hG c.job.hdr, hT c.job.hdr)) = some (1, 1, 1, 1) ∧ (queueChoice waiting 32).isSome = true ∧ 
    ({ Qst.fresh with since := some 5 } : Qst).since = some 5 ∧ ({ db with gone := [0] } : Block).keys.length ≤ ({ db with gone := [0] } : Block).gone.length ∧
    ({ waiting with jobs := [{ job1 with id := 1 }] } : State).jobs.find? (fun j => j.id == db.job) = some job1 ∧
    producerOf { waiting with jobs := [job1] } 32 9 1 (hdr1 + 2 ^ 327) = some job1 ∧ bit job1.bitmap 0 = false ∧ bit ({ job1 with bitmap := 1 } : Job).bitmap 0 = true ∧
    Job.over waiting job1 = false ∧ Job.over waiting { job1 with ended := 1 } = true ∧ hdr1 / 2 ^ 256 % 2 ^ 64 = 0 ∧ badRec (hdr1 + 0x200001000 * 2 ^ 256) = false ∧ placeOf qhome midTile 0 0x200001000 1 = some (2 ^ 48 + 0x101000) ∧
    placeOf qhome midTile 0 0x200001008 1 = some (2 ^ 48 + 0x101008) ∧ mayTake demo 48 = false ∧ mayTake posted 48 = true ∧ (posted.posts.find? (fun p => p.queue == 48)).isSome = true ∧
    ((nextBytes posted 48).bind (fun x => (enterTask x.1 x.2 0).map (fun s2 => choose (tookRecord s2 48 1)))) = some none := by decide +kernel
theorem witness_QueuesLaunchesAndBlocks_more : windowOf waiting 32 = [job1] ∧ admissible waiting job1 = true ∧ windowOf demo 32 = [] ∧ Qst.fresh.aged = false ∧ bit (waiting.reg llWin).toNat 63 = false ∧
    waiting.ll.replay = none ∧ (waiting.reg 0x20000).toNat < 2 ^ 63 ∧ bit (posted.reg llWin).toNat 63 = false ∧ posted.ll.replay = none ∧ ({ Ctx.live with status := 9 } : Ctx).status ≠ 0 ∧
    badDone (hdr1 + 0x200001000 * 2 ^ 256) = false ∧ bit hdr1 126 = false ∧ job1.status < 64 ∧ qhome.hqueue = [] := by decide +kernel

/-- The block of the group raised at clock 10 with a swap area of one slot; and out with the group saved. -/
def swapped : State := { demo with regs := [(0x2000, 0x200000000), (0x2008, 0x8000000000000001)] }
/-- The group that leaves its block, whose swap area is mapped; the block out, on an empty device. -/
def goer : Group := { dg with leaving := true }
def swapping : State :=
  { swapped with groups := [(0, goer)], blocks := [(0, { db with raised := some 10 })]
                 trans := [{ tile := 0, ctx := 0, va := 0x200000000, size := 2 ^ 30, pa := 0, host := false, sys := false, w := true, x := true }] }
def outBlock : Block := { db with keys := [none], out := true, saved := [(0, goer)], hdr := hdr1, tiles := [0] }
def returning : State := { swapping with groups := [], blocks := [(0, outBlock)], jobs := [job1], mem := [] }
theorem witness_PreemptionSwapsBlocksOutAndBack : swapped.blocks.get? 0 = some db ∧ freeSlot swapped 0 = some 0 ∧ freeSlot demo 0 = none ∧ db.gone.length < db.keys.length ∧ consumerWaits swapped db = false ∧
    hBudget ({ db with hdr := 2 ^ 214 } : Block).hdr = 1 ∧ dg.frame = none ∧ dg.env.handler ≠ 0 ∧ dg.run?.isSome = true ∧ fetchFaulted swapped 0 { dg with budget := some 164 } = false ∧ ({ db with raised := some 10 } : Block).raised = some 10 ∧
    10 + 64 * hBudget ({ db with raised := some 10 } : Block).hdr ≤ swapped.clock ∧ swapped.clock < 50 + 64 * hBudget ({ db with hdr := 2 ^ 214, raised := some 50 } : Block).hdr ∧
    dg.wait = none ∧ dg.redo = none ∧ again.redo ≠ none ∧ dg.still = false ∧ ({ dg with still := true } : Group).still = true ∧ ({ dg with leaving := true } : Group).ended = false ∧ dg.bad = [] ∧
    swapping.groups.get? 0 = some goer ∧ swapping.blocks.get? goer.env.block = some { db with raised := some 10 } ∧ mayLeave swapping 0 goer = true ∧ goer.bad = [] ∧ some 1 ∈ [some 1] ∧
    (spillImage swapping 0 goer).2.isSome = true ∧
    (writeParts (spillImage swapping 0 goer).1 (whoAt 0 goer 0) 0 (swapSlot swapping 0 0)
      ((groupImage (spillImage swapping 0 goer).1 0 goer).map (fun x => (0x8000 + x.1, x.2)) ++ [(0x480000, ((spillImage swapping 0 goer).2.getD []))])).isSome = true ∧ db.owed = [] ∧ db.accDue = false ∧
    mayRestore returning 0 = true ∧ (restorePlace returning 0 outBlock).isSome = true ∧ (∀ x, restorePlace returning 0 outBlock = some x → (restoreBlock returning 0 outBlock x.1).isSome = true) ∧
    restorePlace { returning with regs := (List.range 4).map (fun k => (0x14140 + 8 * k, -1)) } 0 outBlock = none := by decide +kernel

/-- A clock in which tile 0 samples. -/
def sampled : State := { demo with clock := 256, regs := [(0x20000, 0x4000000000000000)] }
theorem witness_TraceAndDebugSteps : bit (demo.reg 0x20000).toNat 62 = false ∧ ({ demo with clock := 256 } : State).clock % 2 ^ (0 + 8) = 0 ∧ dg.lastMark + 4096 ≤ ({ demo with clock := 5000 } : State).clock ∧
    demo.clock < dg.lastMark + 4096 ∧ bit (traced.reg 0x20000).toNat 63 = true ∧ dg.run?.isSome = true ∧ (demo.dbgs.getD 0 Dbg.idle).owed = 0 ∧ ({ Dbg.idle with owed := 3 } : Dbg).owed ≠ 0 ∧
    sampled.groups.get? 0 = some dg ∧ bit (sampled.reg 0x20000).toNat 62 = true ∧ sampled.clock % 2 ^ ((sampled.reg 0x20000).toNat / 2 ^ 8 % 16 + 8) = 0 ∧ (sampled.dbg 0).sampled ≠ some 256 ∧ (sampled.dbg 0).due = [] ∧
    ({ Dbg.idle with sampled := some 256 } : Dbg).sampled = some sampled.clock ∧ dg.redo = none ∧ again.redo ≠ none ∧ again.busy ≠ 11 ∧ demo.clock < ({ dg with delayed := 101 } : Group).delayed ∧
    (∃ e ∈ dg.paths, e.held = false) ∧ ({ dg with owes := false } : Group).owes = false ∧ (packet 99).clock < demo.clock ∧ (packet 99).ty ≠ 3 ∧
    (4 : Nat) ≤ ({ Dbg.idle with fifo := [1, 2, 3, 4] } : Dbg).fifo.length ∧ outsidePool 0 (2 ^ (trcctlStored 0x8000000000000000 % 32)) = true ∧ bit (trcctlStored 0x8000000000000000) 63 = true ∧
    bit (trcctlStored 0) 63 = false ∧ (0x4000000000000001 : Nat) % 4 = 1 := by decide +kernel

/-- A group whose page at 9 GiB is not held, with a table root. -/
def missing : State := { on demo 0 0 0 with inp := { Inp.zero with v := 0x240000000, c := 0, d := 5, nums := [] }, far := [hload .load [hel 0 0x240000000 false false] (some 0)], seq := 6 }
theorem witness_WalksFaultsAndTheirAnswers : walkEntry 0 1 0 = .fault 1 ∧ walkEntry 0 1 0x81 = .fault 4 ∧ walkEntry 0 1 0x1001 = .next 0x1000 ∧ walkEntry 0 2 0x20001 = .next 0x20000 ∧ walkEntry 0 2 0x1001 = .fault 4 ∧
    walkEntry 0 3 1 = .fault 4 ∧ walkEntry 0 1 3 = .fault 4 ∧ walkEntry 0 2 0x43 = .fault 4 ∧ walkEntry 0 3 0x10013 = .fault 4 ∧ walkEntry 0 3 0x5FC0010003 = .fault 5 ∧ walkEntry 1 3 0x10003 = .fault 2 ∧
    walkEntry 2 3 0x10003 = .fault 3 ∧ walkEntry 2 3 0x1000B = .leaf 0x10000 65536 ∧ walkEntry 0 3 0x200043 = .leaf 0x200000 (2 ^ 21) ∧ walkEntry 0 2 0x40000003 = .leaf 0x40000000 (2 ^ 30) ∧
    (needsWalk missing 0 0 0x240000000 0 5 0 0).isSome = true ∧ needsWalk missing 0 0 0x200000000 0 5 0 0 = none ∧ missing.walks = [] ∧ missing.flaws = [] ∧
    ([{ ctx := 0, page := 0x24000, kind := 1, lvl := 1, pte := 0, wr := false, agent := 0, tile := 0, count := 1, written := false, reqs := [5] }] : List FaultEntry).find? (fun f => f.ctx == 0 && f.page == 0x24000) ≠ none ∧
    ({ demo with icinvs := [⟨5, 0, 0, false, 0, 64⟩] } : State).icinvs.find? (fun c => c.id == 5) = some ⟨5, 0, 0, false, 0, 64⟩ ∧ (0 : Nat) + 32 * 2 ^ 4 ≤ 383 * 2 ^ 30 := by decide +kernel

/-- Lifeline enrolled on context 0, its cut unsealed and confirmed, or sealed in slot 0 with a replay to end. -/
def alive (l : Lifeline) : State := { demo with regs := [(0x14000, 0x800000000000000A), (0x14008, 0x8000000000000000), (0x14010, 0x200000), (0x14020, 20)], blocks := [(0, { db with epoch := 0 })], ll := l }
def dcut (ok : Bool) : Cut := { k := 0, at_ := 50, confirmed := ok, held := [], taken := 0, manifest := Manifest.none }
def dentry : LogEntry := { data := 5, obj := 0, serial := 1, block := 0, launch := 0, group := 0, lane := 0, epoch := 0, kind := 8 }
/-- A target within the mapped page, and cut 0 confirmed; a target on rank 1. -/
def cutting : State :=
  { alive { Lifeline.idle with cuts := [dcut true] } with
    regs := [(0x14000, 0x800000000000000A), (0x14008, 0x200000000), (0x14010, 0x200000), (0x14020, 20)]
    trans := [{ tile := 256, ctx := 0, va := 0x200000000, size := 2 ^ 21, pa := 0x100000, host := false, sys := false, w := true, x := true }] }
def aliveFar : State := { job with regs := Tab.set job.regs 0x14008 0x8000420000000000 }
theorem witness_CutsSealsLogsAndReplays : bit ((alive Lifeline.idle).reg 0x14000).toNat 63 = true ∧ bit (demo.reg 0x14000).toNat 63 = false ∧ bit ((alive Lifeline.idle).reg 0x14028).toNat 62 = false ∧
    (alive Lifeline.idle).ll.at_ + 10 * 1650000 ≤ ({ alive Lifeline.idle with clock := 16500000 } : State).clock ∧ Lifeline.idle.cuts = [] ∧ Lifeline.idle.replay = none ∧
    cutting.ll.cuts[0]? = some (dcut true) ∧ (dcut false).confirmed = false ∧ (dcut true).confirmed = true ∧ beforeLeft cutting 0 = false ∧ beforeLeft cutting 1 = true ∧ cutting.ll.sealing = none ∧ cutting.flaws = [] ∧
    bit (cutting.reg 0x14008).toNat 63 = false ∧ bit ((alive Lifeline.idle).reg 0x14008).toNat 63 = true ∧ cutting.reg 0x14008 = 0x200000000 ∧ cutting.ll.next = 0 ∧ (cutting.reg 0x14010).toNat / 2 = 0x100000 ∧
    (sendLife aliveFar false 0 [1]).isSome = true ∧ (toTarget cutting 0 [1]).isSome = true ∧ toTarget { cutting with trans := [] } 0 [1] = none ∧
    ({ Lifeline.idle with staged := [dentry] } : Lifeline).staged = [] ++ [dentry] ∧ Lifeline.idle.inRing = 0 ∧ ({ Lifeline.idle with staged := [dentry], inRing := 1 } : Lifeline).inRing = 0 + 1 ∧
    (toTarget cutting (logOfs cutting 0) dentry.bytes).isSome = true ∧ 32 * (0 : Nat) + 32 - sealedPos cutting ≤ 0x200000 / 2 ∧ bit (cutting.reg 0x14028).toNat 62 = false ∧
    ([⟨3, 0, 0, [], 0, 0, 0, Manifest.none⟩] : List Slot).find? (fun x => x.seq == 3) = some ⟨3, 0, 0, [], 0, 0, 0, Manifest.none⟩ ∧ ({ Lifeline.idle with replay := some [] } : Lifeline).replay = some [] := by decide +kernel

theorem witness_ErrorsPowerAndTheMemoryController : unitOf 0x400 = 3 ∧ unitOf (2 ^ 48) = 6 ∧ unitOf (2 ^ 50) = 5 ∧ demo.flaws = [] ∧ demo.groups.get? 0 = some dg ∧ dg.bad = [] ∧ 0 < demo.trans.length ∧
    bit (demo.reg 0x14128).toNat 63 = true ∧ bit (({ demo with regs := [(0x14128, 0)] } : State).reg 0x14128).toNat 63 = false ∧ bit (demo.reg 0x14100).toNat 63 = false ∧ (demo.reg 0x14108).toNat + 32 * 2 ^ 4 ≤ 383 * 2 ^ 30 ∧
    (1649 : Nat) % 1650 = 1649 ∧ demo.clock % 1650 ≠ 1649 ∧ tileOff demo 0 = false ∧ tileOff { demo with regs := [(0x14140, 1)] } 0 = true ∧ demo.hqueue = [] ∧
    ([(0, 100)] : List (Nat × Nat)).filter (fun r => pseudoChannel r.1 == pseudoChannel 0) = [(0, 100)] ∧ rowHit { demo with rows := [(bankOf 0, (rowOf 0, 50))] } 0 = true ∧ rowHit demo 0 = false ∧
    ({ demo with rows := [(3, (5, 50))] } : State).rows.get? 3 = some (5, 50) ∧ queuedHit { demo with rows := [(3, (5, 50))] } [] 3 = false := by decide +kernel

theorem witness_ResetsRegisterWritesAndServiceStores : demo.inp.b = 0 ∧ Memory.wf demo.mem = true ∧ demo.inp.a = (demo.reg 0x1A008).toNat % 4 ∧ (0x30000 : Nat) ≤ 0x30000 ∧ (1 : Nat) % 8 ≠ 0 ∧
    (0 : Nat) % 2 ^ 48 + 32 * 2 ^ ((demo.reg 0x14100).toNat % 32) ≤ 383 * 2 ^ 30 ∧ 383 * 2 ^ 30 < (383 * 2 ^ 30) % 2 ^ 48 + 32 * 2 ^ ((demo.reg 0x14100).toNat % 32) ∧ (383 * 2 ^ 30 : Nat) + 2 ^ 30 ≤ 384 * 2 ^ 30 := by decide +kernel

theorem witness_EveryWellFormedWordReadsBack : (Instr.add x3).isWord = true ∧ WellFormed (.add x3) = true := by decide
theorem witness_ALegalWordIsTheWordOfItsInstruction : notIllegal (dec 0x120000101C00000200000003) = true := by decide
/-- The demo machine with a word at offset 0 and the group's turn next; with no turn and no group; with an event next. -/
theorem witness_AStepRunsTheDecodedInstruction :
    let s : State := { demo with mem := memStore [] (slicePlace 0 0) (leBytes 12 0x100000101101300600000000), sched := [{ clocks := 1, act := .issue 0 }] }
    let s0 := ({ s with sched := [] } : State).tick 1
    let g1 := (beginOffset (loopCheck s0 0) 0 dg).getD dg
    let gw := { g1.takeWord with stalled := false }
    s0.groups.get? 0 = some dg ∧ dg.mayIssue s0.clock = true ∧ mayTurn s0 0 = true ∧ atOffset s0 0 dg = none ∧ (beginOffset (loopCheck s0 0) 0 dg).isSome = true ∧ codeReason gw 0 0 = none ∧
    fetchAt (loopCheck s0 0) 0 gw 0 0 = .word 0x100000101101300600000000 ∧ gw.view = [] ∧ gw.common = false ∧ gw.plane = 0 ∧ gw.ofs = 0 ∧
    heldBy (fetchCorrect (loopCheck s0 0) 0 gw 0 0) 0 gw.swapView (dec 0x100000101101300600000000) 0x100000101101300600000000 = none ∧
    readFlaws s0 gw.swapView (dec 0x100000101101300600000000) allLanes = [] ∧ State.reset.sched = [] ∧ defaultTurn (State.reset.tick 1) = none ∧
    Instr.offsetComplete.isWord = false ∧ notIllegal .offsetComplete = true ∧ (∀ x ∈ demo.groups, tenOn demo (tileOf x.1) = false) ∧ demo.dbgs = [] ∧ demo.ll.inRing = demo.ll.staged.length := by decide +kernel
theorem witness_EveryStepGoesOn : demo.group? = some dg ∧ Instr.offsetComplete.isWord = false ∧ notIllegal .offsetComplete = true ∧ (Instr.add x3).isWord = true ∧ State.reset.group? = none := by decide
theorem witness_EveryStepKeepsTheMemoryForm : demo.inv = true ∧ ∃ t, step State.reset = .next t := ⟨by decide, _, rfl⟩
theorem witness_NoWordWritesAnotherGroupsRegisters : let s := { demo with groups := [(0, dg), (1, dg)] }
    (after s (.add x3)).isSome = true ∧ 1 ≠ s.cur ∧ s.groups.get? 1 = some dg := by decide

/-! ### Witnesses of clauses of their own: words whose operand address is refused, skeins and barriers, engines at HBM4, images, full rings, and rounding -/

/-- The group with its code below an address that fetch refuses. -/
def hole : Group := { dg with env := { dg.env with codeBase := 0x800000 } }
theorem witness_GroupStateWordsAndLiteralLoads_fails : (∀ i ∈ [Instr.ldl (im (.v 6) o0 .n64 0xFFFFFF), .ldl (im (.s 9) o0 .n32 0)], Issues i demo dg) ∧ Issues (.ldl (im (.v 6) o0 .n64 3)) (with_ hole) hole ∧
    (dg.ofs : Int) + (0xFFFFFF : BitVec 24).toInt < 0 ∧ codeReason dg 0 0 = none ∧ codeReason hole 0 3 = some 1 ∧ fetchAt demo demo.cur dg 0 0 = .word 0 ∧ fetchAt demo demo.cur dg 0 3 = .word 0xFE0000000000000012345678 ∧
    lane (lanesFor (.ldl (im (.s 9) o0 .n32 0)) dg) 0 = true ∧ (∀ k, k < 64 → dg.planeOf k = 0) ∧ litAt demo dg 0 0 = .bad ∧ litAt (with_ hole) hole 0 3 = .addr 1 :=
  ⟨all_issue (by decide), issues_of (by decide), by decide +kernel⟩

/-- `vatom.add` on another rank's page: 128-byte alignment, each of its 64 lanes resolved. -/
theorem witness_FarWordsAreHandedToTheCopyEngine_global : let i := { me o0 (.s 21) (.v 4) .f32 .group 0 .plain 0 with glob := true }
    Issues (.vatomAdd i) job dg ∧ wrapN 64 ((scalarVal job dg i.a : Int) + i.ofs.toInt) % 128 = 0 ∧ 0 < freeSlots job 0 ∧ enginePlaces job 0 < Config.copyPlaces ∧
    ∀ l : Nat, l < 64 → resolveGlobal job 2 4 1 (scalarVal job dg i.a) 0 (4 * (l : Int)) = .ok ⟨2 ^ 41 + 4 * (l : Nat), some 1, some (.pod 1)⟩ :=
  ⟨issues_of (by decide), by decide +kernel⟩

theorem witness_CopyWordsTakeTheirTagAndTagsClear_refused : (∀ i ∈ [Instr.cpd (en o0 (.s 5) o0 .none 5 0 .device 0), .cpd (en o0 (.s 11) o0 .none 5 0 .device 0)], Issues i demo dg) ∧
    scalarVal demo dg (.s 5) % 64 ≠ 0 ∧ scalarVal demo dg (.s 11) % 64 = 0 ∧ 0x7F0000 ≤ scalarVal demo dg (.s 11) ∧ scalarVal demo dg (.s 11) < 2 ^ 48 := ⟨all_issue (by decide), by decide⟩

theorem witness_ACopySectorMovesItsBytes_queue : copying.hqueue = [] ∧ isHbm (2 ^ 48 + 0x101000) = true ∧ pseudoChannel 0x101000 ≠ pseudoChannel 0x105000 := by decide

theorem witness_SkeinStepsFollowTheOrderOfBlocking_memory : Memory.wf (with_ pusher).mem = true ∧ (demo.skein 3).bytes % 8 = 0 ∧ pusher.wait = some (.qpush 3 (.v 2) 0 none []) ∧
    ({ pusher with wait := some (.qpush 3 (.s 4) 100 none []) } : Group).wait = some (.qpush 3 (.s 4) 100 none []) := by decide

/-- Every lane parked on barrier 2, between two offsets, and where the offset's words have issued. -/
def parkedGroup : Group := { dg with parked := (List.range 64).map (fun l => (l, 2)) }
def parkedState (g : Group) : State := on { with_ g with blocks := [(0, parkedAll)] } 0 2 0
theorem witness_BarriersCountFlipAndReleaseEveryLane_spill : (∀ i ∈ [Instr.barinit (en o0 (.s 5) (.imm 511) .none 0 0 .group 0), .bara (en o0 (.s 5) (.imm 16) .none 0 0 .tile 0), .barw (en o0 (.s 11) (.imm 0) .none 0 0 .tile 0),
    .barrd (en (.s 9) (.s 11) o0 .none 0 0 .group 0)], Issues i demo dg) ∧ scalarVal demo dg (.s 5) % 16 ≠ 0 ∧ scalarVal demo dg (.s 11) % 16 = 0 ∧ 0x7F0000 ≤ scalarVal demo dg (.s 11) ∧
    (∀ g ∈ [parkedGroup, { parkedGroup with todo := some [0] }], Memory.wf (parkedState g).mem = true ∧ (parkedState g).blocks.get? 0 = some parkedAll ∧ parkedAll.out = false ∧ parkedAll.saved = [] ∧
      barrierDone (parkedState g) parkedAll 2 = true ∧ (g.depart 100 2).frame = none ∧ (g.depart 100 2).spilled = g.spilled) := ⟨all_issue (by decide), by decide +kernel⟩

/-- A record whose A is not aligned. -/
def skew : Group := { dg with gauges := [(1, { dgauge with abase := 0x200000008 })] }
theorem witness_GaugeRecordsAndAccumulatorParts_refused : (∀ i ∈ [Instr.gset (en o0 (.s 5) o0 .none 0 15 .group 0), .gset (en o0 (.s 11) o0 .none 0 15 .group 0)], Issues i demo dg) ∧ scalarVal demo dg (.s 5) % 64 ≠ 0 ∧
    0x7F0000 ≤ scalarVal demo dg (.s 11) := ⟨all_issue (by decide), by decide⟩
theorem witness_MatrixWordsQueueCommands_refused : Issues (.mma (en o0 o0 o0 .bf16 0 1 .tile 0x10000)) (with_ skew) skew ∧ Issues (.mmconv (cv o0 (.s 5) (.imm 0x112) .f32 .bf16)) demo dg ∧
    mmaCheck (skew.gauge 1) 1 2 32 = some (9, 0x200000008) ∧ rangeCheck 7 false 1 16 2 = some (9, 7) ∧ (skew.gauge 1).valid = true ∧ queueRoom (with_ skew) 0 1024 = true ∧ throttle demo 0 = 0 ∧
    mmaCheck { dgauge with abase := 2 ^ 48 } 1 2 32 = some (3, 2 ^ 48) ∧ mmaCheck { dgauge with astride := 8 } 1 2 32 = some (9, 0x200000000) ∧ mmaCheck { dgauge with bbase := 2 ^ 48 } 1 2 32 = some (3, 2 ^ 48) ∧
    mmaCheck { dgauge with bstride := 8 } 1 2 32 = some (9, 0x200000000) := ⟨issues_of (by decide), issues_of (by decide), by decide⟩
theorem witness_AnMmaAdvancesRowByRow_queue : (mat { dmat with started := true }).hqueue = [] ∧ (mat dconv).hqueue = [] ∧ Memory.wf (mat dmat).mem = true ∧ (mat dmat).hostAts = [] := by decide

/-- A shadow handed to the engine, its page held or not. -/
def handed (held : Bool) : State :=
  { on (shadowed 1) 0 0 2 with shadows := [{ dshadow with due := true }], trans := if held then demo.trans else [] }
theorem witness_CountersGenerationsAndShadows_handed : (∀ b, ((handed b).shadows.filter (fun h => h.due))[0]? = some { dshadow with due := true } ∧ (handed b).faults = [] ∧ (handed b).flaws = [] ∧ (handed b).hostAts = [] ∧
      (handed b).hqueue = [] ∧ bit ((handed b).reg llWin).toNat 63 = false ∧ Memory.wf (handed b).mem = true ∧ (handed b).inp.c = 2) ∧ 0 < dshadow.size ∧ placeOf (handed false) 0 0 dshadow.dst 1 = none ∧
    (∀ i, i < 4 → placeOf (handed true) 0 0 (dshadow.dst + i) 1 = some (2 ^ 48 + 0x101000 + i)) := by decide +kernel

/-- The request beyond the pod, through its pod's entry, sent once and due. -/
def netLoad (ss : List Send) : FarOp := { rload ss false with routes := [(1, .net 1 0 (some (2 ^ 127 + 2 ^ 110)))] }
def netState (cached : Bool) (ss : List Send) : State := on { job with far := [netLoad ss], seq := 6, rtcache := if cached then [⟨1, 2 ^ 127 + 2 ^ 110, 33000, 8250⟩] else [] } 5 rline 0
theorem witness_RequestsAreTimedAndResent_net : (netLoad []).route rline = some (.net 1 0 (some (2 ^ 127 + 2 ^ 110))) ∧ rttOf (netState true []) (.net 1 0 (some (2 ^ 127 + 2 ^ 110))) = some (33000, 8250) ∧
    rttOf (netState false []) (.net 1 0 (some (2 ^ 127 + 2 ^ 110))) = none ∧ lineHeld (netState true []) (netLoad []) rline (.net 1 0 (some (2 ^ 127 + 2 ^ 110))) = false ∧
    noPlane (netState true []) (.net 1 0 (some (2 ^ 127 + 2 ^ 110))) = false ∧ poisoned (netState true []) (netLoad []).who rline = false ∧ (∃ y ∈ (netLoad []).onLine rline, y.acked = false) ∧
    (sent 1 50).alt = none ∧ ({ sent 1 50 with alt := some (.net 1 0 none) } : Send).alt.getD (.pod 1) = .net 1 0 none ∧ (sent 1 50).at_ + (sent 1 50).rto ≤ (netState true [sent 1 50]).clock := by decide +kernel

theorem witness_JobsRegionsHostAndVersions_raise : bit (demo.reg 0x13020).toNat 0 = false ∧ bit (1 : Nat) 0 = true ∧ bit (0 : Nat) 0 = false ∧ (2 : Nat) < 32 ∧
    ({ demo with veils := [⟨some 0, some 1, 95, 2 ^ 48, 7, [(0, 90)]⟩], pubs := [⟨0, 3, 96, some 0, some 1, 80⟩] } : State).veils[0]? = some ⟨some 0, some 1, 95, 2 ^ 48, 7, [(0, 90)]⟩ ∧ (95 : Nat) ≤ 96 := by decide

theorem witness_OffsetsCompleteAndGroupsGoOn_fetch : dg.stalled = false ∧ demo.faults = [] ∧ demo.hqueue = [] := by decide
theorem witness_FarElementsArePerformedAndCounted_queue : (home (hload .load [] none)).hqueue = [] ∧ queued.hqueue = [] ∧ isHbm (2 ^ 48 + 0x100000) = true := by decide

/-- A group's image in tile 0's slice, from 32 KiB up; its spill area's image is zeros. -/
def fixedImage : List Byte := ((groupImage demo 0 dg).headD (0, [])).2
def imaged : State := { State.reset with mem := memStore [] 0x100008000 fixedImage }
theorem image_parts : groupImage demo 0 dg = [(0, fixedImage)] := rfl
theorem image_length : fixedImage.length = 2048 := by decide +kernel
theorem imaged_mem : imaged.mem = memStore [] 0x100008000 fixedImage := by simp only [imaged]
theorem witness_PreemptionSwapsBlocksOutAndBack_image : dg.frame = none ∧ dg.env.vregs ≤ 256 ∧ (∀ l, dg.planeOf l < 8) ∧ (List.replicate 1024 (0 : Byte)).length = 1024 ∧ (∀ e ∈ dg.paths, e.ofs < 2 ^ 22 ∧ e.lanes ≠ 0) ∧
    dg.paths.Pairwise (fun x y => x.idx ≠ y.idx) ∧ imaged.flaws = [] ∧ bit (imaged.reg llWin).toNat 63 = false ∧ imaged.ll.replay = none ∧
    ∀ x ∈ (groupImage demo 0 dg).map (fun x => (0x8000 + 0x11000 * 0 + x.1, x.2)) ++ [(0x480000 + 1024 * 0, List.replicate 1024 (0 : Byte))], ∀ j, j < x.2.length →
      placeOf imaged 0 0 (0x100000000 + x.1 + j) 0 = some (0x100000000 + x.1 + j) ∧ memGet imaged.mem (0x100000000 + x.1 + j) = x.2.getD j 0 ∧ isHbm (0x100000000 + x.1 + j) = false := by
  refine ⟨rfl, by decide, fun l => by simp [Group.planeOf, dg, newGroup, Tab.getD], List.length_replicate, by decide, by decide, rfl, by decide, rfl, ?_⟩
  have near (a : Nat) (h : 0x800000 ≤ a) (k : a < 0x200000000) : placeOf imaged 0 0 a 0 = some a ∧ isHbm a = false := by
    simp [placeOf, xlate, canon, isHbm, k, Nat.not_lt.mpr h]; omega
  intro x hx j hj
  rw [image_parts] at hx
  simp only [List.map_cons, List.map_nil, List.cons_append, List.nil_append, List.mem_cons, List.not_mem_nil, or_false] at hx
  rcases hx with rfl | rfl
  · rw [image_length] at hj
    refine ⟨(near _ (by omega) (by omega)).1, ?_, (near _ (by omega) (by omega)).2⟩
    rw [imaged_mem, show 0x100000000 + (0x8000 + 0x11000 * 0 + 0) + j = 0x100008000 + j from by omega]
    exact memGet_memStore_inside fixedImage [] 0x100008000 j rfl (by rw [image_length]; exact hj)
  · rw [List.length_replicate] at hj
    refine ⟨(near _ (by omega) (by omega)).1, ?_, (near _ (by omega) (by omega)).2⟩
    rw [imaged_mem, memGet_memStore_outside fixedImage [] 0x100008000 _ rfl (by rw [image_length]; omega)]
    rw [List.getD_eq_getElem?_getD, List.getElem?_replicate, if_pos hj]; rfl

theorem witness_TraceAndDebugSteps_done : overG.todo = some [] ∧ overG.wait = none ∧ overG.redo = none ∧ dg.todo ≠ some [] := by decide

/-- Recording with a ring that has no room for an entry, and with room for it. -/
def tight (cs : List Cut) : State := { alive { Lifeline.idle with cuts := cs } with regs := [(0x14000, 0x800000000000000A)] }
theorem witness_CutsSealsLogsAndReplays_full : 2 ^ (((tight []).reg 0x14020).toNat % 32) < 32 * ((tight []).ll.staged.length + 1) ∧ 32 * ((alive Lifeline.idle).ll.staged.length + 1) ≤ 2 ^ (((alive Lifeline.idle).reg 0x14020).toNat % 32) ∧
    32 * (cutting.ll.staged.length + 1) ≤ 2 ^ ((cutting.reg 0x14020).toNat % 32) ∧ (tight [dcut true]).ll.cuts[0]? = some (dcut true) ∧ bit ((tight []).reg 0x14000).toNat 63 = true ∧ bit ((tight []).reg 0x14028).toNat 62 = false ∧
    5 ≤ (({ demo with regs := [(0x14020, 20)] } : State).reg 0x14020).toNat % 32 ∧ dentry.bytes.length = 32 ∧ Memory.wf (alive Lifeline.idle).mem = true := by decide +kernel

theorem witness_ErrorsPowerAndTheMemoryController_spent : ({ demo with pwrDone := some 0, clock := 1751 } : State).pwrDone ≠ none ∧ (1751 : Nat) % 1650 ≠ 0 ∧ (demo.allow.getD 0 0).toNat = 0 ∧
    (({ demo with allow := [(0, 80)] } : State).allow.getD 0 0).toNat ≠ 0 ∧ (1650 : Nat) % 1650 = 0 ∧ demo.pwrDone = none ∧ (demo.power.getD 0 Pow.idle).round ≠ 1751 / 1650 := by decide
theorem witness_AStepRunsTheDecodedInstruction_shadows : ∀ h ∈ demo.shadows, h.due = false := by decide

/-- 03 R40 to R42: 2049 is midway between 2048 and 2050, and 448 is the greatest .f8e4; half the least .f16 rounds to 0 in nearest-even and up in .rp; 2^128 is beyond .f32. -/
theorem test_rounding : roundVal f16 .rne (.fin false 2049 0) = (0x6800, NX) ∧ roundVal f8e4 .rne (.fin false 1000 0) = (0x7E, OF + NX) ∧ roundVal f16 .rne (.fin false 1 (-25)) = (0, NX) ∧
    roundVal f16 .rp (.fin false 1 (-25)) = (1, NX + UF) ∧ roundVal f32 .rz (.fin true 1 128) = (0xFF7FFFFF, OF + NX) ∧ roundVal f32 .rne (.fin true 1 128) = (0xFF800000, OF + NX) := by decide +kernel

/-! ### The same for the clauses about other devices' pages, consumptions, traces and the units of the package -/

/-- One base for each check of a global address: region 1 is 1 MiB of rank 0, at 8 GiB; a region of no permission; the ranks outside the job. -/
theorem witness_AddressesAreCheckedBeforeAnyAccess_global :
    let bare : State := { job with regs := Tab.set job.regs 0x13020 0x200000001 }
    (resolve job true false 0 8 0x20000000000 0 0 == .error (3, 0x20000000000)) ∧ (resolve job true false 0 8 0x8000020000000000 (-8) 0 == .error (4, 0x3FFFFFFFFF8)) ∧
    (resolve job true false 0 8 0x8000020000000000 0 (-8) == .error (4, 0x3FFFFFFFFF8)) ∧ (resolve job true false 0 8 0x8000820000000000 0 0 == .error (5, 0x820000000000)) ∧
    (resolve job true false 0 8 0x8000040000000000 0 0 == .error (6, 0x40000000000)) ∧ (resolve job true false 0 8 0x8000020000100000 0 0 == .error (7, 0x20000100000)) ∧
    (resolve bare true false 0 8 0x8000020000000000 0 0 == .error (8, 0x20000000000)) ∧ (resolve job true false 0 8 0x8000020000000004 0 0 == .error (9, 0x20000000004)) ∧
    (resolve job true false 0 8 0x8000020000000000 8 0 == .ok ⟨0x200000008, none, none⟩) ∧ (resolve job true false 0 8 0x8000420000000000 8 0 == .ok ⟨2 ^ 41 + 8, some 1, some (.pod 1)⟩) ∧
    (resolveRank job 2 == .error 5) ∧ (resolveRank job 0 == .ok none) ∧ areaReason 0x200000008 = none ∧
    (∀ i ∈ [Instr.ldn (me (.s 9) (.s 10) o0 .n64 .group 0 .plain 1), .atomAdd (me (.v 6) (.s 10) (.v 5) .n32 .group 2 .plain 1), .vatomAdd (me o0 (.s 16) (.v 4) .f32 .group 0 .plain 0),
      .vatomAdd (me o0 (.s 8) (.v 4) .f32 .group 0 .plain 1)], issuesB i demo dg = true) ∧
    (resolve demo false true 0 8 0x400 1 0 == .error (9, 0x401)) ∧ (resolve demo false false 2 4 0x400 1 0 == .error (9, 0x401)) ∧
    wrapN 64 (0x7EFFF8 : Int) % 128 ≠ 0 ∧ wrapN 64 ((2 ^ 64 - 1 : Int) + 1) % 128 = 0 ∧
    (resolveLocal demo false 1 (2 ^ 64 - 1) 1 0 == .error (3, 0)) ∧ (resolveLocal demo false 1 0x7EFFF8 0 0 == .ok ⟨slicePlace 0 0x7EFFF8, none, none⟩) := by decide +kernel

/-- A widening copy of two rows of 32 bytes that announces its bytes on the barrier at 0x700. -/
def wcopy : Copy := { dcopy with rowBytes := 32, rows := 2, sstride := 32, dstride := 64, widen := true, bar := some 0x700 }
theorem witness_ACopySectorMovesItsBytes_rows : let s : State := { copying with copies := [wcopy] }
    s.copies.find? (fun x => x.id == s.inp.a) = some wcopy ∧ destBytes 32 2 64 true = 128 ∧ ((List.range 256).countP (fun i => (List.range 2).any (fun r =>
      decide (wcopy.dst + r * 64 ≤ 256 * s.inp.b + i) && decide (256 * s.inp.b + i - (wcopy.dst + r * 64) < 64)))) = 128 ∧ s.hostAts = [] := by decide +kernel

theorem witness_CountersGenerationsAndShadows_held : let s : State := { shadowed 1 with trans := [] }
    issuesB (.publishShadow (en (.s 9) (.s 18) o0 .none 0 0 .group 0)) s dg = true ∧ s.shadows.find? (fun h => h.tile == 0 && h.desc == 0x600 && h.ctx == 0 && !h.due) = some dshadow ∧ 0 < dshadow.size ∧
    placeOf s 0 0 dshadow.dst 1 = none ∧ s.flaws = [] ∧ s.hostAts = [] ∧ memVal s.mem (slicePlace 0 0x638) 1 = 1 ∧
    (∀ h ∈ ({ shadowed 1 with shadows := [{ dshadow with due := true }] } : State).shadows, (h.tile == 0 && h.desc == 0x600 && h.ctx == 0 && !h.due) = false) := by decide +kernel

theorem witness_RequestsAreTimedAndResent_once : poisoned (rstate [] false) (rload [] false).who rline = false ∧ (rload [sent 0 50] true).sends.find? (fun y => y.x == rline) = some (sent 0 50) ∧
    (rstate [sent 0 50] true).far.find? (fun o => o.id == 5) = some (rload [sent 0 50] true) ∧ (rstate [sent 0 50] true).inp.c ≠ 2 ∧ ({ (rstate [sent 0 50] false) with inp := { Inp.zero with c := 2 } } : State).inp.c = 2 ∧
    (∀ y ∈ (rload [sent 0 50] true).onLine rline, y.performed = true) ∧ (sent 0 50).resends = 0 ∧ (rload [sent 0 50] true).route rline = some (.pod 1) := by decide +kernel

def podEntry : RtEntry := ⟨1, 2 ^ 127 + 2 ^ 110, 33000, 8250⟩
def hostOp (w : Bool) : HostAt := { place := 2 ^ 48 + 64, size := 8, op := 0, data := 1, cmp := 0, old := 0, wrote := w }
theorem witness_PlanesPodsAndPorts_cached : ({ demo with rtcache := [podEntry] } : State).rtcache.find? (fun e => e.pod == 1) = some podEntry ∧ demo.rtcache.length < Config.rtcacheMax ∧
    (2 ^ 127 + 2 ^ 110) / 2 ^ 110 % 2 ^ 17 = 1 ∧ bit (2 ^ 127 + 2 ^ 110) 127 = true ∧ onNet.inp.b = 1 ∧ (on onNet 5 0 0).inp.b ≠ 1 := by decide +kernel
/-- A cache whose 256 entries are of one pod, which the far word of `onNet` uses or not. -/
def fullCache (pod : Nat) : State := { onNet with rtcache := List.replicate 256 ⟨pod, 0, 1, 1⟩ }
theorem witness_PlanesPodsAndPorts_full : Config.rtcacheMax ≤ (fullCache 9).rtcache.length ∧ (fullCache 9).rtcache.find? (fun e => e.pod == 1) = none ∧ podUsed (fullCache 9) 9 = false ∧
    (onNet.far.any (fun o => o.routes.any (fun r => match r.2 with | .net p _ _ => podUsed (fullCache p) p && p != 1 | _ => false))) = true := by decide +kernel
theorem witness_JobsRegionsHostAndVersions_held : hostHolds { demo with hostAts := [hostOp false] } (2 ^ 48 + 64) 4 = true ∧ hostHolds { demo with hostAts := [hostOp true] } (2 ^ 48 + 64) 4 = false ∧
    hostHolds demo (2 ^ 49) 8 = false ∧ bit (job.reg errWin).toNat 63 = false ∧ fabricBusy job 5 = false ∧ bit (0 : Nat) 63 = false := by decide +kernel

theorem witness_SystemWords_ranges : (∀ i ∈ [Instr.icinv (sy o0 (.s 11) (.s 8) .device 0), .icinv (sy o0 (.s 11) (.s 6) .device 0)], issuesB i demo dg = true) ∧
    2 ^ 48 ≤ scalarVal demo dg (.s 11) + scalarVal demo dg (.s 8) ∧ scalarVal demo dg (.s 6) = 0 ∧ bit (demo.reg 0x14100).toNat 63 = false := by decide

/-- A ring of 64 KiB, wrapping, and full without WRAP. -/
def ring (full : Bool) : State :=
  { with_ { dg with owes := false } with regs := if full then [(0x20000, 0xA000000000000010), (0x20010, 0x10000)] else [(0x20000, 0xB000000000000010)] }
theorem witness_TraceWords_ring : (∀ f, issuesB (.tflush (im o0 o0 .none 0)) (ring f) { dg with owes := false } = true) ∧ bit ((ring false).reg 0x20000).toNat 60 = true ∧
    bit ((ring true).reg 0x20000).toNat 60 = false ∧ ((ring true).reg 0x20000).toNat % 32 = 16 ∧ 2 ^ 16 ≤ ((ring true).reg 0x20010 - (ring true).reg 0x20018).toNat ∧ ((ring true).dbg 0).due = [] ∧
    ((ring true).dbg 0).owed = 0 ∧ Memory.wf (ring true).mem = true := by decide +kernel

theorem witness_OffsetsCompleteAndGroupsGoOn_waits : waitHolds demo 0 dg (.batch 1) = false ∧ waitHolds (with_ reported) 0 reported (.batch 1) = true ∧ reported.report 1 = some 7 ∧ dg.report 0 = none ∧
    waitHolds demo 0 dg (.batch 0) = true ∧ bit (memVal demo.mem (slicePlace 0 0x700) 8) 63 = false ∧ (∃ o ∈ inFlightState.far, o.id ∈ [5]) ∧ (∀ o ∈ demo.far, o.id ∉ [5]) := by decide +kernel

/-- Three lanes on one element, and a far word of each kind that has them; a return whose list is read. -/
def three : List El := [hel 0 0x200000000 false false, hel 1 0x200000000 false false, hel 2 0x200000004 false false]
theorem witness_FarElementsArePerformedAndCounted_shared : let o := hload (.atom 0) three (some 0)
    (home o).far.find? (fun o => o.id == 5) = some o ∧ (o.els.filter (fun x => !x.performed && decide (o.home (home o) x = o.home (home o) (hel 0 0x200000000 false false)))).length = 2 ∧
    earlierShares (home o) o (hel 0 0x200000000 false false) = false ∧ ({ cast with list := some (0x200001000, 0x200000000) } : Cast).list = some (0x200001000, 0x200000000) ∧ cast.list = none ∧
    ({ cast with since := some 50 } : Cast).since = some 50 := by decide +kernel

theorem witness_PreemptionSwapsBlocksOutAndBack_retired : hBudget db.hdr = 0 ∧ db.out = false ∧ db.gone.length < db.keys.length ∧ 0 ∈ db.tiles ∧ bit (1 : Nat) 0 = true ∧ bit (demo.reg 0x14140).toNat 0 = false ∧
    bit (demo.reg 0x2008).toNat 63 = true ∧ bit (({ demo with regs := [(0x2008, 0)] } : State).reg 0x2008).toNat 63 = false ∧ demo.blocks = [(0, db)] ∧ ({ dg with env := { dg.env with handler := 0 } } : Group).frame = none := by decide +kernel

theorem witness_TraceAndDebugSteps_reasons : (∃ e ∈ dg.paths, e.held = false) ∧ demo.clock < ({ dg with busy := 8, ready := 101 } : Group).ready ∧ dg.ended = false ∧ dg.run?.isSome = true ∧ dg.redo = none ∧ dg.delayed ≤ demo.clock ∧
    ({ dg with leaving := true, forced := true } : Group).forced = true ∧ bit (trcctlStored 0x4000000000000010) 62 = true ∧ bit (trcctlStored 0x4000000000000010) 63 = false ∧ (2 ^ 56 : Nat) / 2 ^ 50 % 2 ^ 14 / 64 ≠ 0 ∧
    dg.frame = none ∧ dg.todo = none := by decide

/-- The walker for a cast-off return, for the distributor, and for an address that nobody reaches. -/
theorem witness_WalksFaultsAndTheirAnswers_agents : (needsWalk { demo with castoffs := [{ cast with list := some (0x240000000, 0x240000000) }] } 0 0 0x240000000 0 (agentReq 1 0 0 0x240000000) 1 0).isSome = true ∧
    needsWalk demo 0 0 0x240000000 0 (agentReq 1 0 0 0x240000000) 1 0 = none ∧ (demo.ctxs.getD 0 Ctx.live).status = 0 ∧ bit (demo.reg 0x2010).toNat 0 = false := by decide +kernel

theorem witness_CutsSealsLogsAndReplays_more : (alive Lifeline.idle).ll.replay = none ∧ llCtx (alive Lifeline.idle) = 0 ∧ bit ((alive Lifeline.idle).reg 0x14028).toNat 62 = false ∧
    sendLife (alive Lifeline.idle) false 0 [1] = none ∧ (0 : Nat) / 2 < 0 + 32 - sealedPos demo ∧ ({ Lifeline.idle with slots := [⟨3, 0, 0, [], 0, 0, 0, Manifest.none⟩] } : Lifeline).cuts = [] ∧
    32 * ({ Lifeline.idle with slots := [⟨3, 0, 0, [], 0, 0, 0, Manifest.none⟩] } : Lifeline).durable.length ≤ 0 / 2 + 0 ∧ (on demo 0 1 0).inp.b = 1 ∧ 0 / 2 + 0 < 32 * [dentry].length := by decide +kernel

/-- A bad granule under the bytes at 0x400, single or worse; the error ring open, and full. -/
def flaw (w : Bool) : Flaw := { unit := 3, place := slicePlace 0 0x400, worse := w, syn := 5, known := false }
def errRing (tail : W64) : State := { demo with regs := [(0x14100, 0x8000000000000004), (0x14118, tail)], flaws := [flaw true] }
theorem witness_ErrorsPowerAndTheMemoryController_records : bit ((errRing 0).reg 0x14100).toNat 63 = true ∧ ((errRing 0).reg 0x14118).toNat < 2 ^ 4 ∧ 2 ^ 4 ≤ ((errRing 16).reg 0x14118).toNat ∧
    (flaw true).inRange (slicePlace 0 0x400) 8 = true ∧ (flaw true).inRange (slicePlace 0 0x500) 8 = false ∧ (errRing 0).flaws.find? (fun f => f.worse && f.inRange (slicePlace 0 0x400) 8) = some (flaw true) ∧
    ((errRing 0).ctxs.getD 0 Ctx.live).spent.contains (whoAt 0 dg 0, 3, slicePlace 0 0x400) = false ∧ (whoAt 0 dg 0).gid = some dg.gid ∧ issuesB (.ldn (me (.s 9) (.s 10) o0 .n64 .group 0 .plain 0)) (errRing 0) dg = true ∧
    NearElement (scalarVal (errRing 0) dg (.s 10)) (effAddr (errRing 0) dg (me (.s 9) (.s 10) o0 .n64 .group 0 .plain 0) 0) 8 ∧ ({ flaw true with known := true } : Flaw).known = true ∧ Memory.wf (errRing 0).mem = true ∧
    (({ Ctx.live with doomed := true } : Ctx).doomed = true ∧ ({ Ctx.live with doomed := true } : Ctx).status = 0) := by decide +kernel
theorem witness_ErrorsPowerAndTheMemoryController_round : ({ demo with clock := 1649 } : State).pwrDone ≠ some (1649 / 1650) ∧ ({ demo with pwrDone := some 0 } : State).pwrDone = some (demo.clock / 1650) ∧
    (demo.power.getD 0 Pow.idle).round = demo.clock / 1650 ∧ (demo.power.getD 0 Pow.idle).round ≠ 1650 / 1650 ∧ nextRequest { demo with hqueue := [(0, 100)] } 0 = some (0, 100) ∧ (on demo 0 0 2).inp.c = 2 ∧
    queuedHit demo [(0, 100)] 0 = false ∧ queuedHit { demo with rows := [(0, (0, 99))] } [(0, 100)] 0 = true ∧ rowOpen demo 0 (0, 99) = true ∧ rowOpen { demo with clock := 5000 } 0 (0, 99) = false := by decide +kernel

theorem witness_ResetsRegisterWritesAndServiceStores_cores : (on demo 0x40014030 2 0).inp.a = 0x40000000 + 0x14030 ∧ (on demo 0x40014030 2 0).inp.b = 2 ∧ (on demo 5 3 0).inp.a < 0x40000000 ∧
    ({ Inp.zero with bytes := List.replicate 8 0 } : Inp).bytes.length = 8 := by decide
theorem witness_AStepRunsTheDecodedInstruction_clocks : (∀ c, demo.clock ≤ c → c < demo.clock + 5 → c % 1650 ≠ 1649) ∧ sampling demo = [] ∧ ({ demo with clock := 1649 } : State).clock % 1650 = 1649 :=
  ⟨fun c h k => by have h : 100 ≤ c := h; have k : c < 100 + 5 := k; omega, by decide, by decide⟩

/-! ### One step each of what the clock and the errors bring -/

/-- 27 R397, Table 4: the consumption of the worse granule halts the group, dooms its context, writes nothing to s9, and leaves a record of class 2, unit 3. -/
theorem test_consumption : ((after (errRing 0) (.ldn (me (.s 9) (.s 10) o0 .n64 .group 0 .plain 0))).map (fun t =>
    ((t.groups.get? 0).map (fun g => (g.halted, g.sreg 9)), (t.ctxs.getD 0 Ctx.live).doomed, memVal t.mem (2 ^ 48 + 8) 8 / 2 ^ 8 % 2 ^ 8, (t.reg 0x14118).toNat))) = some (some (true, 0), true, 0x23, 1) := by decide +kernel

/-- 28 R402: the last clock of a round ends it, with no event; the levels of the round stand in that clock. -/
theorem test_round_ends : (({ demo with clock := 1649 } : State).tick 1).pwrDone = some 0 ∧ (({ demo with clock := 1648 } : State).tick 1).pwrDone = none := by decide +kernel

/-- 26 R382: a packet of epoch 1 takes cut 1 before it is placed. -/
theorem test_epoch : (arriveEpoch (alive Lifeline.idle) 0 1).ll.cut = 1 ∧ (arriveEpoch (alive Lifeline.idle) 1 1).ll.cut = 0 := by decide +kernel

/-- 10 R175, Table 2: two lanes on one element: the second receives what the first left. -/
theorem test_shared_element : (after (home (hload (.atom 0) three (some 0))) .farAccessAtHome).map (fun t => (memVal t.mem (2 ^ 48 + 0x100000) 4, t.far.map (fun o => o.els.map El.val))) =
    some (14, [[0, 7, 9]]) := by decide +kernel

end Sys2Proof.Tests
end

/-! PROOFS, 02 R28. A word acts on its own group and on what groups share. `Spares s t` says what each operation on the way keeps: the current group stays the current
one, and every other resident group stands with its registers. It holds of each shared operation, so of the body of each word, so of each word. -/

namespace Sys2Proof.Machine
open Sys2Proof

/-! ### Steps of the current group (02 R28) -/

/-- What a word may do on its way from `s` to `t`: the current group stays the current one, and every other resident group stands with its registers. -/
structure Spares (s t : State) : Prop where
  cur : t.cur = s.cur
  others : OthersKeep s t s.cur

theorem Spares.of_fields {s t : State} (hg : t.groups = s.groups) (hc : t.cur = s.cur) : Spares s t := ⟨hc, .of_groups hg⟩

theorem Spares.refl (s : State) : Spares s s := .of_fields rfl rfl

theorem Spares.trans {s t u : State} (h : Spares s t) (k : Spares t u) : Spares s u :=
  ⟨k.cur.trans h.cur, h.others.trans (h.cur ▸ k.others)⟩

/-- A step may start from any state with the same groups. -/
theorem Spares.rebase {s t u : State} (k : Spares t u) (hg : t.groups = s.groups) (hc : t.cur = s.cur) : Spares s u := (of_fields hg hc).trans k

/-- The current group may be replaced by any other. -/
theorem Spares.set_cur {s : State} {key : Nat} (g : Group) (hk : key = s.cur) : Spares s { s with groups := s.groups.set key g } := by
  subst hk; exact ⟨rfl, .put s g⟩

theorem Spares.put (s : State) (g : Group) : Spares s (s.put g) := .set_cur g rfl

/-- Any group may be replaced by one with the same registers. -/
theorem Spares.set_same {s : State} {key : Nat} {g h : Group} (hg : s.groups.get? key = some g) (hs : SameRegisters g h) :
    Spares s { s with groups := s.groups.set key h } := by
  refine ⟨rfl, fun k x _ hx => ?_⟩
  by_cases hk : k = key
  · subst hk
    obtain rfl : g = x := Option.some.inj (hg.symm.trans hx)
    exact ⟨h, Tab.get?_set_self _ _ _, hs⟩
  · exact ⟨x, (Tab.get?_set_ne _ _ _ _ hk).trans hx, .refl x⟩

/-- Steps that act on the current group by its key, one after the other. -/
theorem Spares.foldl_at {α : Type} {f : State → α → State} {key : Nat} (h : ∀ s x, key = s.cur → Spares s (f s x)) (l : List α) (s : State)
    (hk : key = s.cur) : Spares s (l.foldl f s) := by
  induction l generalizing s with
  | nil => exact .refl s
  | cons x r ih => exact (h s x hk).trans (ih _ (hk.trans (h s x hk).cur.symm))

theorem Spares.foldl {α : Type} {f : State → α → State} (h : ∀ s x, Spares s (f s x)) (l : List α) (s : State) : Spares s (l.foldl f s) :=
  .foldl_at (fun s x _ => h s x) l s rfl

/-- What an operation leaves beside its answer. -/
theorem Spares.of_fst {α : Type} {s t : State} {x : State × α} {r : α} (k : Spares s x.1) (h : x = (t, r)) : Spares s t := by subst h; exact k

theorem foldl_cur {α : Type} {f : State → α → State} (h : ∀ s x, (f s x).cur = s.cur) (l : List α) (s : State) : (l.foldl f s).cur = s.cur := by
  induction l generalizing s with
  | nil => rfl
  | cons x r ih => exact (ih _).trans (h s x)

/-! ### The shared operations leave the current group the current one -/

theorem pastHost_cur (s : State) (p n : Nat) : (s.pastHost p n).cur = s.cur := by unfold State.pastHost; split <;> rfl

theorem engineWrite_cur (s : State) (p : Nat) (bs : List Byte) : (s.engineWrite p bs).cur = s.cur := pastHost_cur s p bs.length

theorem nearStore_cur (s : State) (p : Nat) (bs : List Byte) : (s.nearStore p bs).cur = s.cur := by
  unfold State.nearStore State.phases; split <;> rfl

theorem errRecord_cur (s : State) (c u a x t d : Nat) (i : W64) : (errRecord s c u a x t d i).cur = s.cur := by
  unfold errRecord
  dsimp only
  split
  · rfl
  · split
    · rfl
    · rw [State.setReg_cur, engineWrite_cur]

theorem reportsOver_cur (s : State) (ctx : Nat) (gs : Tab Group) : (reportsOver s ctx gs).cur = s.cur :=
  foldl_cur (fun s x => by
    split
    · exact errRecord_cur _ _ _ _ _ _ _ _
    · rfl) gs s

theorem handOver_cur (s : State) (ctx : Nat) : (handOver s ctx).cur = s.cur :=
  foldl_cur (fun s x => by
    split
    · exact reportsOver_cur _ _ _
    · rfl) s.blocks s

theorem endContext_cur (s : State) (ctx st : Nat) (c : Option (Nat × W64)) : (endContext s ctx st c).cur = s.cur := by
  unfold endContext
  dsimp only
  split
  · rfl
  · exact handOver_cur s ctx

theorem consumeAt_cur (s : State) (w : Who) (u p a x : Nat) : (consumeAt s w u p a x).cur = s.cur := by
  unfold consumeAt
  split
  · rfl
  · exact errRecord_cur _ _ _ _ _ _ _ _

theorem readAt_cur (s : State) (w : Who) (p n : Nat) : (s.readAt w p n).1.cur = s.cur := by
  unfold State.readAt
  split
  · rfl
  · split
    · exact consumeAt_cur _ _ _ _ _ _
    · exact foldl_cur (f := fun s (f : Flaw) => countCorrected s f.unit) (fun _ _ => rfl) _ _

theorem abandonCut_cur (s : State) (k : Nat) : (abandonCut s k).cur = s.cur := by rw [abandonCut_frame]

theorem poke_spares (s : State) (p : Nat) (bs : List Byte) : Spares s (s.poke p bs) := .of_fields rfl rfl

/-! ### Reads -/

theorem readAt_spares (s : State) (w : Who) (p n : Nat) : Spares s (s.readAt w p n).1 := ⟨readAt_cur _ _ _ _, readAt_keeps _ _ _ _ _⟩

theorem Spares.of_readAt {s t : State} {w : Who} {p n : Nat} {r : Option (List Byte)} (h : s.readAt w p n = (t, r)) : Spares s t :=
  (readAt_spares s w p n).of_fst h

theorem readAll_spares (s : State) (w : Who) (n : Nat) (ps : List Nat) : Spares s (s.readAll w n ps).1 := by
  induction ps generalizing s with
  | nil => exact .refl s
  | cons p r ih =>
    unfold State.readAll
    split
    · next s1 h => exact .of_readAt h
    · next s1 bs h =>
      split <;> next hr => exact (Spares.of_readAt h).trans ((ih s1).of_fst hr)

theorem Spares.of_readAll {s t : State} {w : Who} {n : Nat} {ps : List Nat} {r : Option (List (List Byte))} (h : s.readAll w n ps = (t, r)) :
    Spares s t :=
  (readAll_spares s w n ps).of_fst h

/-! ### Writes, with Lifeline's part in them -/

theorem asideCopy_cur (s : State) (c k fr : Nat) : (asideCopy s c k fr).cur = s.cur := by
  unfold asideCopy
  split
  · exact abandonCut_cur _ _
  · split
    · next h => exact (abandonCut_cur _ _).trans (Spares.of_readAt h).cur
    · next h => exact (engineWrite_cur _ _ _).trans (Spares.of_readAt h).cur

theorem asideWrite_cur (s : State) (c k q n : Nat) (f : List Byte → List Byte) (op : Option (List Byte → List Byte)) :
    (asideWrite s c k q n f op).cur = s.cur := by
  unfold asideWrite
  split
  · exact engineWrite_cur _ _ _
  · split
    · next h => exact (abandonCut_cur _ _).trans (Spares.of_readAt h).cur
    · next h => exact (engineWrite_cur _ _ _).trans (Spares.of_readAt h).cur

theorem cutWrite_cur (w : Who) (p n fr : Nat) (f : List Byte → List Byte) (c : Option (List Byte → List Byte)) (s : State) (k : Nat) :
    (cutWrite w p n fr f c s k).cur = s.cur := by
  unfold cutWrite
  split
  · rfl
  · split
    · split
      · rfl
      · exact asideWrite_cur _ _ _ _ _ _ _
    · split
      · split
        · exact asideCopy_cur _ _ _ _
        · rfl
      · rfl

theorem lifeWrite_cur (s : State) (w : Who) (p n : Nat) (f : List Byte → List Byte) (c : Option (List Byte → List Byte)) :
    (lifeWrite s w p n f c).cur = s.cur := by
  unfold lifeWrite
  split
  · exact foldl_cur (cutWrite_cur w p n _ f c) _ _
  · rfl

theorem write_spares (s : State) (w : Who) (p : Nat) (bs : List Byte) : Spares s (s.write w p bs) :=
  ⟨(nearStore_cur _ _ _).trans ((pastHost_cur _ _ _).trans (lifeWrite_cur _ _ _ _ _ _)), modify_keeps _ _ _ _ _ _ _⟩

theorem nearStore_spares (s : State) (p : Nat) (bs : List Byte) : Spares s (s.nearStore p bs) :=
  .of_fields (nearStore_groups _ _ _) (nearStore_cur _ _ _)

theorem engineWrite_spares (s : State) (p : Nat) (bs : List Byte) : Spares s (s.engineWrite p bs) :=
  .of_fields (engineWrite_groups _ _ _) (engineWrite_cur _ _ _)

theorem Spares.of_hbmRun {s t : State} {p n : Nat} (h : hbmRun s p n = some t) : Spares s t := by
  rw [hbmRun_frame _ _ _ _ h]; exact .of_fields rfl rfl

/-! ### The end of a context, and the logs -/

theorem endContext_spares (s : State) (ctx st : Nat) (c : Option (Nat × W64)) : Spares s (endContext s ctx st c) :=
  ⟨endContext_cur _ _ _ _, endContext_keeps _ _ _ _ _⟩

theorem diverged_spares (s : State) : Spares s (diverged s) := (endContext_spares s _ _ _).trans (.of_fields rfl rfl)

theorem logEvent_spares (s : State) (w : Who) (k o d : Nat) : Spares s (logEvent s w k o d) := by
  rw [logEvent_frame]; exact .of_fields rfl rfl

theorem logTime_spares (i : Instr) (s : State) (g : Group) (m : Mask) (t : State) : Spares t (logTime i s g m t) :=
  .foldl (fun t _ => logEvent_spares t _ _ _ _) _ _

theorem manifestUpd_spares (s : State) (w : Who) (f : Manifest → Manifest) : Spares s (manifestUpd s w f) := by
  unfold manifestUpd; split <;> exact .of_fields rfl rfl

/-! ### Words in general -/

/-- What the body of a word answers spares every group but the current one. -/
def Res.Spares (s : State) : Res → Prop
  | .ok t => Machine.Spares s t
  | .trap t _ _ => Machine.Spares s t
  | .stall => True

theorem Res.Spares.after {s t : State} {r : Res} (h : Machine.Spares s t) (k : r.Spares t) : r.Spares s := by
  cases r with
  | ok u => exact h.trans k
  | trap u _ _ => exact h.trans k
  | stall => trivial

/-- Every state that the execution of a word answers keeps the registers of every group but the current one. -/
def OutcomeSpares (s : State) (o : Host.Outcome State Fault Refusal) : Prop := ∀ t, o = .next t → OthersKeep s t s.cur

theorem takeTrap_after {s t : State} (h : Spares s t) (g : Group) (k : Nat) (d : W64) (m : Mask) : OthersKeep s (takeTrap t g k d m) s.cur :=
  h.others.trans (h.cur ▸ takeTrap_keeps t g k d m)

/-- A word spares the other groups when its body does, and its effect with an empty mask. -/
theorem runWord_spares (i : Instr) (s : State) (e : State → Group → State) (b : State → Group → Mask → Res) (he : ∀ g, Spares s (e s g))
    (hb : ∀ g m, (b s g m).Spares s) : OutcomeSpares s (runWord i s e b) := by
  intro t h
  unfold runWord at h
  split at h
  · cases h
  · next g _ =>
    split at h
    · cases h; exact takeTrap_after (.refl s) _ _ _ _
    · dsimp only at h
      split at h
      · cases h; exact (he g).others
      · have hr := hb g (g.active (hdOf i))
        split at h
        · next hs =>
          rw [hs] at hr
          split at h <;> cases h
          · exact .put _ _
          · exact (diverged_spares s).others
          · exact (Spares.trans hr (logTime_spares _ _ _ _ _)).others
        · next hs =>
          rw [hs] at hr
          split at h <;> cases h
          · exact .put _ _
          · exact (diverged_spares s).others
          · exact takeTrap_after (Spares.trans hr (logTime_spares _ _ _ _ _)) _ _ _ _
        · cases h; exact .put _ _

/-- The same of a word that does nothing with an empty mask. -/
theorem runWord_nothing_spares (i : Instr) (s : State) (b : State → Group → Mask → Res) (hb : ∀ g m, (b s g m).Spares s) :
    OutcomeSpares s (runWord i s nothing b) :=
  runWord_spares i s nothing b (fun _ => .refl s) hb

/-- A word whose effect lies within its group. -/
theorem groupWord_spares (i : Instr) (s : State) (f : State → Group → Mask → Group) : OutcomeSpares s (groupWord i s f) :=
  runWord_nothing_spares i s _ (fun _ _ => Spares.put s _)

/-- A conversion. -/
theorem convWord_spares (i : Instr) (w : CV) (s : State) (f : State → Group → Mask → Group) : OutcomeSpares s (convWord i w s f) :=
  runWord_nothing_spares i s _ (fun g m => by
    split
    · exact .refl s
    · exact Spares.put s _)

theorem markFabric_spares (s : State) (ctx : Nat) : Spares s (markFabric s ctx) := .of_fields rfl rfl

theorem markGlob_spares (s : State) (g : Group) (w : ME) : Spares s (markGlob s g w) := by
  unfold markGlob; split
  · exact markFabric_spares s _
  · exact .refl s

/-- A word of major 0x81. -/
theorem fabricWord_spares (i : Instr) (s : State) (b : State → Group → Mask → Res) (hb : ∀ s g m, (b s g m).Spares s) :
    OutcomeSpares s (fabricWord i s b) :=
  runWord_spares i s _ _ (fun _ => markFabric_spares s _) (fun g m => (hb _ g m).after (markFabric_spares s _))

theorem statWord_spares (d : Opnd) (v : State → Group → Nat) (s : State) (g : Group) (m : Mask) : (statWord d v s g m).Spares s :=
  (logEvent_spares s _ _ _ _).trans (.put _ _)

theorem statAfter_spares (d : Opnd) (v : State → Group → Nat) (past : State → Group → Nat → Bool) (s : State) (g : Group) (m : Mask) :
    (statAfter d v past s g m).Spares s := by
  unfold statAfter
  split
  · split
    · exact statWord_spares d v s g m
    · trivial
  · exact statWord_spares d v s g m

theorem block_spares (s : State) (g : Group) (w : Wait) : Spares s (s.block g w) := .put _ _

/-! ### The packets of trace -/

theorem setDbg_spares (s : State) (t : Nat) (d : Dbg) : Spares s (s.setDbg t d) := .of_fields rfl rfl

theorem addDue_spares (s : State) (x : Due) : Spares s (addDue s x) := setDbg_spares s _ _

/-- The MARKER a group owes lies beside its registers, whichever group it is. -/
theorem setOwes_spares (s : State) (key : Nat) (b : Bool) (at? : Option Nat) : Spares s (setOwes s key b at?) := by
  unfold setOwes
  split
  · next h => exact .set_same h ⟨rfl, rfl, rfl, rfl, rfl, rfl⟩
  · exact .refl s

theorem setOwes_setDbg_spares (s : State) (t : Nat) (d : Dbg) (key : Nat) (b : Bool) (at? : Option Nat) :
    Spares s (setOwes (s.setDbg t d) key b at?) :=
  (setDbg_spares s t d).trans (setOwes_spares _ _ _ _)

theorem enterFifo_spares (s : State) (x : Due) : Spares s (enterFifo s x) := by
  unfold enterFifo
  extract_lets
  split
  · split <;> exact setOwes_setDbg_spares _ _ _ _ _ _
  · split
    · split
      · split <;> exact setOwes_setDbg_spares _ _ _ _ _ _
      · exact setDbg_spares _ _ _
    · split
      · exact setDbg_spares _ _ _
      · exact setOwes_setDbg_spares _ _ _ _ _ _

theorem settleTrace_spares (s : State) (t : Nat) : Spares s (settleTrace s t) := by
  unfold settleTrace
  extract_lets
  split
  · exact .refl s
  · exact (setDbg_spares s t _).trans (.foldl enterFifo_spares _ _)

theorem post_spares (s : State) (x : Due) : Spares s (post s x) := (settleTrace_spares s _).trans (addDue_spares _ _)

theorem marker_spares (s : State) (key plane clock : Nat) : Spares s (marker s key plane clock) := by
  unfold marker
  split
  · exact .refl s
  · next h =>
    split
    · exact .refl s
    · refine .trans ?_ (post_spares _ _)
      exact .set_same h ⟨rfl, rfl, rfl, rfl, rfl, rfl⟩

theorem emit_spares (s : State) (key plane rank ty : Nat) (payload : List Byte) : Spares s (emit s key plane rank ty payload) := by
  unfold emit
  split
  · exact .refl s
  · exact post_spares s _

theorem emitCtrl_spares (s : State) (g : Group) (m : Mask) (target : Nat) (vplane : Option (Nat → Nat)) :
    Spares s (emitCtrl s g m target vplane) := by
  unfold emitCtrl
  split
  · exact .refl s
  · extract_lets
    split
    · exact emit_spares _ _ _ _ _ _
    · exact (emit_spares _ _ _ _ _ _).trans (emit_spares _ _ _ _ _ _)

theorem drain_spares (s : State) (t n : Nat) : Spares s (drain s t n) := by
  induction n generalizing s with
  | zero => exact .refl s
  | succ n ih =>
    unfold drain
    split
    · exact .refl s
    · split
      · exact .refl s
      · refine .trans ?_ (ih _)
        exact (engineWrite_spares s _ _).trans (.of_fields rfl rfl)

/-! ### Control words -/

/-- The group with what a control word records, and its packet. -/
theorem recorded_spares (s : State) (g : Group) (m : Mask) (target : Nat) (vplane : Option (Nat → Nat)) :
    Spares s (emitCtrl (s.put g) g m target vplane) :=
  (Spares.put s g).trans (emitCtrl_spares _ _ _ _ _)

theorem ctrlWord_spares (i : Instr) (s : State) (f : State → Group → Mask → Group × Mask × Nat) : OutcomeSpares s (ctrlWord i s f) :=
  runWord_nothing_spares i s _ (fun _ _ => recorded_spares s _ _ _ _)

theorem execBrapl_spares (k : BitVec 3) (w : BR) (s : State) : OutcomeSpares s (execBrapl k w s) :=
  runWord_nothing_spares _ s _ (fun g m => by
    dsimp only
    split
    · exact Spares.refl s
    · exact recorded_spares s _ _ _ _)

theorem execPset_spares (k : BitVec 3) (w : BR) (s : State) : OutcomeSpares s (execPset k w s) :=
  runWord_nothing_spares _ s _ (fun g m => by
    dsimp only
    split
    · exact Spares.refl s
    · exact recorded_spares s _ _ _ _)

theorem execPsetv_spares (w : BR) (s : State) : OutcomeSpares s (execPsetv w s) :=
  runWord_nothing_spares _ s _ (fun g m => by
    extract_lets
    split
    · exact Spares.refl s
    · exact recorded_spares s _ _ _ _)

/-! ### Words of trace -/

theorem execTmark_spares (w : IM) (s : State) : OutcomeSpares s (execTmark w s) :=
  runWord_nothing_spares _ s _ (fun _ _ => marker_spares s _ _ _)

theorem execTemit_spares (w : IM) (s : State) : OutcomeSpares s (execTemit w s) :=
  runWord_nothing_spares _ s _ (fun g m => by
    split
    · exact emit_spares s _ _ _ _ _
    · exact Spares.refl s)

theorem execTflush_spares (w : IM) (s : State) : OutcomeSpares s (execTflush w s) :=
  runWord_nothing_spares _ s _ (fun _ _ => ((settleTrace_spares s _).trans (setDbg_spares _ _ _)).trans (drain_spares _ _ _))

/-! ### Reading code -/

theorem fetchPiece_gone {s t : State} {w : Who} {va : Nat} (h : fetchPiece s w va = .gone t) : Spares s t := by
  unfold fetchPiece at h
  split at h
  · cases h
  · split at h
    · cases h
    · split at h <;> cases h
      next hr => exact .of_readAt hr

/-- A word whose fetch is a consumption is so by one of its pieces. -/
theorem joinFetch_gone {a b c : Fetch} {t : State} (h : joinFetch a b c = .gone t) : a = .gone t ∨ b = .gone t ∨ c = .gone t := by
  unfold joinFetch at h
  split at h <;> cases h
  · exact .inl rfl
  · exact .inr (.inl rfl)
  · exact .inr (.inr rfl)

theorem fetchAt_gone {s t : State} {key : Nat} {g : Group} {plane o : Nat} (h : fetchAt s key g plane o = .gone t) : Spares s t := by
  unfold fetchAt at h
  split at h
  · cases h
  · split at h
    · cases h
    · extract_lets at h
      split at h
      · cases h
      · rcases joinFetch_gone h with h | h | h <;> exact fetchPiece_gone h

theorem litAt_gone {s t : State} {g : Group} {plane : Nat} {o : Int} (h : litAt s g plane o = .gone t) : Spares s t := by
  unfold litAt at h
  split at h
  · cases h
  · split at h
    · cases h
    · split at h
      · split at h <;> cases h
      · cases h
      · next hf => cases h; exact fetchAt_gone hf

theorem fetchCorrect_spares (s : State) (key : Nat) (g : Group) (plane o : Nat) : Spares s (fetchCorrect s key g plane o) := by
  unfold fetchCorrect
  split
  · exact .refl s
  · split
    · exact .refl s
    · refine .foldl (fun s va => ?_) _ s
      split
      · exact .refl s
      · split
        · exact readAt_spares s _ _ _
        · exact .refl s

theorem execLdl_spares (w : IM) (s : State) : OutcomeSpares s (execLdl w s) :=
  runWord_nothing_spares _ s _ (fun g m => by
    extract_lets o ls at? s1
    split
    · next h =>
      obtain ⟨x, hx, hs⟩ := List.exists_of_findSome?_eq_some h
      obtain ⟨l, -, rfl⟩ := List.mem_map.1 hx
      dsimp only at hs
      split at hs <;> cases hs
      next hl => exact litAt_gone hl
    · split
      · trivial
      · split
        · exact Spares.refl s
        · split
          · exact Spares.refl s
          · have h1 : Spares s s1 := .foldl (fun s k => fetchCorrect_spares s _ _ _ _) _ s
            split <;> exact h1.trans (.put _ _))

/-! ### The entropy source -/

theorem execRseed_spares (w : IM) (s : State) : OutcomeSpares s (execRseed w s) :=
  runWord_nothing_spares _ s _ (fun g m => by
    dsimp only
    split
    · exact (logEvent_spares s _ _ _ _).trans (.put _ _)
    · exact ((logEvent_spares s _ _ _ _).trans (.put _ _)).trans (.of_fields rfl rfl))

/-! ### Near and far words -/

theorem execLdn_spares (w : ME) (s : State) : OutcomeSpares s (execLdn w s) :=
  runWord_nothing_spares _ s _ (fun g m => by
    split
    · exact Spares.refl s
    · split
      · next h => exact Spares.of_readAll h
      · next h => exact (Spares.of_readAll h).trans (.put _ _))

theorem execStn_spares (w : ME) (s : State) : OutcomeSpares s (execStn w s) :=
  runWord_nothing_spares _ s _ (fun g m => by
    split
    · exact Spares.refl s
    · exact Spares.foldl (fun s _ => nearStore_spares s _ _) _ s)

theorem execLdnr_spares (w : ME) (s : State) : OutcomeSpares s (execLdnr w s) :=
  runWord_nothing_spares _ s _ (fun g m => by
    split
    · exact Spares.refl s
    · split
      · next h => exact Spares.of_readAt h
      · next h => exact (Spares.of_readAt h).trans (.put _ _))

theorem execStnr_spares (w : ME) (s : State) : OutcomeSpares s (execStnr w s) :=
  runWord_nothing_spares _ s _ (fun g m => by
    split
    · exact Spares.refl s
    · exact Spares.foldl (fun s _ => nearStore_spares s _ _) _ s)

theorem sendFar_spares (s : State) (g : Group) (m : Mask) (w : ME) (kind : FarKind) (ts : List (Nat × Target)) (data cmp : Nat → Nat) :
    (sendFar s g m w kind ts data cmp).Spares s := by
  unfold sendFar
  extract_lets
  split
  · trivial
  · split
    · trivial
    · exact ((markGlob_spares s g w).trans (.put _ _)).trans (.of_fields rfl rfl)

/-- The effect of a far word with an empty mask that counts. -/
theorem countEmpty_spares (w : ME) (s : State) (g : Group) : Spares s (countEmpty w s g) := (markGlob_spares s g w).trans (.put _ _)

theorem execLdf_spares (w : ME) (s : State) : OutcomeSpares s (execLdf w s) :=
  runWord_spares _ s _ _ (countEmpty_spares w s) (fun g m => by
    split
    · exact markGlob_spares s g w
    · exact sendFar_spares s g m w _ _ _ _)

theorem execStf_spares (w : ME) (s : State) : OutcomeSpares s (execStf w s) :=
  runWord_spares _ s _ _ (fun g => markGlob_spares s g w) (fun g m => by
    split
    · exact markGlob_spares s g w
    · exact sendFar_spares s g m w _ _ _ _)

theorem atomWord_spares (op : Nat) (w : ME) (s : State) (g : Group) (m : Mask) : (atomWord op w s g m).Spares s := by
  unfold atomWord
  split
  · exact markGlob_spares s g w
  · exact sendFar_spares s g m w _ _ _ _

/-- An atomic with a returned value. -/
theorem atom_spares (i : Instr) (op : Nat) (w : ME) (s : State) : OutcomeSpares s (runWord i s (countEmpty w) (atomWord op w)) :=
  runWord_spares i s _ _ (countEmpty_spares w s) (atomWord_spares op w s)

theorem execVatomAdd_spares (w : ME) (s : State) : OutcomeSpares s (execVatomAdd w s) :=
  runWord_spares _ s _ _ (fun g => markGlob_spares s g w) (fun g m => by
    split
    · exact markGlob_spares s g w
    · exact sendFar_spares s g m w _ _ _ _)

/-- A reduction. -/
theorem red_spares (i : Instr) (op : Nat) (w : ME) (s : State) : OutcomeSpares s (runWord i s (globEmpty w) (redWord op w)) :=
  runWord_spares i s _ _ (fun g => markGlob_spares s g w) (fun g m => by
    unfold redWord
    split
    · exact markGlob_spares s g w
    · exact sendFar_spares s g m w _ _ _ _)

/-! ### Waits, fences and publication -/

theorem waitWord_spares (w : Wait) (s : State) (g : Group) : (waitWord w s g).Spares s := by
  unfold waitWord
  split
  · exact Spares.refl s
  · exact block_spares s g w

theorem execWaitAc_spares (w : SY) (s : State) : OutcomeSpares s (execWaitAc w s) :=
  runWord_nothing_spares _ s _ (fun g _ => by
    extract_lets
    split
    · exact Spares.put s _
    · exact block_spares s g _)

theorem execWaitBatch_spares (w : SY) (s : State) : OutcomeSpares s (execWaitBatch w s) :=
  runWord_nothing_spares _ s _ (fun g _ => by
    extract_lets
    split
    · exact Spares.put s _
    · exact waitWord_spares _ s g)

theorem execFenceRel_spares (w : SY) (s : State) : OutcomeSpares s (execFenceRel w s) :=
  runWord_nothing_spares _ s _ (fun _ _ => (waitWord_spares _ _ _).after (.put s _))

theorem execFenceAcqrel_spares (w : SY) (s : State) : OutcomeSpares s (execFenceAcqrel w s) :=
  runWord_nothing_spares _ s _ (fun _ _ => (waitWord_spares _ _ _).after (.put s _))

theorem handPublish_spares (s : State) (w : Who) (k look : Nat) (job : Option Nat) : Spares s (handPublish s w k look job) :=
  (manifestUpd_spares _ _ _).rebase rfl rfl

theorem execPublish_spares (w : SY) (s : State) : OutcomeSpares s (execPublish w s) :=
  runWord_nothing_spares _ s _ (fun g _ => by
    extract_lets
    split
    · exact block_spares s g _
    · exact handPublish_spares s _ _ _ _)

/-! ### Swap images and tags -/

theorem walkFrom_spares (s : State) (w : Who) (tile va k t lvl n : Nat) : Spares s (walkFrom s w tile va k t lvl n).1 := by
  induction n generalizing s t lvl with
  | zero => exact .refl s
  | succ n ih =>
    unfold walkFrom
    split
    · next h => exact .of_readAt h
    · next h =>
      extract_lets
      split
      · exact .of_readAt h
      · exact (Spares.of_readAt h).trans ((ih _ _ _).rebase rfl rfl)
      · exact .of_readAt h

theorem walk_spares (s : State) (w : Who) (tile va k : Nat) : Spares s (walk s w tile va k).1 := by
  unfold walk
  extract_lets
  split
  · exact .refl s
  · split
    · exact walkFrom_spares s w _ _ _ _ _ _
    · split <;> exact walkFrom_spares s w _ _ _ _ _ _

theorem walkedPlace_spares (s : State) (w : Who) (tile a k : Nat) : Spares s (walkedPlace s w tile a k).1 := by
  unfold walkedPlace
  split
  · exact .refl s
  · have hw := walk_spares s w tile a k
    split
    · next h => exact (hw.of_fst h).trans (.of_fields rfl rfl)
    · next h => exact (hw.of_fst h).trans (.of_fields rfl rfl)
    · next h => exact hw.of_fst h

theorem imagePut_spares (s : State) (bid ofs : Nat) (bs : List Byte) : Spares s (imagePut s bid ofs bs) := by
  unfold imagePut
  split
  · exact .refl s
  · extract_lets t a r
    have hr : Spares s r.1 := by
      dsimp only [r]
      split
      · exact walkedPlace_spares s _ _ _ _
      · exact .refl s
    split
    · next h =>
      split at h
      · cases h
      · obtain ⟨p, -, hp⟩ := Option.bind_eq_some_iff.1 h
        obtain ⟨s2, h2, rfl⟩ := Option.map_eq_some_iff.1 hp
        exact hr.trans ((Spares.of_hbmRun h2).trans (write_spares _ _ _ _))
    · exact hr.trans (.of_fields rfl rfl)

theorem tagUpd_spares (s : State) (block tix tag : Nat) (f : Tag → Tag) : Spares s (tagUpd s block tix tag f) := by
  unfold tagUpd
  split
  · exact .refl s
  · split
    · extract_lets
      split
      · exact (imagePut_spares _ _ _ _).rebase rfl rfl
      · exact .of_fields rfl rfl
    · exact .of_fields rfl rfl

/-! ### Copies -/

theorem startCopyAs_spares (f : Copy → Copy) (s : State) (g : Group) (m : Mask) (kind : CopyKind) (tag : Nat) (c : CopyArgs) :
    (startCopyAs f s g m kind tag c).Spares s := by
  unfold startCopyAs
  split
  · trivial
  · extract_lets t s1
    have h1 : Spares s s1 := tagUpd_spares s _ _ _ _
    split
    · exact h1.trans (tagUpd_spares _ _ _ _ _)
    · exact h1.trans (.of_fields rfl rfl)

theorem copyWord_spares (s : State) (g : Group) (m : Mask) (w : EN) (kind : CopyKind) (c : CopyArgs) : (copyWord s g m w kind c).Spares s := by
  unfold copyWord
  split
  · exact Spares.refl s
  · exact startCopyAs_spares _ s g m _ _ _

theorem Spares.of_nearDesc {s t : State} {w : Who} {a : Nat} {r : Option Nat} (h : nearDesc s w a = .ok (t, r)) : Spares s t := by
  unfold nearDesc at h
  split at h
  · cases h
  · split at h <;> cases h <;> next hr => exact .of_readAt hr

theorem execCp_spares (w : EN) (s : State) : OutcomeSpares s (execCp w s) :=
  runWord_nothing_spares _ s _ (fun g m => copyWord_spares s g m w _ _)

theorem execCpfill_spares (w : EN) (s : State) : OutcomeSpares s (execCpfill w s) :=
  runWord_nothing_spares _ s _ (fun g m => copyWord_spares s g m w _ _)

theorem execCpd_spares (w : EN) (s : State) : OutcomeSpares s (execCpd w s) :=
  runWord_nothing_spares _ s _ (fun g m => by
    split
    · exact Spares.refl s
    · next h => exact Spares.of_nearDesc h
    · next h => exact (copyWord_spares _ _ m w _ _).after (.of_nearDesc h))

theorem execTagclr_spares (w : EN) (s : State) : OutcomeSpares s (execTagclr w s) :=
  runWord_nothing_spares _ s _ (fun _ _ => Spares.foldl (fun s t => by
    split
    · extract_lets
      split
      · exact .of_fields rfl rfl
      · exact .refl s
    · exact .refl s) _ s)

/-! ### Skeins -/

theorem setSkein_spares (s : State) (k : Nat) (q : Skein) : Spares s (s.setSkein k q) := .of_fields rfl rfl

theorem reserve_spares (s : State) (g : Group) (k : Nat) (a : Opnd) (v : W64) (ids : List Nat) : Spares s (reserve s g k a v ids) :=
  (poke_spares s _ _).trans (setSkein_spares _ _ _)

theorem takeEntry_spares (s : State) (g : Group) (w : Who) (k : Nat) (d : Opnd) (m : Mask) (e : SkEntry) :
    Spares s (takeEntry s s.cur g w k d m e) := by
  unfold takeEntry
  extract_lets
  split
  · next h => exact .of_readAt h
  · next h =>
    have h1 := (Spares.of_readAt h).trans (logEvent_spares _ w 3 k e.j)
    exact (h1.trans (setSkein_spares _ _ _)).trans (.set_cur _ h1.cur.symm)

theorem execQpush_spares (w : EN) (s : State) : OutcomeSpares s (execQpush w s) :=
  runWord_nothing_spares _ s _ (fun g _ => by
    extract_lets k ids v j s1
    have h1 : Spares s s1 := reserve_spares s g k w.a v ids
    split
    · exact block_spares s g _
    · split
      · exact h1.trans (block_spares s1 g _)
      · exact h1)

theorem execQpop_spares (w : EN) (s : State) : OutcomeSpares s (execQpop w s) :=
  runWord_nothing_spares _ s _ (fun g m => by
    extract_lets
    split
    · split
      · exact takeEntry_spares s g _ _ _ _ _
      · trivial
      · exact diverged_spares s
    · exact block_spares s g _)

/-! ### Barriers -/

theorem noteFlip_spares (s : State) (block p x y : Nat) : Spares s (noteFlip s block p x y) := by
  unfold noteFlip
  split
  · exact .refl s
  · exact .of_fields rfl rfl

theorem barStep_spares (s : State) (w : Who) (block p : Nat) (f : Nat → Nat) : Spares s (barStep s w block p f) := by
  unfold barStep
  split
  · next h => exact .of_readAt h
  · next h => exact (Spares.of_readAt h).trans ((noteFlip_spares _ _ _ _ _).trans (poke_spares _ _ _))

theorem execBarinit_spares (w : EN) (s : State) : OutcomeSpares s (execBarinit w s) :=
  runWord_nothing_spares _ s _ (fun g _ => by
    split
    · exact Spares.refl s
    · exact (noteFlip_spares s _ _ _ _).trans (poke_spares _ _ _))

theorem execBara_spares (w : EN) (s : State) : OutcomeSpares s (execBara w s) :=
  runWord_nothing_spares _ s _ (fun g _ => by
    split
    · exact Spares.refl s
    · extract_lets
      split
      · exact block_spares s g _
      · exact barStep_spares s _ _ _ _)

theorem Spares.of_phaseRead {s t : State} {w : Who} {p : Nat} {r : Option Bool} (h : phaseRead s w p = (t, r)) : Spares s t := by
  unfold phaseRead at h
  split at h <;> cases h <;> next hr => exact .of_readAt hr

theorem execBarw_spares (w : EN) (s : State) : OutcomeSpares s (execBarw w s) :=
  runWord_nothing_spares _ s _ (fun g m => by
    split
    · exact Spares.refl s
    · extract_lets
      split
      · next h => exact Spares.of_phaseRead h
      · next h =>
        split
        · exact (Spares.of_phaseRead h).trans (block_spares _ g _)
        · exact Spares.of_phaseRead h)

theorem Spares.of_pollOnce {s t : State} {g : Group} {p x : Nat} {ph : Bool} (h : pollOnce s g p x ph = some t) : Spares s t := by
  unfold pollOnce at h
  extract_lets at h
  split at h <;> cases h
  exact .of_fields rfl rfl

theorem execBarrd_spares (w : EN) (s : State) : OutcomeSpares s (execBarrd w s) :=
  runWord_nothing_spares _ s _ (fun g m => by
    split
    · exact Spares.refl s
    · split
      · next h => exact Spares.of_readAt h
      · next h =>
        split
        · exact (statWord_spares _ _ _ g m).after (.of_readAt h)
        · split
          · next hp => exact ((statWord_spares _ _ _ g m).after (.of_pollOnce hp)).after (.of_readAt h)
          · trivial)

theorem markArrived_spares (s : State) (g : Group) (k : Nat) (m : Mask) : Spares s (markArrived s g k m) := by
  unfold markArrived
  split
  · exact .refl s
  · exact .of_fields rfl rfl

theorem execBarb_spares (w : EN) (s : State) : OutcomeSpares s (execBarb w s) :=
  runWord_nothing_spares _ s _ (fun g m => by
    extract_lets
    split
    · exact (Spares.put s _).trans (block_spares _ _ _)
    · exact (Spares.put s _).trans (markArrived_spares _ _ _ _))

/-! ### The matrix unit -/

theorem execGset_spares (w : EN) (s : State) : OutcomeSpares s (execGset w s) :=
  runWord_nothing_spares _ s _ (fun g m => by
    split
    · exact Spares.refl s
    · next h => exact Spares.of_nearDesc h
    · next h => exact (Spares.of_nearDesc h).trans (.put _ _))

theorem execGmod_spares (w : EN) (s : State) : OutcomeSpares s (execGmod w s) :=
  runWord_nothing_spares _ s _ (fun g _ => by
    extract_lets
    split
    · exact Spares.refl s
    · exact Spares.put s _)

theorem execGget_spares (w : EN) (s : State) : OutcomeSpares s (execGget w s) :=
  runWord_nothing_spares _ s _ (fun g m => by
    extract_lets
    split
    · exact Spares.refl s
    · split
      · exact statAfter_spares _ _ _ s g m
      · exact Spares.put s _)

theorem accept_spares (s : State) (g : Group) (m : Mask) (k : Nat) (c : MatCmd) : (accept s g m k c).Spares s :=
  ((logEvent_spares s _ _ _ _).trans (.put _ _)).trans (.of_fields rfl rfl)

theorem execMma_spares (w : EN) (s : State) : OutcomeSpares s (execMma w s) :=
  runWord_nothing_spares _ s _ (fun g m => by
    extract_lets
    split
    · trivial
    · split
      · exact Spares.refl s
      · split
        · exact Spares.refl s
        · exact accept_spares s g m _ _)

theorem execMmconv_spares (w : CV) (s : State) : OutcomeSpares s (execMmconv w s) :=
  runWord_nothing_spares _ s _ (fun g m => by
    extract_lets
    split
    · trivial
    · split
      · exact Spares.refl s
      · split
        · exact Spares.refl s
        · exact accept_spares s g m _ _)

theorem execMmrd_spares (w : EN) (s : State) : OutcomeSpares s (execMmrd w s) :=
  runWord_nothing_spares _ s _ (fun g m => by
    extract_lets
    split
    · next h => exact Spares.of_readAll h
    · next h => exact (Spares.of_readAll h).trans (.put _ _))

theorem execMmwr_spares (w : EN) (s : State) : OutcomeSpares s (execMmwr w s) :=
  runWord_nothing_spares _ s _ (fun _ _ => Spares.foldl (fun s _ => poke_spares s _ _) _ s)

/-! ### Returning from a trap -/

theorem readBack_spares (s : State) (w : Who) (p : Nat) (es : List (Entry × Nat)) : Spares s (readBack s w p es).1 := by
  induction es generalizing s with
  | nil => exact .refl s
  | cons x r ih =>
    unfold readBack
    split
    · next h => exact .of_readAt h
    · next h =>
      split
      · next h2 => exact (Spares.of_readAt h).trans (.of_readAt h2)
      · next h2 => exact ((Spares.of_readAt h).trans (.of_readAt h2)).trans (ih _)

theorem respill_spares (s : State) (key : Nat) (old g : Group) (hk : key = s.cur) : Spares s (s.respill key old g) := by
  unfold State.respill
  split
  · exact .set_cur g hk
  · extract_lets back
    have hb := (Spares.set_cur old hk).trans (readBack_spares _ (whoAt key g 0) (spillPlace key) back)
    split
    · next h => exact hb.of_fst h
    · next h =>
      have h1 := hb.of_fst h
      exact (h1.trans (.set_cur g (hk.trans h1.cur.symm))).trans (.foldl (fun s _ => poke_spares s _ _) _ _)

theorem stopEntry_spares (s : State) (key : Nat) (e : Entry) (cause code : Nat) (hk : key = s.cur) : Spares s (stopEntry s key e cause code) := by
  unfold stopEntry
  split
  · exact .refl s
  · extract_lets t r g1 d s1
    have h1 : Spares s s1 := (Spares.set_cur g1 hk).trans (.of_fields rfl rfl)
    split
    · exact h1.trans (emit_spares _ _ _ _ _ _)
    · exact h1

theorem checkBreaks_spares (s : State) (key n : Nat) (hk : key = s.cur) : Spares s (checkBreaks s key n) := by
  induction n generalizing s with
  | zero => exact .refl s
  | succ n ih =>
    unfold checkBreaks
    split
    · exact .refl s
    · split
      · exact .refl s
      · split
        · exact .refl s
        · next e _ _ k _ =>
          have h := stopEntry_spares s key e 1 k hk
          exact h.trans (ih _ (hk.trans h.cur.symm))

theorem completionStops_spares (s : State) (key : Nat) (old : Group) (hk : key = s.cur) : Spares s (completionStops s key old) := by
  unfold completionStops
  split
  · exact .refl s
  · extract_lets s1
    have h1 : Spares s s1 := Spares.foldl_at (key := key) (fun s e hk => by
      split
      · exact stopEntry_spares s key _ _ _ hk
      · exact .refl s) _ s hk
    split
    · split
      · split
        · exact h1
        · split
          · exact h1.trans (stopEntry_spares s1 key _ _ _ (hk.trans h1.cur.symm))
          · exact h1
      · exact h1
    · exact h1

theorem loopCheck_spares (s : State) (key : Nat) : Spares s (loopCheck s key) := by
  unfold loopCheck
  split
  · split
    · exact .refl s
    · split
      · split
        · exact .of_fields rfl rfl
        · exact .refl s
      · split
        · exact .of_fields rfl rfl
        · exact .refl s
  · split
    · exact .of_fields rfl rfl
    · exact .refl s
  · exact .refl s

theorem loopAfter_spares (s : State) (key o : Nat) (branched : List Nat) : Spares s (loopAfter s key o branched) := by
  unfold loopAfter
  split
  · exact loopCheck_spares s key
  · split
    · exact loopCheck_spares s key
    · extract_lets back s1 s2 planes
      have h1 : Spares s s1 := by
        dsimp only [s1]
        split
        · split
          · exact .of_fields rfl rfl
          · exact .refl s
        · exact .refl s
      have h2 : Spares s s2 := h1.trans (loopCheck_spares s1 key)
      split
      · split
        · split
          · exact h2.trans (.trans (.foldl (fun s _ => fetchCorrect_spares s _ _ _ _) _ s2) (.of_fields rfl rfl))
          · exact h2
        · exact h2
      · exact h2

theorem offsetDone_spares (s : State) (key : Nat) (hk : key = s.cur) : Spares s (offsetDone s key) := by
  unfold offsetDone
  split
  · exact .refl s
  · next g _ =>
    extract_lets o r g1 s0 s1 s2
    have h0 : Spares s s0 := respill_spares s key g g1 hk
    have h1 : Spares s s1 := h0.trans (completionStops_spares s0 key g (hk.trans h0.cur.symm))
    have ha : Spares s (loopAfter s1 key o (g.rcd.next.map Prod.snd)) := h1.trans (loopAfter_spares _ _ _ _)
    have h2 : Spares s s2 := ha.trans (checkBreaks_spares _ key 64 (hk.trans ha.cur.symm))
    split
    · exact endContext_spares s _ _ _
    · split
      · exact (Spares.set_cur _ hk).trans (loopCheck_spares _ _)
      · split
        · exact h0
        · split
          · exact h2
          · split
            · exact h2.trans (.set_cur _ (hk.trans h2.cur.symm))
            · exact h2

theorem headRead_spares (s : State) (key : Nat) (g : Group) : Spares s (headRead s key g) := by
  unfold headRead
  split
  · exact fetchCorrect_spares s _ _ _ _
  · exact .refl s

theorem preemptAtRte_spares (s : State) (g : Group) : Spares s (preemptAtRte s g) := by
  unfold preemptAtRte
  extract_lets s1
  have h1 : Spares s s1 := by
    refine .trans ?_ (headRead_spares _ _ _)
    split
    · exact (Spares.put s g).trans (checkBreaks_spares _ _ _ rfl)
    · exact .put s g
  split
  · exact h1
  · split
    · exact h1.trans (.put s1 _)
    · split
      · exact h1.trans (.put s1 _)
      · split
        · exact (h1.trans (.put s1 _)).trans (offsetDone_spares _ _ rfl)
        · exact h1.trans (.put s1 _)

theorem returnWord_spares (skip : Bool) (s : State) (g : Group) : (returnWord skip s g).Spares s := by
  unfold returnWord
  split
  · exact Spares.refl s
  · extract_lets g0 g1 s1
    have h1 : Spares s s1 := respill_spares s s.cur g g1 rfl
    split
    · exact h1.trans (preemptAtRte_spares s1 _)
    · exact h1

/-! ### Words of major 0x90 -/

theorem execTinfo_spares (f : BitVec 3) (w : SY) (s : State) : OutcomeSpares s (execTinfo f w s) :=
  runWord_nothing_spares _ s _ (fun g m => by
    split
    · exact statWord_spares _ _ s g m
    · exact Spares.put s _)

theorem execYield_spares (w : SY) (s : State) : OutcomeSpares s (execYield w s) :=
  runWord_nothing_spares _ s _ (fun g _ => by
    split
    · exact block_spares s _ _
    · exact Spares.refl s)

theorem appendPost_spares (s : State) (w : Who) (q n : Nat) (bs : List Byte) (ids : List Nat) : Spares s (appendPost s w q n bs ids) := by
  unfold appendPost
  extract_lets st tail s1
  exact (logEvent_spares s w 5 q tail.toNat).trans ((manifestUpd_spares _ _ _).rebase rfl rfl)

theorem Spares.of_nearRecord {s t : State} {w : Who} {a : Nat} {sized : Bool} {r : Option (List Byte)} (h : nearRecord s w a sized = .ok (t, r)) :
    Spares s t := by
  unfold nearRecord at h
  split at h
  · cases h
  · split at h
    · next hr => cases h; exact .of_readAt hr
    · next hr =>
      extract_lets at h
      split at h
      · cases h
      · exact (Spares.of_readAt hr).trans (.of_readAt (Except.ok.inj h))

theorem postWord_spares (q : Nat) (sized : Bool) (w : SY) (s : State) (g : Group) (m : Mask) : (postWord q sized w s g m).Spares s := by
  unfold postWord
  extract_lets
  split
  · exact Spares.refl s
  · next h => exact Spares.of_nearRecord h
  · next h =>
    refine Res.Spares.after (.of_nearRecord h) ?_
    extract_lets
    split
    · trivial
    · split
      · trivial
      · split
        · trivial
        · exact diverged_spares _
        · exact (statWord_spares _ _ _ _ m).after (appendPost_spares _ _ _ _ _ _)
    · exact statWord_spares _ _ _ _ m

theorem flushXlate_spares (s : State) (ctx : Nat) (tile : Option Nat) : Spares s (flushXlate s ctx tile) := by
  unfold flushXlate
  split <;> exact .of_fields rfl rfl

theorem tfenceRelease_spares (s : State) (g : Group) (dev : Bool) : Spares s (tfenceRelease s s.cur g dev) := by
  have h := flushXlate_spares s
  exact (h _ _).trans (.set_cur _ (h _ _).cur.symm)

theorem execTfence_spares (w : SY) (s : State) : OutcomeSpares s (execTfence w s) :=
  runWord_nothing_spares _ s _ (fun g _ => by
    extract_lets
    split
    · exact block_spares s g _
    · exact tfenceRelease_spares s g _)

theorem execIcinv_spares (w : SY) (s : State) : OutcomeSpares s (execIcinv w s) :=
  runWord_nothing_spares _ s _ (fun g _ => by
    extract_lets
    split
    · exact Spares.refl s
    · split
      · exact Spares.refl s
      · split
        · exact Spares.refl s
        · exact Spares.of_fields rfl rfl)

theorem castOff_spares (s : State) (w : Who) (k : Nat) (obj : W64) (ids : List Nat) (since : Option Nat) : Spares s (castOff s w k obj ids since) :=
  by unfold castOff; extract_lets; exact (manifestUpd_spares _ _ _).rebase rfl rfl

theorem execDfree_spares (w : SY) (s : State) : OutcomeSpares s (execDfree w s) :=
  runWord_nothing_spares _ s _ (fun g m => by
    extract_lets
    split
    · exact Spares.refl s
    · split
      · exact Spares.refl s
      · split
        · exact Spares.refl s
        · split
          · exact statWord_spares _ _ s g m
          · split
            · exact block_spares s g _
            · exact (statWord_spares _ _ _ g m).after (castOff_spares s _ _ _ _ _))

/-! ### Words of the fabric -/

theorem execRput_spares (w : EN) (s : State) : OutcomeSpares s (execRput w s) :=
  fabricWord_spares _ s _ (fun s g m => by
    extract_lets
    split
    · exact Spares.refl s
    · split
      · exact Spares.refl s
      · exact startCopyAs_spares _ s g m _ _ _)

theorem execRget_spares (w : EN) (s : State) : OutcomeSpares s (execRget w s) :=
  fabricWord_spares _ s _ (fun s g m => by
    extract_lets
    split
    · exact Spares.refl s
    · split
      · exact Spares.refl s
      · exact startCopyAs_spares _ s g m _ _ _)

theorem execGath_spares (w : EN) (s : State) : OutcomeSpares s (execGath w s) :=
  fabricWord_spares _ s _ (fun s g m => by
    extract_lets a
    split
    · exact Spares.refl s
    · next h => exact Spares.of_nearDesc h
    · next s1 x h =>
      refine Res.Spares.after (.of_nearDesc h) ?_
      extract_lets d g1 bad t p s2 s3
      split
      · exact Spares.refl s1
      · split
        · exact Spares.refl s1
        · split
          · trivial
          · have h2 : Spares s1 s2 := (poke_spares s1 _ _).trans (poke_spares _ _ _)
            exact (h2.trans (tagUpd_spares s2 _ _ _ _)).trans (.of_fields rfl rfl))

theorem setCode_spares (s : State) (tile a code : Nat) : Spares s (setCode s tile a code) := poke_spares s _ _

theorem handOut_spares (s : State) (ctx tile a : Nat) : Spares s (handOut s ctx tile a) := by
  unfold handOut
  split
  · exact .refl s
  · exact .of_fields rfl rfl

theorem execPublishShadow_spares (w : EN) (s : State) : OutcomeSpares s (execPublishShadow w s) :=
  fabricWord_spares _ s _ (fun s g m => by
    extract_lets
    split
    · exact Spares.refl s
    · next h => exact Spares.of_nearDesc h
    · next s1 x h =>
      refine Res.Spares.after (.of_nearDesc h) ?_
      extract_lets g1 code now ans rest
      split
      · exact statWord_spares _ _ s1 _ m
      · split
        · trivial
        · split
          · exact statWord_spares _ _ s1 _ m
          · split
            · exact (statWord_spares _ _ _ _ m).after ((setCode_spares rest _ _ _).rebase rfl rfl)
            · exact (statWord_spares _ _ _ _ m).after ((handOut_spares s1 _ _ _).trans (setCode_spares _ _ _ _)))

/-- A form of a word that names a region spares the other groups when the effect it is given does. A predicate on the form as a whole: where `regionForm` is unfolded
with its arguments, the kernel goes on to evaluate `regionOf`, whose numbers are too large for it. -/
def FormSpares (form : State → EN → (Nat → Res) → Res) : Prop :=
  ∀ (s : State) (w : EN) (f : Nat → Res), (∀ n, (f n).Spares s) → (form s w f).Spares s

theorem regionForm_spares : FormSpares regionForm := by
  obtain ⟨region, hr⟩ : ∃ region, region = regionOf := ⟨_, rfl⟩
  delta regionForm
  rw [← hr]
  intro s w f hf
  dsimp only
  split
  · exact Spares.refl s
  · exact hf _

theorem addPc_spares (s : State) (w : Who) (i : Nat) (d : W64) : Spares s (addPc s w i d) := by
  unfold addPc
  extract_lets x l1 l2 s1
  have h1 : Spares s s1 := by
    dsimp only [s1]
    split
    · exact .of_fields rfl rfl
    · exact .refl s
  exact h1.trans ((manifestUpd_spares _ _ _).rebase rfl rfl)

theorem execPcarm_spares (w : EN) (s : State) : OutcomeSpares s (execPcarm w s) :=
  fabricWord_spares _ s _ (fun s g _ => regionForm_spares s w _ (fun n => by
    dsimp only
    split
    · trivial
    · exact (tagUpd_spares s _ _ _ _).trans (.of_fields rfl rfl)))

theorem execPcrd_spares (w : EN) (s : State) : OutcomeSpares s (execPcrd w s) :=
  fabricWord_spares _ s _ (fun s g m => regionForm_spares s w _ (fun _ => statAfter_spares _ _ _ s g m))

theorem execPcadd_spares (w : EN) (s : State) : OutcomeSpares s (execPcadd w s) :=
  fabricWord_spares _ s _ (fun s _ _ => regionForm_spares s w _ (fun _ => addPc_spares s _ _ _))

theorem execGenst_spares (w : EN) (s : State) : OutcomeSpares s (execGenst w s) :=
  fabricWord_spares _ s _ (fun s g _ => regionForm_spares s w _ (fun n => by
    extract_lets x l1 l2 s1
    have h1 : Spares s s1 := by
      dsimp only [s1]
      split
      · exact .of_fields rfl rfl
      · exact .refl s
    exact h1.trans ((manifestUpd_spares _ _ _).rebase rfl rfl)))

theorem execGenrd_spares (w : EN) (s : State) : OutcomeSpares s (execGenrd w s) :=
  fabricWord_spares _ s _ (fun s g m => regionForm_spares s w _ (fun _ => statAfter_spares _ _ _ s g m))

/-! ### Every word -/

/-- Every word spares the groups other than the one that executes it. An event is no word. -/
theorem exec_spares (i : Instr) (s : State) (hi : i.isWord = true) : OutcomeSpares s (exec i s) := by
  unfold exec
  cases i with
  | nop _ | elect _ | pmask _ | pload _ | pathq _ _ | add _ | sub _ | mul _ | mulhi _ | div _ | rem _ | min _ | max _ | and _ | or _ | xor _ | andn _
  | shl _ | shr _ | sar _ | rotl _ | scmp _ _ | clz _ | ctz _ | popc _ | brev _ | neg _ | abs _ | mov _ | lea _ _ | gaddr _ _ | gfld _ _ | addi _
  | movi _ | movm _ | movh _ | andi _ | ori _ | xori _ | bfxu _ | bfxs _ | bfi _ | vaddInt _ | vsubInt _ | vmulInt _ | vmulhi _ | vminInt _
  | vmaxInt _ | vnegInt _ | vabsInt _ | vand _ | vor _ | vxor _ | vandn _ | vshl _ | vshr _ | vsar _ | vrotl _ | vclz _ | vctz _ | vpopc _ | vbrev _
  | vmov _ | vcmp _ _ | pand _ | por _ | pxor _ | pandn _ | pnot _ | vmad _ _ | vsel _ | vclamp _ | vdp4 _ | vfma _ | vfms _ | vfnma _ | vfnms _
  | vfclamp _ | vdot2 _ | vaddFloat _ | vsubFloat _ | vmulFloat _ | vdiv _ | vminFloat _ | vmaxFloat _ | vminn _ | vmaxn _ | vnegFloat _
  | vabsFloat _ | vcopysign _ | vfcmp _ _ | vfclass _ | vfrnd _ | vshfl _ _ _ | vredlog _ _ | vscan _ _ | vscanx _ _ | vtopk _ _ | vtopkNorm _ _
  | vrcp _ | vrsqrt _ | vsqrt _ | vexpo _ | vexp2i _ | vscalb _ | vrand _ | fenceAcq _ | acwr _ | qbase _ | ginv _ | mmfence _ | save _ | quiesce _
  | trcdis _ | trcen _ | bkpt _ => exact groupWord_spares _ s _
  | bra _ | brs _ _ | bany _ | ball _ | bnone _ | call _ | jmp _ | ret _ | exit _ => exact ctrlWord_spares _ s _
  | vcvt _ | vcvtn _ | vcvtw _ => exact convWord_spares _ _ s _
  | atomAdd _ | atomMin _ | atomMax _ | atomAnd _ | atomOr _ | atomXor _ | atomExch _ | atomCas _ => exact atom_spares _ _ _ s
  | redAdd _ | redMin _ | redMax _ => exact red_spares _ _ _ s
  | waitAny _ | waitAll _ | waitSt _ => exact runWord_nothing_spares _ s _ (fun g _ => waitWord_spares _ s g)
  | qstat _ | gracest _ | trcst _ => exact runWord_nothing_spares _ s _ (statWord_spares _ _ s)
  | fabst _ => exact fabricWord_spares _ s _ (statWord_spares _ _)
  | ffr _ | acrd _ | tagst _ | mmstat _ => exact runWord_nothing_spares _ s _ (statAfter_spares _ _ _ s)
  | rte _ | rteSkip _ => exact runWord_nothing_spares _ s _ (fun g _ => returnWord_spares _ s g)
  | launch _ | tpost _ => exact runWord_nothing_spares _ s _ (postWord_spares _ _ _ s)
  | trap _ => exact runWord_nothing_spares _ s _ (fun _ _ => Spares.refl s)
  | graceWait _ => exact runWord_nothing_spares _ s _ (fun g _ => block_spares s g _)
  | brapl k w => exact execBrapl_spares k w s
  | pset k w => exact execPset_spares k w s
  | psetv w => exact execPsetv_spares w s
  | ldl w => exact execLdl_spares w s
  | rseed w => exact execRseed_spares w s
  | ldn w => exact execLdn_spares w s
  | stn w => exact execStn_spares w s
  | ldnr w => exact execLdnr_spares w s
  | stnr w => exact execStnr_spares w s
  | ldf w => exact execLdf_spares w s
  | stf w => exact execStf_spares w s
  | vatomAdd w => exact execVatomAdd_spares w s
  | waitAc w => exact execWaitAc_spares w s
  | waitBatch w => exact execWaitBatch_spares w s
  | fenceRel w => exact execFenceRel_spares w s
  | fenceAcqrel w => exact execFenceAcqrel_spares w s
  | publish w => exact execPublish_spares w s
  | cp w => exact execCp_spares w s
  | cpfill w => exact execCpfill_spares w s
  | cpd w => exact execCpd_spares w s
  | tagclr w => exact execTagclr_spares w s
  | qpush w => exact execQpush_spares w s
  | qpop w => exact execQpop_spares w s
  | barinit w => exact execBarinit_spares w s
  | bara w => exact execBara_spares w s
  | barw w => exact execBarw_spares w s
  | barrd w => exact execBarrd_spares w s
  | barb w => exact execBarb_spares w s
  | gset w => exact execGset_spares w s
  | gmod w => exact execGmod_spares w s
  | mma w => exact execMma_spares w s
  | mmconv w => exact execMmconv_spares w s
  | mmrd w => exact execMmrd_spares w s
  | mmwr w => exact execMmwr_spares w s
  | gget w => exact execGget_spares w s
  | rput w => exact execRput_spares w s
  | rget w => exact execRget_spares w s
  | gath w => exact execGath_spares w s
  | publishShadow w => exact execPublishShadow_spares w s
  | pcarm w => exact execPcarm_spares w s
  | pcrd w => exact execPcrd_spares w s
  | pcadd w => exact execPcadd_spares w s
  | genst w => exact execGenst_spares w s
  | genrd w => exact execGenrd_spares w s
  | tinfo f w => exact execTinfo_spares f w s
  | yield w => exact execYield_spares w s
  | tfence w => exact execTfence_spares w s
  | icinv w => exact execIcinv_spares w s
  | dfree w => exact execDfree_spares w s
  | tmark w => exact execTmark_spares w s
  | temit w => exact execTemit_spares w s
  | tflush w => exact execTflush_spares w s
  | _ => cases hi

/-- Settles O60, by cases over the words (`exec_spares`): what a word does to another group, as it ends that group's context, halts it or emits its owed MARKER,
lies beside its registers, predicates, %status, environment and frame. -/
theorem noWordWritesAnotherGroupsRegisters : Obligations.NoWordWritesAnotherGroupsRegisters := by
  unfold Obligations.NoWordWritesAnotherGroupsRegisters
  intro i s t key g hi ht hk hg
  exact exec_spares i s hi t ht key g hk hg

end Sys2Proof.Machine

/-! PROOFS, 04 R58, R59, R64, R66. The word and its instruction: an instruction's fields fit their widths and build it again (Laws/PerInstr.lean); the other way
round, what the form of a legal word leaves out is 0, so the instruction that is built says every field, and the fields are all 96 bits. -/

namespace Sys2Proof
open Sys2Proof.Machine

/-! ### The bits of a word and its fields (04 R58 Table 1) -/

theorem Opnd.toNat_ofNat {x : Nat} (h : x < 4096) : (Opnd.ofNat x).toNat = x := by
  unfold Opnd.ofNat
  dsimp only
  split
  · simp only [Opnd.toNat, BitVec.toNat_ofNat]; omega
  · split
    · simp only [Opnd.toNat, BitVec.toNat_ofNat]; omega
    · split <;> simp only [Opnd.toNat, BitVec.toNat_ofNat] <;> omega

theorem Ty.toNat_ofCode {n : Nat} (h : n < 16) : (Ty.ofCode n).toNat = n := by
  interval_cases n <;> rfl
theorem RM.toNat_ofCode {n : Nat} (h : n < 8) : (RM.ofCode n).toNat = n := by
  interval_cases n <;> rfl
theorem Scope.toNat_ofCode {n : Nat} (h : n < 8) : (Scope.ofCode n).toNat = n := by
  interval_cases n <;> rfl
theorem Ord.toNat_ofCode {n : Nat} (h : n < 4) : (Ord.ofCode n).toNat = n := by
  interval_cases n <;> rfl

theorem Machine.fld_lt (x lo len : Nat) : fld x lo len < 2 ^ len := Nat.mod_lt _ (Nat.two_pow_pos len)

theorem Machine.b2n_bit (x n : Nat) : b2n (bit x n) = fld x n 1 := by
  have := fld_lt x n 1
  rw [bit_eq_fld]
  generalize fld x n 1 = y at *
  interval_cases y <;> rfl

theorem Machine.toNat_ofNat_fld (x lo len : Nat) : (BitVec.ofNat len (fld x lo len)).toNat = fld x lo len := by
  rw [BitVec.toNat_ofNat, Nat.mod_eq_of_lt (fld_lt x lo len)]

theorem unpack_fits {w : Nat} : (unpack w).fits := ⟨fld_lt w 88 8, fld_lt w 84 4, fld_lt w 0 30⟩

/-- What lies from bit `lo` up is the field at `lo` and what lies above it. -/
theorem Machine.div_eq_fld_add (w lo len : Nat) : w / 2 ^ lo = fld w lo len + w / 2 ^ (lo + len) * 2 ^ len := by
  rw [fld, Nat.pow_add, ← Nat.div_div_eq_div_mul, Nat.mod_add_div']

/-- Every one of the 96 bits of a word lies in a field (04 R58 Table 1). -/
theorem pack_unpack {w : Nat} (h : w < 2 ^ 96) : pack (unpack w) = w := by
  have top : w / 2 ^ 96 = 0 := Nat.div_eq_of_lt h
  simp only [pack, unpack, b2n_bit, toNat_ofNat_fld, Opnd.toNat_ofNat (fld_lt w _ 12), Ty.toNat_ofCode (fld_lt w 30 4)]
  symm
  calc w = w / 2 ^ 0 := by rw [Nat.pow_zero, Nat.div_one]
    _ = _ := by
      rw [div_eq_fld_add w 0 30, div_eq_fld_add w 30 4, div_eq_fld_add w 34 12, div_eq_fld_add w 46 12, div_eq_fld_add w 58 12, div_eq_fld_add w 70 1,
        div_eq_fld_add w 71 1, div_eq_fld_add w 72 1, div_eq_fld_add w 73 1, div_eq_fld_add w 74 1, div_eq_fld_add w 75 4, div_eq_fld_add w 79 4,
        div_eq_fld_add w 83 1, div_eq_fld_add w 84 4, div_eq_fld_add w 88 8, top]
      ring

/-- A field of `m` that lies within the bits of `z` is 0 when `m` has no bit of `z`. -/
theorem Machine.fld_of_and_eq_zero {m z : Nat} (h : m &&& z = 0) (lo len : Nat) (hz : fld z lo len = 2 ^ len - 1) : fld m lo len = 0 := by
  have e (x : Nat) : fld x lo len = (x >>> lo) &&& (2 ^ len - 1) := by
    rw [fld, Nat.and_two_pow_sub_one_eq_mod, Nat.shiftRight_eq_div_pow]
  calc fld m lo len = (m >>> lo) &&& fld z lo len := by rw [hz, e]
    _ = ((m &&& z) >>> lo) &&& (2 ^ len - 1) := by rw [e z, Nat.shiftRight_and_distrib, Nat.and_assoc]
    _ = 0 := by rw [h, Nat.zero_shiftRight, Nat.zero_and]

/-! ### The payload of each class says the fields it was taken from (04 R59 Table 2) -/

section
variable {f : Fields} {major minor c : Nat} (hf : f.fits) (hM : f.major = major) (hm : f.minor = minor)
include hf hM hm

theorem R3.says (hc : f.cond = c) (hz : fld f.mod 0 20 = 0) : some (f.toR3.fields major minor c) = some f := by
  obtain ⟨M, m, hd, d, a, b, ty, mod⟩ := f
  obtain ⟨-, -, h3⟩ := hf
  subst hM hm hc
  simp only [R3.fields, Fields.toR3, Fields.rm, Fields.sat, Fields.cond, RM.toNat_ofCode (fld_lt _ 27 3), b2n_bit]
  congr 2
  simp only [fld] at *
  omega

theorem FU.says (hc : f.neg = c) (hz : fld f.mod 0 12 = 0) : some (f.toFU.fields major minor c) = some f := by
  obtain ⟨M, m, hd, d, a, b, ty, mod⟩ := f
  obtain ⟨-, -, h3⟩ := hf
  subst hM hm hc
  simp only [FU.fields, Fields.toFU, Fields.rm, Fields.sat, Fields.neg, Fields.c, RM.toNat_ofCode (fld_lt _ 27 3), b2n_bit, Opnd.toNat_ofNat (fld_lt _ 12 12)]
  congr 2
  simp only [fld] at *
  omega

theorem IM.says (hc : f.sub = c) : some (f.toIM.fields major minor c) = some f := by
  obtain ⟨M, m, hd, d, a, b, ty, mod⟩ := f
  obtain ⟨-, -, h3⟩ := hf
  subst hM hm hc
  simp only [IM.fields, Fields.toIM, Fields.rm, Fields.sub, Fields.imm, RM.toNat_ofCode (fld_lt _ 27 3), toNat_ofNat_fld]
  congr 2
  simp only [fld] at *
  omega

theorem BR.says (hc : f.bsub = c) : some (f.toBR.fields major minor c) = some f := by
  obtain ⟨M, m, hd, d, a, b, ty, mod⟩ := f
  obtain ⟨-, -, h3⟩ := hf
  subst hM hm hc
  simp only [BR.fields, Fields.toBR, Fields.bsub, Fields.imm, toNat_ofNat_fld]
  congr 2
  simp only [fld] at *
  omega

theorem CV.says (hz : fld f.mod 0 14 = 0) : some (f.toCV.fields major minor c) = some f := by
  obtain ⟨M, m, hd, d, a, b, ty, mod⟩ := f
  obtain ⟨-, -, h3⟩ := hf
  subst hM hm
  simp only [CV.fields, Fields.toCV, Fields.rm, Fields.sat, Fields.dty, Fields.scale, RM.toNat_ofCode (fld_lt _ 27 3), b2n_bit, Ty.toNat_ofCode (fld_lt _ 22 4), toNat_ofNat_fld]
  congr 2
  simp only [fld] at *
  omega

theorem ME.says : some (f.toME.fields major minor c) = some f := by
  obtain ⟨M, m, hd, d, a, b, ty, mod⟩ := f
  obtain ⟨-, -, h3⟩ := hf
  subst hM hm
  simp only [ME.fields, Fields.toME, Fields.scopeM, Fields.ac, Fields.glob, Fields.order, Fields.ofs, Scope.toNat_ofCode (fld_lt _ 27 3), b2n_bit, Ord.toNat_ofCode (fld_lt _ 20 2), toNat_ofNat_fld]
  congr 2
  simp only [fld] at *
  omega

theorem SY.says (hc : f.kind = c) : some (f.toSY.fields major minor c) = some f := by
  obtain ⟨M, m, hd, d, a, b, ty, mod⟩ := f
  obtain ⟨-, -, h3⟩ := hf
  subst hM hm hc
  simp only [SY.fields, Fields.toSY, Fields.scopeM, Fields.kind, Fields.imm, Scope.toNat_ofCode (fld_lt _ 27 3), toNat_ofNat_fld]
  congr 2
  simp only [fld] at *
  omega

theorem EN.says : some (f.toEN.fields major minor c) = some f := by
  obtain ⟨M, m, hd, d, a, b, ty, mod⟩ := f
  obtain ⟨-, -, h3⟩ := hf
  subst hM hm
  simp only [EN.fields, Fields.toEN, Fields.tag, Fields.index, Fields.scopeE, Fields.param, Scope.toNat_ofCode (fld_lt _ 17 3), toNat_ofNat_fld]
  congr 2
  simp only [fld] at *
  omega
end

/-! ### What the form of a legal word says of its modifiers (04 R59, R64) -/

/-- What a word that breaks no rule has: a type and modifiers its form admits, and nothing where the form has no operand or modifier. -/
structure Form.Takes (fm : Form) (f : Fields) : Prop where
  ty : inSet fm.types f.ty.toNat = true
  d : fm.kd = 0 → f.d = Opnd.zero
  a : fm.ka = 0 → f.a = Opnd.zero
  b : fm.kb = 0 → f.b = Opnd.zero
  ok8 : fm.ok8 = true
  z9 : f.mod &&& fm.z9 = 0

/-- A modifier field that the form leaves out is 0. -/
theorem Form.Takes.zero {fm : Form} {f : Fields} (ht : fm.Takes f) (lo len : Nat) (hz : fld fm.z9 lo len = 2 ^ len - 1) : fld f.mod lo len = 0 :=
  fld_of_and_eq_zero ht.z9 lo len hz

/-- A field whose upper bits are 0 is as small as its lower bits. -/
theorem Machine.fld_lt_of_high {m : Nat} (lo n k : Nat) (h : fld m (lo + n) k = 0) : fld m lo (n + k) < 2 ^ n := by
  have e : fld m lo (n + k) = fld m lo n + 2 ^ n * fld m (lo + n) k := by
    simp only [fld, Nat.pow_add, Nat.mod_mul, Nat.div_div_eq_div_mul]
  rw [e, h, Nat.mul_zero, Nat.add_zero]
  exact fld_lt m lo n

theorem selector_toNat {n c : Nat} (h : c < 2 ^ n) : (BitVec.ofNat n (fld c 0 n)).toNat = c := by
  rw [toNat_ofNat_fld, fld, Nat.pow_zero, Nat.div_one, Nat.mod_eq_of_lt h]

/-- A selector whose bit 3 tells two constructors apart: the upper one. -/
theorem selector_of_bit3 {c : Nat} (h : c < 2 ^ 4) (hb : bit c 3 = true) : c = 8 + (BitVec.ofNat 3 (fld c 0 3)).toNat := by
  rw [toNat_ofNat_fld]
  simp only [bit, fld, beq_iff_eq] at *
  omega

/-- The lower one. -/
theorem selector_of_not_bit3 {c : Nat} (h : c < 2 ^ 4) (hb : ¬ bit c 3 = true) : c = (BitVec.ofNat 3 (fld c 0 3)).toNat := by
  rw [toNat_ofNat_fld]
  simp only [bit, fld, beq_iff_eq] at *
  omega

/-- The two selectors of `vshfl` lie side by side in COND (07 Table 1). -/
theorem selector_pair {c : Nat} (h : c < 2 ^ 5) : c = (BitVec.ofNat 2 (fld c 0 2)).toNat + (BitVec.ofNat 3 (fld c 2 3)).toNat * 4 := by
  rw [toNat_ofNat_fld, toNat_ofNat_fld]
  simp only [fld]
  omega

section
variable {f : Fields} {fm : Form} {i : Instr}

theorem Ty.none_of_inSet {t : Ty} (h : inSet 1 t.toNat = true) : t = .none := by
  revert h; cases t <;> decide

/-- `nop`: no operand, no type and no modifier (04 R67). -/
theorem Hd.says (hf : f.fits) (hM : f.major = 1) (hm : f.minor = 0) (hty : f.ty = .none) (hd : f.d = Opnd.zero) (ha : f.a = Opnd.zero)
    (hb : f.b = Opnd.zero) (hz : fld f.mod 0 30 = 0) : some (f.hd.fields 1 0 0) = some f := by
  obtain ⟨M, m, hd, d, a, b, ty, mod⟩ := f
  obtain ⟨-, -, h3⟩ := hf
  obtain rfl : mod = 0 := by simp only [fld] at *; omega
  simp_all [Hd.fields]

/-! ### The instruction built of a legal word says all of its fields, major by major (05 to 22) -/

theorem build01_says (hf : f.fits) (hM : f.major = 0x01) (h : form01 f = some fm) (ht : fm.Takes f) (hb : build01 f = some i) :
    fieldsOf i = some f := by
  unfold form01 at h
  split at h <;> cases h
  case h_1.refl hm =>
    simp only [build01, hm] at hb
    cases hb
    exact Hd.says hf hM hm (Ty.none_of_inSet ht.ty) (ht.d rfl) (ht.a rfl) (ht.b rfl) (ht.zero 0 30 (by simp [fld]))
  case h_2.refl hm =>
    simp only [build01, hm] at hb
    split at hb <;> cases hb
    · next hc => exact BR.says hf hM hm (selector_of_bit3 (fld_lt_of_high 24 4 2 (ht.zero 28 2 (by simp [fld, hc]))) hc)
    · next hc =>
      have low : fld f.mod 24 3 = 0 := ht.zero 24 3 (by simp [fld, hc])
      have high : fld f.mod 28 2 = 0 := ht.zero 28 2 (by simp [fld, hc])
      refine BR.says hf hM hm ?_
      simp only [Fields.bsub, bit, fld, beq_iff_eq] at *
      omega
  case h_3.refl hm =>
    simp only [build01, hm] at hb
    cases hb
    exact BR.says hf hM hm (selector_toNat (n := 4) (fld_lt_of_high 24 4 2 (ht.zero 28 2 (by simp [fld])))).symm
  case h_4.refl hm =>
    simp only [build01, hm] at hb
    split at hb <;> cases hb <;> next hc => exact BR.says hf hM hm hc
  case h_5.refl hm =>
    simp only [build01, hm] at hb
    cases hb
    exact BR.says hf hM hm (by simpa using ht.ok8)
  case h_6.refl hm =>
    simp only [build01, hm] at hb
    split at hb <;> cases hb <;> exact BR.says hf hM hm (by simpa using ht.ok8)
  case h_7.refl hm =>
    simp only [build01, hm] at hb
    cases hb
    exact R3.says hf hM hm (ht.zero 20 6 (by simp [fld])) (ht.zero 0 20 (by simp [fld]))
  case h_8.refl hm =>
    simp only [build01, hm] at hb
    cases hb
    exact BR.says hf hM hm (selector_toNat (n := 3) (fld_lt_of_high 24 3 3 (ht.zero 27 3 (by simp [fld])))).symm
  case h_9.refl hm =>
    simp only [build01, hm] at hb
    cases hb
    exact BR.says hf hM hm (ht.zero 24 6 (by simp [fld]))

theorem build02_says (hf : f.fits) (hM : f.major = 0x02) (h : form02 f = some fm) (ht : fm.Takes f) (hb : build02 f = some i) :
    fieldsOf i = some f := by
  unfold form02 at h
  split at h <;> cases h
  all_goals have h8 := ht.ok8
  all_goals simp only [Bool.and_eq_true, decide_eq_true_eq, beq_iff_eq] at h8
  all_goals have hz := ht.zero 0 20 (by simp [fld])
  case h_1.refl hm | h_2.refl hm | h_3.refl hm =>
    simp only [build02, hm] at hb
    cases hb
    exact R3.says hf hM hm (by omega) hz
  case h_4.refl hm =>
    simp only [build02, hm] at hb
    cases hb
    exact R3.says hf hM hm (selector_toNat (n := 2) (by omega)).symm hz

theorem build10_says (hf : f.fits) (hM : f.major = 0x10) (h : form10 f = some fm) (ht : fm.Takes f) (hb : build10 f = some i) :
    fieldsOf i = some f := by
  unfold form10 at h
  simp only at h
  split at h <;> cases h
  all_goals have h8 := ht.ok8
  all_goals simp only [Bool.and_eq_true, decide_eq_true_eq, beq_iff_eq] at h8
  all_goals have hz := ht.zero 0 20 (by simp [fld])
  case h_1.refl hm | h_2.refl hm | h_11.refl hm =>
    simp only [build10, hm] at hb
    cases hb
    exact R3.says hf hM hm (by omega) hz
  case h_3.refl hm | h_4.refl hm | h_5.refl hm | h_6.refl hm | h_7.refl hm | h_9.refl hm | h_10.refl hm =>
    simp only [build10, hm] at hb
    split at hb <;> cases hb <;> next hc => exact R3.says hf hM hm hc hz
  case h_8.refl hm =>
    simp only [build10, hm] at hb
    cases hb
    exact R3.says hf hM hm (selector_toNat (n := 3) (by omega)).symm hz
  case h_12.refl hm =>
    simp only [build10, hm] at hb
    cases hb
    exact R3.says hf hM hm (selector_toNat (n := 3) (fld_lt_of_high 20 3 3 (ht.zero 23 3 (by simp [fld])))).symm hz
  case h_13.refl hm =>
    simp only [build10, hm] at hb
    cases hb
    exact R3.says hf hM hm (selector_toNat (n := 5) (fld_lt_of_high 20 5 1 (ht.zero 25 1 (by simp [fld])))).symm hz
  case h_14.refl hm =>
    simp only [build10, hm] at hb
    cases hb
    exact R3.says hf hM hm (selector_toNat (n := 2) (by omega)).symm hz

theorem build11_says (hf : f.fits) (hM : f.major = 0x11) (h : form11 f = some fm) (ht : fm.Takes f) (hb : build11 f = some i) :
    fieldsOf i = some f := by
  unfold form11 at h
  split at h <;> cases h
  all_goals have h8 := ht.ok8
  all_goals simp only [Bool.and_eq_true, decide_eq_true_eq, beq_iff_eq] at h8
  case h_1.refl hm =>
    simp only [build11, hm] at hb
    cases hb
    exact IM.says hf hM hm (by omega)
  case h_2.refl hm | h_3.refl hm | h_4.refl hm =>
    simp only [build11, hm] at hb
    split at hb <;> cases hb <;> next hc => exact IM.says hf hM hm hc

theorem build12_says (hf : f.fits) (hM : f.major = 0x12) (h : form12 f = some fm) (ht : fm.Takes f) (hb : build12 f = some i) :
    fieldsOf i = some f := by
  unfold form12 at h
  split at h <;> cases h
  all_goals have h8 := ht.ok8
  all_goals simp only [Bool.and_eq_true, beq_iff_eq] at h8
  case h_1.refl hm =>
    simp only [build12, hm] at hb
    cases hb
    exact IM.says hf hM hm (by omega)

theorem build20_says (hf : f.fits) (hM : f.major = 0x20) (h : form20 f = some fm) (ht : fm.Takes f) (hb : build20 f = some i) :
    fieldsOf i = some f := by
  unfold form20 at h
  simp only at h
  split at h <;> cases h
  all_goals have h8 := ht.ok8
  all_goals simp only [Bool.and_eq_true, decide_eq_true_eq, beq_iff_eq] at h8
  all_goals have hz := ht.zero 0 20 (by simp [fld])
  case h_1.refl hm | h_2.refl hm | h_9.refl hm =>
    simp only [build20, hm] at hb
    cases hb
    exact R3.says hf hM hm (by omega) hz
  case h_3.refl hm | h_4.refl hm | h_5.refl hm | h_6.refl hm | h_7.refl hm | h_8.refl hm | h_11.refl hm =>
    simp only [build20, hm] at hb
    split at hb <;> cases hb <;> next hc => exact R3.says hf hM hm hc hz
  case h_10.refl hm =>
    simp only [build20, hm] at hb
    cases hb
    exact R3.says hf hM hm (selector_toNat (n := 3) (by omega)).symm hz

theorem build21_says (hf : f.fits) (hM : f.major = 0x21) (h : form21 f = some fm) (ht : fm.Takes f) (hb : build21 f = some i) :
    fieldsOf i = some f := by
  unfold form21 at h
  split at h <;> cases h
  all_goals have hz := ht.zero 0 12 (by simp [fused, fld])
  case h_1.refl hm =>
    simp only [build21, hm] at hb
    cases hb
    exact FU.says hf hM hm (selector_toNat (fld_lt _ 24 2)).symm hz
  case h_2.refl hm | h_3.refl hm | h_4.refl hm =>
    simp only [build21, hm] at hb
    cases hb
    exact FU.says hf hM hm (ht.zero 24 2 (by simp [fused, fld])) hz

theorem build30_says (hf : f.fits) (hM : f.major = 0x30) (h : form30 f = some fm) (ht : fm.Takes f) (hb : build30 f = some i) :
    fieldsOf i = some f := by
  unfold form30 at h
  split at h <;> cases h
  all_goals have hz := ht.zero 0 12 (by simp [fused, fld])
  case h_1.refl hm =>
    simp only [build30, hm] at hb
    split at hb <;> cases hb <;> next hc => exact FU.says hf hM hm hc hz
  case h_2.refl hm =>
    simp only [build30, hm] at hb
    cases hb
    exact FU.says hf hM hm (ht.zero 24 2 (by simp [fused, fld])) hz

theorem build31_says (hf : f.fits) (hM : f.major = 0x31) (h : form31 f = some fm) (ht : fm.Takes f) (hb : build31 f = some i) :
    fieldsOf i = some f := by
  unfold form31 at h
  simp only at h
  split at h <;> cases h
  all_goals have h8 := ht.ok8
  all_goals simp only [Bool.and_eq_true, decide_eq_true_eq, beq_iff_eq] at h8
  all_goals have hz := ht.zero 0 20 (by simp [fld])
  case h_1.refl hm | h_2.refl hm | h_3.refl hm | h_4.refl hm | h_8.refl hm | h_9.refl hm =>
    simp only [build31, hm] at hb
    cases hb
    exact R3.says hf hM hm (by omega) hz
  case h_5.refl hm | h_6.refl hm =>
    simp only [build31, hm] at hb
    split at hb <;> cases hb <;> next hc => exact R3.says hf hM hm hc hz
  case h_7.refl hm =>
    simp only [build31, hm] at hb
    cases hb
    exact R3.says hf hM hm (selector_toNat (n := 3) (by omega)).symm hz

theorem build32_says (hf : f.fits) (hM : f.major = 0x32) (h : form32 f = some fm) (ht : fm.Takes f) (hb : build32 f = some i) :
    fieldsOf i = some f := by
  unfold form32 at h
  split at h <;> cases h
  all_goals have hz := ht.zero 0 12 (by simp [fused, fld])
  case h_1.refl hm =>
    simp only [build32, hm] at hb
    cases hb
    exact FU.says hf hM hm (ht.zero 24 2 (by simp [fused, fld])) hz

theorem build40_says (hf : f.fits) (hM : f.major = 0x40) (h : form40 f = some fm) (ht : fm.Takes f) (hb : build40 f = some i) :
    fieldsOf i = some f := by
  unfold form40 at h
  simp only at h
  split at h <;> cases h
  all_goals have hz := ht.zero 0 14 (by simp [fld])
  case h_1.refl hm | h_2.refl hm | h_3.refl hm =>
    simp only [build40, hm] at hb
    cases hb
    exact CV.says hf hM hm hz

theorem build48_says (hf : f.fits) (hM : f.major = 0x48) (h : form48 f = some fm) (ht : fm.Takes f) (hb : build48 f = some i) :
    fieldsOf i = some f := by
  unfold form48 at h
  simp only at h
  split at h <;> cases h
  all_goals have hz := ht.zero 0 20 (by simp [fld])
  case h_1.refl hm =>
    simp only [build48, hm] at hb
    cases hb
    exact R3.says hf hM hm (selector_pair (fld_lt_of_high 20 5 1 (ht.zero 25 1 (by simp [fld])))) hz
  case h_2.refl hm =>
    simp only [build48, hm] at hb
    cases hb
    exact R3.says hf hM hm (selector_toNat (n := 3) (fld_lt_of_high 20 3 3 (ht.zero 23 3 (by simp [fld])))).symm hz
  case h_3.refl hm | h_4.refl hm =>
    simp only [build48, hm] at hb
    have h4 : f.cond < 2 ^ 4 := fld_lt_of_high 20 4 2 (ht.zero 24 2 (by simp [fld]))
    split at hb <;> cases hb
    · next hc => exact R3.says hf hM hm (selector_of_bit3 h4 hc) hz
    · next hc => exact R3.says hf hM hm (selector_of_not_bit3 h4 hc) hz

theorem build49_says (hf : f.fits) (hM : f.major = 0x49) (h : form49 f = some fm) (ht : fm.Takes f) (hb : build49 f = some i) :
    fieldsOf i = some f := by
  unfold form49 at h
  split at h <;> cases h
  all_goals have h8 := ht.ok8
  all_goals simp only [Bool.and_eq_true, decide_eq_true_eq, beq_iff_eq] at h8
  case h_1.refl hm =>
    simp only [build49, hm] at hb
    split at hb <;> cases hb <;> next hc => exact IM.says hf hM hm hc
  case h_2.refl hm | h_3.refl hm | h_4.refl hm | h_5.refl hm =>
    simp only [build49, hm] at hb
    cases hb
    exact IM.says hf hM hm (by omega)

theorem build50_says (hf : f.fits) (hM : f.major = 0x50) (hb : build50 f = some i) : fieldsOf i = some f := by
  unfold build50 at hb
  split at hb <;> cases hb <;> next hm => exact ME.says hf hM hm

theorem build51_says (hf : f.fits) (hM : f.major = 0x51) (hb : build51 f = some i) : fieldsOf i = some f := by
  unfold build51 at hb
  split at hb <;> cases hb <;> next hm => exact ME.says hf hM hm

theorem build60_says (hf : f.fits) (hM : f.major = 0x60) (h : form60 f = some fm) (ht : fm.Takes f) (hb : build60 f = some i) :
    fieldsOf i = some f := by
  unfold form60 at h
  simp only at h
  split at h <;> cases h
  all_goals have h8 := ht.ok8
  all_goals simp only [Bool.and_eq_true, decide_eq_true_eq, beq_iff_eq] at h8
  case h_1.refl hm | h_3.refl hm =>
    simp only [build60, hm] at hb
    split at hb <;> cases hb <;> next hc => exact SY.says hf hM hm hc
  case h_2.refl hm | h_4.refl hm | h_5.refl hm | h_6.refl hm =>
    simp only [build60, hm] at hb
    cases hb
    exact SY.says hf hM hm (by omega)

theorem build68_says (hf : f.fits) (hM : f.major = 0x68) (hb : build68 f = some i) : fieldsOf i = some f := by
  unfold build68 at hb
  split at hb <;> cases hb <;> next hm => exact EN.says hf hM hm

theorem build70_says (hf : f.fits) (hM : f.major = 0x70) (hb : build70 f = some i) : fieldsOf i = some f := by
  unfold build70 at hb
  split at hb <;> cases hb <;> next hm => exact EN.says hf hM hm

theorem build78_says {lim : Limits} (hf : f.fits) (hM : f.major = 0x78) (h : form78 lim f = some fm) (ht : fm.Takes f) (hb : build78 f = some i) :
    fieldsOf i = some f := by
  unfold form78 at h
  simp only at h
  split at h <;> cases h
  case h_1.refl hm | h_2.refl hm | h_3.refl hm | h_4.refl hm | h_5.refl hm | h_7.refl hm | h_8.refl hm | h_9.refl hm | h_10.refl hm =>
    simp only [build78, hm] at hb
    cases hb
    exact EN.says hf hM hm
  case h_6.refl hm =>
    simp only [build78, hm] at hb
    cases hb
    exact CV.says hf hM hm (ht.zero 0 14 (by simp [fld]))

theorem build80_says (hf : f.fits) (hM : f.major = 0x80) (hb : build80 f = some i) : fieldsOf i = some f := by
  unfold build80 at hb
  split at hb <;> cases hb <;> next hm => exact ME.says hf hM hm

theorem build81_says (hf : f.fits) (hM : f.major = 0x81) (hb : build81 f = some i) : fieldsOf i = some f := by
  unfold build81 at hb
  split at hb <;> cases hb <;> next hm => exact EN.says hf hM hm

theorem build90_says {lim : Limits} (hf : f.fits) (hM : f.major = 0x90) (h : form90 lim f = some fm) (ht : fm.Takes f) (hb : build90 f = some i) :
    fieldsOf i = some f := by
  unfold form90 at h
  simp only at h
  split at h <;> cases h
  all_goals have h8 := ht.ok8
  all_goals simp only [Bool.and_eq_true, decide_eq_true_eq, beq_iff_eq] at h8
  case h_1.refl hm | h_4.refl hm | h_5.refl hm | h_6.refl hm | h_7.refl hm | h_9.refl hm | h_10.refl hm | h_11.refl hm | h_12.refl hm =>
    simp only [build90, hm] at hb
    cases hb
    exact SY.says hf hM hm (by omega)
  case h_2.refl hm =>
    simp only [build90, hm] at hb
    cases hb
    exact SY.says hf hM hm (selector_toNat (n := 3) (by omega)).symm
  case h_3.refl hm | h_8.refl hm =>
    simp only [build90, hm] at hb
    split at hb <;> cases hb <;> next hc => exact SY.says hf hM hm hc

theorem build98_says (hf : f.fits) (hM : f.major = 0x98) (h : form98 f = some fm) (ht : fm.Takes f) (hb : build98 f = some i) :
    fieldsOf i = some f := by
  unfold form98 at h
  simp only at h
  split at h <;> cases h
  all_goals have h8 := ht.ok8
  all_goals simp only [Bool.and_eq_true, decide_eq_true_eq, beq_iff_eq] at h8
  case h_1.refl hm | h_2.refl hm | h_4.refl hm | h_5.refl hm | h_6.refl hm =>
    simp only [build98, hm] at hb
    cases hb
    exact IM.says hf hM hm (by omega)
  case h_3.refl hm =>
    simp only [build98, hm] at hb
    split at hb <;> cases hb <;> next hc => exact IM.says hf hM hm hc
end

/-! ### A legal word and its instruction -/

/-- Every instruction says all of itself in its fields (04 R58, R59); an event and a refused word have none. -/
theorem encoding_statement (i : Instr) : Laws.Encoding.Statement i := by
  cases i with
  | nop w => exact Laws.Encoding.nop w
  | bra w => exact Laws.Encoding.bra w
  | brapl k w => exact Laws.Encoding.brapl k w
  | brs c w => exact Laws.Encoding.brs c w
  | bany w => exact Laws.Encoding.bany w
  | ball w => exact Laws.Encoding.ball w
  | bnone w => exact Laws.Encoding.bnone w
  | call w => exact Laws.Encoding.call w
  | jmp w => exact Laws.Encoding.jmp w
  | ret w => exact Laws.Encoding.ret w
  | exit w => exact Laws.Encoding.exit w
  | pset k w => exact Laws.Encoding.pset k w
  | psetv w => exact Laws.Encoding.psetv w
  | elect w => exact Laws.Encoding.elect w
  | pmask w => exact Laws.Encoding.pmask w
  | pload w => exact Laws.Encoding.pload w
  | pathq q w => exact Laws.Encoding.pathq q w
  | add w => exact Laws.Encoding.add w
  | sub w => exact Laws.Encoding.sub w
  | mul w => exact Laws.Encoding.mul w
  | mulhi w => exact Laws.Encoding.mulhi w
  | div w => exact Laws.Encoding.div w
  | rem w => exact Laws.Encoding.rem w
  | min w => exact Laws.Encoding.min w
  | max w => exact Laws.Encoding.max w
  | and w => exact Laws.Encoding.and w
  | or w => exact Laws.Encoding.or w
  | xor w => exact Laws.Encoding.xor w
  | andn w => exact Laws.Encoding.andn w
  | shl w => exact Laws.Encoding.shl w
  | shr w => exact Laws.Encoding.shr w
  | sar w => exact Laws.Encoding.sar w
  | rotl w => exact Laws.Encoding.rotl w
  | scmp c w => exact Laws.Encoding.scmp c w
  | clz w => exact Laws.Encoding.clz w
  | ctz w => exact Laws.Encoding.ctz w
  | popc w => exact Laws.Encoding.popc w
  | brev w => exact Laws.Encoding.brev w
  | neg w => exact Laws.Encoding.neg w
  | abs w => exact Laws.Encoding.abs w
  | mov w => exact Laws.Encoding.mov w
  | lea k w => exact Laws.Encoding.lea k w
  | gaddr r w => exact Laws.Encoding.gaddr r w
  | gfld f w => exact Laws.Encoding.gfld f w
  | addi w => exact Laws.Encoding.addi w
  | movi w => exact Laws.Encoding.movi w
  | movm w => exact Laws.Encoding.movm w
  | movh w => exact Laws.Encoding.movh w
  | andi w => exact Laws.Encoding.andi w
  | ori w => exact Laws.Encoding.ori w
  | xori w => exact Laws.Encoding.xori w
  | bfxu w => exact Laws.Encoding.bfxu w
  | bfxs w => exact Laws.Encoding.bfxs w
  | bfi w => exact Laws.Encoding.bfi w
  | ldl w => exact Laws.Encoding.ldl w
  | vaddInt w => exact Laws.Encoding.vaddInt w
  | vsubInt w => exact Laws.Encoding.vsubInt w
  | vmulInt w => exact Laws.Encoding.vmulInt w
  | vmulhi w => exact Laws.Encoding.vmulhi w
  | vminInt w => exact Laws.Encoding.vminInt w
  | vmaxInt w => exact Laws.Encoding.vmaxInt w
  | vnegInt w => exact Laws.Encoding.vnegInt w
  | vabsInt w => exact Laws.Encoding.vabsInt w
  | vand w => exact Laws.Encoding.vand w
  | vor w => exact Laws.Encoding.vor w
  | vxor w => exact Laws.Encoding.vxor w
  | vandn w => exact Laws.Encoding.vandn w
  | vshl w => exact Laws.Encoding.vshl w
  | vshr w => exact Laws.Encoding.vshr w
  | vsar w => exact Laws.Encoding.vsar w
  | vrotl w => exact Laws.Encoding.vrotl w
  | vclz w => exact Laws.Encoding.vclz w
  | vctz w => exact Laws.Encoding.vctz w
  | vpopc w => exact Laws.Encoding.vpopc w
  | vbrev w => exact Laws.Encoding.vbrev w
  | vmov w => exact Laws.Encoding.vmov w
  | vcmp c w => exact Laws.Encoding.vcmp c w
  | pand w => exact Laws.Encoding.pand w
  | por w => exact Laws.Encoding.por w
  | pxor w => exact Laws.Encoding.pxor w
  | pandn w => exact Laws.Encoding.pandn w
  | pnot w => exact Laws.Encoding.pnot w
  | vmad n w => exact Laws.Encoding.vmad n w
  | vsel w => exact Laws.Encoding.vsel w
  | vclamp w => exact Laws.Encoding.vclamp w
  | vdp4 w => exact Laws.Encoding.vdp4 w
  | vfma w => exact Laws.Encoding.vfma w
  | vfms w => exact Laws.Encoding.vfms w
  | vfnma w => exact Laws.Encoding.vfnma w
  | vfnms w => exact Laws.Encoding.vfnms w
  | vfclamp w => exact Laws.Encoding.vfclamp w
  | vdot2 w => exact Laws.Encoding.vdot2 w
  | vaddFloat w => exact Laws.Encoding.vaddFloat w
  | vsubFloat w => exact Laws.Encoding.vsubFloat w
  | vmulFloat w => exact Laws.Encoding.vmulFloat w
  | vdiv w => exact Laws.Encoding.vdiv w
  | vminFloat w => exact Laws.Encoding.vminFloat w
  | vmaxFloat w => exact Laws.Encoding.vmaxFloat w
  | vminn w => exact Laws.Encoding.vminn w
  | vmaxn w => exact Laws.Encoding.vmaxn w
  | vnegFloat w => exact Laws.Encoding.vnegFloat w
  | vabsFloat w => exact Laws.Encoding.vabsFloat w
  | vcopysign w => exact Laws.Encoding.vcopysign w
  | vfcmp c w => exact Laws.Encoding.vfcmp c w
  | vfclass w => exact Laws.Encoding.vfclass w
  | vfrnd w => exact Laws.Encoding.vfrnd w
  | vcvt w => exact Laws.Encoding.vcvt w
  | vcvtn w => exact Laws.Encoding.vcvtn w
  | vcvtw w => exact Laws.Encoding.vcvtw w
  | vshfl m g w => exact Laws.Encoding.vshfl m g w
  | vredlog o w => exact Laws.Encoding.vredlog o w
  | vscan o w => exact Laws.Encoding.vscan o w
  | vscanx o w => exact Laws.Encoding.vscanx o w
  | vtopk k w => exact Laws.Encoding.vtopk k w
  | vtopkNorm k w => exact Laws.Encoding.vtopkNorm k w
  | vrcp w => exact Laws.Encoding.vrcp w
  | vrsqrt w => exact Laws.Encoding.vrsqrt w
  | vsqrt w => exact Laws.Encoding.vsqrt w
  | vexpo w => exact Laws.Encoding.vexpo w
  | vexp2i w => exact Laws.Encoding.vexp2i w
  | vscalb w => exact Laws.Encoding.vscalb w
  | vrand w => exact Laws.Encoding.vrand w
  | rseed w => exact Laws.Encoding.rseed w
  | ldn w => exact Laws.Encoding.ldn w
  | stn w => exact Laws.Encoding.stn w
  | ldnr w => exact Laws.Encoding.ldnr w
  | stnr w => exact Laws.Encoding.stnr w
  | ldf w => exact Laws.Encoding.ldf w
  | stf w => exact Laws.Encoding.stf w
  | atomAdd w => exact Laws.Encoding.atomAdd w
  | atomMin w => exact Laws.Encoding.atomMin w
  | atomMax w => exact Laws.Encoding.atomMax w
  | atomAnd w => exact Laws.Encoding.atomAnd w
  | atomOr w => exact Laws.Encoding.atomOr w
  | atomXor w => exact Laws.Encoding.atomXor w
  | atomExch w => exact Laws.Encoding.atomExch w
  | atomCas w => exact Laws.Encoding.atomCas w
  | vatomAdd w => exact Laws.Encoding.vatomAdd w
  | waitAc w => exact Laws.Encoding.waitAc w
  | waitAny w => exact Laws.Encoding.waitAny w
  | waitAll w => exact Laws.Encoding.waitAll w
  | waitBatch w => exact Laws.Encoding.waitBatch w
  | waitSt w => exact Laws.Encoding.waitSt w
  | ffr w => exact Laws.Encoding.ffr w
  | fenceAcq w => exact Laws.Encoding.fenceAcq w
  | fenceRel w => exact Laws.Encoding.fenceRel w
  | fenceAcqrel w => exact Laws.Encoding.fenceAcqrel w
  | publish w => exact Laws.Encoding.publish w
  | acrd w => exact Laws.Encoding.acrd w
  | acwr w => exact Laws.Encoding.acwr w
  | cp w => exact Laws.Encoding.cp w
  | cpfill w => exact Laws.Encoding.cpfill w
  | cpd w => exact Laws.Encoding.cpd w
  | tagst w => exact Laws.Encoding.tagst w
  | tagclr w => exact Laws.Encoding.tagclr w
  | qpush w => exact Laws.Encoding.qpush w
  | qpop w => exact Laws.Encoding.qpop w
  | qstat w => exact Laws.Encoding.qstat w
  | qbase w => exact Laws.Encoding.qbase w
  | barinit w => exact Laws.Encoding.barinit w
  | bara w => exact Laws.Encoding.bara w
  | barw w => exact Laws.Encoding.barw w
  | barrd w => exact Laws.Encoding.barrd w
  | barb w => exact Laws.Encoding.barb w
  | gset w => exact Laws.Encoding.gset w
  | gmod w => exact Laws.Encoding.gmod w
  | ginv w => exact Laws.Encoding.ginv w
  | mma w => exact Laws.Encoding.mma w
  | mmfence w => exact Laws.Encoding.mmfence w
  | mmconv w => exact Laws.Encoding.mmconv w
  | mmrd w => exact Laws.Encoding.mmrd w
  | mmwr w => exact Laws.Encoding.mmwr w
  | gget w => exact Laws.Encoding.gget w
  | mmstat w => exact Laws.Encoding.mmstat w
  | redAdd w => exact Laws.Encoding.redAdd w
  | redMin w => exact Laws.Encoding.redMin w
  | redMax w => exact Laws.Encoding.redMax w
  | rput w => exact Laws.Encoding.rput w
  | rget w => exact Laws.Encoding.rget w
  | gath w => exact Laws.Encoding.gath w
  | publishShadow w => exact Laws.Encoding.publishShadow w
  | pcarm w => exact Laws.Encoding.pcarm w
  | pcrd w => exact Laws.Encoding.pcrd w
  | pcadd w => exact Laws.Encoding.pcadd w
  | genst w => exact Laws.Encoding.genst w
  | genrd w => exact Laws.Encoding.genrd w
  | fabst w => exact Laws.Encoding.fabst w
  | trap w => exact Laws.Encoding.trap w
  | tinfo f w => exact Laws.Encoding.tinfo f w
  | rte w => exact Laws.Encoding.rte w
  | rteSkip w => exact Laws.Encoding.rteSkip w
  | save w => exact Laws.Encoding.save w
  | yield w => exact Laws.Encoding.yield w
  | launch w => exact Laws.Encoding.launch w
  | tpost w => exact Laws.Encoding.tpost w
  | tfence w => exact Laws.Encoding.tfence w
  | icinv w => exact Laws.Encoding.icinv w
  | quiesce w => exact Laws.Encoding.quiesce w
  | graceWait w => exact Laws.Encoding.graceWait w
  | dfree w => exact Laws.Encoding.dfree w
  | gracest w => exact Laws.Encoding.gracest w
  | tmark w => exact Laws.Encoding.tmark w
  | temit w => exact Laws.Encoding.temit w
  | trcdis w => exact Laws.Encoding.trcdis w
  | trcen w => exact Laws.Encoding.trcen w
  | bkpt w => exact Laws.Encoding.bkpt w
  | trcst w => exact Laws.Encoding.trcst w
  | tflush w => exact Laws.Encoding.tflush w
  | _ => exact fun _ _ h => nomatch h

/-- Of an operand that its form leaves out only the zero passes (04 R64). -/
theorem eq_zero_of_bad6 {fm : Form} {d o : Opnd} {n : Nat} (h : bad6 fm d n 0 o = false) : o = Opnd.zero := by
  simpa [bad6] using h

theorem firstBad_none {p0 p1 p2 p3 : Bool} (h : firstBad p0 p1 p2 p3 = none) : p0 = false ∧ p1 = false ∧ p2 = false := by
  revert h; revert p0 p1 p2 p3; decide

/-- A word that breaks no rule has a form, and what that form takes. -/
theorem takes_of_check {lim : Limits} {f : Fields} (h : check lim f = none) : ∃ fm, formOf lim f = .ok fm ∧ fm.Takes f := by
  unfold check at h
  split at h
  · cases h
  · next fm hfm =>
    split at h
    · cases h
    split at h
    · cases h
    next hty =>
    split at h
    · cases h
    next hk =>
    split at h
    · cases h
    split at h
    · cases h
    next h8 =>
    split at h
    · cases h
    next h9 =>
    obtain ⟨hd, ha, hb⟩ := firstBad_none hk
    exact ⟨fm, hfm, by simpa using hty, fun e => eq_zero_of_bad6 (e ▸ hd), fun e => eq_zero_of_bad6 (e ▸ ha), fun e => eq_zero_of_bad6 (e ▸ hb),
      by simpa using h8, by simpa using h9⟩

/-- The instruction built of a legal word says every field of it. -/
theorem fieldsOf_build {lim : Limits} {f : Fields} {i : Instr} (hf : f.fits) (hl : check lim f = none) (hb : build f = some i) : fieldsOf i = some f := by
  obtain ⟨fm, h, ht⟩ := takes_of_check hl
  unfold build at hb
  split at hb
  · next hM =>
    simp only [formOf, hM] at h
    split at h <;> cases h
    next hx => exact build01_says hf hM hx ht hb
  · next hM =>
    simp only [formOf, hM] at h
    split at h <;> cases h
    next hx => exact build02_says hf hM hx ht hb
  · next hM =>
    simp only [formOf, hM] at h
    split at h <;> cases h
    next hx => exact build10_says hf hM hx ht hb
  · next hM =>
    simp only [formOf, hM] at h
    split at h <;> cases h
    next hx => exact build11_says hf hM hx ht hb
  · next hM =>
    simp only [formOf, hM] at h
    split at h <;> cases h
    next hx => exact build12_says hf hM hx ht hb
  · next hM =>
    simp only [formOf, hM] at h
    split at h <;> cases h
    next hx => exact build20_says hf hM hx ht hb
  · next hM =>
    simp only [formOf, hM] at h
    split at h <;> cases h
    next hx => exact build21_says hf hM hx ht hb
  · next hM =>
    simp only [formOf, hM] at h
    split at h <;> cases h
    next hx => exact build30_says hf hM hx ht hb
  · next hM =>
    simp only [formOf, hM] at h
    split at h <;> cases h
    next hx => exact build32_says hf hM hx ht hb
  · next hM =>
    simp only [formOf, hM] at h
    split at h <;> cases h
    next hx => exact build31_says hf hM hx ht hb
  · next hM =>
    simp only [formOf, hM] at h
    split at h <;> cases h
    next hx => exact build40_says hf hM hx ht hb
  · next hM =>
    simp only [formOf, hM] at h
    split at h <;> cases h
    next hx => exact build48_says hf hM hx ht hb
  · next hM =>
    simp only [formOf, hM] at h
    split at h <;> cases h
    next hx => exact build49_says hf hM hx ht hb
  · next hM => exact build50_says hf hM hb
  · next hM => exact build51_says hf hM hb
  · next hM =>
    simp only [formOf, hM] at h
    split at h <;> cases h
    next hx => exact build60_says hf hM hx ht hb
  · next hM => exact build68_says hf hM hb
  · next hM => exact build70_says hf hM hb
  · next hM =>
    simp only [formOf, hM] at h
    split at h <;> cases h
    next hx => exact build78_says hf hM hx ht hb
  · next hM => exact build80_says hf hM hb
  · next hM => exact build81_says hf hM hb
  · next hM =>
    simp only [formOf, hM] at h
    split at h <;> cases h
    next hx => exact build90_says hf hM hx ht hb
  · next hM =>
    simp only [formOf, hM] at h
    split at h <;> cases h
    next hx => exact build98_says hf hM hx ht hb
  · cases hb

/-- A word with DISP 0 is built as `ret`, not as `jmp` (05 R92). -/
theorem retForm_of_build {f : Fields} {i : Instr} (hs : fieldsOf i = some f) (hb : build f = some i) : retForm i = true := by
  cases i with
  | jmp w =>
    cases hs
    obtain ⟨hw, -, himm⟩ := w.fields_back 1 5 0 (by decide)
    by_cases h0 : w.disp.toNat = 0
    · simp [build, build01, (Laws.Encoding.major_BR w 1 5 0).1, (Laws.Encoding.major_BR w 1 5 0).2, himm, h0] at hb
    · simpa [retForm] using fun e : w.disp = 0 => h0 (by simp [e])
  | ret w =>
    cases hs
    obtain ⟨hw, -, himm⟩ := w.fields_back 1 5 0 (by decide)
    by_cases h0 : w.disp.toNat = 0
    · simpa [retForm] using BitVec.eq_of_toNat_eq h0
    · simp [build, build01, (Laws.Encoding.major_BR w 1 5 0).1, (Laws.Encoding.major_BR w 1 5 0).2, himm, h0] at hb
  | _ => rfl

/-- The decoder answers an instruction that is not `illegal` for a word without a fault only, as its builder gives it. -/
theorem decode_legal {lim : Limits} {w : Nat} (h : notIllegal (decode lim w) = true) :
    check lim (unpack w) = none ∧ build (unpack w) = some (decode lim w) := by
  unfold decode at h ⊢
  dsimp only at h ⊢
  split
  · next hc => rw [hc] at h; cases h
  · next hc =>
    rw [hc] at h
    split
    · next hb => exact ⟨hc, hb⟩
    · next hb => simp only [hb] at h; cases h

/-- Of a well-formed word's fields: they break no rule. -/
theorem check_of_wellFormed {i : Instr} {f : Fields} (h : WellFormed i = true) (hs : fieldsOf i = some f) :
    check Limits.widest f = none ∧ retForm i = true := by
  simp only [WellFormed, wfIn, illegalOf, hs, Bool.and_eq_true, Option.isNone_iff_eq_none] at h
  exact ⟨h.1.1, h.1.2⟩

theorem encode_of_fieldsOf {i : Instr} {f : Fields} (hs : fieldsOf i = some f) : encode i = pack f := by rw [encode, hs]

theorem decode_of_build {lim : Limits} {w : Nat} {i : Instr} (hl : check lim (unpack w) = none) (hb : build (unpack w) = some i) : decode lim w = i := by
  simp only [decode, hl, hb]

/-- The word of fields that break no rule and build an instruction decodes to it. -/
theorem decode_pack {lim : Limits} {f : Fields} {i : Instr} (hf : f.fits) (hl : check lim f = none) (hb : build f = some i) : decode lim (pack f) = i := by
  rw [← unpack_pack f hf] at hl hb
  exact decode_of_build hl hb

/-- Settles O53: the fields of a word fit their widths and build it again (`encoding_statement`), and `pack` loses none of them. -/
theorem everyWellFormedWordReadsBack : Obligations.EveryWellFormedWordReadsBack := by
  unfold Obligations.EveryWellFormedWordReadsBack
  intro i hi hw
  obtain ⟨f, hs⟩ := Option.isSome_iff_exists.mp hi
  obtain ⟨hl, hr⟩ := check_of_wellFormed hw hs
  obtain ⟨hf, hb⟩ := encoding_statement i hr f hs
  rw [encode_of_fieldsOf hs]
  exact ⟨pack_lt f hf, decode_pack hf hl hb⟩

/-- Settles O54: what a legal word's instruction says (`fieldsOf_build`) is each of its fields, and they are all of its bits (`pack_unpack`). -/
theorem aLegalWordIsTheWordOfItsInstruction : Obligations.ALegalWordIsTheWordOfItsInstruction := by
  unfold Obligations.ALegalWordIsTheWordOfItsInstruction
  rintro w i hw rfl hi
  obtain ⟨hl, hb⟩ := decode_legal hi
  have hs := fieldsOf_build unpack_fits hl hb
  refine ⟨?_, (encode_of_fieldsOf hs).trans (pack_unpack hw)⟩
  simp only [WellFormed, wfIn, illegalOf, hs, hl, retForm_of_build hs hb, hi, Option.isNone_none, Bool.and_self]

/-- Settles O55: each of the written words is decoded. -/
theorem theWrittenWordsDecode : Obligations.TheWrittenWordsDecode := by
  unfold Obligations.TheWrittenWordsDecode
  decide

end Sys2Proof

/-! PROOFS, 04 R65, 19 R310. Every word executes through `runWord`, which answers a next state for a resident group, and every event answers one; so does every
turn, and with it every step. -/

namespace Sys2Proof.Machine
open Sys2Proof

/-! ### Every word and every event answers (04 R65, 19 R310) -/

/-- The outcome is the word's: it traps, is skipped with an empty mask, or has its own effect (`runWord`). -/
def RunsWord (i : Instr) (s : State) (o : Host.Outcome State Fault Refusal) : Prop := ∃ e b, o = runWord i s e b

theorem runWord_runsWord (i : Instr) (s : State) (e : State → Group → State) (b : State → Group → Mask → Res) : RunsWord i s (runWord i s e b) :=
  ⟨e, b, rfl⟩
theorem groupWord_runsWord (i : Instr) (s : State) (f : State → Group → Mask → Group) : RunsWord i s (groupWord i s f) := ⟨_, _, rfl⟩
theorem ctrlWord_runsWord (i : Instr) (s : State) (f : State → Group → Mask → Group × Mask × Nat) : RunsWord i s (ctrlWord i s f) := ⟨_, _, rfl⟩
theorem convWord_runsWord (i : Instr) (w : CV) (s : State) (f : State → Group → Mask → Group) : RunsWord i s (convWord i w s f) := ⟨_, _, rfl⟩
theorem fabricWord_runsWord (i : Instr) (s : State) (b : State → Group → Mask → Res) : RunsWord i s (fabricWord i s b) := ⟨_, _, rfl⟩

/-- Every word executes through `runWord`. -/
theorem exec_runsWord {i : Instr} (hi : i.isWord = true) (s : State) : RunsWord i s (exec i s) := by
  cases i <;> cases hi <;> delta exec
  case bra | brs | bany | ball | bnone | call | jmp | ret | exit => exact ctrlWord_runsWord _ s _
  case vcvt | vcvtn | vcvtw => exact convWord_runsWord _ _ s _
  case rput | rget | gath | publishShadow | pcarm | pcrd | pcadd | genst | genrd | fabst => exact fabricWord_runsWord _ s _
  case brapl | pset | psetv | ldl | rseed | ldn | stn | ldnr | stnr | ldf | stf | atomAdd | atomMin | atomMax | atomAnd | atomOr | atomXor |
      atomExch | atomCas | vatomAdd | waitAc | waitAny | waitAll | waitBatch | waitSt | ffr | fenceRel | fenceAcqrel | publish | acrd | cp |
      cpfill | cpd | tagst | tagclr | qpush | qpop | qstat | barinit | bara | barw | barrd | barb | gset | gmod | mma | mmconv | mmrd | mmwr |
      gget | mmstat | redAdd | redMin | redMax | trap | tinfo | rte | rteSkip | yield | launch | tpost | tfence | icinv | graceWait | dfree |
      gracest | tmark | temit | trcst | tflush => exact runWord_runsWord _ s _ _
  all_goals exact groupWord_runsWord _ s _

/-- Every event answers a next state: one that cannot happen yet answers the state itself (log 8). -/
theorem exec_event_next {i : Instr} (hi : i.isWord = false) (hn : notIllegal i = true) (s : State) : ∃ t, exec i s = .next t := by
  cases i
  case illegal => cases hn
  all_goals cases hi
  all_goals exact ⟨_, rfl⟩

/-- Every instruction answers a next state when the current group is resident; a refused word traps. -/
theorem exec_next (i : Instr) (s : State) {g : Group} (hg : s.group? = some g) : ∃ t, exec i s = .next t := by
  cases hi : i.isWord
  · cases hn : notIllegal i
    · cases i <;> cases hn
      next r n maj mi =>
        show ∃ t, execIllegal r n maj mi s = .next t
        rw [execIllegal, hg]
        exact ⟨_, rfl⟩
    · exact exec_event_next hi hn s
  · obtain ⟨e, b, h⟩ := exec_runsWord hi s
    exact h ▸ runWord_next i s g e b hg

theorem exec_noGroup {i : Instr} {s : State} (hi : i.isWord = true) (hg : s.group? = none) : exec i s = .fault .noGroup := by
  obtain ⟨e, b, h⟩ := exec_runsWord hi s
  exact h.trans (runWord_noGroup i s e b hg)

/-! ### Every turn answers -/

/-- A fetched word is executed for a resident group, the one whose turn it is. -/
theorem runFetched_next (s : State) (key : Nat) (g : Group) (w : Nat) : ∃ t, runFetched s key g w = .next t := by
  unfold runFetched
  extract_lets g' i
  split
  · exact ⟨_, rfl⟩
  split
  · exact ⟨_, rfl⟩
  next s1 g1 _ =>
    obtain ⟨t, ht⟩ := exec_next i { s1 with cur := key, inp := { Inp.zero with a := w, nums := timeRegs i }, groups := s1.groups.set key g1 }
      (Tab.get?_set_self s1.groups key g1)
    split
    · exact ⟨_, rfl⟩
    · exact ⟨t, ht⟩

theorem issueWord_next (s : State) (key : Nat) (g : Group) : ∃ t, issueWord s key g = .next t := by
  rw [issueWord]
  split
  · exact ⟨_, rfl⟩
  split
  · exact ⟨_, rfl⟩
  · exact ⟨_, rfl⟩
  · exact runFetched_next _ _ _ _

theorem issueGroup_next (s : State) (key : Nat) : ∃ t, issueGroup s key = .next t := by
  unfold issueGroup
  split
  · exact ⟨_, rfl⟩
  split
  · exact ⟨_, rfl⟩
  split
  · exact ⟨_, rfl⟩
  dsimp only
  split
  · exact ⟨_, rfl⟩
  split
  · exact ⟨_, rfl⟩
  · exact issueWord_next _ _ _

theorem notIllegal_of_ne {i : Instr} (h : ∀ r n maj mi, i = .illegal r n maj mi → False) : notIllegal i = true := by
  cases i with
  | illegal r n maj mi => exact (h r n maj mi rfl).elim
  | _ => rfl

/-- A turn names a group, or an event that is neither a word nor a refused one. -/
theorem turn_next (s : State) (a : Act) : ∃ t, turn s a = .next t := by
  unfold turn
  split
  · exact issueGroup_next _ _
  next i x =>
    split
    · exact ⟨_, rfl⟩
    next hw =>
      split
      · exact ⟨_, rfl⟩
      next hn => exact exec_event_next (by simpa using hw) (notIllegal_of_ne hn) _

theorem runAct_next (s : State) (a : Act) : ∃ t, runAct s a = .next t := by
  obtain ⟨t, ht⟩ := turn_next s a
  exact ⟨_, by rw [runAct, ht]⟩

theorem step_next (s : State) : Goes s := by
  unfold Goes step
  split
  · exact runAct_next _ _
  dsimp only
  split
  · exact runAct_next _ _
  · exact ⟨_, rfl⟩

/-- Settles O57: a word runs through `runWord`, whose one fault is a missing group; a turn executes a word for the group whose turn it is, and an event
always answers. -/
theorem everyStepGoesOn : Obligations.EveryStepGoesOn := by
  unfold Obligations.EveryStepGoesOn
  exact ⟨fun i s _ hg => exec_next i s hg, fun _ s hi hn => exec_event_next hi hn s, fun _ _ hi hg => exec_noGroup hi hg, step_next⟩

end Sys2Proof.Machine

/-! PROOFS, 04 R63 to R66, 19 R309 to R316, 20 R343. A trap enters the handler or ends the context; `rte` restores what the frame holds, and the spill area follows the
table that is restored. -/

namespace Sys2Proof

/-! ### Tables -/

theorem Tab.getD_absent {α : Type} {t : Tab α} {k : Nat} {d : α} (h : ∀ x ∈ t, x.1 ≠ k) : t.getD k d = d := by
  induction t with
  | nil => rfl
  | cons x r ih =>
    obtain ⟨hx, hr⟩ := List.forall_mem_cons.mp h
    obtain ⟨i, y⟩ := x
    simp only [Tab.getD, if_neg hx, ih hr, ite_self]

theorem Tab.set_set {α : Type} (t : Tab α) (k : Nat) (v w : α) : (t.set k v).set k w = t.set k w := by
  induction t with
  | nil => simp [Tab.set]
  | cons x r ih =>
    obtain ⟨i, y⟩ := x
    by_cases h1 : k < i
    · simp [Tab.set, h1]
    · by_cases h2 : i = k
      · simp [Tab.set, h2]
      · simp [Tab.set, h1, h2, ih]

end Sys2Proof

namespace Sys2Proof.Machine
open Sys2Proof Sys2Proof.Claims

/-! ### Taking a trap (19 R310 to R312) -/

/-- A lane that has not exited enters the handler in plane 0. -/
theorem Group.enter_planeOf (g : Group) (c k : Nat) (d : W64) (nw fr : Bool) (m : Mask) {l : Nat} (h : lane (g.exited ||| g.rcd.exits) l = false) :
    (g.enter c k d nw fr m).planeOf l = 0 := by
  refine Tab.getD_absent fun x hx e => ?_
  have hq := (List.mem_filter.mp hx).2
  rw [e] at hq
  exact Bool.false_ne_true (h.symm.trans hq)

theorem takeTrap_ends (s : State) (g : Group) (k : Nat) (d : W64) (m : Mask) (h : g.frame ≠ none ∨ g.env.handler = 0) :
    takeTrap s g k d m = endContext s g.env.ctx stKilled (some (k, d)) := by
  have h' : (g.frame.isSome || g.env.handler == 0) = true := by
    rcases h with h | h
    · simp [Option.isSome_iff_ne_none.mpr h]
    · simp [h]
  rw [takeTrap, if_pos h']

/-! ### The end of a context (20 R343) -/

theorem errRecord_disabled (s : State) (c u a x t d : Nat) (i : W64) (h : bit (s.reg errWin).toNat 63 = false) : errRecord s c u a x t d i = s := by
  simp [errRecord, h]

theorem reportsOver_disabled (s : State) (ctx : Nat) (gs : Tab Group) (h : bit (s.reg errWin).toNat 63 = false) : reportsOver s ctx gs = s := by
  induction gs with
  | nil => rfl
  | cons x r ih =>
    rw [reportsOver, List.foldl_cons]
    split
    · rw [errRecord_disabled _ _ _ _ _ _ _ _ h]; exact ih
    · exact ih

/-- While ERRCTL.EN is 0 nothing is handed over. -/
theorem handOver_disabled (s : State) (ctx : Nat) (h : bit (s.reg errWin).toNat 63 = false) : handOver s ctx = s := by
  unfold handOver
  generalize s.blocks = bs
  induction bs with
  | nil => rfl
  | cons x r ih =>
    rw [List.foldl_cons]
    split
    · rw [reportsOver_disabled _ _ _ h]; exact ih
    · exact ih

section
variable {s : State} {c st : Nat} {cause : Option (Nat × W64)} (h : (s.ctxs.getD c Ctx.live).status = 0)
include h

theorem endContext_status : ((endContext s c st cause).ctxs.getD c Ctx.live).status = st := by
  simp only [endContext, h, ne_eq, not_true_eq_false, if_false, Tab.getD_set_self]

theorem endContext_disabled (he : bit (s.reg errWin).toNat 63 = false) :
    (endContext s c st cause).mem = s.mem ∧ (endContext s c st cause).regs = s.regs := by
  simp only [endContext, h, ne_eq, not_true_eq_false, if_false, handOver_disabled s c he, and_self]

/-- Every group of the context has ended, and no other changes. -/
theorem endContext_get? (key : Nat) : (endContext s c st cause).groups.get? key =
    (s.groups.get? key).map (fun g => if g.env.ctx = c then { g with ended := true, wait := none, todo := none, redo := none } else g) := by
  simp only [endContext, h, ne_eq, not_true_eq_false, if_false, handOver_groups]
  exact Tab.get?_map_if s.groups (fun g => g.env.ctx = c) (fun g => { g with ended := true, wait := none, todo := none, redo := none }) key

end

/-! ### The detail word of ILLEGAL (04 R66 Table 5) -/

theorem illegalDetail_fields (g : Group) (r n maj mi : Nat) : let d := (illegalDetail g r n maj mi).toNat
    d / 2 ^ 56 = r % 256 ∧ d / 2 ^ 48 % 2 ^ 8 = maj % 256 ∧ d / 2 ^ 44 % 2 ^ 4 = mi % 16 ∧ d / 2 ^ 41 % 2 ^ 3 = (if g.common then 0 else g.plane % 8) ∧
      d / 2 ^ 38 % 2 ^ 3 = n % 8 ∧ d % 2 ^ 32 = g.ofs % 2 ^ 32 := by
  have hk : (if g.common then 0 else g.plane % 8) < 8 := by split <;> omega
  simp only [illegalDetail, BitVec.toNat_ofNat]
  generalize (if g.common then 0 else g.plane % 8) = k at *
  omega

/-! ### The spill area follows the table (02 R24 to R26) -/

theorem readBack_clean (s : State) (w : Who) (p : Nat) (l : List (Entry × Nat)) (h : s.flaws = []) : readBack s w p l = (s, true) := by
  induction l with
  | nil => rfl
  | cons x r ih => simp only [readBack, readAt_clean s _ _ _ h, ih]

/-- The bytes written at places from `p` up. -/
def pokes (s : State) (p : Nat) (ws : List (Nat × List Byte)) : State := ws.foldl (fun s x => s.poke (p + x.1) x.2) s

theorem pokes_frame (s : State) (p : Nat) (ws : List (Nat × List Byte)) (h : s.flaws = []) : pokes s p ws = { s with mem := (pokes s p ws).mem } := by
  unfold pokes
  induction ws generalizing s with
  | nil => rfl
  | cons x r ih =>
    have hf : (s.poke (p + x.1) x.2).flaws = [] := by simp only [State.poke, h, List.filter_nil]
    rw [List.foldl_cons, ih _ hf]
    simp only [State.poke, h, List.filter_nil]

theorem pokes_outside (s : State) (p n c : Nat) (ws : List (Nat × List Byte)) (hw : ∀ x ∈ ws, x.1 + x.2.length ≤ n) (hc : c < p ∨ p + n ≤ c)
    (h : Memory.wf s.mem = true) : memGet (pokes s p ws).mem c = memGet s.mem c := by
  unfold pokes
  induction ws generalizing s with
  | nil => rfl
  | cons x r ih =>
    obtain ⟨hx, hr⟩ := List.forall_mem_cons.mp hw
    rw [List.foldl_cons, ih _ hr (State.poke_wf s _ _ h), State.poke_outside s _ c _ h (by omega)]

/-- The bytes of a spill area that change lie in its 1024 (02 Table 5). -/
theorem spillWrites_within (old new : List (Entry × Nat)) (stamp : Nat) : ∀ x ∈ spillWrites old new stamp, x.1 + x.2.length ≤ 1024 := by
  intro x hx
  simp only [spillWrites, List.mem_append, List.mem_flatMap, List.mem_range] at hx
  rcases hx with (⟨k, hk, hx⟩ | hx) | hx
  · split at hx
    · split at hx
      · cases hx
      · rw [List.mem_append, List.mem_singleton] at hx
        rcases hx with rfl | hx
        · simp only [spillEntry, leBytes_length]; omega
        · split at hx
          · cases hx
          · rw [List.mem_singleton.mp hx]; simp only [leBytes_length]; omega
    · rw [List.mem_singleton.mp hx]; simp only [List.length_singleton]; omega
    · cases hx
  · split at hx
    · cases hx
    · rw [List.mem_singleton.mp hx]; simp only [leBytes_length]; omega
  · split at hx
    · rw [List.mem_singleton.mp hx]; simp only [leBytes_length]; omega
    · cases hx

/-- Where no error is latent, the table's change writes the spill area and the group alone. -/
theorem respill_clean (s : State) (old g : Group) (h : s.flaws = []) : s.respill s.cur old g =
    if old.spilled = g.spilled then s.put g else pokes (s.put g) (spillPlace s.cur) (spillWrites old.spilled g.spilled g.stamp) := by
  unfold State.respill
  split
  · rfl
  · simp only [readBack_clean { s with groups := s.groups.set s.cur old } _ _ _ h, Tab.set_set]
    rfl

section
variable {s : State} {old g : Group} (h : s.flaws = [])
include h

theorem respill_frame : s.respill s.cur old g = { s.put g with mem := (s.respill s.cur old g).mem } := by
  rw [respill_clean s old g h]
  split
  · rfl
  · exact pokes_frame (s.put g) _ _ h

theorem respill_outside (hm : Memory.wf s.mem = true) {c : Nat} (hc : c < spillPlace s.cur ∨ spillPlace s.cur + 1024 ≤ c) :
    memGet (s.respill s.cur old g).mem c = memGet s.mem c := by
  rw [respill_clean s old g h]
  split
  · rfl
  · exact pokes_outside (s.put g) _ 1024 c _ (spillWrites_within _ _ _) hc hm

theorem respill_mem (e : old.spilled = g.spilled) : (s.respill s.cur old g).mem = s.mem := by
  rw [respill_clean s old g h, if_pos e]
  rfl

end

/-! ### Returning from the handler (19 R316) -/

theorem Group.settleLate_nil {g : Group} (h : g.late = []) : g.settleLate = g := by
  simp only [Group.settleLate, h, List.foldl_nil]
  cases g
  cases h
  rfl

/-- No entry of a table that holds all of its entries lies in the spill area. -/
theorem spilled_filter_nil {ps : List Entry} (h : ∀ e ∈ ps, e.idx < 16) : ps.filter (fun e => decide (16 ≤ e.idx)) = [] := by
  refine List.filter_eq_nil_iff.mpr fun e he => ?_
  have := h e he
  simpa using this

theorem dropLanes_idx {gone : Mask} {ps : List Entry} (h : ∀ e ∈ ps, e.idx < 16) : ∀ e ∈ dropLanes gone ps, e.idx < 16 := by
  intro e he
  obtain ⟨x, hx, rfl⟩ := List.mem_map.mp (List.mem_filter.mp he).1
  exact h x hx

section
variable {s : State} {g : Group} {f : Frame}

theorem spilled_of_frame (hf : g.frame = some f) (h : ∀ e ∈ g.paths ++ f.paths, e.idx < 16) : g.spilled = [] := by
  obtain ⟨hg, hp⟩ := List.forall_mem_append.mp h
  simp only [Group.spilled, hf, spilled_filter_nil hg, spilled_filter_nil hp, List.map_nil, List.append_nil]

theorem leave_spilled (c : Nat) (skip : Bool) (h : ∀ e ∈ f.paths, e.idx < 16) : (g.leave f c skip).spilled = [] := by
  have hp : ((g.leave f c skip).paths).filter (fun e => decide (16 ≤ e.idx)) = [] := spilled_filter_nil (dropLanes_idx h)
  have hn : (g.leave f c skip).frame = none := rfl
  simp only [Group.spilled, hp, hn, List.map_nil, List.append_nil]

theorem returnWord_outside (skip : Bool) (hf : g.frame = none) : returnWord skip s g = .ok s := by
  simp only [returnWord, hf]

/-- With nothing that waits for it, the table the frame holds is restored as it stands. -/
theorem returnWord_leaves (skip : Bool) (hf : g.frame = some f) (hp : g.preempt = false) (hl : f.late = []) :
    returnWord skip s g = .ok (s.respill s.cur g (g.leave f s.clock skip)) := by
  have hs : (g.leave f s.clock skip).settleLate = g.leave f s.clock skip := Group.settleLate_nil hl
  have hq : (g.leave f s.clock skip).preempt = false := hp
  simp only [returnWord, hf, hs, ite_self, hq, Bool.false_and, Bool.false_eq_true, if_false]

/-- The lanes that have exited in the handler. -/
def Group.goneSince (g : Group) (f : Frame) : Mask := (g.exited ||| g.rcd.exits) &&& ~~~f.rcd.exits

/-- The lanes of the resume point that have not. -/
def Group.leftAt (g : Group) (f : Frame) : Mask :=
  ({ g with paths := f.paths, parked := f.parked, planes := f.planes } : Group).pathLanes &&& ~~~(g.goneSince f)

/-- The words of the resume point that are left to issue. -/
def Group.wordsAt (g : Group) (f : Frame) : List Nat :=
  (f.plane :: f.todo).filter (fun k => f.common || g.leftAt f &&& ({ g with paths := f.paths, parked := f.parked, planes := f.planes } : Group).inPlane k != 0)

theorem Group.leave_restores (c : Nat) (skip : Bool) (hl : f.late = []) : let g' := g.leave f c skip
    g' = { g with frame := none, paths := (f.paths.map (fun e => { e with lanes := e.lanes &&& ~~~(g.goneSince f) })).filter (fun e => e.lanes != 0),
                  planes := f.planes, parked := f.parked.filter (fun x => !lane (g.goneSince f) x.1), exited := g.exited ||| g.rcd.exits, common := f.common,
                  plane := f.plane, todo := g'.todo, skips := g'.skips, follow := none, rcd := g'.rcd, late := [], qhandler := false, ready := c + 8, busy := 2 } := by
  dsimp only
  rw [← hl]
  rfl

theorem Group.leave_rcd (c : Nat) (skip : Bool) : (g.leave f c skip).rcd =
    if g.leftAt f != 0 then { f.rcd with parks := f.rcd.parks.filter (fun x => !lane (g.goneSince f) x.1) } else Rec.empty := rfl

theorem Group.leave_skips (c : Nat) (skip : Bool) : (g.leave f c skip).skips =
    if !(g.leftAt f != 0) then none else if f.fresh && skip then some (f.ofs, f.plane) else f.skips := rfl

theorem Group.leave_todo (c : Nat) (skip : Bool) : (g.leave f c skip).todo = if f.noword || f.fresh || !(g.leftAt f != 0) then none
    else some (if skip then (g.wordsAt f).filter (fun k => k != f.plane) else g.wordsAt f) := rfl

/-- Lanes are left at the resume point: its words go on. -/
theorem Group.leave_resumes (c : Nat) (skip : Bool) (h : g.leftAt f ≠ 0) : let g' := g.leave f c skip
    g'.rcd = { f.rcd with parks := f.rcd.parks.filter (fun x => !lane (g.goneSince f) x.1) } ∧
      g'.skips = (if f.fresh && skip then some (f.ofs, f.plane) else f.skips) ∧
      g'.todo = if f.noword ∨ f.fresh then none else some (if skip then (g.wordsAt f).filter (fun k => k != f.plane) else g.wordsAt f) := by
  have hr : (g.leftAt f != 0) = true := bne_iff_ne.mpr h
  refine ⟨by rw [leave_rcd, if_pos hr], by rw [leave_skips, hr]; rfl, ?_⟩
  simp only [leave_todo, hr, Bool.not_true, Bool.or_false, Bool.or_eq_true]

/-- Every lane of the resume point has exited: no word of it is left. -/
theorem Group.leave_empty (c : Nat) (skip : Bool) (h : g.leftAt f = 0) : let g' := g.leave f c skip
    g'.rcd = Rec.empty ∧ g'.todo = none ∧ g'.skips = none := by
  have hr : (g.leftAt f != 0) = false := by rw [h]; rfl
  refine ⟨by rw [leave_rcd, hr]; rfl, ?_, by rw [leave_skips, hr]; rfl⟩
  rw [leave_todo, hr, Bool.not_false, Bool.or_true, if_pos rfl]

/-- What a word that returns from the handler leaves of the state: the group, and its spill area where an entry of either table lies there. -/
theorem respill_leave (skip : Bool) (hf : g.frame = some f) (hw : s.flaws = []) (hm : Memory.wf s.mem = true) :
    let t := s.respill s.cur g (g.leave f s.clock skip)
    t = { s.put (g.leave f s.clock skip) with mem := t.mem } ∧ ((∀ e ∈ g.paths ++ f.paths, e.idx < 16) → t.mem = s.mem) ∧
      ∀ c, c < spillPlace s.cur ∨ spillPlace s.cur + 1024 ≤ c → memGet t.mem c = memGet s.mem c :=
  ⟨respill_frame hw, fun h => respill_mem hw ((spilled_of_frame hf h).trans (leave_spilled _ _ (List.forall_mem_append.mp h).2).symm),
    fun _ hc => respill_outside hw hm hc⟩

end

/-! ### The words (04 R65, R66, 19 R314, R316) -/

theorem exec_trap (w : SY) (s : State) (g : Group) (h : Issues (.trap w) s g) :
    exec (.trap w) s = .next (takeTrap (timed (.trap w) s g s) g 6 (BitVec.ofNat 64 (w.imm.toNat % 256)) (lanesFor (.trap w) g)) := by
  change execTrap w s = _
  rw [execTrap, runWord_trap (.trap w) s s g _ _ tUser _ h rfl, h.cur]
  rfl

/-- A word that breaks a rule of its form traps before anything else. -/
theorem exec_illegal_word {i : Instr} {f : Fields} {s : State} {g : Group} {r n : Nat} (hs : fieldsOf i = some f) (hg : s.group? = some g)
    (hl : illegalOf g.limits i = some (r, n)) :
    exec i s = .next (takeTrap s g 1 (illegalDetail g r n f.major f.minor) (g.active (hdOf i))) := by
  obtain ⟨e, b, h⟩ := exec_runsWord (i := i) (by rw [Instr.isWord, hs]; rfl) s
  rw [h, runWord_illegal i s g e b r n hg hl, hs]
  rfl

/-- So does one that has no form, but for a literal word. -/
theorem exec_illegal {r n maj mi : Nat} {s : State} {g : Group} (hg : s.group? = some g) (hm : maj ≠ 0xFE) :
    exec (.illegal r n maj mi) s = .next (takeTrap s g 1 (illegalDetail g r n maj mi) (g.active (unpack s.inp.a).hd)) := by
  change execIllegal r n maj mi s = _
  simp only [execIllegal, hg, if_neg hm]
  rfl

theorem exec_rte {w : SY} {s t : State} {g : Group} (h : Issues (.rte w) s g) (hb : returnWord false s g = .ok t) :
    exec (.rte w) s = .next (timed (.rte w) s g t) := by
  change execRte w s = _
  exact runWord_ok (.rte w) s t g _ _ h hb

theorem exec_rteSkip {w : SY} {s t : State} {g : Group} (h : Issues (.rteSkip w) s g) (hb : returnWord true s g = .ok t) :
    exec (.rteSkip w) s = .next (timed (.rteSkip w) s g t) := by
  change execRteSkip w s = _
  exact runWord_ok (.rteSkip w) s t g _ _ h hb

/-- Settles O41, clause by clause: a trap enters the handler (`Group.enter`) or ends the context (`endContext`), its detail word is read field by field, and `rte` leaves
the handler (`Group.leave`) with the spill area as the restored table has it (`respill_leave`). -/
theorem trapsEnterTheHandlerAndRteReturns : Obligations.TrapsEnterTheHandlerAndRteReturns := by
  unfold Obligations.TrapsEnterTheHandlerAndRteReturns
  refine ⟨fun s g kind detail m => ⟨fun hf hh => ?_, takeTrap_ends s g kind detail m⟩, fun s c st cause hc => ?_, exec_trap, ?_, ?_, ?_⟩
  · exact ⟨g.enter s.clock kind detail false false m, _, _, takeTrap_enters s g kind detail m hf hh, rfl, rfl, rfl, rfl, rfl, rfl, rfl, rfl, rfl, rfl, rfl,
      rfl, rfl, rfl, rfl, rfl, rfl, rfl, rfl, rfl, fun _ _ hx => g.enter_planeOf _ _ _ _ _ _ hx⟩
  · refine ⟨endContext_status hc, endContext_disabled hc, fun key g hg => ⟨fun e => ?_, fun e => ?_⟩⟩
    · rw [endContext_get? hc, hg, Option.map_some, if_pos e]
    · rw [endContext_get? hc, hg, Option.map_some, if_neg e]
  · intro i f s g r n hs hg hl
    exact ⟨_, exec_illegal_word hs hg hl, illegalDetail_fields g r n f.major f.minor⟩
  · intro r n maj mi s g hg hm
    exact ⟨_, exec_illegal hg hm, illegalDetail_fields g r n maj mi⟩
  · intro w s g
    refine ⟨fun hf => ⟨fun h => exec_rte h (returnWord_outside _ hf), fun h => exec_rteSkip h (returnWord_outside _ hf)⟩, ?_⟩
    intro f hf hp hl hw hm gone kept g0 left words back returns
    refine ⟨fun h => ?_, fun h => ?_⟩
    · refine ⟨g.leave f s.clock false, _, ⟨Group.leave_restores _ _ hl, fun hr => ?_, Group.leave_empty _ _⟩,
        exec_rte h (returnWord_leaves false hf hp hl), respill_leave false hf hw hm⟩
      obtain ⟨h1, h2, h3⟩ := Group.leave_resumes s.clock false hr
      exact ⟨h1, h2.trans (if_neg (by simp)), h3⟩
    · refine ⟨g.leave f s.clock true, _, ⟨Group.leave_restores _ _ hl, fun hr => ?_, Group.leave_empty _ _⟩,
        exec_rteSkip h (returnWord_leaves true hf hp hl), respill_leave true hf hw hm⟩
      obtain ⟨h1, h2, h3⟩ := Group.leave_resumes s.clock true hr
      exact ⟨h1, h2.trans (by rw [Bool.and_true]), h3⟩

end Sys2Proof.Machine

/-! PROOFS, 05 R98 to R100, 03 R32 to R34. -/

namespace Sys2Proof

theorem Ty.bits_pos (t : Ty) : 0 < t.bits := by cases t <;> decide

theorem Ty.bits_le (t : Ty) : t.bits ≤ 64 := by cases t <;> decide

end Sys2Proof

namespace Sys2Proof.Machine
open Sys2Proof Sys2Proof.Claims

/-! ### The integers of a type (03 R32 to R34) -/

theorem sext_eq_bmod {n : Nat} (hn : 0 < n) (x : Nat) : sext n x = Int.bmod x (2 ^ n) := by
  obtain ⟨k, rfl⟩ := Nat.exists_eq_add_one.mpr hn
  have half : (((2 ^ (k + 1) : Nat) : Int) + 1) / 2 = ((2 ^ k : Nat) : Int) := by rw [Nat.pow_succ]; omega
  rw [Int.bmod_def, half, ← Int.natCast_mod, sext, Nat.add_sub_cancel]
  norm_cast

theorem wrapN_cast (n : Nat) (x : Int) : (wrapN n x : Int) = x % ((2 ^ n : Nat) : Int) :=
  Int.toNat_of_nonneg (Int.emod_nonneg _ (by positivity))

theorem wrapN_lt (n : Nat) (x : Int) : wrapN n x < 2 ^ n := by
  have := Int.emod_lt_of_pos x (show (0 : Int) < (2 ^ n : Nat) by positivity)
  have := wrapN_cast n x
  omega

theorem wrapN_natCast (n x : Nat) : wrapN n x = x % 2 ^ n := by
  rw [wrapN, ← Int.natCast_mod, Int.toNat_natCast]

theorem readInt_of_signed {t : Ty} (h : signedTy t = true) (x : Nat) : readInt t x = Int.bmod x (2 ^ t.bits) := by
  rw [readInt, if_pos h, sext_eq_bmod t.bits_pos]

theorem readInt_of_unsigned {t : Ty} (h : signedTy t = false) (x : Nat) : readInt t x = ((x % 2 ^ t.bits : Nat) : Int) := by
  rw [readInt, h, if_neg Bool.false_ne_true]

/-- Half of the patterns of a signed type lie on either side of 0. -/
theorem range_of_signed {t : Ty} (h : signedTy t = true) : ∃ m : Nat, 0 < m ∧ 2 ^ t.bits = 2 * m ∧ loOf t = -m ∧ hiOf t = m - 1 := by
  obtain ⟨k, hk⟩ := Nat.exists_eq_add_one.mpr t.bits_pos
  refine ⟨2 ^ k, Nat.two_pow_pos k, by rw [hk, Nat.pow_succ'], ?_, ?_⟩ <;> simp [loOf, hiOf, h, hk]

theorem range_of_unsigned {t : Ty} (h : signedTy t = false) : loOf t = 0 ∧ hiOf t = ((2 ^ t.bits : Nat) : Int) - 1 := by simp [loOf, hiOf, h]

theorem readInt_range (t : Ty) (x : Nat) : loOf t ≤ readInt t x ∧ readInt t x ≤ hiOf t := by
  have pos : 0 < 2 ^ t.bits := Nat.two_pow_pos _
  cases h : signedTy t with
  | true =>
    obtain ⟨m, -, hm, hlo, hhi⟩ := range_of_signed h
    have := Int.le_bmod (x := x) pos
    have := Int.bmod_lt (x := x) pos
    rw [readInt_of_signed h]
    omega
  | false =>
    obtain ⟨hlo, hhi⟩ := range_of_unsigned h
    have := Nat.mod_lt x pos
    rw [readInt_of_unsigned h]
    omega

/-- An integer of the type's range reads back from its pattern. -/
theorem readInt_wrapN {t : Ty} {x : Int} (hx : loOf t ≤ x ∧ x ≤ hiOf t) : readInt t (wrapN t.bits x) = x := by
  cases h : signedTy t with
  | true =>
    obtain ⟨m, -, hm, hlo, hhi⟩ := range_of_signed h
    rw [readInt_of_signed h, wrapN_cast, Int.emod_bmod]
    exact Int.bmod_eq_of_le (by omega) (by omega)
  | false =>
    obtain ⟨hlo, hhi⟩ := range_of_unsigned h
    rw [readInt_of_unsigned h, Nat.mod_eq_of_lt (wrapN_lt _ _), wrapN_cast]
    exact Int.emod_eq_of_lt (by omega) (by omega)

/-- What an element holds differs from its pattern by a multiple of 2^n. -/
theorem readInt_emod (t : Ty) (x : Nat) : readInt t x % ((2 ^ t.bits : Nat) : Int) = x % ((2 ^ t.bits : Nat) : Int) := by
  cases h : signedTy t with
  | true => rw [readInt_of_signed h, Int.bmod_emod]
  | false => rw [readInt_of_unsigned h, Int.natCast_mod, Int.emod_emod]

theorem dvd_readInt_wrapN (t : Ty) (x : Int) : ((2 ^ t.bits : Nat) : Int) ∣ readInt t (wrapN t.bits x) - x :=
  Int.ModEq.dvd (by rw [Int.ModEq, readInt_emod, wrapN_cast, Int.emod_emod])

/-- Only the low n bits count. -/
theorem readInt_mod (t : Ty) (x : Nat) : readInt t (x % 2 ^ t.bits) = readInt t x := by
  simp only [readInt, sext, Nat.mod_mod]

theorem extS_mod (t : Ty) (x : Nat) : extS t (x % 2 ^ t.bits) = extS t x := by rw [extS, readInt_mod, extS]

/-- 03 R34: what `narrow` delivers is the exact integer narrowed. -/
theorem narrow_narrowed (t : Ty) (sat : Bool) (x : Int) : Narrowed t sat x (readInt t (narrow t sat x).1) (narrow t sat x).2 := by
  refine ⟨(readInt_range _ _).1, (readInt_range _ _).2, ?_⟩
  cases sat with
  | false => exact ⟨dvd_readInt_wrapN t x, rfl⟩
  | true =>
    have le : loOf t ≤ hiOf t := (readInt_range t 0).1.trans (readInt_range t 0).2
    have clamp : (if x < loOf t then loOf t else if hiOf t < x then hiOf t else x) = max (loOf t) (min (hiOf t) x) := by
      split
      · omega
      · split <;> omega
    have hr := readInt_wrapN (t := t) (x := max (loOf t) (min (hiOf t) x)) (by omega)
    simp only [narrow, if_true, clamp, hr, true_and]

/-! ### Scalar arithmetic (05 R98) -/

section
variable {i : Instr} {s : State} {g : Group} {w : R3}

/-- A two-source scalar form writes its result extended to 64 bits and raises its flags. -/
theorem writesScalar_two {f : Nat → Nat → Nat × Nat} (h : Issues i s g) (he : exec i s = groupWord i s (fun s g _ => scalar2 s g w f)) :
    WritesScalar i s g w.d (extS w.ty (f (scalarSrc s g w.ty w.a) (scalarSrc s g w.ty w.b)).1) (f (scalarSrc s g w.ty w.a) (scalarSrc s g w.ty w.b)).2 :=
  writesScalar_flags i s g w.d _ _ _ h he rfl

/-- The same of a one-source form. -/
theorem writesScalar_one {f : Nat → Nat × Nat} (h : Issues i s g) (he : exec i s = groupWord i s (fun s g _ => scalar1 s g w f)) :
    WritesScalar i s g w.d (extS w.ty (f (scalarSrc s g w.ty w.a)).1) (f (scalarSrc s g w.ty w.a)).2 :=
  writesScalar_flags i s g w.d _ _ _ h he rfl

theorem writes_arith2 {op : Int → Int → Int} (h : Issues i s g) (he : exec i s = groupWord i s (fun s g _ => scalar2 s g w (arith2 op w.ty w.sat))) :
    ∃ y fl, Narrowed w.ty w.sat (op (intSrc s g w.ty w.a) (intSrc s g w.ty w.b)) y fl ∧ WritesScalar i s g w.d (wrapN 64 y) fl := by
  have hw := writesScalar_two (f := arith2 op w.ty w.sat) h he
  rw [arith2, extS] at hw
  exact ⟨_, _, narrow_narrowed _ _ _, hw⟩

theorem writes_arith1 {op : Int → Int} (h : Issues i s g)
    (he : exec i s = groupWord i s (fun s g _ => scalar1 s g w (fun a => narrow w.ty w.sat (op (readInt w.ty a))))) :
    ∃ y fl, Narrowed w.ty w.sat (op (intSrc s g w.ty w.a)) y fl ∧ WritesScalar i s g w.d (wrapN 64 y) fl := by
  have hw := writesScalar_one (f := fun a => narrow w.ty w.sat (op (readInt w.ty a))) h he
  rw [extS] at hw
  exact ⟨_, _, narrow_narrowed _ _ _, hw⟩
end

/-- Settles O1: each form delivers `narrow` of the exact integer (`narrow_narrowed`) to its scalar register. -/
theorem scalarArithmeticIsExactThenNarrowed : Obligations.ScalarArithmeticIsExactThenNarrowed := by
  unfold Obligations.ScalarArithmeticIsExactThenNarrowed
  simp only [List.forall_mem_cons, List.not_mem_nil, false_imp_iff, implies_true, and_true]
  exact ⟨⟨fun _ _ _ h => writes_arith2 h rfl, fun _ _ _ h => writes_arith2 h rfl, fun _ _ _ h => writes_arith2 h rfl⟩,
    fun w _ _ h => writes_arith1 (w := w) (op := fun a => -a) h rfl, fun w _ _ h => writes_arith1 (w := w) (op := fun a => (a.natAbs : Int)) h rfl⟩

/-! ### Division and the high half of a product (05 R99) -/

theorem readInt_eq_zero {t : Ty} {x : Nat} : readInt t x = 0 ↔ x % 2 ^ t.bits = 0 := by
  constructor
  · intro h
    have := readInt_emod t x
    rw [h, Int.zero_emod, ← Int.natCast_mod] at this
    exact_mod_cast this.symm
  · intro h
    rw [← readInt_mod, h]
    simp [readInt, sext]

theorem zero_in_range (t : Ty) : loOf t ≤ 0 ∧ 0 ≤ hiOf t := by
  have := readInt_range t 0
  rwa [readInt_eq_zero.mpr (Nat.zero_mod _)] at this

theorem readInt_all_ones (t : Ty) : readInt t (2 ^ t.bits - 1) = if signedTy t then -1 else 2 ^ t.bits - 1 := by
  have pos : 0 < 2 ^ t.bits := Nat.two_pow_pos _
  cases h : signedTy t with
  | true =>
    obtain ⟨m, hm, -, hlo, hhi⟩ := range_of_signed h
    have ones : 2 ^ t.bits - 1 = wrapN t.bits (-1) := by
      have e : (-1 : Int) % ((2 ^ t.bits : Nat) : Int) = ((2 ^ t.bits : Nat) : Int) - 1 := by rw [← Int.add_emod_right, Int.emod_eq_of_lt] <;> omega
      have := (wrapN_cast t.bits (-1)).trans e
      omega
    rw [ones, readInt_wrapN (by omega), if_pos rfl]
  | false =>
    rw [readInt_of_unsigned h, Nat.mod_eq_of_lt (by omega), if_neg Bool.false_ne_true, Nat.cast_sub pos]
    norm_cast

/-- Division toward zero: the quotient of the magnitudes, with the sign of the product. -/
theorem tdiv_eq_sign_mul (a b : Int) : Int.tdiv a b = (if 0 ≤ a * b then 1 else -1) * ((a.natAbs / b.natAbs : Nat) : Int) := by
  have opposite (x y : Nat) : -((x / y : Nat) : Int) = (if 0 ≤ -((x : Int) * y) then 1 else -1) * ((x / y : Nat) : Int) := by
    split
    · next h =>
      have : x * y = 0 := by zify; nlinarith
      rcases Nat.mul_eq_zero.mp this with rfl | rfl <;> simp
    · rw [neg_one_mul]
  have same (x y : Nat) : 0 ≤ (x : Int) * y := by positivity
  obtain ⟨x, rfl | rfl⟩ := a.eq_nat_or_neg <;> obtain ⟨y, rfl | rfl⟩ := b.eq_nat_or_neg
  · rw [if_pos (same x y), one_mul]; rfl
  · simpa [Int.tdiv_neg] using opposite x y
  · simpa [Int.neg_tdiv] using opposite x y
  · simp [Int.neg_tdiv, Int.tdiv_neg, same x y]

/-- A quotient lies in the range of its operands, but for that of the most negative integer by -1. -/
theorem tdiv_range {t : Ty} {a b : Int} (ha : loOf t ≤ a ∧ a ≤ hiOf t) (hb : loOf t ≤ b)
    (h : ¬ (signedTy t = true ∧ a = loOf t ∧ b = -1)) : loOf t ≤ a.tdiv b ∧ a.tdiv b ≤ hiOf t := by
  have small : (a.tdiv b).natAbs ≤ a.natAbs := by rw [Int.natAbs_tdiv]; exact Nat.div_le_self _ _
  cases hs : signedTy t with
  | true =>
    obtain ⟨m, hm, -, hlo, hhi⟩ := range_of_signed hs
    by_cases h2 : 2 ≤ b.natAbs
    · have half : (a.tdiv b).natAbs ≤ a.natAbs / 2 := by rw [Int.natAbs_tdiv]; exact Nat.div_le_div_left h2 (by decide)
      omega
    · obtain rfl | rfl | rfl : b = 0 ∨ b = 1 ∨ b = -1 := by omega
      · rw [Int.tdiv_zero]; omega
      · rwa [Int.tdiv_one]
      · have : a ≠ loOf t := fun e => h ⟨hs, e, rfl⟩
        rw [Int.tdiv_neg, Int.tdiv_one]
        omega
  | false =>
    obtain ⟨hlo, -⟩ := range_of_unsigned hs
    have := Int.tdiv_nonneg (a := a) (b := b) (by omega) (by omega)
    omega

/-- A remainder lies between 0 and its dividend. -/
theorem tmod_range {t : Ty} {a : Int} (ha : loOf t ≤ a ∧ a ≤ hiOf t) (b : Int) : loOf t ≤ a.tmod b ∧ a.tmod b ≤ hiOf t := by
  have small : (a.tmod b).natAbs ≤ a.natAbs := by rw [Int.natAbs_tmod]; exact Nat.mod_le _ _
  have zero := zero_in_range t
  rcases le_total 0 a with h | h
  · have := Int.tmod_nonneg b h
    omega
  · have := Int.tmod_nonneg b (neg_nonneg.mpr h)
    rw [Int.neg_tmod] at this
    omega

theorem readInt_mulhiOf (t : Ty) (a b : Nat) : readInt t (mulhiOf t a b) = readInt t a * readInt t b / ((2 ^ t.bits : Nat) : Int) := by
  have pos : (0 : Int) < ((2 ^ t.bits : Nat) : Int) := by positivity
  have ha := readInt_range t a
  have hb := readInt_range t b
  refine readInt_wrapN ?_
  generalize readInt t a = x at *
  generalize readInt t b = y at *
  cases h : signedTy t with
  | true =>
    obtain ⟨m, hm, h2, hlo, hhi⟩ := range_of_signed h
    rw [hlo, hhi] at ha hb ⊢
    rw [h2] at pos ⊢
    push_cast at pos ⊢
    exact ⟨(Int.le_ediv_iff_mul_le pos).mpr (by nlinarith), Int.le_sub_one_of_lt (Int.ediv_lt_of_lt_mul pos (by nlinarith))⟩
  | false =>
    obtain ⟨hlo, hhi⟩ := range_of_unsigned h
    rw [hlo, hhi] at ha hb ⊢
    exact ⟨Int.ediv_nonneg (Int.mul_nonneg ha.1 hb.1) pos.le, Int.le_sub_one_of_lt (Int.ediv_lt_of_lt_mul pos (by nlinarith))⟩

theorem readInt_divOf_zero {t : Ty} {b : Nat} (a : Nat) (hb : readInt t b = 0) : readInt t (divOf t a b) = if signedTy t then -1 else 2 ^ t.bits - 1 := by
  rw [divOf, if_pos (readInt_eq_zero.mp hb), readInt_all_ones]

theorem readInt_remOf_zero {t : Ty} {b : Nat} (a : Nat) (hb : readInt t b = 0) : readInt t (remOf t a b) = readInt t a := by
  rw [remOf, if_pos (readInt_eq_zero.mp hb), readInt_mod]

/-- The most negative integer by -1: its quotient, one past the largest, wraps to it again. -/
theorem readInt_divOf_corner {t : Ty} {a b : Nat} (hs : signedTy t = true) (ha : readInt t a = loOf t) (hb : readInt t b = -1) :
    readInt t (divOf t a b) = readInt t a ∧ readInt t (remOf t a b) = 0 := by
  obtain ⟨m, hm, h2, hlo, hhi⟩ := range_of_signed hs
  have h0 : ¬ b % 2 ^ t.bits = 0 := fun e => by have := readInt_eq_zero.mpr e; omega
  have wraps : wrapN t.bits (m : Int) = wrapN t.bits (-m : Int) := by
    rw [wrapN, wrapN, h2, ← Int.add_emod_right (-m : Int)]
    congr 2
    push_cast
    ring
  rw [divOf, remOf, if_neg h0, if_neg h0, ha, hb, Int.tdiv_neg, Int.tdiv_one, Int.tmod_neg, Int.tmod_one, hlo, neg_neg, wraps, readInt_wrapN (by omega),
    readInt_wrapN (by omega)]
  exact ⟨rfl, rfl⟩

/-- Elsewhere quotient and remainder are those of division toward zero. -/
theorem readInt_divOf {t : Ty} {a b : Nat} (hb : readInt t b ≠ 0) (h : ¬ (signedTy t = true ∧ readInt t a = loOf t ∧ readInt t b = -1)) :
    readInt t (divOf t a b) = (readInt t a).tdiv (readInt t b) ∧ readInt t (remOf t a b) = (readInt t a).tmod (readInt t b) := by
  have h0 : ¬ b % 2 ^ t.bits = 0 := fun e => hb (readInt_eq_zero.mpr e)
  have ha := readInt_range t a
  rw [divOf, remOf, if_neg h0, if_neg h0, readInt_wrapN (tdiv_range ha (readInt_range t b).1 h), readInt_wrapN (tmod_range ha _)]
  exact ⟨rfl, rfl⟩

/-- Settles O2: `div` and `rem` by the three cases of R99, `mulhi` as the floor of the product by 2^n. -/
theorem divisionRoundsTowardZeroAndMulhiTakesTheHighBits : Obligations.DivisionRoundsTowardZeroAndMulhiTakesTheHighBits := by
  unfold Obligations.DivisionRoundsTowardZeroAndMulhiTakesTheHighBits
  intro w s g n a b
  have hm := readInt_mulhiOf w.ty (scalarSrc s g w.ty w.a) (scalarSrc s g w.ty w.b)
  have pos : (0 : Int) < ((2 ^ n : Nat) : Int) := by positivity
  refine ⟨readInt w.ty (divOf w.ty (scalarSrc s g w.ty w.a) (scalarSrc s g w.ty w.b)), readInt w.ty (remOf w.ty (scalarSrc s g w.ty w.a) (scalarSrc s g w.ty w.b)),
    readInt w.ty (mulhiOf w.ty (scalarSrc s g w.ty w.a) (scalarSrc s g w.ty w.b)), fun hb => ⟨readInt_divOf_zero _ hb, readInt_remOf_zero _ hb⟩,
    fun _ hs ha hb => readInt_divOf_corner hs ha hb, fun hb h => ?_, (readInt_range _ _).1, (readInt_range _ _).2, ?_, ?_,
    fun h => writesScalar_two (f := fun a b => (divOf w.ty a b, 0)) h rfl,
    fun h => writesScalar_two (f := fun a b => (remOf w.ty a b, 0)) h rfl, fun h => writesScalar_two (f := fun a b => (mulhiOf w.ty a b, 0)) h rfl⟩
  · obtain ⟨hq, hr⟩ := readInt_divOf hb h
    rw [hq, hr]
    exact ⟨tdiv_eq_sign_mul _ _, (Int.tmod_def _ _).trans (by rw [Int.mul_comm]; rfl)⟩
  · rw [hm]
    exact_mod_cast Int.ediv_mul_le _ pos.ne'
  · rw [hm]
    exact_mod_cast Int.lt_ediv_add_one_mul_self _ pos

end Sys2Proof.Machine

/-! PROOFS, 05 R98 to R100, Tables 5 and 6. The operations on n-bit patterns, bit by bit: each is described once, for the scalar words here and for the elements of the
vector words (06 Table 1). -/

namespace Sys2Proof.Machine
open Sys2Proof Sys2Proof.Claims

/-! ### Bits (01 R5) -/

theorem bit_eq_testBit (x n : Nat) : bit x n = x.testBit n := by
  rw [bit, Nat.testBit_eq_decide_div_mod_eq]
  exact Bool.beq_eq_decide_eq _ _

theorem bit_mod {n i : Nat} (x : Nat) (h : i < n) : bit (x % 2 ^ n) i = bit x i := by
  rw [bit_eq_testBit, bit_eq_testBit, Nat.testBit_mod_two_pow, decide_eq_true h, Bool.true_and]

/-- A field replaced: what lies below it, the new field, what lies above it. -/
theorem setFld_eq (x lo len v : Nat) : setFld x lo len v = 2 ^ lo * (2 ^ len * (x / 2 ^ (lo + len)) + v % 2 ^ len) + x % 2 ^ lo := by
  have hx : x = 2 ^ lo * (2 ^ len * (x / 2 ^ (lo + len)) + fld x lo len) + x % 2 ^ lo := by
    rw [fld, Nat.pow_add, ← Nat.div_div_eq_div_mul, Nat.div_add_mod, Nat.div_add_mod]
  rw [setFld]
  generalize x / 2 ^ (lo + len) = q at *
  generalize fld x lo len = f at *
  generalize x % 2 ^ lo = r at *
  rw [hx, Nat.mul_add, Nat.mul_add, Nat.mul_comm f, Nat.mul_comm (v % 2 ^ len)]
  omega

theorem bit_setFld (x lo len v i : Nat) : bit (setFld x lo len v) i = if lo ≤ i ∧ i < lo + len then bit v (i - lo) else bit x i := by
  have low : x % 2 ^ lo < 2 ^ lo := Nat.mod_lt _ (Nat.two_pow_pos _)
  have field : v % 2 ^ len < 2 ^ len := Nat.mod_lt _ (Nat.two_pow_pos _)
  simp only [bit_eq_testBit, setFld_eq, Nat.testBit_two_pow_mul_add _ low, Nat.testBit_two_pow_mul_add _ field, Nat.testBit_mod_two_pow, Nat.testBit_div_two_pow]
  by_cases h1 : i < lo
  · rw [if_pos h1, if_neg (by omega), decide_eq_true h1, Bool.true_and]
  · by_cases h2 : i - lo < len
    · rw [if_neg h1, if_pos h2, if_pos (by omega), decide_eq_true h2, Bool.true_and]
    · rw [if_neg h1, if_neg h2, if_neg (by omega)]
      congr 1
      omega

/-! ### Shifts and rotation (05 R100) -/

theorem shlOf_eq (t : Ty) (a x : Nat) : shlOf t a x = a * 2 ^ x % 2 ^ t.bits := by
  rw [shlOf]
  split
  · next h => rw [Nat.mod_eq_zero_of_dvd ((pow_dvd_pow 2 h).mul_left a)]
  · rfl

theorem shrOf_eq (t : Ty) (a x : Nat) : shrOf t a x = a % 2 ^ t.bits / 2 ^ x := by
  rw [shrOf]
  split
  · next h => rw [Nat.div_eq_of_lt ((Nat.mod_lt _ (Nat.two_pow_pos _)).trans_le (Nat.pow_le_pow_right (by decide) h))]
  · rfl

/-- An integer divided by at least its magnitude, rounded down. -/
theorem ediv_of_small {v m : Int} (hm : 0 < m) (h : -m ≤ v ∧ v < m) : v / m = if 0 ≤ v then 0 else -1 := by
  split
  · next h0 => exact Int.ediv_eq_zero_of_lt h0 h.2
  · exact (Int.ediv_eq_iff_of_pos hm).mpr (by omega)

theorem sext_range {n : Nat} (hn : 0 < n) (x : Nat) : -((2 ^ n : Nat) : Int) ≤ sext n x ∧ sext n x < ((2 ^ n : Nat) : Int) := by
  have pos : 0 < 2 ^ n := Nat.two_pow_pos n
  have := Int.le_bmod (x := x) pos
  have := Int.bmod_lt (x := x) pos
  rw [sext_eq_bmod hn]
  omega

theorem sarOf_eq (t : Ty) (a x : Nat) : sarOf t a x = wrapN t.bits (sext t.bits a / ((2 ^ x : Nat) : Int)) := by
  rw [sarOf]
  split
  · next h =>
    have mono : 2 ^ t.bits ≤ 2 ^ x := Nat.pow_le_pow_right (by decide) h
    have hr := sext_range t.bits_pos a
    rw [ediv_of_small (by positivity) hr, ediv_of_small (by positivity) (by omega)]
  · rfl

theorem rotlOf_lt (t : Ty) (a x : Nat) : rotlOf t a x < 2 ^ t.bits := Nat.mod_lt _ (Nat.two_pow_pos _)

/-- Bit i moves to i + x, round the n bits. -/
theorem bit_rotlOf {t : Ty} {i : Nat} (a x : Nat) (hi : i < t.bits) : bit (rotlOf t a x) ((i + x) % t.bits) = bit a i := by
  have hr : x % t.bits < t.bits := Nat.mod_lt _ t.bits_pos
  have hj : (i + x) % t.bits < t.bits := Nat.mod_lt _ t.bits_pos
  have e : (i + x) % t.bits = if i + x % t.bits < t.bits then i + x % t.bits else i + x % t.bits - t.bits := by
    rw [Nat.add_mod, Nat.mod_eq_of_lt hi]
    split
    · next h => exact Nat.mod_eq_of_lt h
    · rw [Nat.mod_eq_sub_mod (by omega), Nat.mod_eq_of_lt (by omega)]
  have wrapped : a % 2 ^ t.bits / 2 ^ (t.bits - x % t.bits) < 2 ^ (x % t.bits) := by
    refine Nat.div_lt_of_lt_mul ?_
    rw [← Nat.pow_add, Nat.sub_add_cancel hr.le]
    exact Nat.mod_lt _ (Nat.two_pow_pos _)
  rw [rotlOf, bit_mod _ hj, bit_eq_testBit, Nat.mul_comm, Nat.testBit_two_pow_mul_add _ wrapped, Nat.testBit_div_two_pow, e, ← bit_eq_testBit, ← bit_eq_testBit]
  split
  · rw [if_neg (by omega), Nat.add_sub_cancel, bit_mod _ hi]
  · rw [if_pos (by omega), show i + x % t.bits - t.bits + (t.bits - x % t.bits) = i by omega, bit_mod _ hi]

/-! ### Bitwise forms (05 Table 5) -/

theorem bit_and (x y i : Nat) : bit (x &&& y) i = (bit x i && bit y i) := by simp only [bit_eq_testBit, Nat.testBit_and]
theorem bit_or (x y i : Nat) : bit (x ||| y) i = (bit x i || bit y i) := by simp only [bit_eq_testBit, Nat.testBit_or]
theorem bit_xor (x y i : Nat) : bit (x ^^^ y) i = (bit x i != bit y i) := by simp only [bit_eq_testBit, Nat.testBit_xor]

theorem bit_andnOf {t : Ty} {i : Nat} (x y : Nat) (hi : i < t.bits) : bit (andnOf t x y) i = (bit x i && !bit y i) := by
  simp only [andnOf, bit_eq_testBit, Nat.testBit_and, Nat.testBit_xor, Nat.testBit_mod_two_pow, Nat.testBit_two_pow_sub_one, decide_eq_true hi, Bool.true_and, Bool.xor_true]

/-! ### Counts and reversal (05 Table 5) -/

theorem clzOf_le (t : Ty) (a : Nat) : clzOf t a ≤ t.bits := Nat.sub_le _ _

/-- The leading zeros are zeros, and the bit below them is a one where there is one. -/
theorem bit_clzOf (t : Ty) (a : Nat) : (∀ i, i < t.bits → t.bits - clzOf t a ≤ i → bit a i = false) ∧
    (clzOf t a < t.bits → bit a (t.bits - 1 - clzOf t a) = true) := by
  have hy : a % 2 ^ t.bits < 2 ^ t.bits := Nat.mod_lt _ (Nat.two_pow_pos _)
  rw [clzOf, bitLen]
  split
  · next h0 =>
    refine ⟨fun i hi _ => ?_, fun h => absurd h (by omega)⟩
    rw [← bit_mod a hi, h0, bit_eq_testBit, Nat.zero_testBit]
  · next h0 =>
    have top : (a % 2 ^ t.bits).log2 < t.bits := (Nat.log2_lt h0).mpr hy
    refine ⟨fun i hi h => ?_, fun _ => ?_⟩
    · rw [← bit_mod a hi, bit_eq_testBit]
      exact Nat.testBit_lt_two_pow (Nat.lt_log2_self.trans_le (Nat.pow_le_pow_right (by decide) (by omega)))
    · rw [show t.bits - 1 - (t.bits - ((a % 2 ^ t.bits).log2 + 1)) = (a % 2 ^ t.bits).log2 by omega, ← bit_mod a top, bit_eq_testBit]
      exact Nat.testBit_log2 h0

/-- The trailing zeros are zeros, and the bit above them is a one where there is one. -/
theorem bit_ctzOf (t : Ty) (a : Nat) : ctzOf t a ≤ t.bits ∧ (∀ i, i < ctzOf t a → bit a i = false) ∧ (ctzOf t a < t.bits → bit a (ctzOf t a) = true) := by
  rw [ctzOf]
  cases h : (List.range t.bits).find? (fun i => bit a i) with
  | none =>
    rw [List.find?_range_eq_none] at h
    exact ⟨le_rfl, fun i hi => by simpa using h i hi, fun hlt => absurd hlt (lt_irrefl _)⟩
  | some k =>
    rw [List.find?_range_eq_some] at h
    obtain ⟨hk, hmem, hlow⟩ := h
    exact ⟨(List.mem_range.mp hmem).le, fun i hi => by simpa using hlow i hi, fun _ => hk⟩

theorem foldl_add_b2n (p : Nat → Bool) (l : List Nat) (k : Nat) : l.foldl (fun k i => k + b2n (p i)) k = k + l.countP p := by
  induction l generalizing k with
  | nil => rfl
  | cons x r ih =>
    rw [List.foldl_cons, ih, List.countP_cons, b2n]
    omega

theorem popcOf_eq (t : Ty) (a : Nat) : popcOf t a = (List.range t.bits).countP (fun i => bit a i) := by
  rw [popcOf, foldl_add_b2n, Nat.zero_add]

theorem popcOf_le (t : Ty) (a : Nat) : popcOf t a ≤ t.bits := by
  rw [popcOf_eq]
  exact List.countP_le_length.trans_eq List.length_range

/-- The bits in reverse order are the sum of the powers of two they stand for. -/
theorem brevOf_eq (t : Ty) (a : Nat) : brevOf t a = ((List.range t.bits).map (fun l => if bit a (t.bits - 1 - l) then 2 ^ l else 0)).sum := by
  have fold (l : List Nat) (f : Nat → Nat) (k : Nat) : l.foldl (fun k i => k + f i) k = k + (l.map f).sum := by
    induction l generalizing k with
    | nil => rfl
    | cons x r ih => rw [List.foldl_cons, ih, List.map_cons, List.sum_cons, Nat.add_assoc]
  rw [brevOf, fold, Nat.zero_add]
  calc ∑ i ∈ Finset.range t.bits, b2n (bit a i) * 2 ^ (t.bits - 1 - i)
    _ = ∑ i ∈ Finset.range t.bits, if bit a (t.bits - 1 - (t.bits - 1 - i)) then 2 ^ (t.bits - 1 - i) else 0 := by
      refine Finset.sum_congr rfl fun i hi => ?_
      have := Finset.mem_range.mp hi
      rw [show t.bits - 1 - (t.bits - 1 - i) = i by omega, b2n, ite_mul, one_mul, zero_mul]
    _ = _ := Finset.sum_range_reflect (fun l => if bit a (t.bits - 1 - l) then 2 ^ l else 0) t.bits

theorem brevOf_lt (t : Ty) (a : Nat) : brevOf t a < 2 ^ t.bits := by
  rw [brevOf_eq]
  exact (sum_pow_testBit _ _).1

theorem bit_brevOf {t : Ty} {i : Nat} (a : Nat) (hi : i < t.bits) : bit (brevOf t a) i = bit a (t.bits - 1 - i) := by
  rw [brevOf_eq, bit_eq_testBit, (sum_pow_testBit _ _).2, decide_eq_true hi, Bool.true_and]

end Sys2Proof.Machine

/-! PROOFS, 05 R98 to R102, Tables 5 to 7. The scalar words beside arithmetic: each writes one scalar register, with the value the operations of the part before describe. -/

namespace Sys2Proof.Machine
open Sys2Proof Sys2Proof.Claims

/-! ### What a legal word takes -/

/-- A word that issues has a form, and what that form takes. -/
theorem Issues.takes {i : Instr} {s : State} {g : Group} {f : Fields} (h : Issues i s g) (hf : fieldsOf i = some f) :
    ∃ fm, formOf g.limits f = .ok fm ∧ fm.Takes f := by
  have hl := h.legal
  rw [illegalOf, hf] at hl
  exact takes_of_check hl

/-- The word takes an integer type. -/
theorem Issues.shr_int {w : R3} {s : State} {g : Group} (h : Issues (.shr w) s g) : inSet tIN w.ty.toNat = true := by
  obtain ⟨fm, hfm, ht⟩ := h.takes rfl
  cases hfm
  exact ht.ty

/-- The last bit of a bit field lies in the register (04 R66). -/
theorem Issues.bfi_fits {w : IM} {s : State} {g : Group} (h : Issues (.bfi w) s g) : bfPos w + bfLen w ≤ 64 := by
  obtain ⟨fm, hfm, ht⟩ := h.takes rfl
  cases hfm
  have h8 := ht.ok8
  have himm : (w.fields 0x11 3 2).imm = w.imm.toNat := by
    have := w.imm.isLt
    simp only [Fields.imm, IM.fields, fld]
    omega
  simp only [Bool.and_eq_true, decide_eq_true_eq, himm] at h8
  exact h8.2

/-- A source under an integer type has n bits. -/
theorem scalarSrc_lt {t : Ty} (ht : inSet tIN t.toNat = true) (s : State) (g : Group) (o : Opnd) : scalarSrc s g t o < 2 ^ t.bits := by
  have int : t.float = false ∧ (t == .rn24) = false ∧ (t == .none) = false := by revert ht; cases t <;> decide
  obtain ⟨hf, hr, hn⟩ := int
  cases o with
  | imm n => simpa [scalarSrc, immBits, hf, hr, hn] using wrapN_lt t.bits n.toInt
  | _ => simpa [scalarSrc, hn] using Nat.mod_lt _ (Nat.two_pow_pos _)

/-! ### Shifts and rotation (05 R100) -/

theorem writesScalar_shift {i : Instr} {s : State} {g : Group} {w : R3} {op : Ty → Nat → Nat → Nat} (h : Issues i s g)
    (he : exec i s = groupWord i s (fun s g _ => scalarShift s g w op)) :
    WritesScalar i s g w.d (extS w.ty (op w.ty (scalarSrc s g w.ty w.a) (scalarVal s g w.b))) 0 :=
  writesScalar_of i s g w.d _ _ h he rfl

/-- Settles O3: each shift is the operation R100 states, also by n or more (`shlOf_eq`, `shrOf_eq`, `sarOf_eq`), and rotation moves each bit (`bit_rotlOf`). -/
theorem shiftsOfAnyAmountAndRotation : Obligations.ShiftsOfAnyAmountAndRotation := by
  unfold Obligations.ShiftsOfAnyAmountAndRotation
  intro w s g n x k
  refine ⟨fun h => ?_, fun h => ?_, fun h => ?_, fun h => ⟨_, rotlOf_lt w.ty x k, fun i hi => bit_rotlOf x k hi, writesScalar_shift h rfl⟩⟩
  · rw [← shlOf_eq]
    exact writesScalar_shift h rfl
  · have shr : shrOf w.ty x k = x / 2 ^ k := by rw [shrOf_eq, Nat.mod_eq_of_lt (scalarSrc_lt h.shr_int s g w.a)]
    exact shr ▸ writesScalar_shift h rfl
  · rw [← sarOf_eq]
    exact writesScalar_shift h rfl

/-! ### Bitwise forms, order and counts (05 R98, Tables 5 and 6) -/

section
variable {i : Instr} {s : State} {g : Group} {w : R3}

/-- A form that works bit by bit: only the low n bits of its result count. -/
theorem writes_bitwise {f : Nat → Nat → Nat} {p : Bool → Bool → Bool} (hp : ∀ x y j, j < w.ty.bits → bit (f x y) j = p (bit x j) (bit y j)) (h : Issues i s g)
    (he : exec i s = groupWord i s (fun s g _ => scalar2 s g w (fun a b => (f a b, 0)))) :
    ∃ y, y < 2 ^ w.ty.bits ∧ (∀ j, j < w.ty.bits → bit y j = p (bit (scalarSrc s g w.ty w.a) j) (bit (scalarSrc s g w.ty w.b) j)) ∧
      WritesScalar i s g w.d (extS w.ty y) 0 := by
  refine ⟨f (scalarSrc s g w.ty w.a) (scalarSrc s g w.ty w.b) % 2 ^ w.ty.bits, Nat.mod_lt _ (Nat.two_pow_pos _), fun j hj => ?_, ?_⟩
  · rw [bit_mod _ hj, hp _ _ j hj]
  · rw [extS_mod]
    exact writesScalar_two (f := fun a b => (f a b, 0)) h he

theorem writes_count {f : Nat → Nat} (h : Issues i s g) (he : exec i s = groupWord i s (fun s g _ => scalar1 s g w (fun a => (f a, 0)))) :
    WritesScalar i s g w.d (extS w.ty (f (scalarSrc s g w.ty w.a))) 0 :=
  writesScalar_one (f := fun a => (f a, 0)) h he
end

theorem readInt_minOf (t : Ty) (a b : Nat) : readInt t (minOf t a b) = min (readInt t a) (readInt t b) := by
  rw [minOf]
  split <;> omega

theorem readInt_maxOf (t : Ty) (a b : Nat) : readInt t (maxOf t a b) = max (readInt t a) (readInt t b) := by
  rw [maxOf]
  split <;> omega

/-- The conditions of 05 Table 6. -/
theorem cmpOf_iff (c : Nat) (t : Ty) (a b : Nat) :
    (c = 0 → (cmpOf c t a b = true ↔ readInt t a = readInt t b)) ∧ (c = 1 → (cmpOf c t a b = true ↔ readInt t a ≠ readInt t b)) ∧
    (c = 2 → (cmpOf c t a b = true ↔ readInt t a < readInt t b)) ∧ (c = 3 → (cmpOf c t a b = true ↔ readInt t a ≤ readInt t b)) ∧
    (c = 4 → (cmpOf c t a b = true ↔ readInt t b < readInt t a)) ∧ (c = 5 → (cmpOf c t a b = true ↔ readInt t b ≤ readInt t a)) := by
  refine ⟨?_, ?_, ?_, ?_, ?_, ?_⟩ <;> (rintro rfl; simp [cmpOf])

/-- Settles O4: the bitwise forms bit by bit, the order by the integers that the sources hold, the counts and the reversal by the bits of the source. -/
theorem scalarLogicComparisonAndBitCounts : Obligations.ScalarLogicComparisonAndBitCounts := by
  unfold Obligations.ScalarLogicComparisonAndBitCounts
  simp only [List.forall_mem_cons, List.not_mem_nil, false_imp_iff, implies_true, and_true]
  refine ⟨⟨⟨?_, ?_, ?_, ?_⟩, fun w s g => ⟨fun h => ?_, fun h => ?_⟩, fun c w s g h => ?_⟩, fun w s g => ⟨fun h => ?_, fun h => ?_, fun h => ?_, fun h => ?_⟩⟩
  · exact fun w s g h => writes_bitwise (fun x y j _ => bit_and x y j) h rfl
  · exact fun w s g h => writes_bitwise (fun x y j _ => bit_or x y j) h rfl
  · exact fun w s g h => writes_bitwise (fun x y j _ => bit_xor x y j) h rfl
  · exact fun w s g h => writes_bitwise (f := andnOf w.ty) (p := fun x y => x && !y) (fun x y j hj => bit_andnOf x y hj) h rfl
  · rw [intSrc, intSrc, ← readInt_minOf]
    exact writesScalar_two (f := fun a b => (minOf w.ty a b, 0)) h rfl
  · rw [intSrc, intSrc, ← readInt_maxOf]
    exact writesScalar_two (f := fun a b => (maxOf w.ty a b, 0)) h rfl
  · obtain ⟨h0, h1, h2, h3, h4, h5⟩ := cmpOf_iff c.toNat w.ty (scalarSrc s g w.ty w.a) (scalarSrc s g w.ty w.b)
    exact ⟨_, h0, h1, h2, h3, h4, h5, writesScalar_two (f := fun a b => (b2n (cmpOf c.toNat w.ty a b), 0)) h rfl⟩
  · obtain ⟨hz, ht⟩ := bit_clzOf w.ty (scalarSrc s g w.ty w.a)
    exact ⟨_, clzOf_le _ _, hz, ht, writes_count h rfl⟩
  · obtain ⟨hle, hz, ht⟩ := bit_ctzOf w.ty (scalarSrc s g w.ty w.a)
    exact ⟨_, hle, hz, ht, writes_count h rfl⟩
  · rw [← popcOf_eq]
    exact writes_count h rfl
  · exact ⟨_, brevOf_lt _ _, fun j hj => bit_brevOf _ hj, writes_count h rfl⟩

/-! ### Immediate forms, moves and addresses (05 R101, R102, Table 7) -/

theorem fld_zero (x n : Nat) : fld x 0 n = x % 2 ^ n := by rw [fld, Nat.pow_zero, Nat.div_one]

section
variable {i : Instr} {s : State} {g : Group} {d : Opnd} {x y : Nat} {f : State → Group → Mask → Group}

/-- A word whose effect, by definition, is to write one scalar register. -/
theorem writes_value (h : Issues i s g) (he : exec i s = groupWord i s f) (hf : f s g (lanesFor i g) = g.writeS d x) :
    WritesScalar i s g d x 0 :=
  writesScalar_of i s g d x f h he hf

/-- The same where the value is the stated one of a destination that is a scalar register. -/
theorem writes_if_scalar (h : Issues i s g) (he : exec i s = groupWord i s f) (hf : f s g (lanesFor i g) = g.writeS d y) (hx : d.kind = 1 → y = x) :
    WritesScalar i s g d x 0 := by
  refine writesScalar_of i s g d x f h he (hf.trans ?_)
  cases d with
  | s n => rw [hx rfl]
  | _ => rfl
end

theorem destVal_of_scalar {g : Group} {d : Opnd} (h : d.kind = 1) : destVal g d = (g.sreg d.idx).toNat := by
  cases d with
  | s n => rfl
  | _ => cases h

/-- Settles O5: each word writes one scalar register (or, for `mov` to %status, clears flags) with the value of its row; the bit fields are those of `setFld`. -/
theorem scalarMovesAddressesAndImmediateForms : Obligations.ScalarMovesAddressesAndImmediateForms := by
  unfold Obligations.ScalarMovesAddressesAndImmediateForms
  refine ⟨fun w s g => ?_, fun w s g => ?_⟩
  · intro a d m x e pos len
    have hpos : bfPos w = pos := fld_zero _ 6
    have hm : m < 2 ^ 24 := w.imm.isLt
    have hd : d < 2 ^ 64 := (g.sreg w.d.idx).isLt
    refine ⟨fun h => ⟨_, narrow_narrowed _ _ _, ?_⟩, fun h => ?_, fun h => ?_, fun h => ?_, fun h => ?_, fun h => ?_, fun h => ?_, fun h => ?_, fun h => ?_, fun h => ?_⟩
    · exact writes_value h (show _ = execAddi w s from rfl) rfl
    · exact writes_value h (show _ = execMovi w s from rfl) rfl
    · refine writes_if_scalar h (show _ = execMovm w s from rfl) rfl fun hk => ?_
      rw [destVal_of_scalar hk, setFld_eq]
      show 2 ^ 24 * (2 ^ 24 * (d / 2 ^ 48) + m % 2 ^ 24) + d % 2 ^ 24 = _
      omega
    · refine writes_if_scalar h (show _ = execMovh w s from rfl) rfl fun hk => ?_
      rw [destVal_of_scalar hk, setFld_eq]
      show 2 ^ 48 * (2 ^ 16 * (d / 2 ^ 64) + m % 2 ^ 16) + d % 2 ^ 48 = _
      omega
    · exact writes_value h (show _ = execAndi w s from rfl) rfl
    · exact writes_value h (show _ = execOri w s from rfl) rfl
    · exact writes_value h (show _ = execXori w s from rfl) rfl
    · rw [← hpos]
      exact writes_value h (show _ = execBfxu w s from rfl) rfl
    · rw [← hpos]
      exact writes_value h (show _ = execBfxs w s from rfl) rfl
    · have hfit : pos + len ≤ 64 := hpos ▸ h.bfi_fits
      have hbit := bit_setFld d pos len a
      refine ⟨setFld d pos len a, fun i _ => hbit i, Nat.lt_pow_two_of_testBit _ fun i hi => ?_, writes_if_scalar h (show _ = execBfi w s from rfl) rfl fun hk => ?_⟩
      · rw [← bit_eq_testBit, hbit, if_neg (by omega), bit_eq_testBit]
        exact Nat.testBit_lt_two_pow (hd.trans_le (Nat.pow_le_pow_right (by decide) hi))
      · rw [destVal_of_scalar hk, hpos]
        rfl
  · intro a b
    refine ⟨fun h hd => ?_, fun h hd => ?_, fun k h => ?_, fun r h => ?_, fun f h => ?_⟩
    · exact writes_value h (show _ = execMov w s from rfl) (if_neg hd)
    · refine (show exec (.mov w) s = execMov w s from rfl).trans ((groupWord_ok _ s g _ h).trans ?_)
      rw [if_pos hd]
      rfl
    · exact writes_value h (show _ = execLea k w s from rfl) rfl
    · rw [← fld_zero a, ← fld_zero b]
      exact writes_value h (show _ = execGaddr r w s from rfl) rfl
    · refine writes_value h (show _ = execGfld f w s from rfl) (congrArg (g.writeS w.d) ?_)
      obtain hf | hf | hf | hf : f.toNat = 0 ∨ f.toNat = 1 ∨ f.toNat = 2 ∨ f.toNat = 3 := by omega
      all_goals simp [hf, fld]; rfl

end Sys2Proof.Machine

/-! PROOFS, 03 R33, 06 R107, Table 1. Packed elements, and the vector words that form one element from the elements at the same position. -/

namespace Sys2Proof.Machine
open Sys2Proof Sys2Proof.Claims

/-! ### The elements of a lane (03 R33) -/

theorem elems_eq (t : Ty) (x : Nat) : elems t x = (List.range (elemCount t)).map (fun j => elemAt t j x) := by
  unfold elems elemCount elemAt
  split <;> simp

theorem fld_joinElems (t : Ty) (xs : List Nat) (j : Nat) (h : j < xs.length) : fld (joinElems t xs) (t.bits * j) t.bits = xs[j] % 2 ^ t.bits := by
  induction xs generalizing j with
  | nil => cases h
  | cons x r ih =>
    have low : x % 2 ^ t.bits < 2 ^ t.bits := Nat.mod_lt _ (Nat.two_pow_pos _)
    rw [joinElems]
    cases j with
    | zero => rw [Nat.mul_zero, fld_zero, Nat.add_mul_mod_self_left, Nat.mod_mod]; rfl
    | succ j =>
      rw [Nat.mul_succ, Nat.add_comm (t.bits * j), fld, Nat.pow_add, ← Nat.div_div_eq_div_mul, Nat.add_mul_div_left _ _ (Nat.two_pow_pos t.bits), Nat.div_eq_of_lt low, Nat.zero_add]
      exact ih j (Nat.lt_of_succ_lt_succ h)

theorem elemAt_joinElems {t : Ty} {j : Nat} (f : Nat → Nat) (h : j < elemCount t) :
    elemAt t j (joinElems t ((List.range (elemCount t)).map f)) = f j % 2 ^ t.bits := by
  unfold elemAt
  split
  · rw [fld_joinElems _ _ _ (by simpa using h), List.getElem_map, List.getElem_range]
  · next hb =>
    have one : elemCount t = 1 := if_neg hb
    obtain rfl : j = 0 := by omega
    simp [one, joinElems]

theorem orFlags_eq_zero {xs : List (Nat × Nat)} (h : ∀ x ∈ xs, x.2 = 0) : orFlags xs = 0 := by
  induction xs with
  | nil => rfl
  | cons x r ih =>
    have hx := h x List.mem_cons_self
    rw [orFlags, List.foldl_cons, hx]
    exact ih fun y hy => h y (List.mem_cons_of_mem x hy)

/-- The results of an operation on the elements, in ascending order. -/
theorem mapElems_eq (t : Ty) (f : Nat → Nat → Nat → Nat × Nat) (a b c : Nat) :
    mapElems t f a b c = (joinElems t ((List.range (elemCount t)).map (fun j => (f (elemAt t j a) (elemAt t j b) (elemAt t j c)).1)),
      orFlags ((List.range (elemCount t)).map (fun j => f (elemAt t j a) (elemAt t j b) (elemAt t j c)))) := by
  simp only [mapElems, elems_eq, List.zip_map', List.map_map]
  rfl

theorem elemAt_mapElems {t : Ty} {j : Nat} (f : Nat → Nat → Nat → Nat × Nat) (a b c : Nat) (h : j < elemCount t) :
    elemAt t j (mapElems t f a b c).1 = (f (elemAt t j a) (elemAt t j b) (elemAt t j c)).1 % 2 ^ t.bits := by
  rw [mapElems_eq, elemAt_joinElems _ h]

theorem mapElems_flags (t : Ty) {f : Nat → Nat → Nat → Nat × Nat} (hf : ∀ x y z, (f x y z).2 = 0) (a b c : Nat) : (mapElems t f a b c).2 = 0 := by
  rw [mapElems_eq]
  refine orFlags_eq_zero fun x hx => ?_
  obtain ⟨j, -, rfl⟩ := List.mem_map.mp hx
  exact hf _ _ _

/-! ### Words that work element by element (06 R107) -/

section
variable {i : Instr} {s : State} {g : Group} {w : R3} {P : Nat → Nat → Nat → Prop}

/-- A word that forms its lanes element by element and sets no flag. -/
theorem elementwise_of {op : Nat → Nat → Nat → Nat × Nat} {a b c : Nat → Nat} {f : State → Group → Mask → Group} (hop : ∀ x y z, (op x y z).2 = 0)
    (h : Issues i s g) (he : exec i s = groupWord i s f)
    (hf : f s g (lanesFor i g) = g.vecWrite w.ty w.d (lanesFor i g) (fun l => mapElems w.ty op (a l) (b l) (c l)))
    (hP : ∀ l j, P l j ((op (elemAt w.ty j (a l)) (elemAt w.ty j (b l)) (elemAt w.ty j (c l))).1 % 2 ^ w.ty.bits)) : Elementwise i s g w.ty w.d P := by
  have hw := writesVector_lanes i s g w.ty w.d _ f h he hf
  have flags : orFlags (lanes.map (fun l => if lane (lanesFor i g) l then mapElems w.ty op (a l) (b l) (c l) else (0, 0))) = 0 := by
    refine orFlags_eq_zero fun x hx => ?_
    obtain ⟨l, -, rfl⟩ := List.mem_map.mp hx
    split
    · exact mapElems_flags w.ty hop _ _ _
    · rfl
  rw [flags] at hw
  refine ⟨_, fun l j hl hm hj => ?_, hw⟩
  simp only [lanes, List.getD_eq_getElem?_getD, List.getElem?_map, List.getElem?_range hl, Option.map_some, Option.getD_some, hm, if_true]
  rw [elemAt_mapElems _ _ _ _ hj]
  exact hP l j

theorem elementwise_two {op : Nat → Nat → Nat} (h : Issues i s g) (he : exec i s = groupWord i s (fun s g m => vec2 s g m w (fun a b => (op a b, 0))))
    (hP : ∀ l j, P l j (op (elemAt w.ty j (laneVal s g w.ty w.a l)) (elemAt w.ty j (laneVal s g w.ty w.b l)) % 2 ^ w.ty.bits)) : Elementwise i s g w.ty w.d P :=
  elementwise_of (op := fun a b _ => (op a b, 0)) (fun _ _ _ => rfl) h he rfl hP

theorem elementwise_one {op : Nat → Nat} (h : Issues i s g) (he : exec i s = groupWord i s (fun s g m => vec1 s g m w (fun a => (op a, 0))))
    (hP : ∀ l j, P l j (op (elemAt w.ty j (laneVal s g w.ty w.a l)) % 2 ^ w.ty.bits)) : Elementwise i s g w.ty w.d P :=
  elementwise_of (op := fun a _ _ => (op a, 0)) (fun _ _ _ => rfl) h he rfl hP

/-- A form that works bit by bit. -/
theorem elementwise_bits {op : Nat → Nat → Nat} {p : Bool → Bool → Bool} (hp : ∀ x y k, k < w.ty.bits → bit (op x y) k = p (bit x k) (bit y k)) (h : Issues i s g)
    (he : exec i s = groupWord i s (fun s g m => vec2 s g m w (fun a b => (op a b, 0)))) :
    Elementwise i s g w.ty w.d (fun l j x => ∀ k, k < w.ty.bits →
      bit x k = p (bit (elemAt w.ty j (laneVal s g w.ty w.a l)) k) (bit (elemAt w.ty j (laneVal s g w.ty w.b l)) k)) :=
  elementwise_two h he fun _ _ k hk => by rw [bit_mod _ hk, hp _ _ k hk]
end

/-! ### Vector logic, shifts and counts (06 Table 1) -/

/-- A count of bits fits into the element. -/
theorem count_mod {t : Ty} {k : Nat} (h : k ≤ t.bits) : k % 2 ^ t.bits = k := Nat.mod_eq_of_lt (h.trans_lt Nat.lt_two_pow_self)

/-- A shift to the right keeps a signed value in range: it reads back as it was divided. -/
theorem sext_sarOf (t : Ty) (a x : Nat) : sext t.bits (sarOf t a x % 2 ^ t.bits) = sext t.bits a / ((2 ^ x : Nat) : Int) := by
  have pos : (0 : Int) < ((2 ^ x : Nat) : Int) := by positivity
  have half : 0 ≤ ((2 ^ t.bits : Nat) : Int) / 2 ∧ 0 ≤ (((2 ^ t.bits : Nat) : Int) + 1) / 2 := ⟨by positivity, by positivity⟩
  have lo := Int.le_bmod (x := a) (Nat.two_pow_pos t.bits)
  have hi := Int.bmod_lt (x := a) (Nat.two_pow_pos t.bits)
  rw [sarOf_eq, Nat.mod_eq_of_lt (wrapN_lt _ _), sext_eq_bmod t.bits_pos, sext_eq_bmod t.bits_pos, wrapN_cast, Int.emod_bmod]
  refine Int.bmod_eq_of_le ((Int.le_ediv_iff_mul_le pos).mpr ?_) (Int.ediv_lt_of_lt_mul pos ?_)
  · nlinarith [half.1]
  · nlinarith [half.2]

/-- Settles O11: the operations on n-bit patterns, of the elements at each position of each active lane. -/
theorem vectorLogicShiftsAndCounts : Obligations.VectorLogicShiftsAndCounts := by
  unfold Obligations.VectorLogicShiftsAndCounts
  simp only [List.forall_mem_cons, List.not_mem_nil, false_imp_iff, implies_true, and_true]
  refine ⟨⟨fun w s g h => ?_, fun w s g h => ?_, fun w s g h => ?_, fun w s g h => ?_⟩, fun w s g => ?_⟩
  · exact elementwise_bits (fun x y k _ => bit_and x y k) h (show _ = execVand w s from rfl)
  · exact elementwise_bits (fun x y k _ => bit_or x y k) h (show _ = execVor w s from rfl)
  · exact elementwise_bits (fun x y k _ => bit_xor x y k) h (show _ = execVxor w s from rfl)
  · exact elementwise_bits (p := fun x y => x && !y) (fun x y k hk => bit_andnOf x y hk) h (show _ = execVandn w s from rfl)
  · refine ⟨fun h => ?_, fun h => ?_, fun h => ?_, fun h => ?_, fun h => ?_, fun h => ?_, fun h => ?_, fun h => ?_, fun h => ?_⟩
    · refine elementwise_two h (show _ = execVshl w s from rfl) fun l j => ?_
      rw [shlOf_eq, Nat.mod_mod]
    · refine elementwise_two h (show _ = execVshr w s from rfl) fun l j => ?_
      rw [shrOf_eq, Nat.mod_eq_of_lt ((Nat.div_le_self _ _).trans_lt (Nat.mod_lt _ (Nat.two_pow_pos _)))]
    · exact elementwise_two h (show _ = execVsar w s from rfl) fun l j => sext_sarOf w.ty _ _
    · refine elementwise_two h (show _ = execVrotl w s from rfl) fun l j k hk => ?_
      rw [bit_mod _ (Nat.mod_lt _ w.ty.bits_pos)]
      exact bit_rotlOf _ _ hk
    · refine elementwise_one h (show _ = execVclz w s from rfl) fun l j => ?_
      rw [count_mod (clzOf_le w.ty _)]
      exact ⟨clzOf_le w.ty _, bit_clzOf w.ty _⟩
    · refine elementwise_one h (show _ = execVctz w s from rfl) fun l j => ?_
      rw [count_mod (bit_ctzOf w.ty _).1]
      exact bit_ctzOf w.ty _
    · refine elementwise_one h (show _ = execVpopc w s from rfl) fun l j => ?_
      rw [count_mod (popcOf_le w.ty _), popcOf_eq]
    · refine elementwise_one h (show _ = execVbrev w s from rfl) fun l j k hk => ?_
      rw [bit_mod _ hk]
      exact bit_brevOf _ hk
    · exact elementwise_one h (show _ = execVmov w s from rfl) fun l j => rfl

end Sys2Proof.Machine

/-! PROOFS, 05 R85 to R95. Control words record targets, planes and exits for their active lanes; a switch to an undeclared plane raises PLANE. -/

namespace Sys2Proof.Machine
open Sys2Proof Sys2Proof.Claims

/-! ### The lanes of a mask -/

theorem lt_of_lane {m : Mask} {l : Nat} (h : lane m l = true) : l < 64 := BitVec.lt_of_getLsbD h

theorem mem_lanesOf {m : Mask} {l : Nat} : l ∈ lanesOf m ↔ lane m l = true := by
  simp only [lanesOf, lanes, List.mem_filter, List.mem_range]
  exact ⟨fun h => h.2, fun h => ⟨lt_of_lane h, h⟩⟩

/-- The lanes before a lane of a mask are those below it. -/
theorem lanesOf_split {m : Mask} {l : Nat} (h : lane m l = true) : ∃ low high, lanesOf m = low ++ l :: high ∧ ∀ k ∈ low, k < l ∧ lane m k = true := by
  obtain ⟨low, high, e⟩ := List.append_of_mem (mem_lanesOf.mpr h)
  have sorted : (lanesOf m).Pairwise (· < ·) := List.Pairwise.filter _ List.pairwise_lt_range
  rw [e, List.pairwise_append] at sorted
  exact ⟨low, high, e, fun k hk => ⟨sorted.2.2 k hk l List.mem_cons_self, mem_lanesOf.mp (e ▸ List.mem_append_left _ hk)⟩⟩

/-- The first lane of a mask that a test or a function answers. -/
theorem find?_lanesOf {m : Mask} {l : Nat} {p : Nat → Bool} (h : lane m l = true) (hp : p l = true) (hlow : ∀ k, k < l → lane m k = true → p k = false) :
    (lanesOf m).find? p = some l := by
  obtain ⟨low, high, e, hl⟩ := lanesOf_split h
  exact List.find?_eq_some_iff_append.mpr ⟨hp, low, high, e, fun k hk => by rw [hlow k (hl k hk).1 (hl k hk).2]; rfl⟩

theorem findSome?_lanesOf {α : Type} {m : Mask} {l : Nat} {f : Nat → Option α} {x : α} (h : lane m l = true) (hf : f l = some x)
    (hlow : ∀ k, k < l → lane m k = true → f k = none) : (lanesOf m).findSome? f = some x := by
  obtain ⟨low, high, e, hl⟩ := lanesOf_split h
  exact List.findSome?_eq_some_iff.mpr ⟨low, l, high, e, hf, fun k hk => hlow k (hl k hk).1 (hl k hk).2⟩

theorem lane_ext {a b : Mask} (h : ∀ l, lane a l = lane b l) : a = b := BitVec.eq_of_getLsbD_eq fun l _ => h l

theorem lane_and (a b : Mask) (l : Nat) : lane (a &&& b) l = (lane a l && lane b l) := BitVec.getLsbD_and

theorem lane_zero (l : Nat) : lane 0 l = false := BitVec.getLsbD_zero

/-- A mask is empty when it holds no lane. -/
theorem ne_zero_iff_lane {m : Mask} : m ≠ 0 ↔ ∃ l, lane m l = true := by
  constructor
  · intro h
    by_contra hn
    exact h (lane_ext fun l => by rw [lane_zero]; exact Bool.eq_false_iff.mpr fun hl => hn ⟨l, hl⟩)
  · rintro ⟨l, hl⟩ rfl
    rw [lane_zero] at hl
    cases hl

theorem and_ne_zero_iff (m p : Mask) : m &&& p ≠ 0 ↔ ∃ l, lane m l = true ∧ lane p l = true := by
  simp only [ne_zero_iff_lane, lane_and, Bool.and_eq_true]

theorem and_eq_left_iff (m p : Mask) : m &&& p = m ↔ ∀ l, lane m l = true → lane p l = true := by
  constructor
  · intro h l hl
    rw [← h, lane_and, Bool.and_eq_true] at hl
    exact hl.2
  · intro h
    refine lane_ext fun l => ?_
    rw [lane_and]
    cases hl : lane m l with
    | true => rw [h l hl]; rfl
    | false => rfl

/-- The lowest lane of a mask that is not empty. -/
theorem lowLane_spec {m : Mask} (h : m ≠ 0) : lane m (lowLane m) = true ∧ ∀ k, k < lowLane m → lane m k = false := by
  obtain ⟨l, hl⟩ := ne_zero_iff_lane.mp h
  have sorted : (lanesOf m).Pairwise (· < ·) := List.Pairwise.filter _ List.pairwise_lt_range
  have hmem := mem_lanesOf.mpr hl
  rw [lowLane]
  cases e : lanesOf m with
  | nil => rw [e] at hmem; cases hmem
  | cons x r =>
    rw [e, List.pairwise_cons] at sorted
    refine ⟨mem_lanesOf.mp (by rw [e]; exact List.mem_cons_self), fun k hk => Bool.eq_false_iff.mpr fun hm => ?_⟩
    have hk' : k ∈ x :: r := e ▸ mem_lanesOf.mpr hm
    rw [List.headD_cons] at hk
    rcases List.mem_cons.mp hk' with rfl | hr
    · exact lt_irrefl _ hk
    · exact lt_asymm hk (sorted.1 k hr)

/-! ### Recording (05 R88) -/

theorem get?_foldl_set {α : Type} (f : Nat → α) (ls : List Nat) (t : Tab α) (k : Nat) :
    (ls.foldl (fun a l => Tab.set a l (f l)) t).get? k = if k ∈ ls then some (f k) else t.get? k := by
  induction ls generalizing t with
  | nil => simp
  | cons x r ih =>
    rw [List.foldl_cons, ih]
    by_cases hr : k ∈ r
    · simp [hr]
    · by_cases hx : k = x
      · subst hx; simp [hr, Tab.get?_set_self]
      · simp [hr, hx, Tab.get?_set_ne _ _ _ _ hx]

theorem Group.recNext_recorded (g : Group) (m : Mask) (t : Nat) : NextRecorded g (g.recNext m t) m t :=
  ⟨rfl, fun l => by simp only [Group.recNext, get?_foldl_set, mem_lanesOf]⟩

theorem Group.recPlane_recorded (g : Group) (m : Mask) (f : Nat → Nat) : PlaneRecorded g (g.recPlane m f) m f :=
  ⟨rfl, fun l => by simp only [Group.recPlane, get?_foldl_set, mem_lanesOf]⟩

/-! ### Branches (05 R91 to R93) -/

section
variable {i : Instr} {s : State} {g : Group}

theorem ctrlWord_ok {f : State → Group → Mask → Group × Mask × Nat} (h : Issues i s g) (he : exec i s = ctrlWord i s f) :
    exec i s = .next (timed i s g (emitCtrl (s.put (f s g (lanesFor i g)).1) (f s g (lanesFor i g)).1 (f s g (lanesFor i g)).2.1 (f s g (lanesFor i g)).2.2 none)) :=
  he.trans (runWord_ok i s _ g _ _ h rfl)

/-- A branch that is taken records its target and emits its packet. -/
theorem branch_taken {g1 : Group} {t : Nat} {f : State → Group → Mask → Group × Mask × Nat} (h : Issues i s g) (he : exec i s = ctrlWord i s f)
    (hf : f s g (lanesFor i g) = g1.branch (lanesFor i g) true t) :
    ∃ g', NextRecorded g1 g' (lanesFor i g) t ∧ exec i s = .next (timed i s g (emitCtrl (s.put g') g' (lanesFor i g) t none)) := by
  have hx := ctrlWord_ok h he
  rw [hf] at hx
  exact ⟨_, g1.recNext_recorded _ _, hx⟩

/-- A branch with a condition: where it does not hold nothing is recorded. -/
theorem branch_if {c : Bool} {p : Prop} {t : Nat} {f : State → Group → Mask → Group × Mask × Nat} (h : Issues i s g) (he : exec i s = ctrlWord i s f)
    (hf : f s g (lanesFor i g) = g.branch (lanesFor i g) c t) (hc : c = true ↔ p) :
    (p → ∃ g', NextRecorded g g' (lanesFor i g) t ∧ exec i s = .next (timed i s g (emitCtrl (s.put g') g' (lanesFor i g) t none))) ∧
    (¬ p → exec i s = .next (timed i s g (emitCtrl (s.put g) g 0 0 none))) := by
  refine ⟨fun hp => branch_taken h he (hf.trans (by rw [hc.mpr hp])), fun hp => ?_⟩
  have hx := ctrlWord_ok h he
  rw [hf, Bool.eq_false_iff.mpr fun e => hp (hc.mp e)] at hx
  exact hx
end

/-- The conditions of `brs` (05 Table 2). -/
theorem brsCond_iff {c : Nat} (hc : c < 6) (a b : Nat) :
    brsCond c a b = true ↔ [a = b, a ≠ b, sext 64 a < sext 64 b, sext 64 b ≤ sext 64 a, a < b, b ≤ a].getD c False := by
  obtain rfl | rfl | rfl | rfl | rfl | rfl : c = 0 ∨ c = 1 ∨ c = 2 ∨ c = 3 ∨ c = 4 ∨ c = 5 := by omega
  all_goals simp [brsCond]

/-- Settles O6: each form is `Group.branch` on its condition, or records its exits. -/
theorem branchesAndExitsAreRecorded : Obligations.BranchesAndExitsAreRecorded := by
  unfold Obligations.BranchesAndExitsAreRecorded
  simp only [List.forall_mem_cons, List.not_mem_nil, false_imp_iff, implies_true, and_true]
  refine ⟨⟨⟨?_, ?_, ?_, ?_⟩, ?_, ?_, ?_, ?_⟩, ?_, ?_⟩
  · exact fun w s g h => branch_if h (show _ = execBra w s from rfl) rfl (by simp)
  · exact fun w s g h => branch_if h (show _ = execBany w s from rfl) rfl (by rw [bne_iff_ne, and_ne_zero_iff])
  · exact fun w s g h => branch_if h (show _ = execBall w s from rfl) rfl (by rw [beq_iff_eq, and_eq_left_iff])
  · exact fun w s g h => branch_if h (show _ = execBnone w s from rfl) rfl (by rw [beq_iff_eq, ← and_ne_zero_iff, not_not])
  · intro c w s g h
    by_cases hc : c.toNat < 6
    · obtain ⟨ht, hn⟩ := branch_if h (show _ = execBrs c w s from rfl) rfl (brsCond_iff hc _ _)
      exact ⟨ht, fun _ => hn⟩
    · refine ⟨fun ht => absurd ht ?_, fun h6 => absurd h6 hc⟩
      rw [List.getD_eq_default _ _ (by simpa using hc)]
      exact id
  · intro w s g h
    obtain ⟨g', hn, he⟩ := branch_taken h (show _ = execCall w s from rfl) rfl
    exact ⟨_, g', g.writeS_written w.d (g.ofs + 1), hn, he⟩
  · exact fun w s g h => branch_taken h (show _ = execJmp w s from rfl) rfl
  · exact fun w s g h => branch_taken h (show _ = execRet w s from rfl) rfl
  · exact fun w s g h => ⟨_, rfl, ctrlWord_ok h (show _ = execExit w s from rfl)⟩
  · intro w s g h
    refine (show _ = execNop w s from rfl).trans ((groupWord_ok _ s g _ h).trans ?_)
    rw [timed_eq]
    rfl

/-! ### Plane switches (05 R94, R95) -/

section
variable {i : Instr} {s : State} {g : Group} {b : State → Group → Mask → Res}

/-- A word whose body traps in the state it found. -/
theorem word_traps {k : Nat} {d : W64} (h : Issues i s g) (he : exec i s = runWord i s nothing b) (hb : b s g (lanesFor i g) = .trap s k d) :
    exec i s = .next (takeTrap (timed i s g s) g k d (lanesFor i g)) := by
  refine he.trans ((runWord_trap i s s g _ _ k d h hb).trans ?_)
  rw [h.cur]
  rfl
end

/-- Settles O7: `brapl` and `pset` test the plane they name, `psetv` the planes of its active lanes in ascending order (`find?_lanesOf`). -/
theorem planeSwitchesAreRecordedOrRaisePlane : Obligations.PlaneSwitchesAreRecordedOrRaisePlane := by
  unfold Obligations.PlaneSwitchesAreRecordedOrRaisePlane
  refine ⟨fun k w s g h => ⟨fun hk => ?_, fun hk => ?_⟩, fun k w s g h => ⟨fun hk => ?_, fun hk => ?_⟩, fun w s g h => ⟨fun hall => ?_, fun l hl hm hbad hlow => ?_⟩⟩
  · refine ⟨_, _, g.recNext_recorded _ _, Group.recPlane_recorded _ _ _, (show _ = execBrapl k w s from rfl).trans (runWord_ok _ s _ g _ _ h ?_)⟩
    exact if_neg (by omega)
  · exact word_traps h (show _ = execBrapl k w s from rfl) (if_pos hk)
  · refine ⟨_, g.recPlane_recorded _ _, (show _ = execPset k w s from rfl).trans (runWord_ok _ s _ g _ _ h ?_)⟩
    exact if_neg (by omega)
  · exact word_traps h (show _ = execPset k w s from rfl) (if_pos hk)
  · refine ⟨_, g.recPlane_recorded _ _, (show _ = execPsetv w s from rfl).trans (runWord_ok _ s _ g _ _ h ?_)⟩
    have none : (lanesOf (lanesFor (.psetv w) g)).find? (fun l => decide (g.env.planes ≤ laneVal s g .n32 w.a l)) = none := by
      refine List.find?_eq_none.mpr fun l hl => ?_
      have := hall l (lt_of_lane (mem_lanesOf.mp hl)) (mem_lanesOf.mp hl)
      simpa using this
    simp only [none]
  · refine word_traps h (show _ = execPsetv w s from rfl) ?_
    have first : (lanesOf (lanesFor (.psetv w) g)).find? (fun l => decide (g.env.planes ≤ laneVal s g .n32 w.a l)) = some l :=
      find?_lanesOf hm (by simpa using hbad) fun k hk hm => by simpa using hlow k hk hm
    simp only [first]

end Sys2Proof.Machine

/-! PROOFS, 05 R96, R103, 04 R75. The words about the group's own state, and literal loads: what each active lane finds at its target decides whether the load delivers
or traps. -/

namespace Sys2Proof.Machine
open Sys2Proof Sys2Proof.Claims

/-! ### Group-state words (05 R96, Table 4) -/

/-- The lowest active lane is the one with no active lane below it. -/
theorem eq_lowLane {m : Mask} (h : m ≠ 0) (l : Nat) : (l == lowLane m) = (decide (∀ k, k < l → lane m k = false) && lane m l) := by
  obtain ⟨hm, hlow⟩ := lowLane_spec h
  rw [Bool.eq_iff_iff, beq_iff_eq, Bool.and_eq_true, decide_eq_true_eq]
  constructor
  · rintro rfl
    exact ⟨hlow, hm⟩
  · rintro ⟨hl, ha⟩
    rcases lt_trichotomy l (lowLane m) with hlt | heq | hgt
    · rw [hlow l hlt] at ha; cases ha
    · exact heq
    · rw [hl _ hgt] at hm; cases hm

theorem planeBits_planesOf (g : Group) (m : Mask) :
    planeBits (g.planesOf m) = ((List.range 8).map (fun k => if m &&& g.inPlane k = 0 then 0 else 2 ^ k)).sum := by
  rw [planeBits, Group.planesOf, List.foldl_filter, maskOf_fold, Nat.zero_add]
  congr 1
  refine List.map_congr_left fun k _ => ?_
  by_cases h : m &&& g.inPlane k = 0 <;> simp [h]

theorem execPathq_writes {q : BitVec 2} {w : R3} {s : State} {g : Group} (h : Issues (.pathq q w) s g) :
    WritesScalar (.pathq q w) s g w.d
      ([g.paths.length, g.pathLanes.toNat, ((List.range 8).map (fun k => if g.pathLanes &&& g.inPlane k = 0 then 0 else 2 ^ k)).sum,
        (~~~(g.exited ||| (match g.frame with | some f => f.rcd.exits | none => 0))).toNat].getD q.toNat 0) 0 := by
  refine writes_value h (show _ = execPathq q w s from rfl) (congrArg (g.writeS w.d) ?_)
  obtain hq | hq | hq | hq : q.toNat = 0 ∨ q.toNat = 1 ∨ q.toNat = 2 ∨ q.toNat = 3 := by omega
  · rw [hq]; rfl
  · rw [hq]; rfl
  · rw [hq, ← planeBits_planesOf]; rfl
  · rw [hq]; rfl

theorem groupStateWords (w : R3) (s : State) (g : Group) :
    (Issues (.elect w) s g →
      WritesPred (.elect w) s g w.d (fun l => decide (∀ k, k < l → lane (lanesFor (.elect w) g) k = false) && lane (lanesFor (.elect w) g) l) 0) ∧
    (Issues (.pmask w) s g → WritesScalar (.pmask w) s g w.d (predVal g w.a &&& lanesFor (.pmask w) g).toNat 0) ∧
    (Issues (.pload w) s g → perLane w.a = false → WritesPred (.pload w) s g w.d (fun l => bit (scalarVal s g w.a) l) 0) ∧
    (Issues (.pload w) s g → perLane w.a = true → WritesPred (.pload w) s g w.d (fun l => bit (laneVal s g .n64 w.a l) l) 0) := by
  refine ⟨fun h => ?_, fun h => ?_, fun h hp => ?_, fun h hp => ?_⟩
  · have hm : lanesFor (.elect w) g ≠ 0 := h.mask.resolve_right Bool.false_ne_true
    refine writesPred_of _ s g w.d _ _ h (show _ = execElect w s from rfl) (congrArg (g.writeP w.d _) (funext fun l => ?_))
    exact eq_lowLane hm l
  · exact writes_value h (show _ = execPmask w s from rfl) rfl
  · exact writesPred_of _ s g w.d _ _ h (show _ = execPload w s from rfl) (by simp only [hp, Bool.false_eq_true, if_false])
  · exact writesPred_of _ s g w.d _ _ h (show _ = execPload w s from rfl) (by simp only [hp, if_true])

/-! ### What a literal load finds (04 R75, 05 R103) -/

theorem litAt_outside {s : State} {g : Group} {k : Nat} {o : Int} (h : o < 0 ∨ (g.env.stride : Int) ≤ o) : litAt s g k o = .bad := if_pos h

theorem litAt_refused {s : State} {g : Group} {k r : Nat} {o : Int} (h0 : 0 ≤ o) (h1 : o < (g.env.stride : Int)) (hr : codeReason g k o.toNat = some r) :
    litAt s g k o = .addr r := by
  rw [litAt, if_neg (by omega), hr]

theorem litAt_word {s : State} {g : Group} {k x : Nat} {o : Int} (h0 : 0 ≤ o) (h1 : o < (g.env.stride : Int)) (hr : codeReason g k o.toNat = none)
    (hx : fetchAt s s.cur g k o.toNat = .word x) : litAt s g k o = if x / 2 ^ 88 = 0xFE then .val (x % 2 ^ 64) else .bad := by
  rw [litAt, if_neg (by omega), hr]
  simp only [hx]

theorem fetchCorrect_of_flawless {s : State} (h : s.flaws = []) (key : Nat) (g : Group) (k o : Nat) : fetchCorrect s key g k o = s := by
  rw [fetchCorrect, h]

theorem foldl_fetchCorrect_of_flawless {s : State} (h : s.flaws = []) (g : Group) (o : Nat) (ks : List Nat) :
    ks.foldl (fun s k => fetchCorrect s s.cur g k o) s = s := by
  induction ks with
  | nil => rfl
  | cons k r ih => rw [List.foldl_cons, fetchCorrect_of_flawless h, ih]

/-- What the active lanes of a literal load find at their targets, in ascending order of lanes. -/
def litsOf (w : IM) (s : State) (g : Group) (m : Mask) : List (Nat × Lit) := (lanesOf m).map (fun l => (l, litAt s g (g.planeOf l) ((g.ofs : Int) + w.imm.toInt)))

section
variable {w : IM} {s : State} {g : Group} {m : Mask}

theorem mem_litsOf {x : Nat × Lit} (h : x ∈ litsOf w s g m) : lane m x.1 = true ∧ x.2 = litAt s g (g.planeOf x.1) ((g.ofs : Int) + w.imm.toInt) := by
  obtain ⟨l, hl, rfl⟩ := List.mem_map.mp h
  exact ⟨mem_lanesOf.mp hl, rfl⟩

theorem find?_litsOf {l : Nat} {p : Nat × Lit → Bool} (h : lane m l = true) (hp : p (l, litAt s g (g.planeOf l) ((g.ofs : Int) + w.imm.toInt)) = true)
    (hlow : ∀ k, k < l → lane m k = true → p (k, litAt s g (g.planeOf k) ((g.ofs : Int) + w.imm.toInt)) = false) :
    (litsOf w s g m).find? p = some (l, litAt s g (g.planeOf l) ((g.ofs : Int) + w.imm.toInt)) := by
  rw [litsOf, List.find?_map]
  exact congrArg (Option.map _) (find?_lanesOf (p := p ∘ fun l => (l, litAt s g (g.planeOf l) ((g.ofs : Int) + w.imm.toInt))) h hp hlow)

theorem findSome?_litsOf {α : Type} {l : Nat} {f : Nat × Lit → Option α} {x : α} (h : lane m l = true)
    (hf : f (l, litAt s g (g.planeOf l) ((g.ofs : Int) + w.imm.toInt)) = some x)
    (hlow : ∀ k, k < l → lane m k = true → f (k, litAt s g (g.planeOf k) ((g.ofs : Int) + w.imm.toInt)) = none) : (litsOf w s g m).findSome? f = some x := by
  rw [litsOf, List.findSome?_map]
  exact findSome?_lanesOf h hf hlow
end

/-! ### Literal loads (05 R103) -/

theorem Group.setLanes_congr (g : Group) (r : Nat) {m : Mask} {f f' : Nat → Nat} (h : ∀ l, lane m l = true → f l = f' l) : g.setLanes r m f = g.setLanes r m f' := by
  unfold Group.setLanes
  congr 2
  refine List.map_congr_left fun l _ => ?_
  split
  · next hl => rw [h l hl]
  · rfl

/-- Only the values of the active lanes count. -/
theorem Group.writeV_congr (g : Group) (t : Ty) (d : Opnd) {m : Mask} {f f' : Nat → Nat} (h : ∀ l, lane m l = true → f l = f' l) :
    g.writeV t d m f = g.writeV t d m f' := by
  cases d with
  | v r =>
    unfold Group.writeV
    dsimp only
    rw [g.setLanes_congr _ h, Group.setLanes_congr _ (r.toNat + 1) fun l hl => congrArg (· / 2 ^ 32) (h l hl)]
  | _ => rfl

/-- The literal that a lane's entry of the list holds. -/
def litValue (ls : List (Nat × Lit)) (l : Nat) : Nat := match ls.find? (fun x => x.1 == l) with | some (_, .val x) => x | _ => 0

/-- What a literal load answers once every target has been fetched, as `execLdl` has it. -/
def ldlFound (w : IM) (s : State) (g : Group) (m : Mask) : Res :=
  match (litsOf w s g m).find? (fun x => x.2 == .bad) with
  | some x => .trap s tIllegal (illegalDetail { g with plane := g.planeOf x.1, common := false } 11 0 0x12 0)
  | none =>
    match (litsOf w s g m).findSome? (fun x => match x.2 with | .addr r => some (x.1, r) | _ => none) with
    | some (l, r) => .trap s tAddr (addrDetail false l r (g.codeAddr (g.planeOf l) ((g.ofs : Int) + w.imm.toInt).toNat))
    | none =>
      let s1 := (g.planesOf m).foldl (fun s k => fetchCorrect s s.cur g k ((g.ofs : Int) + w.imm.toInt).toNat) s
      match w.d with
      | .v _ => .ok (s1.put (g.writeV w.ty w.d m (fun l => if w.ty.wide then litValue (litsOf w s g m) l else litValue (litsOf w s g m) l % 2 ^ 32)))
      | _ => .ok (s1.put (g.writeS w.d (extS w.ty (litValue (litsOf w s g m) (lowLane m) % 2 ^ w.ty.bits))))

section
variable {w : IM} {s : State} {g : Group} {m : Mask}

/-- A literal load none of whose targets waits for a walk or has been consumed. -/
theorem execLdl_found : ∃ b, exec (.ldl w) s = runWord (.ldl w) s nothing b ∧
    ((∀ k, lane m k = true → litAt s g (g.planeOf k) ((g.ofs : Int) + w.imm.toInt) ≠ .wait ∧
      ∀ u, litAt s g (g.planeOf k) ((g.ofs : Int) + w.imm.toInt) ≠ .gone u) → b s g m = ldlFound w s g m) := by
  refine ⟨_, show _ = execLdl w s from rfl, fun hfree => ?_⟩
  dsimp only
  split
  · next u hu =>
    obtain ⟨x, hx, hu⟩ := List.exists_of_findSome?_eq_some hu
    obtain ⟨hl, e⟩ := mem_litsOf hx
    split at hu <;> cases hu
    next hg => exact absurd (e ▸ hg) ((hfree _ hl).2 u)
  · rw [if_neg]
    · rfl
    · intro hw
      obtain ⟨x, hx, hw⟩ := List.any_eq_true.mp hw
      obtain ⟨hl, e⟩ := mem_litsOf hx
      exact (hfree _ hl).1 (e ▸ beq_iff_eq.mp hw)

/-- A literal load all of whose targets hold literals. -/
theorem ldlFound_values {f : Nat → Nat} (hf : s.flaws = [])
    (hv : ∀ l ∈ lanesOf m, litAt s g (g.planeOf l) ((g.ofs : Int) + w.imm.toInt) = .val (f l)) :
    (w.d.kind = 0 → ldlFound w s g m = .ok (s.put (g.writeV w.ty w.d m (fun l => if w.ty.wide then f l else f l % 2 ^ 32)))) ∧
    (w.d.kind = 1 → m ≠ 0 → ldlFound w s g m = .ok (s.put (g.writeS w.d (extS w.ty (f (lowLane m) % 2 ^ w.ty.bits))))) := by
  have val {x : Nat × Lit} (hx : x ∈ litsOf w s g m) : x.2 = .val (f x.1) := (mem_litsOf hx).2.trans (hv _ (mem_lanesOf.mpr (mem_litsOf hx).1))
  have value {l : Nat} (hl : lane m l = true) : litValue (litsOf w s g m) l = f l := by
    rw [litValue, find?_litsOf (p := fun x => x.1 == l) hl (beq_self_eq_true l) (fun k hk _ => beq_eq_false_iff_ne.mpr hk.ne), hv l (mem_lanesOf.mpr hl)]
  have found : ldlFound w s g m = match w.d with
      | .v _ => .ok (s.put (g.writeV w.ty w.d m (fun l => if w.ty.wide then litValue (litsOf w s g m) l else litValue (litsOf w s g m) l % 2 ^ 32)))
      | _ => .ok (s.put (g.writeS w.d (extS w.ty (litValue (litsOf w s g m) (lowLane m) % 2 ^ w.ty.bits)))) := by
    rw [ldlFound]
    split
    · next x hx =>
      have hb : x.2 = .bad := beq_iff_eq.mp (List.find?_some (p := fun x : Nat × Lit => x.2 == .bad) hx)
      rw [val (List.mem_of_find?_eq_some hx)] at hb
      cases hb
    · split
      · next hx =>
        obtain ⟨x, hx, hr⟩ := List.exists_of_findSome?_eq_some hx
        rw [val hx] at hr
        cases hr
      · rw [foldl_fetchCorrect_of_flawless hf]
  refine ⟨fun hk => ?_, fun hk hm => ?_⟩
  · rw [found]
    cases hd : w.d with
    | v r => exact congrArg (fun g' => Res.ok (s.put g')) (g.writeV_congr w.ty (.v r) fun l hl => by rw [value hl])
    | s n => rw [hd] at hk; cases hk
    | p n => rw [hd] at hk; cases hk
    | imm n => rw [hd] at hk; cases hk
  · rw [found, value (lowLane_spec hm).1]
    cases hd : w.d with
    | v r => rw [hd] at hk; cases hk
    | _ => rfl

/-- The detail word of a literal load that meets no literal word: reason 11, its major, the plane and the offset (04 R66 Table 5). -/
theorem illegalDetail_literal (g : Group) (k : Nat) :
    illegalDetail { g with plane := k, common := false } 11 0 0x12 0 = BitVec.ofNat 64 (11 * 2 ^ 56 + 0x12 * 2 ^ 48 + k % 8 * 2 ^ 41 + g.ofs % 2 ^ 32) := by
  have ofs : ({ g with plane := k, common := false } : Group).ofs = g.ofs := rfl
  rw [illegalDetail, ofs]
  refine congrArg (BitVec.ofNat 64) ?_
  rw [if_neg Bool.false_ne_true]
  dsimp only
  omega

/-- The lowest lane that meets no literal word decides. -/
theorem ldlFound_bad {l : Nat} (hl : lane m l = true) (hb : litAt s g (g.planeOf l) ((g.ofs : Int) + w.imm.toInt) = .bad)
    (hlow : ∀ k, k < l → lane m k = true → litAt s g (g.planeOf k) ((g.ofs : Int) + w.imm.toInt) ≠ .bad) :
    ldlFound w s g m = .trap s tIllegal (BitVec.ofNat 64 (11 * 2 ^ 56 + 0x12 * 2 ^ 48 + g.planeOf l % 8 * 2 ^ 41 + g.ofs % 2 ^ 32)) := by
  rw [ldlFound, find?_litsOf (p := fun x => x.2 == .bad) hl (beq_iff_eq.mpr hb) fun k hk hm => beq_eq_false_iff_ne.mpr (hlow k hk hm)]
  exact congrArg (Res.trap s tIllegal) (illegalDetail_literal g _)

/-- With no such lane, the lowest one whose target is refused. -/
theorem ldlFound_refused {l r : Nat} (hl : lane m l = true) (hr : litAt s g (g.planeOf l) ((g.ofs : Int) + w.imm.toInt) = .addr r)
    (hbad : ∀ k, lane m k = true → litAt s g (g.planeOf k) ((g.ofs : Int) + w.imm.toInt) ≠ .bad)
    (hlow : ∀ k, k < l → lane m k = true → ∀ q, litAt s g (g.planeOf k) ((g.ofs : Int) + w.imm.toInt) ≠ .addr q) :
    ldlFound w s g m = .trap s tAddr (addrDetail false l r (g.codeAddr (g.planeOf l) ((g.ofs : Int) + w.imm.toInt).toNat)) := by
  have none : (litsOf w s g m).find? (fun x => x.2 == .bad) = none := by
    refine List.find?_eq_none.mpr fun x hx hb => ?_
    obtain ⟨hm, e⟩ := mem_litsOf hx
    exact hbad _ hm (e ▸ beq_iff_eq.mp hb)
  rw [ldlFound, none]
  dsimp only
  rw [findSome?_litsOf (x := (l, r)) hl (by rw [hr]) fun k hk hm => ?_]
  split
  · next hq => exact absurd hq (hlow k hk hm _)
  · rfl
end

/-- 05 R103: the literals that the active lanes find are delivered. -/
theorem literalLoads_deliver (w : IM) (s : State) (g : Group) (f : Nat → Nat) (h : Issues (.ldl w) s g) (hf : s.flaws = [])
    (hv : ∀ l ∈ lanesOf (lanesFor (.ldl w) g), litAt s g (g.planeOf l) ((g.ofs : Int) + w.imm.toInt) = .val (f l)) :
    (w.d.kind = 0 → WritesVector (.ldl w) s g w.ty w.d (fun l => if w.ty.wide then f l else f l % 2 ^ 32) 0) ∧
    (w.d.kind = 1 → lanesFor (.ldl w) g ≠ 0 → WritesScalar (.ldl w) s g w.d (extS w.ty (f (lowLane (lanesFor (.ldl w) g)) % 2 ^ w.ty.bits)) 0) := by
  obtain ⟨b, he, hb⟩ := execLdl_found (w := w) (s := s) (g := g) (m := lanesFor (.ldl w) g)
  have body := hb fun k hk => by
    rw [hv k (mem_lanesOf.mpr hk)]
    exact ⟨nofun, nofun⟩
  obtain ⟨hvec, hscalar⟩ := ldlFound_values hf hv
  refine ⟨fun hk => ⟨_, ?_, g.writeV_written _ _ _ _⟩, fun hk hm => ⟨_, ?_, g.writeS_written _ _⟩⟩
  · rw [Group.raise_zero]
    exact he.trans (runWord_ok _ s _ g _ _ h (body.trans (hvec hk)))
  · rw [Group.raise_zero]
    exact he.trans (runWord_ok _ s _ g _ _ h (body.trans (hscalar hk hm)))

/-- Settles O8: the group-state words write one register each; a literal load is decided by what its active lanes find (`ldlFound`). -/
theorem groupStateWordsAndLiteralLoads : Obligations.GroupStateWordsAndLiteralLoads := by
  unfold Obligations.GroupStateWordsAndLiteralLoads
  refine ⟨fun w s g => ?_, fun w s g f h hf hv => literalLoads_deliver w s g f h hf hv, fun w s g h => ?_⟩
  · obtain ⟨helect, hpmask, hpload, hploads⟩ := groupStateWords w s g
    exact ⟨helect, hpmask, hpload, hploads, fun q h => execPathq_writes h⟩
  · intro m o found illegal
    obtain ⟨b, he, hb⟩ := execLdl_found (w := w) (s := s) (g := g) (m := m)
    have bad {l : Nat} (hfree : ∀ k, lane m k = true → found k ≠ .wait ∧ ∀ u, found k ≠ .gone u) (hl : lane m l = true) (hf : found l = .bad)
        (hlow : ∀ k, k < l → lane m k = true → found k ≠ .bad) : illegal l :=
      word_traps h he ((hb hfree).trans (ldlFound_bad hl hf hlow))
    refine ⟨fun hm hout => ?_, fun k h0 h1 => ⟨fun r hr => litAt_refused h0 h1 hr, fun hr x hx => litAt_word h0 h1 hr hx⟩, fun hfree l _ hl => ⟨fun hf hlow => ?_, fun r hf hbad hlow => ?_⟩⟩
    · obtain ⟨hl, hlow⟩ := lowLane_spec hm
      have out (k : Nat) : found k = .bad := litAt_outside hout
      refine bad (fun k _ => ?_) hl (out _) fun k hk hm => absurd hm (Bool.eq_false_iff.mp (hlow k hk))
      rw [out k]
      exact ⟨nofun, nofun⟩
    · exact bad hfree hl hf hlow
    · exact word_traps h he ((hb hfree).trans (ldlFound_refused hl hf hbad hlow))

end Sys2Proof.Machine

/-! PROOFS, 05 R88, 19 R316. A turn at an offset that has no word left to issue: `rte.skip` has passed over its only word, and the turn runs none. -/

namespace Sys2Proof.Machine
open Sys2Proof Sys2Proof.Claims

/-- The word of `nop` (04 R67). -/
def nopWord : Nat := 0x010000000000000000000000

/-- A fresh group that `rte.skip` has told to pass over plane 0's word at offset 0. -/
def skippingGroup : Group := { fetchGroup 0 with skips := some (0, 0) }

/-- Its machine: the word of `nop` stands at byte 0, and the group's turn is next. -/
def skippingState : State :=
  { State.reset with
    groups := [(0, skippingGroup)]
    mem := memStore [] (slicePlace 0 0) (leBytes 12 nopWord)
    sched := [{ clocks := 1, act := .issue 0 }] }

/-- The machine in the clock of that turn. -/
def skippingTurn : State := ({ skippingState with sched := [] } : State).tick 1

/-- The group with the words of offset 0 listed: the one of plane 0 is passed over. -/
def skippingListed : Group := skippingGroup.listed false [0]

/-- The group and its machine as the obligation has them execute the word. -/
def skippingTaken : Group := { skippingListed.takeWord with stalled := false }.swapView
def skippingRead : State := fetchCorrect (headRead (loopCheck skippingTurn 0) 0 skippingGroup) 0 { skippingListed.takeWord with stalled := false } 0 0
def skippingInstr : Instr := decode skippingTaken.limits nopWord

/-- The number of words that group 0 has issued. -/
def serialOf (t : State) : Option Nat := (t.groups.get? 0).map Group.serial

/-- The state an outcome goes on to. -/
def goneTo : Host.Outcome State Fault Refusal → Option State
  | .next t => some t
  | _ => none

/-- What the obligation has the step make of the state after the word. -/
def surrounded (t : State) : State :=
  ageAll (unblockAll (restoreView (struckBy skippingInstr skippingRead 0 skippingTaken (afterWord t 0 skippingTaken skippingInstr (unpack nopWord).hd.delay.toNat)) 0))

/-- The step finds no word to issue: the group's count stands. -/
theorem serialOf_step_skipping : (goneTo (step skippingState)).bind serialOf = some 0 := by decide +kernel

/-- A word that had executed would have been counted. -/
theorem serialOf_exec_skipping :
    (goneTo (exec skippingInstr { skippingRead with cur := 0, inp := { Inp.zero with a := nopWord, nums := timeRegs skippingInstr }, groups := skippingRead.groups.set 0 skippingTaken })).bind
      (fun t => serialOf (surrounded t)) = some 1 := by decide +kernel

/-- Refutes O56: the first clause does not ask that a word of the offset is left to issue. Where `rte.skip` has passed over the only one, the turn lists none and executes none: the group's
count stays 0, and the clause has the word at its code address, a `nop`, execute and be counted. -/
theorem not_aStepRunsTheDecodedInstruction : ¬ Obligations.AStepRunsTheDecodedInstruction := by
  intro ⟨h, _⟩
  obtain ⟨t, ht, hs, _⟩ := h skippingState 1 0 nopWord [] skippingGroup skippingListed rfl (by decide +kernel) (by decide +kernel) (by decide +kernel) (by decide +kernel)
    (by decide +kernel) (by decide +kernel) (by decide +kernel) (by decide +kernel) (by decide +kernel)
  have hexec := serialOf_exec_skipping
  have hstep := serialOf_step_skipping
  rw [hs] at hstep
  have ht' : exec skippingInstr { skippingRead with cur := 0, inp := { Inp.zero with a := nopWord, nums := timeRegs skippingInstr }, groups := skippingRead.groups.set 0 skippingTaken } = .next t := ht
  rw [ht'] at hexec
  have hclash : some 0 = some 1 := hstep.symm.trans hexec
  exact absurd hclash (by decide)

end Sys2Proof.Machine

/-! PROOFS, 05 R88, 02 R26. The completion of an offset where the byte store is not in its canonical form: a byte of the spill area that becomes 0 uncovers another. -/

namespace Sys2Proof.Machine
open Sys2Proof Sys2Proof.Claims

/-- The running entry, at offset 0, and an entry at offset 1 that has been spilled to slot 0. -/
def runningEntry : Entry := { idx := 0, ofs := 0, stamp := 0, lanes := 1, held := false, step := false, pass := false, stops := [] }
def spilledEntry : Entry := { idx := 16, ofs := 1, stamp := 1, lanes := 2, held := false, step := false, pass := false, stops := [] }

/-- A group with these entries whose offset 0 has issued its words: its lane goes on to offset 1, and the spilled entry returns to the table. -/
def returningGroup : Group := { fetchGroup 0 with paths := [runningEntry, spilledEntry], stamp := 2, todo := some [] }

/-- A byte store out of order (09 R152): VALID of spill slot 0 is listed before the byte at place 0, which therefore reads 0. -/
def coveredBytes : List Host.Cell := [(spillPlace 0 + 13, 1), (0, 7)]

/-- The machine of that group and that store, about to complete the offset. -/
def returningState : State := { State.reset with groups := [(0, returningGroup)], mem := coveredBytes }

/-- The byte at place 0 in the state an outcome goes on to. -/
def firstByteAfter : Host.Outcome State Fault Refusal → Option Byte
  | .next t => some (memGet t.mem 0)
  | _ => none

theorem firstByte_covered : memGet returningState.mem 0 = 0 := by decide +kernel

/-- Clearing VALID of the slot drops its cell, and the byte at place 0 is uncovered. -/
theorem firstByteAfter_offsetComplete : firstByteAfter (exec .offsetComplete returningState) = some 7 := by decide +kernel

/-- Refutes O44: its second clause does not ask that the byte store is in its canonical form. A store whose cells are out of order reads 0 at place 0 behind the VALID byte of a spill
slot; the completion that returns the spilled entry clears VALID, and place 0, far outside the spill area, reads 7. -/
theorem not_offsetsCompleteAndGroupsGoOn : ¬ Obligations.OffsetsCompleteAndGroupsGoOn := by
  intro ⟨_, h, _⟩
  obtain ⟨t, _, ht, _, _, _, _, _, _, _, hmem, _⟩ := h returningState returningGroup runningEntry (by decide +kernel) rfl rfl rfl rfl rfl rfl (by decide +kernel) rfl rfl
    (by decide +kernel) (by decide +kernel) ⟨0, by decide +kernel⟩ (by decide +kernel)
  have h0 : memGet t.mem 0 = 0 := (hmem 0 (Or.inl (by decide +kernel))).trans firstByte_covered
  have h7 := firstByteAfter_offsetComplete
  rw [ht] at h7
  have hclash : some (0 : Byte) = some 7 := (congrArg some h0).symm.trans h7
  exact absurd hclash (by decide)

end Sys2Proof.Machine

/-! PROOFS, 06 R107 to R109, R112, 02 R21. Vector words that form their lanes one by one: the value of each active lane, and the flags of all of them together. -/

namespace Sys2Proof.Machine
open Sys2Proof Sys2Proof.Claims

/-! ### Flags of many parts (06 R108) -/

/-- A bit of an OR of many is a bit of one of them. -/
theorem bit_foldl_or {α : Type} (f : α → Nat) (xs : List α) (k b : Nat) :
    bit (xs.foldl (fun a x => a ||| f x) k) b = true ↔ bit k b = true ∨ ∃ x ∈ xs, bit (f x) b = true := by
  induction xs generalizing k with
  | nil => simp
  | cons x r ih => simp [ih, bit_or, or_assoc]

theorem bit_zero (b : Nat) : bit 0 b = false := by rw [bit_eq_testBit, Nat.zero_testBit]

theorem bit_orFlags (xs : List (Nat × Nat)) (b : Nat) : bit (orFlags xs) b = true ↔ ∃ x ∈ xs, bit x.2 b = true := by
  rw [orFlags, bit_foldl_or, bit_zero, or_iff_right Bool.false_ne_true]

theorem eq_satf_of_bit {e b : Nat} (he : e = 0 ∨ e = SATF) (hb : bit e b = true) : e = SATF :=
  he.resolve_left fun h => Bool.false_ne_true ((bit_zero b).symm.trans (h ▸ hb))

/-- SAT is set when one part sets it, where no part sets another flag. -/
theorem satFlag_of_bits {fl : Nat} {p : Nat → Nat → Prop} {e : Nat → Nat → Nat} (he : ∀ l j, e l j = 0 ∨ e l j = SATF)
    (hfl : ∀ b, bit fl b = true ↔ ∃ l j, p l j ∧ bit (e l j) b = true) : (fl = 0 ∨ fl = SATF) ∧ (fl = SATF ↔ ∃ l j, p l j ∧ e l j = SATF) := by
  simp only [bit_eq_testBit] at hfl
  by_cases hs : ∃ l j, p l j ∧ e l j = SATF
  · have hfs : fl = SATF := by
      refine Nat.eq_of_testBit_eq fun b => Bool.eq_iff_iff.mpr ((hfl b).trans ⟨?_, fun hb => ?_⟩)
      · rintro ⟨l, j, -, hb⟩
        rwa [eq_satf_of_bit (he l j) ((bit_eq_testBit _ _).trans hb)] at hb
      · obtain ⟨l, j, hp, h1⟩ := hs
        exact ⟨l, j, hp, by rwa [h1]⟩
    exact ⟨Or.inr hfs, iff_of_true hfs hs⟩
  · have h0 : fl = 0 := Nat.zero_of_testBit_eq_false fun b => Bool.eq_false_iff.mpr fun hb => by
      obtain ⟨l, j, hp, hb⟩ := (hfl b).mp hb
      exact hs ⟨l, j, hp, eq_satf_of_bit (he l j) ((bit_eq_testBit _ _).trans hb)⟩
    exact ⟨Or.inl h0, iff_of_false (by rw [h0]; decide) hs⟩

/-! ### The lanes of a word (06 R107, R108) -/

section
variable {i : Instr} {s : State} {g : Group} {t : Ty} {d : Opnd}

/-- A word that computes lane by lane: each active lane takes its value, and %status the flags of the active lanes. -/
theorem writesVector_active {x : Nat → Nat × Nat} (he : exec i s = .next (timed i s g (s.put (g.vecWrite t d (lanesFor i g) x)))) :
    ∃ f fl, (∀ l, l < 64 → lane (lanesFor i g) l = true → f l = (x l).1) ∧
      (∀ b, bit fl b = true ↔ ∃ l, l < 64 ∧ lane (lanesFor i g) l = true ∧ bit (x l).2 b = true) ∧ WritesVector i s g t d f fl := by
  refine ⟨_, _, fun l hl hm => ?_, fun b => ?_, _, he, g.writeV_written t d _ _⟩
  · simp [lanes, List.getD_eq_getElem?_getD, List.getElem?_range hl, hm]
  · rw [bit_orFlags]
    constructor
    · rintro ⟨y, hy, hb⟩
      obtain ⟨l, hl, rfl⟩ := List.mem_map.mp hy
      split at hb
      · next hm => exact ⟨l, List.mem_range.mp hl, hm, hb⟩
      · rw [bit_zero] at hb
        exact absurd hb Bool.false_ne_true
    · rintro ⟨l, hl, hm, hb⟩
      exact ⟨x l, List.mem_map.mpr ⟨l, List.mem_range.mpr hl, if_pos hm⟩, hb⟩

/-- The flags of an operation on the elements of a lane are those of its elements. -/
theorem bit_mapElems_flags (t : Ty) (op : Nat → Nat → Nat → Nat × Nat) (a b c k : Nat) :
    bit (mapElems t op a b c).2 k = true ↔ ∃ j, j < elemCount t ∧ bit (op (elemAt t j a) (elemAt t j b) (elemAt t j c)).2 k = true := by
  rw [mapElems_eq, bit_orFlags]
  simp

/-- A word that forms its lanes element by element, with the flags of all elements. -/
theorem elementwiseFlags_of {op : Nat → Nat → Nat → Nat × Nat} {a b c : Nat → Nat}
    (he : exec i s = .next (timed i s g (s.put (g.vecWrite t d (lanesFor i g) (fun l => mapElems t op (a l) (b l) (c l)))))) :
    ElementwiseFlags i s g t d (fun l j => op (elemAt t j (a l)) (elemAt t j (b l)) (elemAt t j (c l))) := by
  obtain ⟨f, fl, hf, hfl, hw⟩ := writesVector_active he
  refine ⟨f, fl, fun l j hl hm hj => ?_, fun k => ?_, hw⟩
  · rw [hf l hl hm, elemAt_mapElems op _ _ _ hj]
  · simp only [hfl, bit_mapElems_flags, exists_and_left]

theorem elementwiseFlags_one {w : R3} {op : Nat → Nat × Nat} (h : Issues i s g) (he : exec i s = groupWord i s (fun s g m => vec1 s g m w op)) :
    ElementwiseFlags i s g w.ty w.d (fun l j => op (elemAt w.ty j (laneVal s g w.ty w.a l))) :=
  elementwiseFlags_of (op := fun a _ _ => op a) (b := fun _ => 0) (c := fun _ => 0) (he.trans (groupWord_ok _ _ _ _ h))

theorem elementwiseFlags_two {w : R3} {op : Nat → Nat → Nat × Nat} (h : Issues i s g) (he : exec i s = groupWord i s (fun s g m => vec2 s g m w op)) :
    ElementwiseFlags i s g w.ty w.d (fun l j => op (elemAt w.ty j (laneVal s g w.ty w.a l)) (elemAt w.ty j (laneVal s g w.ty w.b l))) :=
  elementwiseFlags_of (op := fun a b _ => op a b) (c := fun _ => 0) (he.trans (groupWord_ok _ _ _ _ h))

theorem elementwiseFlags_three {w : FU} {op : Nat → Nat → Nat → Nat × Nat} (h : Issues i s g) (he : exec i s = groupWord i s (fun s g m => vec3 s g m w op)) :
    ElementwiseFlags i s g w.ty w.d (fun l j =>
      op (elemAt w.ty j (laneVal s g w.ty w.a l)) (elemAt w.ty j (laneVal s g w.ty w.b l)) (elemAt w.ty j (laneVal s g w.ty w.c l))) :=
  elementwiseFlags_of (he.trans (groupWord_ok _ _ _ _ h))

/-! ### Integer arithmetic (06 Tables 1 and 2, 03 R34) -/

theorem narrow_flag (t : Ty) (sat : Bool) (x : Int) : (narrow t sat x).2 = 0 ∨ (narrow t sat x).2 = SATF := by
  cases sat with
  | false => exact Or.inl rfl
  | true => exact ite_eq_or_eq _ _ _

/-- A word that narrows an exact integer for each element. -/
theorem narrowed_elements {sat : Bool} {x : Nat → Nat → Int} (h : ElementwiseFlags i s g t d (fun l j => narrow t sat (x l j))) :
    ∃ (y : Nat → Nat → Int) (e : Nat → Nat → Nat) (f : Nat → Nat) (fl : Nat),
      (∀ l j, l < 64 → lane (lanesFor i g) l = true → j < elemCount t →
        Narrowed t sat (x l j) (y l j) (e l j) ∧ readInt t (elemAt t j (f l)) = y l j) ∧
      (fl = 0 ∨ fl = SATF) ∧
      (fl = SATF ↔ ∃ l j, l < 64 ∧ lane (lanesFor i g) l = true ∧ j < elemCount t ∧ e l j = SATF) ∧
      WritesVector i s g t d f fl := by
  obtain ⟨f, fl, hf, hfl, hw⟩ := h
  simp only [← and_assoc] at hfl
  obtain ⟨hsat, hiff⟩ := satFlag_of_bits (fun l j => narrow_flag t sat (x l j)) hfl
  simp only [and_assoc] at hiff
  refine ⟨fun l j => readInt t (narrow t sat (x l j)).1, fun l j => (narrow t sat (x l j)).2, f, fl, fun l j hl hm hj => ⟨narrow_narrowed _ _ _, ?_⟩, hsat, hiff, hw⟩
  rw [hf l j hl hm hj, readInt_mod]
end

/-- NEGP and NEGC of `vmad` are factors -1 (06 Table 2). -/
theorem madOf_eq (np nc : Bool) (t : Ty) (sat : Bool) (a b c : Nat) :
    madOf np nc t sat a b c = narrow t sat ((if np then -1 else 1) * (readInt t a * readInt t b) + (if nc then -1 else 1) * readInt t c) := by
  cases np <;> cases nc <;> simp [madOf]

/-- NEGP is the high bit of the modifier, NEGC the low one. -/
theorem neg_bits : ∀ np nc : Bool, ((if np then 2 else 0) + (if nc then 1 else 0) : BitVec 2).getLsbD 1 = np ∧
    ((if np then 2 else 0) + (if nc then 1 else 0) : BitVec 2).getLsbD 0 = nc := by decide

/-- Settles O9: each element is `narrow` of the exact integer, and only SAT can be set (`narrowed_elements`). -/
theorem vectorIntegerArithmeticIsPerElement : Obligations.VectorIntegerArithmeticIsPerElement := by
  unfold Obligations.VectorIntegerArithmeticIsPerElement
  simp only [List.forall_mem_cons, List.not_mem_nil, false_imp_iff, implies_true, and_true]
  refine ⟨⟨fun w s g h => ?_, fun w s g h => ?_, fun w s g h => ?_, fun w s g h => ?_, fun w s g h => ?_⟩, fun np nc w s g h => ?_⟩
  · exact narrowed_elements (elementwiseFlags_two (op := arith2 (· + ·) w.ty w.sat) h rfl)
  · exact narrowed_elements (elementwiseFlags_two (op := arith2 (· - ·) w.ty w.sat) h rfl)
  · exact narrowed_elements (elementwiseFlags_two (op := arith2 (· * ·) w.ty w.sat) h rfl)
  · exact narrowed_elements (elementwiseFlags_one (op := negOf w.ty w.sat) h rfl)
  · exact narrowed_elements (elementwiseFlags_one (op := absOf w.ty w.sat) h rfl)
  · have hw := elementwiseFlags_three (op := madOf np nc w.ty w.sat) h (by
      show execVmad _ w s = _
      rw [execVmad, (neg_bits np nc).1, (neg_bits np nc).2])
    simp only [madOf_eq] at hw
    exact narrowed_elements hw

/-! ### Predicates (06 R110, R111, R115, R116) -/

/-- A word that writes the active lanes of one predicate and raises flags. -/
theorem writesPred_flags {i : Instr} {s : State} {g : Group} {d : Opnd} {x : Nat → Bool} {fl : Nat} {f : State → Group → Mask → Group} (h : Issues i s g)
    (he : exec i s = groupWord i s f) (hf : f s g (lanesFor i g) = (g.writeP d (lanesFor i g) x).raise fl) : WritesPred i s g d x fl := by
  refine ⟨g.writeP d (lanesFor i g) x, ?_, g.writeP_written d _ x⟩
  rw [he, groupWord_ok _ _ _ _ h, hf]

/-- A word whose predicate result is a mask, given lane by lane. -/
theorem writesPred_mask {i : Instr} {s : State} {g : Group} {d : Opnd} {x : Mask} {y : Nat → Bool} {f : State → Group → Mask → Group} (h : Issues i s g)
    (he : exec i s = groupWord i s f) (hf : f s g (lanesFor i g) = g.writeP d (lanesFor i g) (lane x)) (hy : ∀ l, l < 64 → lane x l = y l) :
    WritesPred i s g d (fun l => y l && decide (l < 64)) 0 := by
  have hxy : lane x = fun l => y l && decide (l < 64) := by
    funext l
    by_cases hl : l < 64
    · simp [hy l hl, hl]
    · simp [lane, BitVec.getLsbD_of_ge x l (Nat.le_of_not_lt hl), hl]
  exact writesPred_of i s g d _ f h he (hf.trans (by rw [hxy]))

/-- The six conditions of 05 Table 6. -/
theorem cmpOf_spec (c : Nat) (t : Ty) (a b : Nat) :
    (c = 0 → (cmpOf c t a b = true ↔ readInt t a = readInt t b)) ∧ (c = 1 → (cmpOf c t a b = true ↔ readInt t a ≠ readInt t b)) ∧
    (c = 2 → (cmpOf c t a b = true ↔ readInt t a < readInt t b)) ∧ (c = 3 → (cmpOf c t a b = true ↔ readInt t a ≤ readInt t b)) ∧
    (c = 4 → (cmpOf c t a b = true ↔ readInt t b < readInt t a)) ∧ (c = 5 → (cmpOf c t a b = true ↔ readInt t b ≤ readInt t a)) := by
  refine ⟨?_, ?_, ?_, ?_, ?_, ?_⟩ <;> rintro rfl <;> simp [cmpOf]

/-- Settles O12: a comparison and a logic word write one predicate (`writesPred_of`, `writesPred_mask`), `vsel` one vector register. -/
theorem comparisonsPredicatesAndSelection : Obligations.ComparisonsPredicatesAndSelection := by
  unfold Obligations.ComparisonsPredicatesAndSelection
  simp only [List.forall_mem_cons, List.not_mem_nil, false_imp_iff, implies_true, and_true]
  refine ⟨fun c w s g h => ⟨_, fun l _ => cmpOf_spec c.toNat w.ty _ _, ?_⟩, ⟨fun w s g h => ?_, fun w s g h => ?_, fun w s g h => ?_, fun w s g h => ?_, fun w s g h => ?_⟩,
    fun w s g h => ?_⟩
  · exact writesPred_of _ s g w.d _ _ h (show _ = execVcmp c w s from rfl) rfl
  · exact writesPred_mask h (show _ = execPand w s from rfl) rfl fun l _ => BitVec.getLsbD_and
  · exact writesPred_mask h (show _ = execPor w s from rfl) rfl fun l _ => BitVec.getLsbD_or
  · exact writesPred_mask h (show _ = execPxor w s from rfl) rfl fun l _ => BitVec.getLsbD_xor
  · exact writesPred_mask h (show _ = execPandn w s from rfl) rfl fun l hl => by simp [lane, hl]
  · exact writesPred_mask h (show _ = execPnot w s from rfl) rfl fun l hl => by simp [lane, hl]
  · exact writesVector_of _ s g w.ty w.d _ _ h (show _ = execVsel w s from rfl) rfl

end Sys2Proof.Machine

/-! PROOFS, 06 R112 to R117, Tables 4 and 5. Floating-point words: element by element, with the flags of all elements. -/

namespace Sys2Proof.Machine
open Sys2Proof Sys2Proof.Claims

/-- A register of 32 bits keeps the low 32 bits of what is written to it. -/
theorem writesVector_mod {i : Instr} {s : State} {g : Group} {t : Ty} {d : Opnd} {f : Nat → Nat} {fl : Nat} (ht : t.wide = false)
    (h : WritesVector i s g t d f fl) : WritesVector i s g t d (fun l => f l % 2 ^ 32) fl := by
  obtain ⟨g', he, hg, hbad, hview, hv⟩ := h
  refine ⟨g', he, hg, hbad, hview, fun r l hl => ?_⟩
  have low : BitVec.ofNat 32 (f l % 2 ^ 32) = BitVec.ofNat 32 (f l) := BitVec.eq_of_toNat_eq (by simp)
  rw [hv r l hl, low]
  simp only [ht, Bool.false_eq_true, false_and, and_false, if_false]

/-- `vdot2` has one element in a lane. -/
theorem vdot2_elementwise {w : FU} {s : State} {g : Group} (h : Issues (.vdot2 w) s g) : ElementwiseFlags (.vdot2 w) s g .f32 w.d (fun l _ =>
    dot2Of w.ty w.rm (laneVal s g w.ty w.a l) (laneVal s g w.ty w.b l) (laneVal s g .f32 w.c l)) := by
  have he : exec (.vdot2 w) s = execVdot2 w s := rfl
  rw [execVdot2, groupWord_ok _ s g _ h] at he
  obtain ⟨f, fl, hf, hfl, hw⟩ := writesVector_active he
  have one : elemCount .f32 = 1 := rfl
  refine ⟨_, fl, fun l j hl hm _ => ?_, fun b => ?_, writesVector_mod rfl hw⟩
  · rw [hf l hl hm]
    rfl
  · simp [hfl, one]

/-- The flags of `vfcmp` are those of the comparisons of its active lanes (06 R115). -/
theorem vfcmp_writes {c : BitVec 3} {w : R3} {s : State} {g : Group} (h : Issues (.vfcmp c w) s g) :
    ∃ fl, (∀ b, bit fl b = true ↔ ∃ l, l < 64 ∧ lane (lanesFor (.vfcmp c w) g) l = true ∧
        bit (fcmpLane w.ty c.toNat (laneVal s g w.ty w.a l) (laneVal s g w.ty w.b l)).2 b = true) ∧
      WritesPred (.vfcmp c w) s g w.d (fun l => (fcmpLane w.ty c.toNat (laneVal s g w.ty w.a l) (laneVal s g w.ty w.b l)).1) fl := by
  refine ⟨_, fun b => ?_, writesPred_flags h (show _ = execVfcmp c w s from rfl) rfl⟩
  rw [bit_foldl_or, bit_zero, or_iff_right Bool.false_ne_true]
  simp only [mem_lanesOf]
  exact exists_congr fun l => ⟨fun ⟨hm, hb⟩ => ⟨lt_of_lane hm, hm, hb⟩, fun ⟨_, hm, hb⟩ => ⟨hm, hb⟩⟩

/-- Settles O13: the forms of 06 Tables 4 and 5 work element by element with the flags of all (`elementwiseFlags_of`); `vdot2`, `vfcmp` and `vfclass` take a lane at a time. -/
theorem vectorFloatComparisonAndClass : Obligations.VectorFloatComparisonAndClass := by
  unfold Obligations.VectorFloatComparisonAndClass
  simp only [List.forall_mem_cons, List.not_mem_nil, false_imp_iff, implies_true, and_true]
  refine ⟨⟨⟨?_, ?_, ?_, ?_, ?_, ?_, ?_, ?_, ?_, ?_, ?_, ?_⟩, ⟨?_, ?_, ?_, ?_, ?_⟩, fun _ _ _ h => vdot2_elementwise h⟩, fun _ _ _ _ h => vfcmp_writes h, fun w s g h => ?_⟩
  · exact fun w s g h => elementwiseFlags_two h (show _ = execVaddFloat w s from rfl)
  · exact fun w s g h => elementwiseFlags_two h (show _ = execVsubFloat w s from rfl)
  · exact fun w s g h => elementwiseFlags_two h (show _ = execVmulFloat w s from rfl)
  · exact fun w s g h => elementwiseFlags_two h (show _ = execVdiv w s from rfl)
  · exact fun w s g h => elementwiseFlags_two h (show _ = execVminFloat w s from rfl)
  · exact fun w s g h => elementwiseFlags_two h (show _ = execVmaxFloat w s from rfl)
  · exact fun w s g h => elementwiseFlags_two h (show _ = execVminn w s from rfl)
  · exact fun w s g h => elementwiseFlags_two h (show _ = execVmaxn w s from rfl)
  · exact fun w s g h => elementwiseFlags_one h (show _ = execVnegFloat w s from rfl)
  · exact fun w s g h => elementwiseFlags_one h (show _ = execVabsFloat w s from rfl)
  · exact fun w s g h => elementwiseFlags_two h (show _ = execVcopysign w s from rfl)
  · exact fun w s g h => elementwiseFlags_one h (show _ = execVfrnd w s from rfl)
  · exact fun w s g h => elementwiseFlags_three h (show _ = execVfma w s from rfl)
  · exact fun w s g h => elementwiseFlags_three h (show _ = execVfms w s from rfl)
  · exact fun w s g h => elementwiseFlags_three h (show _ = execVfnma w s from rfl)
  · exact fun w s g h => elementwiseFlags_three h (show _ = execVfnms w s from rfl)
  · exact fun w s g h => elementwiseFlags_three h (show _ = execVfclamp w s from rfl)
  · exact writesPred_of _ s g w.d _ _ h (show _ = execVfclass w s from rfl) rfl

end Sys2Proof.Machine

/-! PROOFS, 03 R39, R40. `Round` takes a magnitude to a neighbour among the multiples of the last place: `quantize_roundsTo` says which, `ulpExp_spec` of which place. -/

namespace Sys2Proof.Machine
open Sys2Proof Sys2Proof.Claims

/-! ### Neighbours among the multiples of a step (03 R39 Table 3) -/

/-- k u is a neighbour of x among the multiples of u, and the one the mode asks for, of a magnitude x with the sign n. -/
def RoundsTo (rm : RM) (n : Bool) (x u : ℚ) (k : Nat) : Prop :=
  |k * u - x| < u ∧ (rm = .rne → 2 * |k * u - x| ≤ u ∧ (2 * |k * u - x| = u → k % 2 = 0)) ∧
  (rm = .rna → 2 * |k * u - x| ≤ u ∧ (2 * |k * u - x| = u → x < k * u)) ∧ (rm = .rz → k * u ≤ x) ∧
  (rm = .rp → if n then k * u ≤ x else x ≤ k * u) ∧ (rm = .rmi → if n then x ≤ k * u else k * u ≤ x)

theorem roundsTo_exact (rm : RM) (n : Bool) {x u : ℚ} {k : Nat} (hu : 0 < u) (h : k * u = x) : RoundsTo rm n x u k := by
  subst h
  have hne : 0 ≠ u := hu.ne
  simp [RoundsTo, hu, hu.le, hne]

theorem RoundsTo.scale {rm : RM} {n : Bool} {x u v : ℚ} {k : Nat} (hv : 0 < v) (h : RoundsTo rm n x u k) : RoundsTo rm n (x * v) (u * v) k := by
  have hd : |k * (u * v) - x * v| = |k * u - x| * v := by rw [← mul_assoc, ← sub_mul, abs_mul, abs_of_pos hv]
  unfold RoundsTo at h ⊢
  rw [hd, ← mul_assoc, ← mul_assoc]
  simpa only [mul_lt_mul_iff_left₀ hv, mul_le_mul_iff_left₀ hv, mul_left_inj' hv.ne'] using h

/-- The multiple of 2^d that the mode takes for m. -/
def roundDiv (rm : RM) (n : Bool) (m d : Nat) : Nat := if roundsUp rm n (m / 2 ^ d) (m % 2 ^ d) d false then m / 2 ^ d + 1 else m / 2 ^ d

/-- Nothing discarded, nothing added. -/
theorem roundsUp_exact (rm : RM) (n : Bool) (k d : Nat) : roundsUp rm n k 0 d false = false := by
  have pos : 0 ≠ 2 ^ d := (Nat.two_pow_pos d).ne
  cases rm <;> simp [roundsUp, pos]

/-- When a discarded part is rounded up. -/
theorem of_roundsUp {rm : RM} {n : Bool} {k r d : Nat} (h : roundsUp rm n k r d false = true) :
    0 < r ∧ (rm = .rne → 2 ^ d ≤ 2 * r ∧ (2 * r = 2 ^ d → k % 2 = 1)) ∧ (rm = .rna → 2 ^ d ≤ 2 * r) ∧ rm ≠ .rz ∧ (rm = .rp → n = false) ∧ (rm = .rmi → n = true) := by
  have pos : 0 < 2 ^ d := Nat.two_pow_pos d
  cases rm <;> simp only [roundsUp] at h <;> grind

/-- When it is dropped. -/
theorem of_not_roundsUp {rm : RM} {n : Bool} {k r d : Nat} (h : roundsUp rm n k r d false = false) :
    (rm = .rne → 2 * r ≤ 2 ^ d ∧ (2 * r = 2 ^ d → k % 2 = 0)) ∧ (rm = .rna → 2 * r < 2 ^ d) ∧ (rm = .rp → n = true ∨ r = 0) ∧ (rm = .rmi → n = false ∨ r = 0) := by
  cases rm <;> simp only [roundsUp] at h <;> grind

theorem roundDiv_roundsTo (rm : RM) (n : Bool) (m d : Nat) : RoundsTo rm n m (2 ^ d) (roundDiv rm n m d) := by
  have hm : (m : ℚ) = (m / 2 ^ d : Nat) * 2 ^ d + (m % 2 ^ d : Nat) := by
    rw [mul_comm]
    exact_mod_cast (Nat.div_add_mod m (2 ^ d)).symm
  have hr : m % 2 ^ d < 2 ^ d := Nat.mod_lt _ (Nat.two_pow_pos d)
  unfold roundDiv
  generalize m / 2 ^ d = k at *
  generalize m % 2 ^ d = r at *
  have hrq : (r : ℚ) < 2 ^ d := by exact_mod_cast hr
  cases hup : roundsUp rm n k r d false with
  | true =>
    obtain ⟨hpos, hne, hna, hz, hp, hmi⟩ := of_roundsUp hup
    have hd : ((k + 1 : Nat) : ℚ) * 2 ^ d - m = 2 ^ d - r := by rw [hm]; push_cast; ring
    have hlt : (m : ℚ) < ((k + 1 : Nat) : ℚ) * 2 ^ d := by linarith
    have hposq : (0 : ℚ) < r := by exact_mod_cast hpos
    have half : 2 ^ d ≤ 2 * r → 2 * ((2 : ℚ) ^ d - r) ≤ 2 ^ d := fun h => by
      have : (2 : ℚ) ^ d ≤ 2 * r := by exact_mod_cast h
      linarith
    rw [if_pos rfl, RoundsTo, hd, abs_of_pos (sub_pos.mpr hrq)]
    refine ⟨by linarith, fun h => ⟨half (hne h).1, fun heq => ?_⟩, fun h => ⟨half (hna h), fun _ => hlt⟩, fun h => absurd h hz, fun h => ?_, fun h => ?_⟩
    · have htie : 2 * r = 2 ^ d := by
        have : 2 * (r : ℚ) = 2 ^ d := by linarith
        exact_mod_cast this
      have := (hne h).2 htie
      omega
    · rw [hp h]
      exact hlt.le
    · rw [hmi h]
      exact hlt.le
  | false =>
    obtain ⟨hne, hna, hp, hmi⟩ := of_not_roundsUp hup
    have hd : (k : ℚ) * 2 ^ d - m = -r := by rw [hm]; ring
    have hle : (k : ℚ) * 2 ^ d ≤ m := by rw [hm]; exact le_add_of_nonneg_right r.cast_nonneg
    have heq : r = 0 → (m : ℚ) ≤ k * 2 ^ d := fun h => by rw [hm, h, Nat.cast_zero, add_zero]
    rw [if_neg Bool.false_ne_true, RoundsTo, hd, abs_neg, Nat.abs_cast]
    refine ⟨hrq, fun h => ⟨?_, fun h2 => (hne h).2 ?_⟩, fun h => ⟨?_, fun h2 => absurd ?_ (hna h).ne⟩, fun _ => hle, fun h => ?_, fun h => ?_⟩
    · exact_mod_cast (hne h).1
    · exact_mod_cast h2
    · exact_mod_cast (hna h).le
    · exact_mod_cast h2
    · rcases hp h with rfl | h0
      · exact hle
      · cases n with
        | false => exact heq h0
        | true => exact hle
    · rcases hmi h with rfl | h0
      · exact hle
      · cases n with
        | false => exact hle
        | true => exact heq h0

/-- The step taken is m itself exactly when nothing is discarded. -/
theorem roundDiv_exact (rm : RM) (n : Bool) (m d : Nat) : roundDiv rm n m d * 2 ^ d = m ↔ m % 2 ^ d = 0 := by
  constructor
  · intro h
    rw [← h, Nat.mul_mod_left]
  · intro h
    rw [roundDiv, h, roundsUp_exact, if_neg Bool.false_ne_true, Nat.div_mul_cancel (Nat.dvd_of_mod_eq_zero h)]

/-! ### What `quantize` takes -/

theorem lt_two_pow_bitLen (m : Nat) : m < 2 ^ bitLen m := by
  unfold bitLen
  split
  · next h => rw [h]; decide
  · exact Nat.lt_log2_self

theorem bitLen_eq_succ {m : Nat} (hm : m ≠ 0) : ∃ b, bitLen m = b + 1 ∧ 2 ^ b ≤ m :=
  ⟨Nat.log2 m, if_neg hm, Nat.log2_self_le hm⟩

theorem quantize_of_le (rm : RM) (n : Bool) (m : Nat) {e q : Int} (h : q ≤ e) : quantize rm n m e q false = (m * 2 ^ (e - q).toNat, false) := by
  simp [quantize, h, roundsUp_exact]

/-- Where the whole magnitude is far below half a step, its sticky mark stands for it. -/
theorem roundsUp_sticky (rm : RM) (n : Bool) {m d : Nat} (hm : m ≠ 0) (h : 2 * m < 2 ^ d) : roundsUp rm n 0 0 1 true = roundsUp rm n 0 m d false := by
  cases rm <;> simp [roundsUp, hm] <;> omega

theorem quantize_of_lt (rm : RM) (n : Bool) {m : Nat} {e q : Int} (hm : m ≠ 0) (h : e < q) :
    quantize rm n m e q false = (roundDiv rm n m (q - e).toNat, m % 2 ^ (q - e).toNat != 0) := by
  rw [quantize, if_neg (not_le.mpr h)]
  by_cases hd : bitLen m + 1 < (q - e).toNat
  · have hlt : 2 * m < 2 ^ (q - e).toNat := by
      calc 2 * m < 2 * 2 ^ bitLen m := by have := lt_two_pow_bitLen m; omega
        _ = 2 ^ (bitLen m + 1) := by rw [Nat.pow_succ]; omega
        _ ≤ 2 ^ (q - e).toNat := Nat.pow_le_pow_right (by decide) hd.le
    have hlt' : m < 2 ^ (q - e).toNat := by omega
    have hm' : (m != 0) = true := bne_iff_ne.mpr hm
    simp [hd, roundDiv, Nat.div_eq_of_lt hlt', Nat.mod_eq_of_lt hlt', hm', ← roundsUp_sticky rm n hm hlt]
  · simp [hd, roundDiv]

theorem quantize_roundsTo (rm : RM) (n : Bool) {m : Nat} (hm : m ≠ 0) (e q : Int) :
    RoundsTo rm n (m * 2 ^ e) (2 ^ q) (quantize rm n m e q false).1 ∧
    ((quantize rm n m e q false).2 = true ↔ ((quantize rm n m e q false).1 : ℚ) * 2 ^ q ≠ m * 2 ^ e) := by
  have two : (2 : ℚ) ≠ 0 := two_ne_zero
  have hq : (0 : ℚ) < 2 ^ q := zpow_pos two_pos q
  rcases le_or_gt q e with h | h
  · have hx : ((m * 2 ^ (e - q).toNat : Nat) : ℚ) * 2 ^ q = m * 2 ^ e := by
      push_cast
      rw [mul_assoc, ← zpow_natCast, Int.toNat_of_nonneg (by omega), ← zpow_add₀ two, Int.sub_add_cancel]
    rw [quantize_of_le rm n m h]
    exact ⟨roundsTo_exact rm n hq hx, by simp only [hx]; simp⟩
  · have hu : (2 : ℚ) ^ q = 2 ^ (q - e).toNat * 2 ^ e := by
      rw [← zpow_natCast, Int.toNat_of_nonneg (by omega), ← zpow_add₀ two, Int.sub_add_cancel]
    have he : (0 : ℚ) < 2 ^ e := zpow_pos two_pos e
    rw [quantize_of_lt rm n hm h, hu]
    refine ⟨(roundDiv_roundsTo rm n m _).scale he, ?_⟩
    rw [← mul_assoc, Ne, mul_left_inj' he.ne', bne_iff_ne, Ne, ← roundDiv_exact rm n m]
    norm_cast

/-! ### The last place (03 R40) -/

/-- The exponent of the last place of a magnitude m 2^e in a format: that of its binade, and of the subnormals below them. -/
def ulpExp (f : Fmt) (m : Nat) (e : Int) : Int := max ((bitLen m : Int) - 1 + e - f.fb) (1 - (f.bias : Int) - f.fb)

theorem ulpExp_spec (f : Fmt) {m : Nat} (hm : m ≠ 0) (e : Int) :
    1 - (f.bias : Int) - f.fb ≤ ulpExp f m e ∧ (m : ℚ) * 2 ^ e < 2 ^ (f.fb + 1) * 2 ^ ulpExp f m e ∧
    (ulpExp f m e = 1 - (f.bias : Int) - f.fb ∨ (2 : ℚ) ^ f.fb * 2 ^ ulpExp f m e ≤ m * 2 ^ e) := by
  have two : (2 : ℚ) ≠ 0 := two_ne_zero
  have he : (0 : ℚ) < 2 ^ e := zpow_pos two_pos e
  obtain ⟨b, hb, hlow⟩ := bitLen_eq_succ hm
  have hhigh := lt_two_pow_bitLen m
  rw [hb] at hhigh
  have hlowq : (2 : ℚ) ^ b ≤ m := by exact_mod_cast hlow
  have hhighq : (m : ℚ) < 2 ^ (b + 1) := by exact_mod_cast hhigh
  refine ⟨le_max_right _ _, ?_, ?_⟩
  · calc (m : ℚ) * 2 ^ e < 2 ^ (b + 1) * 2 ^ e := mul_lt_mul_of_pos_right hhighq he
      _ = 2 ^ ((b : Int) + 1 + e) := by rw [← zpow_natCast, ← zpow_add₀ two]; push_cast; rfl
      _ ≤ 2 ^ ((f.fb : Int) + 1 + ulpExp f m e) := zpow_le_zpow_right₀ one_le_two (by rw [ulpExp, hb]; omega)
      _ = 2 ^ (f.fb + 1) * 2 ^ ulpExp f m e := by rw [← zpow_natCast, ← zpow_add₀ two]; push_cast; rfl
  · refine or_iff_not_imp_left.mpr fun hq => ?_
    have hq' : ulpExp f m e = b + e - f.fb := by rw [ulpExp, hb] at hq ⊢; omega
    calc (2 : ℚ) ^ f.fb * 2 ^ ulpExp f m e = 2 ^ b * 2 ^ e := by
          rw [hq', ← zpow_natCast, ← zpow_natCast, ← zpow_add₀ two, ← zpow_add₀ two]
          congr 1
          omega
      _ ≤ m * 2 ^ e := mul_le_mul_of_nonneg_right hlowq he.le

/-- The step taken is at most one binade up, and not below the binade unless the last place is that of the subnormals. -/
theorem RoundsTo.step_range {rm : RM} {n : Bool} {x u : ℚ} {k fb : Nat} (hu : 0 < u) (h : RoundsTo rm n x u k) :
    (x < 2 ^ (fb + 1) * u → k ≤ 2 ^ (fb + 1)) ∧ (2 ^ fb * u ≤ x → 2 ^ fb ≤ k) := by
  obtain ⟨hlo, hhi⟩ := abs_lt.mp h.1
  constructor
  · intro hx
    have : (k : ℚ) < (2 ^ (fb + 1) + 1 : Nat) := by
      refine lt_of_mul_lt_mul_right ?_ hu.le
      push_cast
      linarith
    exact Nat.lt_succ_iff.mp (by exact_mod_cast this)
  · intro hx
    have : ((2 ^ fb : Nat) : ℚ) < (k + 1 : Nat) := by
      refine lt_of_mul_lt_mul_right ?_ hu.le
      push_cast
      linarith
    exact Nat.lt_succ_iff.mp (by exact_mod_cast this)

end Sys2Proof.Machine

/-! PROOFS, 03 R35, R36, R40 to R42. The codes of a format: the bits of a code read back as its value, values are in the order of codes, and `Round` delivers the code of the
neighbour it takes. -/

namespace Sys2Proof.Machine
open Sys2Proof Sys2Proof.Claims

/-! ### Formats (03 Table 1) -/

/-- A format with a sign, an exponent and a fraction; the one of 8 bits is .f8e4. -/
structure Fmt.Valid (f : Fmt) : Prop where
  width : f.w = f.fb + f.eb + 1
  exp : 2 ≤ f.eb
  eight : f.f8 = true → f = f8e4

theorem valid_of_mem : ∀ f ∈ [f8e4, f16, bf16, f32, f64], f.Valid := by
  simp only [List.forall_mem_cons, List.not_mem_nil, false_imp_iff, implies_true, and_true]
  exact ⟨⟨rfl, by decide, by decide⟩, ⟨rfl, by decide, by decide⟩, ⟨rfl, by decide, by decide⟩, ⟨rfl, by decide, by decide⟩, ⟨rfl, by decide, by decide⟩⟩

/-- The exponent and the fraction of the greatest finite value (03 R36). -/
def Fmt.topExp (f : Fmt) : Nat := if f.f8 then 15 else 2 ^ f.eb - 2
def Fmt.topFrac (f : Fmt) : Nat := if f.f8 then 6 else 2 ^ f.fb - 1

/-- The bits of the code with sign n, exponent field E and fraction field F (03 R35). -/
def Fmt.packBits (f : Fmt) (n : Bool) (E F : Nat) : Nat := f.zeroBits n + E * 2 ^ f.fb + F

/-- The magnitude of the normal code E, F. -/
def Fmt.mag (f : Fmt) (E F : Nat) : ℚ := ((2 ^ f.fb + F : Nat) : ℚ) * 2 ^ ((E : Int) - f.bias - f.fb)

section
variable {f : Fmt}

theorem Fmt.Valid.four_le (hf : f.Valid) : 4 ≤ 2 ^ f.eb := show 2 ^ 2 ≤ 2 ^ f.eb from Nat.pow_le_pow_right (by decide) hf.exp

theorem Fmt.topFrac_lt (hf : f.Valid) : f.topFrac < 2 ^ f.fb := by
  have := Nat.two_pow_pos f.fb
  unfold Fmt.topFrac
  split
  · next h => rw [hf.eight h]; decide
  · omega

theorem Fmt.topExp_range (hf : f.Valid) : 1 ≤ f.topExp ∧ f.topExp < 2 ^ f.eb := by
  have := hf.four_le
  unfold Fmt.topExp
  split
  · next h => rw [hf.eight h]; decide
  · omega

/-- The fields of a code. -/
theorem packBits_fields (hf : f.Valid) (n : Bool) {E F : Nat} (hE : E < 2 ^ f.eb) (hF : F < 2 ^ f.fb) :
    bit (f.packBits n E F) (f.w - 1) = n ∧ fld (f.packBits n E F) f.fb f.eb = E ∧ fld (f.packBits n E F) 0 f.fb = F ∧ f.packBits n E F < 2 ^ f.w := by
  have hw : f.w - 1 = f.fb + f.eb := by rw [hf.width]; rfl
  have hx : f.packBits n E F = 2 ^ f.fb * (2 ^ f.eb * b2n n + E) + F := by
    rw [Fmt.packBits, Fmt.zeroBits, hw, Nat.pow_add]
    ring
  have hdiv : f.packBits n E F / 2 ^ f.fb = 2 ^ f.eb * b2n n + E := by
    rw [hx, Nat.mul_add_div (Nat.two_pow_pos _), Nat.div_eq_of_lt hF, Nat.add_zero]
  refine ⟨?_, ?_, ?_, ?_⟩
  · rw [bit, hw, Nat.pow_add, ← Nat.div_div_eq_div_mul, hdiv, Nat.mul_add_div (Nat.two_pow_pos _), Nat.div_eq_of_lt hE]
    cases n <;> rfl
  · rw [fld, hdiv, Nat.mul_add_mod, Nat.mod_eq_of_lt hE]
  · rw [fld_zero, hx, Nat.mul_add_mod, Nat.mod_eq_of_lt hF]
  · have hb : b2n n ≤ 1 := by cases n <;> decide
    have h1 : 2 ^ f.eb * b2n n + E < 2 ^ (f.eb + 1) := by rw [Nat.pow_succ]; nlinarith
    calc f.packBits n E F < 2 ^ f.fb * (2 ^ f.eb * b2n n + E + 1) := by rw [hx]; nlinarith
      _ ≤ 2 ^ f.fb * 2 ^ (f.eb + 1) := Nat.mul_le_mul_left _ h1
      _ = 2 ^ f.w := by rw [← Nat.pow_add, hf.width]; rfl

/-- Every element is a code. -/
theorem exists_packBits (hf : f.Valid) {x : Nat} (hx : x < 2 ^ f.w) : ∃ n E F, E < 2 ^ f.eb ∧ F < 2 ^ f.fb ∧ x = f.packBits n E F := by
  refine ⟨bit x (f.w - 1), fld x f.fb f.eb, fld x 0 f.fb, Nat.mod_lt _ (Nat.two_pow_pos _), Nat.mod_lt _ (Nat.two_pow_pos _), ?_⟩
  have hw : f.w - 1 = f.fb + f.eb := by rw [hf.width]; rfl
  have hsign : b2n (bit x (f.w - 1)) = x / 2 ^ f.fb / 2 ^ f.eb := by
    have hlt : x / 2 ^ f.fb / 2 ^ f.eb < 2 := by
      rw [Nat.div_div_eq_div_mul, ← Nat.pow_add]
      refine Nat.div_lt_of_lt_mul ?_
      rwa [hf.width, Nat.pow_succ] at hx
    rw [bit, hw, Nat.pow_add, ← Nat.div_div_eq_div_mul]
    generalize x / 2 ^ f.fb / 2 ^ f.eb = y at hlt
    interval_cases y <;> rfl
  rw [Fmt.packBits, Fmt.zeroBits, hsign, hw, fld_zero, fld, Nat.pow_add]
  calc x = 2 ^ f.fb * (x / 2 ^ f.fb) + x % 2 ^ f.fb := (Nat.div_add_mod _ _).symm
    _ = 2 ^ f.fb * (2 ^ f.eb * (x / 2 ^ f.fb / 2 ^ f.eb) + x / 2 ^ f.fb % 2 ^ f.eb) + x % 2 ^ f.fb := by rw [Nat.div_add_mod (x / 2 ^ f.fb)]
    _ = _ := by ring

/-- What a code of the exponent field 0 reads as. -/
theorem fromBits_subnormal (hf : f.Valid) (n : Bool) {F : Nat} (hF : F < 2 ^ f.fb) : fromBits f (f.packBits n 0 F) = .fin n F (1 - (f.bias : Int) - f.fb) := by
  obtain ⟨hs, he, hfr, -⟩ := packBits_fields hf n (Nat.two_pow_pos f.eb) hF
  have := hf.four_le
  have h0 : 0 ≠ 2 ^ f.eb - 1 := by omega
  simp [fromBits, hs, he, hfr, h0]

/-- What a code of a normal number reads as. -/
theorem fromBits_normal (hf : f.Valid) (n : Bool) {E F : Nat} (hF : F < 2 ^ f.fb) (hE : E ≠ 0) (htop : ¬ (f.topExp < E ∨ E = f.topExp ∧ f.topFrac < F)) :
    fromBits f (f.packBits n E F) = .fin n (2 ^ f.fb + F) ((E : Int) - f.bias - f.fb) := by
  have hlt : E < 2 ^ f.eb := by
    have := (Fmt.topExp_range hf).2
    omega
  obtain ⟨hs, he, hfr, -⟩ := packBits_fields hf n hlt hF
  cases h8 : f.f8 with
  | true =>
    have : ¬ (E = 15 ∧ F = 7) := by
      simp only [Fmt.topExp, Fmt.topFrac, h8, if_true] at htop
      omega
    simp [fromBits, hs, he, hfr, h8, hE, this]
  | false =>
    have : E ≠ 2 ^ f.eb - 1 := by
      simp only [Fmt.topExp, h8, Bool.false_eq_true, if_false] at htop
      omega
    simp [fromBits, hs, he, hfr, h8, hE, this]

/-! ### The order of codes is that of their values -/

theorem mag_lt_of_exp (f : Fmt) {E1 F1 E2 F2 : Nat} (h1 : F1 < 2 ^ f.fb) (h : E1 < E2) : f.mag E1 F1 < f.mag E2 F2 := by
  have two : (2 : ℚ) ≠ 0 := two_ne_zero
  calc f.mag E1 F1 < ((2 * 2 ^ f.fb : Nat) : ℚ) * 2 ^ ((E1 : Int) - f.bias - f.fb) :=
        mul_lt_mul_of_pos_right (by exact_mod_cast (by omega : 2 ^ f.fb + F1 < 2 * 2 ^ f.fb)) (zpow_pos two_pos _)
    _ = ((2 ^ f.fb : Nat) : ℚ) * 2 ^ ((E1 : Int) - f.bias - f.fb + 1) := by rw [zpow_add_one₀ two]; push_cast; ring
    _ ≤ f.mag E2 F2 := mul_le_mul (by exact_mod_cast Nat.le_add_right _ _) (zpow_le_zpow_right₀ one_le_two (by omega)) (zpow_pos two_pos _).le (Nat.cast_nonneg _)

theorem mag_lt_of_frac (f : Fmt) {E F1 F2 : Nat} (h : F1 < F2) : f.mag E F1 < f.mag E F2 :=
  mul_lt_mul_of_pos_right (by exact_mod_cast Nat.add_lt_add_left h _) (zpow_pos two_pos _)

theorem mag_lt_iff (f : Fmt) {E1 F1 E2 F2 : Nat} (h1 : F1 < 2 ^ f.fb) (h2 : F2 < 2 ^ f.fb) : f.mag E1 F1 < f.mag E2 F2 ↔ E1 < E2 ∨ E2 = E1 ∧ F1 < F2 := by
  constructor
  · intro h
    by_contra hn
    rcases Nat.lt_trichotomy E1 E2 with hE | rfl | hE
    · exact hn (Or.inl hE)
    · rcases Nat.lt_trichotomy F1 F2 with hF | rfl | hF
      · exact hn (Or.inr ⟨rfl, hF⟩)
      · exact lt_irrefl _ h
      · exact lt_asymm h (mag_lt_of_frac f hF)
    · exact lt_asymm h (mag_lt_of_exp f h2 hE)
  · rintro (h | ⟨rfl, h⟩)
    · exact mag_lt_of_exp f h1 h
    · exact mag_lt_of_frac f h

/-- The least normal number. -/
theorem mag_one_zero (f : Fmt) : f.mag 1 0 = 2 ^ (1 - (f.bias : Int)) := by
  rw [Fmt.mag, Nat.add_zero, Nat.cast_pow, Nat.cast_ofNat, ← zpow_natCast, ← zpow_add₀ two_ne_zero]
  congr 1
  push_cast
  omega

/-- The greatest finite value (03 R36, Table 1). -/
theorem mag_top (hf : f.Valid) : f.mag f.topExp f.topFrac = if f.w = 8 then 448 else (2 ^ (f.fb + 1) - 1) * 2 ^ ((f.bias : Int) - f.fb) := by
  cases h8 : f.f8 with
  | true =>
    rw [hf.eight h8]
    norm_num [Fmt.mag, Fmt.topExp, Fmt.topFrac, f8e4, Fmt.f8, Fmt.bias]
  | false =>
    have hw : f.w ≠ 8 := by simpa [Fmt.f8] using h8
    have he : ((2 ^ f.eb - 2 : Nat) : Int) - f.bias = f.bias := by
      have hpow := Nat.two_pow_pred_add_two_pow_pred (Nat.lt_of_lt_of_le Nat.two_pos hf.exp)
      have := Nat.two_pow_pos (f.eb - 1)
      rw [Fmt.bias, ← hpow]
      omega
    have hfr : ((2 ^ f.fb + (2 ^ f.fb - 1) : Nat) : ℚ) = 2 ^ (f.fb + 1) - 1 := by
      have := Nat.two_pow_pos f.fb
      rw [← Nat.add_sub_assoc this, Nat.cast_sub (by omega)]
      push_cast
      ring
    rw [if_neg hw, Fmt.mag, Fmt.topExp, Fmt.topFrac, h8, if_neg Bool.false_ne_true, if_neg Bool.false_ne_true, he, hfr]

/-! ### The code that `Round` delivers (03 R40 to R42) -/

/-- The rest of `roundFin` once the magnitude is k steps of 2^q, inexact when ix holds. -/
def deliverBits (f : Fmt) (rm : RM) (n : Bool) (k : Nat) (q : Int) (ix : Bool) : Nat × Nat :=
  let (k, q) := if k = 2 ^ (f.fb + 1) then (2 ^ f.fb, q + 1) else (k, q)
  let fl := if ix then NX else 0
  if k = 0 then (f.zeroBits n, fl)
  else if k < 2 ^ f.fb then (f.zeroBits n + k, if ix then NX + UF else 0)
  else
    let ef : Int := q + f.fb + f.bias
    let lim : Int := if f.f8 then 15 else 2 ^ f.eb - 2
    let fr := k - 2 ^ f.fb
    if lim < ef ∨ (f.f8 = true ∧ ef = 15 ∧ fr = 7) then (f.overflow rm n, NX + OF)
    else (f.zeroBits n + ef.toNat * 2 ^ f.fb + fr, fl)

theorem roundFin_eq (f : Fmt) (rm : RM) (n : Bool) {m : Nat} (hm : m ≠ 0) (e : Int) :
    roundFin f rm n m e false =
      deliverBits f rm n (quantize rm n m e (ulpExp f m e) false).1 (ulpExp f m e) (quantize rm n m e (ulpExp f m e) false).2 := by
  rw [roundFin, if_neg (fun h => hm h.1)]
  rfl

theorem deliverBits_subnormal (f : Fmt) (rm : RM) (n : Bool) {k : Nat} (hk : k < 2 ^ f.fb) (q : Int) (ix : Bool) :
    deliverBits f rm n k q ix = (f.packBits n 0 k, (if ix then NX else 0) + if ix = true ∧ k ≠ 0 then UF else 0) := by
  have hne : k ≠ 2 ^ (f.fb + 1) := by
    have := Nat.pow_succ 2 f.fb
    omega
  by_cases h0 : k = 0
  · cases ix <;> simp [deliverBits, h0, Fmt.packBits, (Nat.two_pow_pos _).ne]
  · cases ix <;> simp [deliverBits, hne, h0, hk, Fmt.packBits]

theorem deliverBits_normal (hf : f.Valid) (rm : RM) (n : Bool) {E F : Nat} (hF : F < 2 ^ f.fb) (ix : Bool) :
    deliverBits f rm n (2 ^ f.fb + F) ((E : Int) - f.bias - f.fb) ix =
      if f.topExp < E ∨ E = f.topExp ∧ f.topFrac < F then (f.overflow rm n, NX + OF) else (f.packBits n E F, if ix then NX else 0) := by
  have hne : 2 ^ f.fb + F ≠ 2 ^ (f.fb + 1) := by
    have := Nat.pow_succ 2 f.fb
    omega
  have hpos := Nat.two_pow_pos f.fb
  have hef : (E : Int) - f.bias - f.fb + f.fb + f.bias = E := by omega
  have hover : ((if f.f8 then 15 else 2 ^ f.eb - 2 : Int) < E ∨ (f.f8 = true ∧ (E : Int) = 15 ∧ F = 7)) ↔ (f.topExp < E ∨ E = f.topExp ∧ f.topFrac < F) := by
    cases h8 : f.f8 with
    | true =>
      have h3 : F < 8 := by rw [hf.eight h8] at hF; exact hF
      simp [Fmt.topExp, Fmt.topFrac, h8]
      omega
    | false =>
      have := hf.four_le
      have hcast : (2 : Int) ^ f.eb = ((2 ^ f.eb : Nat) : Int) := by push_cast; rfl
      simp only [Fmt.topExp, Fmt.topFrac, h8, Bool.false_eq_true, if_false, false_and, or_false, hcast]
      generalize 2 ^ f.eb = p at *
      omega
  have h0 : 2 ^ f.fb + F ≠ 0 := by omega
  simp only [deliverBits, if_neg hne, if_neg h0, if_neg (Nat.not_lt.mpr (Nat.le_add_right _ F)), hef, Nat.add_sub_cancel_left, hover, Int.toNat_natCast, Fmt.packBits]

theorem deliverBits_carry (f : Fmt) (rm : RM) (n : Bool) (q : Int) (ix : Bool) :
    deliverBits f rm n (2 ^ (f.fb + 1)) q ix = deliverBits f rm n (2 ^ f.fb) (q + 1) ix := by
  have hne : 2 ^ f.fb ≠ 2 ^ (f.fb + 1) := by
    have := Nat.two_pow_pos f.fb
    have := Nat.pow_succ 2 f.fb
    omega
  simp only [deliverBits, if_true, if_neg hne]

/-- k steps of a last place 2^q are a subnormal magnitude, or that of a normal code. -/
theorem deliverBits_cases (f : Fmt) (rm : RM) (n : Bool) (ix : Bool) {k : Nat} {q : Int} (hq : 1 - (f.bias : Int) - f.fb ≤ q) (hk : k ≤ 2 ^ (f.fb + 1))
    (hlow : q = 1 - (f.bias : Int) - f.fb ∨ 2 ^ f.fb ≤ k) : (k < 2 ^ f.fb ∧ q = 1 - (f.bias : Int) - f.fb) ∨
      ∃ E F : Nat, E ≠ 0 ∧ F < 2 ^ f.fb ∧ (k : ℚ) * 2 ^ q = f.mag E F ∧ deliverBits f rm n k q ix = deliverBits f rm n (2 ^ f.fb + F) ((E : Int) - f.bias - f.fb) ix := by
  have hpos := Nat.two_pow_pos f.fb
  have hsucc := Nat.pow_succ 2 f.fb
  rcases Nat.lt_or_ge k (2 ^ f.fb) with hlt | hge
  · exact Or.inl ⟨hlt, hlow.resolve_right (Nat.not_le.mpr hlt)⟩
  · refine Or.inr ?_
    obtain ⟨E, hE⟩ := Int.eq_ofNat_of_zero_le (show 0 ≤ q + f.bias + f.fb by omega)
    have hqE : q = (E : Int) - f.bias - f.fb := by omega
    rcases hk.lt_or_eq with hlt | heq
    · obtain ⟨F, rfl⟩ := Nat.exists_eq_add_of_le hge
      exact ⟨E, F, by omega, by omega, by rw [Fmt.mag, hqE], by rw [hqE]⟩
    · refine ⟨E + 1, 0, by omega, hpos, ?_, ?_⟩
      · rw [heq, hqE, Fmt.mag, Nat.add_zero, Nat.pow_succ, Nat.cast_mul, mul_assoc, Nat.cast_ofNat, ← zpow_one_add₀ two_ne_zero]
        congr 2
        push_cast
        omega
      · rw [heq, deliverBits_carry, hqE]
        congr 1
        push_cast
        omega

theorem mag_normal_ge (f : Fmt) {E F : Nat} (hE : E ≠ 0) (hF : F < 2 ^ f.fb) : f.mag 1 0 ≤ f.mag E F := by
  refine not_lt.mp fun h => ?_
  rcases (mag_lt_iff f hF (Nat.two_pow_pos _)).mp h with h | ⟨-, h⟩ <;> omega

/-- What is delivered of k steps of a last place 2^q: what an overflow delivers, or a code of that magnitude, with the flags of 03 R42. -/
theorem deliverBits_spec (hf : f.Valid) (rm : RM) (n ix : Bool) {k : Nat} {q : Int} (hq : 1 - (f.bias : Int) - f.fb ≤ q) (hk : k ≤ 2 ^ (f.fb + 1))
    (hlow : q = 1 - (f.bias : Int) - f.fb ∨ 2 ^ f.fb ≤ k) :
    let r := deliverBits f rm n k q ix
    let c : ℚ := k * 2 ^ q
    (f.mag f.topExp f.topFrac < c → r = (f.overflow rm n, NX + OF)) ∧
    (c ≤ f.mag f.topExp f.topFrac → r.1 < 2 ^ f.w ∧ (∃ (m1 : Nat) (e1 : Int), fromBits f r.1 = .fin n m1 e1 ∧ (m1 : ℚ) * 2 ^ e1 = c) ∧
      r.2 = (if ix then NX else 0) + if ix = true ∧ k ≠ 0 ∧ c < 2 ^ (1 - (f.bias : Int)) then UF else 0) := by
  intro r c
  rw [← mag_one_zero]
  rcases deliverBits_cases f rm n ix hq hk hlow with ⟨hlt, rfl⟩ | ⟨E, F, hE, hF, hc, hr⟩
  · have hc : c < f.mag 1 0 := by
      rw [Fmt.mag, Nat.add_zero, Nat.cast_one]
      exact mul_lt_mul_of_pos_right (by exact_mod_cast hlt) (zpow_pos two_pos _)
    have hr : r = (f.packBits n 0 k, (if ix then NX else 0) + if ix = true ∧ k ≠ 0 then UF else 0) := deliverBits_subnormal f rm n hlt _ ix
    have htop := mag_normal_ge f (Nat.pos_iff_ne_zero.mp (Fmt.topExp_range hf).1) (Fmt.topFrac_lt hf)
    refine ⟨fun h => absurd h (not_lt.mpr (hc.le.trans htop)), fun _ => ?_⟩
    rw [hr]
    refine ⟨(packBits_fields hf n (Nat.two_pow_pos _) hlt).2.2.2, ⟨k, _, fromBits_subnormal hf n hlt, rfl⟩, ?_⟩
    simp only [hc, and_true]
  · have hover := mag_lt_iff f (Fmt.topFrac_lt hf) hF (E1 := f.topExp) (E2 := E)
    have hr' : r = _ := hr.trans (deliverBits_normal hf rm n hF ix)
    simp only [← hover] at hr'
    have hcE : c = f.mag E F := hc
    rw [hcE, hr']
    refine ⟨fun h => if_pos h, fun h => ?_⟩
    have hnot := mt hover.mpr (not_lt.mpr h)
    rw [if_neg (not_lt.mpr h)]
    have hEtop := (Fmt.topExp_range hf).2
    refine ⟨(packBits_fields hf n (by omega) hF).2.2.2, ⟨_, _, fromBits_normal hf n hF hE hnot, rfl⟩, ?_⟩
    simp only [not_lt.mpr (mag_normal_ge f hE hF), and_false, if_false, Nat.add_zero]

/-- `Round` of a nonzero magnitude (03 R40 to R42): the neighbour it takes, and what it delivers. -/
theorem roundFin_spec (hf : f.Valid) (rm : RM) (n : Bool) {m : Nat} (hm : m ≠ 0) (e : Int) :
    let x : ℚ := m * 2 ^ e
    let r := roundFin f rm n m e false
    ∃ (k : Nat) (q : Int),
      let c : ℚ := k * 2 ^ q
      1 - (f.bias : Int) - f.fb ≤ q ∧ x < 2 ^ (f.fb + 1) * 2 ^ q ∧ (q = 1 - (f.bias : Int) - f.fb ∨ 2 ^ f.fb * 2 ^ q ≤ x) ∧ RoundsTo rm n x (2 ^ q) k ∧
      (f.mag f.topExp f.topFrac < c → r = (f.overflow rm n, NX + OF)) ∧
      (c ≤ f.mag f.topExp f.topFrac → r.1 < 2 ^ f.w ∧ (∃ (m1 : Nat) (e1 : Int), fromBits f r.1 = .fin n m1 e1 ∧ (m1 : ℚ) * 2 ^ e1 = c) ∧
        r.2 = (if c = x then 0 else NX) + if c ≠ x ∧ k ≠ 0 ∧ c < 2 ^ (1 - (f.bias : Int)) then UF else 0) := by
  intro x r
  obtain ⟨hq, hx, hlow⟩ := ulpExp_spec f hm e
  obtain ⟨hround, hix⟩ := quantize_roundsTo rm n hm e (ulpExp f m e)
  have hr : r = _ := roundFin_eq f rm n hm e
  generalize quantize rm n m e (ulpExp f m e) false = kx at hround hix hr
  obtain ⟨k, ix⟩ := kx
  generalize ulpExp f m e = q at hq hx hlow hround hix hr
  obtain ⟨hhigh, hle⟩ := hround.step_range (fb := f.fb) (zpow_pos two_pos q)
  obtain ⟨hbig, hsmall⟩ := deliverBits_spec hf rm n ix hq (hhigh hx) (hlow.imp_right hle)
  refine ⟨k, q, hq, hx, hlow, hround, fun h => hr.trans (hbig h), fun h => ?_⟩
  obtain ⟨hw, hval, hfl⟩ := hsmall h
  refine ⟨hr ▸ hw, hr ▸ hval, ?_⟩
  rw [hr, hfl]
  cases ix with
  | true => simp [hix.mp rfl, x]
  | false => simp [not_not.mp (mt hix.mpr Bool.false_ne_true), x]

/-! ### An element rounded to its own format (03 R40) -/

/-- Where the last place of a magnitude is its own exponent, it is delivered as it is. -/
theorem roundFin_own (rm : RM) (n : Bool) {m : Nat} (hm : m ≠ 0) {e : Int} (hu : ulpExp f m e = e) : roundFin f rm n m e false = deliverBits f rm n m e false := by
  rw [roundFin_eq f rm n hm, hu, quantize_of_le rm n m le_rfl, sub_self, Int.toNat_zero, Nat.pow_zero, Nat.mul_one]

theorem ulpExp_subnormal (f : Fmt) {F : Nat} (h0 : F ≠ 0) (hF : F < 2 ^ f.fb) : ulpExp f F (1 - (f.bias : Int) - f.fb) = 1 - (f.bias : Int) - f.fb := by
  obtain ⟨b, hb, hle⟩ := bitLen_eq_succ h0
  have hlt : b < f.fb := (Nat.pow_lt_pow_iff_right Nat.one_lt_two).mp (hle.trans_lt hF)
  rw [ulpExp, hb]
  omega

theorem ulpExp_normal (f : Fmt) {E F : Nat} (hE : E ≠ 0) (hF : F < 2 ^ f.fb) :
    ulpExp f (2 ^ f.fb + F) ((E : Int) - f.bias - f.fb) = (E : Int) - f.bias - f.fb := by
  have hpos := Nat.two_pow_pos f.fb
  have hsucc := Nat.pow_succ 2 f.fb
  have h0 : 2 ^ f.fb + F ≠ 0 := by omega
  obtain ⟨b, hb, hle⟩ := bitLen_eq_succ h0
  have hgt := lt_two_pow_bitLen (2 ^ f.fb + F)
  rw [hb] at hgt
  have h1 : b < f.fb + 1 := (Nat.pow_lt_pow_iff_right Nat.one_lt_two).mp (show 2 ^ b < 2 ^ (f.fb + 1) by omega)
  have h2 : f.fb < b + 1 := (Nat.pow_lt_pow_iff_right Nat.one_lt_two).mp (show 2 ^ f.fb < 2 ^ (b + 1) by omega)
  rw [ulpExp, hb]
  omega

/-- The codes above the greatest finite value are the infinity of a format that has one, and NaNs. -/
theorem fromBits_above (hf : f.Valid) (n : Bool) {E F : Nat} (hE : E < 2 ^ f.eb) (hF : F < 2 ^ f.fb) (htop : f.topExp < E ∨ E = f.topExp ∧ f.topFrac < F) :
    (fromBits f (f.packBits n E F)).isNan = true ∨ fromBits f (f.packBits n E F) = .inf n ∧ f.f8 = false ∧ f.packBits n E F = f.infBits n := by
  obtain ⟨hs, he, hfr, -⟩ := packBits_fields hf n hE hF
  cases h8 : f.f8 with
  | true =>
    rw [hf.eight h8] at hE hF
    have hE' : E < 16 := hE
    have hF' : F < 8 := hF
    simp only [Fmt.topExp, Fmt.topFrac, h8, if_true] at htop
    have hnan : E = 15 ∧ F = 7 := by omega
    exact Or.inl (by simp [fromBits, he.trans hnan.1, hfr.trans hnan.2, h8, FVal.isNan])
  | false =>
    have := hf.four_le
    simp only [Fmt.topExp, Fmt.topFrac, h8, Bool.false_eq_true, if_false] at htop
    have hE' : E = 2 ^ f.eb - 1 := by omega
    by_cases h0 : F = 0
    · refine Or.inr ⟨by simp [fromBits, hs, he.trans hE', hfr.trans h0, h8], rfl, ?_⟩
      rw [Fmt.packBits, Fmt.infBits, Fmt.zeroBits, hE', h0, Nat.add_zero]
    · exact Or.inl (by simp [fromBits, he.trans hE', hfr, h8, h0, FVal.isNan])

/-- 03 R40: `Round` gives back every element of its own format that is no NaN. -/
theorem roundVal_fromBits (hf : f.Valid) (rm : RM) {x : Nat} (hx : x < 2 ^ f.w) (hnan : (fromBits f x).isNan = false) : roundVal f rm (fromBits f x) = (x, 0) := by
  obtain ⟨n, E, F, hE, hF, rfl⟩ := exists_packBits hf hx
  by_cases hE0 : E = 0
  · rw [hE0, fromBits_subnormal hf n hF, roundVal]
    by_cases hF0 : F = 0
    · simp [roundFin, hF0, Fmt.packBits]
    · rw [roundFin_own rm n hF0 (ulpExp_subnormal f hF0 hF), deliverBits_subnormal f rm n hF]
      simp
  · by_cases htop : f.topExp < E ∨ E = f.topExp ∧ f.topFrac < F
    · rcases fromBits_above hf n hE hF htop with h | ⟨hinf, h8, hbits⟩
      · rw [h] at hnan
        exact absurd hnan.symm Bool.false_ne_true
      · rw [hinf, roundVal, h8, if_neg Bool.false_ne_true, hbits]
    · have h0 : 2 ^ f.fb + F ≠ 0 := by
        have := Nat.two_pow_pos f.fb
        omega
      rw [fromBits_normal hf n hF hE0 htop, roundVal, roundFin_own rm n h0 (ulpExp_normal f hE0 hF), deliverBits_normal hf rm n hF, if_neg htop]
      rfl
end

end Sys2Proof.Machine

/-! PROOFS, 06 R118, R119, Table 8, 03 R47. Conversion words: the RESIDUE check of every active lane comes before anything is written. -/

namespace Sys2Proof.Machine
open Sys2Proof Sys2Proof.Claims

/-! ### The check of an .rn24 source (03 R47) -/

theorem rn24Fail_none {s : State} {g : Group} {a : Opnd} {m : Mask} (h : ∀ l, l < 64 → lane m l = true → (rn24Decode (laneVal s g .rn24 a l)).2 = true) :
    rn24Fail s g a m = none := by
  have hfind : (lanesOf m).find? (fun l => !(rn24Decode (laneVal s g .rn24 a l)).2) = none :=
    List.find?_eq_none.mpr fun l hl => by simp [h l (lt_of_lane (mem_lanesOf.mp hl)) (mem_lanesOf.mp hl)]
  simp only [rn24Fail, hfind]

/-- The detail word names the unit and the row, which is the lane (03 R50 Table 6). -/
theorem residueDetail_fields (tile col expect found : Nat) {l : Nat} (hl : l < 64) :
    fld (residueDetail 3 tile 0 l col expect found).toNat 60 4 = 3 ∧ fld (residueDetail 3 tile 0 l col expect found).toNat 29 7 = l := by
  simp only [residueDetail, BitVec.toNat_ofNat, fld]
  omega

/-- The lowest active lane whose check fails is reported. -/
theorem rn24Fail_first {s : State} {g : Group} {a : Opnd} {m : Mask} {l : Nat} (hl : lane m l = true) (hf : (rn24Decode (laneVal s g .rn24 a l)).2 = false)
    (hlow : ∀ k, k < l → lane m k = true → (rn24Decode (laneVal s g .rn24 a k)).2 = true) :
    ∃ d, rn24Fail s g a m = some d ∧ fld d.toNat 60 4 = 3 ∧ fld d.toNat 29 7 = l := by
  have hfind : (lanesOf m).find? (fun l => !(rn24Decode (laneVal s g .rn24 a l)).2) = some l :=
    find?_lanesOf hl (by rw [hf]; rfl) fun k hk hm => by rw [hlow k hk hm]; rfl
  refine ⟨residueDetail 3 s.tile 0 l 0 ((rn24Decode (laneVal s g .rn24 a l)).1 % 251).toNat (fld (laneVal s g .rn24 a l) 24 8 % 251), ?_,
    residueDetail_fields _ _ _ _ (lt_of_lane hl)⟩
  simp only [rn24Fail, hfind]

/-! ### Conversion words (06 R118, R119) -/

section
variable {i : Instr} {w : CV} {s : State} {g : Group}

/-- A conversion whose check holds in every active lane, or that has none, writes its lanes. -/
theorem convWord_ok {f : State → Group → Mask → Group} (h : Issues i s g)
    (hc : w.ty = .rn24 → ∀ l, l < 64 → lane (lanesFor i g) l = true → (rn24Decode (laneVal s g .rn24 w.a l)).2 = true) :
    convWord i w s f = .next (timed i s g (s.put (f s g (lanesFor i g)))) := by
  have hnone : (if w.ty == .rn24 then rn24Fail s g w.a (lanesFor i g) else none) = none := by
    split
    · next ht => exact rn24Fail_none (hc (beq_iff_eq.mp ht))
    · rfl
  refine runWord_ok i s _ g _ _ h ?_
  simp only [hnone]

/-- A failed check raises RESIDUE in the state before the word. -/
theorem convWord_residue {f : State → Group → Mask → Group} {d : W64} (h : Issues i s g) (ht : w.ty = .rn24) (hd : rn24Fail s g w.a (lanesFor i g) = some d) :
    convWord i w s f = .next (takeTrap (timed i s g s) g tResidue d (lanesFor i g)) := by
  have hw : convWord i w s f = .next (takeTrap (timed i s g s) ((s.group?).getD g) tResidue d (lanesFor i g)) :=
    runWord_trap i s s g nothing _ tResidue d h (by simp [ht, hd])
  rwa [h.cur] at hw

/-- Every conversion, by what it computes of a lane. -/
theorem conversion_word {x : State → Group → Nat → Nat × Nat} (h : Issues i s g)
    (he : exec i s = convWord i w s (fun s g m => g.vecWrite w.dty w.d m (x s g))) :
    ((w.ty = .rn24 → ∀ l, l < 64 → lane (lanesFor i g) l = true → (rn24Decode (laneVal s g .rn24 w.a l)).2 = true) →
      ∃ f fl, (∀ l, l < 64 → lane (lanesFor i g) l = true → f l = (x s g l).1) ∧
        (∀ b, bit fl b = true ↔ ∃ l, l < 64 ∧ lane (lanesFor i g) l = true ∧ bit (x s g l).2 b = true) ∧ WritesVector i s g w.dty w.d f fl) ∧
    (∀ l, w.ty = .rn24 → l < 64 → lane (lanesFor i g) l = true → (rn24Decode (laneVal s g .rn24 w.a l)).2 = false →
      (∀ k, k < l → lane (lanesFor i g) k = true → (rn24Decode (laneVal s g .rn24 w.a k)).2 = true) →
      ∃ d, exec i s = .next (takeTrap (timed i s g s) g tResidue d (lanesFor i g)) ∧ fld d.toNat 60 4 = 3 ∧ fld d.toNat 29 7 = l) := by
  refine ⟨fun hc => writesVector_active (he.trans (convWord_ok h hc)), fun l ht _ hl hf hlow => ?_⟩
  obtain ⟨d, hd, hfields⟩ := rn24Fail_first hl hf hlow
  exact ⟨d, he.trans (convWord_residue h ht hd), hfields⟩
end

/-! ### Infinities, NaNs and overflows (03 R37, R40, R41) -/

theorem f8_eq (f : Fmt) : f.f8 = decide (f.w = 8) := Bool.beq_eq_decide_eq _ _

theorem zeroBits_eq (f : Fmt) (n : Bool) : f.zeroBits n = if n then 2 ^ (f.w - 1) else 0 := by
  cases n <;> simp [Fmt.zeroBits, b2n]

theorem maxBits_eq (f : Fmt) (n : Bool) : f.maxBits n = (if n then 2 ^ (f.w - 1) else 0) + if f.w = 8 then 0x7E else (2 ^ f.eb - 1) * 2 ^ f.fb - 1 := by
  rw [← zeroBits_eq, Fmt.maxBits, f8_eq, Fmt.zeroBits]
  simp only [decide_eq_true_eq]

theorem infBits_eq (f : Fmt) (n : Bool) : f.infBits n = (if n then 2 ^ (f.w - 1) else 0) + (2 ^ f.eb - 1) * 2 ^ f.fb := by
  rw [← zeroBits_eq, Fmt.infBits, Fmt.zeroBits]

theorem fmtOf_valid (t : Ty) : (fmtOf t).Valid := valid_of_mem _ (by cases t <;> decide)

theorem fmtOf_width : ∀ t ∈ [Ty.f8e4, .f16, .bf16, .f32, .f64], (fmtOf t).w = t.bits := by decide

/-- Settles O14: a conversion writes its lanes unless a check fails (`conversion_word`); `Round` takes a neighbour and delivers its code (`roundFin_spec`), and an element of its
own format is delivered as it is (`roundVal_fromBits`). -/
theorem conversionsRoundingAndTheResidueCheck : Obligations.ConversionsRoundingAndTheResidueCheck := by
  unfold Obligations.ConversionsRoundingAndTheResidueCheck
  refine ⟨?_, ?_, ?_, ?_⟩
  · simp only [List.forall_mem_cons, List.not_mem_nil, false_imp_iff, implies_true, and_true]
    refine ⟨fun w s g h => ?_, fun w s g h => ?_, fun w s g h => ?_⟩
    · exact conversion_word h (show _ = execVcvt w s from rfl)
    · exact conversion_word h (show _ = execVcvtn w s from rfl)
    · exact conversion_word h (show _ = execVcvtw w s from rfl)
  · intro f hf rm _ n m e hm x qmin big sign most inf r
    have hv := valid_of_mem f hf
    obtain ⟨k, q, hq, hx, hlow, ⟨hd, hne, hna, hz, hp, hmi⟩, hbig, hsmall⟩ := roundFin_spec hv rm n hm e
    rw [mag_top hv] at hbig hsmall
    refine ⟨k, q, hq, hx, hlow, hd, hne, hna, hz, hp, hmi, fun h => (hbig h).trans (congrArg₂ Prod.mk ?_ (Nat.add_comm NX OF)), hsmall⟩
    have hmost : f.maxBits n = most := maxBits_eq f n
    have hinf : f.infBits n = inf := infBits_eq f n
    rw [← hmost, ← hinf]
    by_cases hw : f.w = 8
    · rw [if_pos hw]
      exact if_pos ((f8_eq f).trans (decide_eq_true hw))
    · rw [if_neg hw]
      exact (if_neg (by rw [f8_eq, decide_eq_false hw]; exact Bool.false_ne_true)).trans (by cases rm <;> rfl)
  · intro f hf rm
    have hv := valid_of_mem f hf
    by_cases hw : f.w = 8
    · rw [hv.eight (by rw [f8_eq, decide_eq_true hw])]
      exact ⟨fun n => by cases n <;> rfl, fun _ => rfl⟩
    · have h8 : f.f8 = false := by rw [f8_eq, decide_eq_false hw]
      simp [roundVal, h8, hw, infBits_eq, Fmt.qnan]
  · intro t ht rm x hx hnan
    exact roundVal_fromBits (fmtOf_valid t) rm (by rwa [fmtOf_width t ht]) hnan

end Sys2Proof.Machine

/-! PROOFS, 07 R123 to R128. Cross-lane words: the source lanes of a shuffle, the one value of a reduction, the prefixes of a scan with the flags of its steps, and the two
registers of a top-k word. -/

namespace Sys2Proof.Machine
open Sys2Proof Sys2Proof.Claims

/-! ### Lane by lane, as the active lanes have it (06 R107, R108) -/

theorem Group.raise_raise (g : Group) (a b : Nat) : (g.raise a).raise b = g.raise (a ||| b) := by
  have join : BitVec.ofNat 64 (a ||| b) &&& flagBits = (BitVec.ofNat 64 a &&& flagBits) ||| (BitVec.ofNat 64 b &&& flagBits) :=
    BitVec.eq_of_getLsbD_eq fun k _ => by simp only [BitVec.ofNat_or, BitVec.getLsbD_and, BitVec.getLsbD_or, Bool.and_or_distrib_right]
  simp only [Group.raise, join, BitVec.or_assoc]

/-- The flags of a per-lane effect are those of its active lanes. -/
theorem orFlags_active (m : Mask) (x : Nat → Nat × Nat) :
    orFlags (lanes.map (fun l => if lane m l then x l else (0, 0))) = orFlags ((lanesOf m).map x) := by
  have step (a l : Nat) : a ||| (if lane m l then x l else (0, 0)).2 = if lane m l then a ||| (x l).2 else a := by
    split
    · rfl
    · exact Nat.or_zero a
  simp only [orFlags, lanesOf, List.foldl_map, List.foldl_filter, step]
  rfl

/-- A per-lane effect writes the values of the active lanes and raises their flags. -/
theorem Group.vecWrite_eq (g : Group) (t : Ty) (d : Opnd) (m : Mask) (x : Nat → Nat × Nat) :
    g.vecWrite t d m x = (g.writeV t d m (fun l => (x l).1)).raise (orFlags ((lanesOf m).map x)) := by
  refine congrArg₂ Group.raise (g.writeV_congr t d fun l hl => ?_) (orFlags_active m x)
  simp [lanes, List.getD_eq_getElem?_getD, List.getElem?_range (lt_of_lane hl), hl]

theorem bit_orFlags_lanes (m : Mask) (x : Nat → Nat × Nat) (b : Nat) :
    bit (orFlags ((lanesOf m).map x)) b = true ↔ ∃ l, l < 64 ∧ lane m l = true ∧ bit (x l).2 b = true := by
  simp only [bit_orFlags, List.mem_map, exists_exists_and_eq_and, mem_lanesOf]
  exact exists_congr fun l => ⟨fun ⟨hm, hb⟩ => ⟨lt_of_lane hm, hm, hb⟩, fun ⟨_, hm, hb⟩ => ⟨hm, hb⟩⟩

theorem bit_orFlags_range (n : Nat) (x : Nat → Nat × Nat) (b : Nat) :
    bit (orFlags ((List.range n).map x)) b = true ↔ ∃ j, j < n ∧ bit (x j).2 b = true := by
  simp only [bit_orFlags, List.mem_map, exists_exists_and_eq_and, List.mem_range]

/-- A word that writes the active lanes of one vector register or pair and raises flags. -/
theorem writesVector_flags {i : Instr} {s : State} {g : Group} {t : Ty} {d : Opnd} {x : Nat → Nat} {fl : Nat} {f : State → Group → Mask → Group}
    (h : Issues i s g) (he : exec i s = groupWord i s f) (hf : f s g (lanesFor i g) = (g.writeV t d (lanesFor i g) x).raise fl) :
    WritesVector i s g t d x fl := by
  refine ⟨g.writeV t d (lanesFor i g) x, ?_, g.writeV_written t d _ x⟩
  rw [he, groupWord_ok _ _ _ _ h, hf]

/-! ### Shuffles (07 R124) -/

/-- The four modes of 07 R124. -/
theorem shflSrc_spec (mode sh b l : Nat) : let sg := 64 / 2 ^ sh; let i := l % sg
    (mode = 0 → shflSrc mode sh b l = l - i + b % sg) ∧
    (mode = 1 → shflSrc mode sh b l = if b ≤ i then l - b else l) ∧
    (mode = 2 → shflSrc mode sh b l = if i + b < sg then l + b else l) ∧
    (mode = 3 → shflSrc mode sh b l = l - i + (i ^^^ b) % sg) := by
  refine ⟨?_, ?_, ?_, ?_⟩ <;> rintro rfl <;> rfl

/-! ### Reductions (07 R125) -/

section
variable (op : BitVec 3) (w : R3) (s : State) (g : Group)

/-- The reduction of element position j over the active lanes. -/
def redPart (j : Nat) : Nat × Nat := reduceAt op.toNat w.ty w.rm w.sat (lanesFor (.vredlog op w) g) (fun l => elemAt w.ty j (laneVal s g w.ty w.a l))

/-- The lane word of a reduction, with its flags. -/
def redLane : Nat × Nat :=
  (joinElems w.ty ((List.range (elemCount w.ty)).map (fun j => (redPart op w s g j).1)), orFlags ((List.range (elemCount w.ty)).map (redPart op w s g)))

theorem joinElems_redPart : joinElems w.ty (((List.range (elemCount w.ty)).map (redPart op w s g)).map Prod.fst) = (redLane op w s g).1 := by
  rw [List.map_map]
  rfl
end

section
variable {op : BitVec 3} {w : R3} {s : State} {g : Group}

/-- `vredlog` to a vector register: every active lane takes the one lane word. -/
theorem vredlog_vector (h : Issues (.vredlog op w) s g) (hk : w.d.kind = 0) :
    WritesVector (.vredlog op w) s g w.ty w.d (fun _ => (redLane op w s g).1) (redLane op w s g).2 := by
  refine writesVector_flags h (show _ = execVredlog op w s from rfl) ?_
  rw [← joinElems_redPart]
  cases hd : w.d with
  | v r => rfl
  | s n | p n | imm n => rw [hd] at hk; cases hk

/-- `vredlog` to a scalar register: the lane word, extended where it is one element. -/
theorem vredlog_scalar (h : Issues (.vredlog op w) s g) (hk : w.d.kind = 1) :
    WritesScalar (.vredlog op w) s g w.d (if w.ty.bits < 32 then (redLane op w s g).1 else extS w.ty (redLane op w s g).1) (redLane op w s g).2 := by
  refine writesScalar_flags _ s g w.d _ _ _ h (show _ = execVredlog op w s from rfl) ?_
  rw [← joinElems_redPart]
  cases hd : w.d with
  | s n => rfl
  | v n | p n | imm n => rw [hd] at hk; cases hk
end

/-! ### Scans (07 R126) -/

section
variable (s : State) (g : Group) (m : Mask) (op : Nat) (w : R3)

/-- What a scan gives element position j of lane l (07 R126). -/
def scanPart (incl : Bool) (l j : Nat) : Nat × Nat := scanAt op w.ty w.rm w.sat incl m (fun k => elemAt w.ty j (laneVal s g w.ty w.a k)) l

/-- What lane l takes: the prefixes of its elements, with their flags. -/
def scanLane (incl : Bool) (l : Nat) : Nat × Nat :=
  let rs := (List.range (elemCount w.ty)).map (scanPart s g m op w incl l)
  (joinElems w.ty (rs.map Prod.fst), orFlags rs)

/-- The flags of the steps of a scan up to the last lane; an exact integer sum has no steps. -/
def scanSteps : Nat := if op = 0 ∧ w.ty.float = false then 0 else orFlags ((List.range (elemCount w.ty)).map (scanPart s g m op w true 63))

theorem scanWord_eq (incl : Bool) : scanWord s g m op incl w =
    (g.writeV w.ty w.d m (fun l => (scanLane s g m op w incl l).1)).raise (orFlags ((lanesOf m).map (scanLane s g m op w incl)) ||| scanSteps s g m op w) := by
  have lanewise : scanWord s g m op incl w = if op = 0 ∧ w.ty.float = false then g.vecWrite w.ty w.d m (scanLane s g m op w incl)
      else (g.vecWrite w.ty w.d m (scanLane s g m op w incl)).raise (orFlags ((List.range (elemCount w.ty)).map (scanPart s g m op w true 63))) := rfl
  rw [lanewise, ← Group.raise_raise, ← Group.vecWrite_eq, scanSteps]
  split
  · rw [Group.raise_zero]
  · rfl

theorem bit_scanSteps (b : Nat) : bit (scanSteps s g m op w) b = true ↔
    ¬ (op = 0 ∧ w.ty.float = false) ∧ ∃ j, j < elemCount w.ty ∧ bit (scanPart s g m op w true 63 j).2 b = true := by
  rw [scanSteps]
  split
  · next h => simp [h, bit_zero]
  · next h => rw [bit_orFlags_range, and_iff_right h]
end

/-- A scan delivers the prefixes of the active lanes, with the flags of its steps. -/
theorem scan_writes {i : Instr} {op : Nat} {incl : Bool} {w : R3} {s : State} {g : Group} (h : Issues i s g)
    (he : exec i s = groupWord i s (fun s g m => scanWord s g m op incl w)) :
    ∃ f fl, (∀ l j, l < 64 → lane (lanesFor i g) l = true → j < elemCount w.ty →
        elemAt w.ty j (f l) = (scanPart s g (lanesFor i g) op w incl l j).1 % 2 ^ w.ty.bits) ∧
      (∀ b, bit fl b = true ↔
        (∃ l j, l < 64 ∧ lane (lanesFor i g) l = true ∧ j < elemCount w.ty ∧ bit (scanPart s g (lanesFor i g) op w incl l j).2 b = true) ∨
        (¬ (op = 0 ∧ w.ty.float = false) ∧ ∃ j, j < elemCount w.ty ∧ bit (scanPart s g (lanesFor i g) op w true 63 j).2 b = true)) ∧
      WritesVector i s g w.ty w.d f fl := by
  refine ⟨_, _, fun l j _ _ hj => ?_, fun b => ?_, writesVector_flags h he (scanWord_eq s g _ op w incl)⟩
  · rw [scanLane, List.map_map]
    exact elemAt_joinElems _ hj
  · simp only [bit_or, Bool.or_eq_true, bit_orFlags_lanes, bit_scanSteps, scanLane, bit_orFlags_range, exists_and_left]

/-- Settles O15: a shuffle reads the lane that `shflSrc_spec` names, a reduction delivers one word (`vredlog_vector`, `vredlog_scalar`), and a scan its prefixes
(`scan_writes`). -/
theorem shufflesReductionsAndScans : Obligations.ShufflesReductionsAndScans := by
  unfold Obligations.ShufflesReductionsAndScans
  simp only [List.forall_mem_cons, List.not_mem_nil, false_imp_iff, implies_true, and_true]
  refine ⟨fun mode sh w s g h => ?_, fun op w s g h => ?_, fun op w s g h => ?_, fun op w s g h => ?_⟩
  · exact ⟨_, fun l => shflSrc mode.toNat sh.toNat (laneVal s g .n32 w.b l) l, fun l _ => ⟨rfl, shflSrc_spec _ _ _ l⟩,
      writesVector_of _ s g w.ty w.d _ _ h (show _ = execVshfl mode sh w s from rfl) rfl⟩
  · exact ⟨vredlog_vector h, vredlog_scalar h⟩
  · exact scan_writes h (show _ = execVscan op w s from rfl)
  · exact scan_writes h (show _ = execVscanx op w s from rfl)

/-! ### Top-k (07 R127, R128) -/

theorem Group.setLanes_written (g : Group) (r : BitVec 10) (m : Mask) (f : Nat → Nat) : VectorWritten g (g.setLanes r.toNat m f) .n32 (.v r) m f :=
  g.writeV_written .n32 (.v r) m f

/-- The register behind a register that is not the last. -/
theorem toNat_next {r : BitVec 10} (h : r.toNat < 255) : (r + 1).toNat = r.toNat + 1 := by
  have one : (1 : BitVec 10).toNat = 1 := rfl
  rw [BitVec.toNat_add, one]
  omega

/-- A top-k word writes the values or weights to vD and the lanes to vD + 1. -/
theorem topk_writes {i : Instr} {k : Nat} {norm : Bool} {w : R3} {s : State} {g : Group} {r : BitVec 10} (hd : w.d = .v r) (h : Issues i s g)
    (he : exec i s = groupWord i s (fun s g m => topkWord s g m k norm w)) :
    let m := lanesFor i g
    let cm := m &&& predVal g w.b
    let ws := winners w.ty cm (laneVal s g w.ty w.a) k
    let out := if norm then normWeights w.rm (ws.map Prod.fst) else (ws.map Prod.fst, 0)
    ∃ g1 g2, VectorWritten g g1 .n32 (.v r) m (fun l => out.1.getD (l % 8) 0) ∧
      (r.toNat < 255 → VectorWritten g1 g2 .n32 (.v (r + 1)) m (fun l => (ws.map Prod.snd).getD (l % 8) 0xFFFFFFFF)) ∧
      exec i s = .next (timed i s g (s.put (g2.raise (topkFlags w.ty cm (laneVal s g w.ty w.a) ||| out.2)))) := by
  refine ⟨_, _, g.setLanes_written r _ _, fun hr => toNat_next hr ▸ Group.setLanes_written _ (r + 1) _ _, ?_⟩
  rw [he, groupWord_ok _ _ _ _ h, topkWord, hd]

/-- Settles O16: both words write the two registers (`topk_writes`). -/
theorem topKDeliversValuesAndLanes : Obligations.TopKDeliversValuesAndLanes := by
  unfold Obligations.TopKDeliversValuesAndLanes
  simp only [List.forall_mem_cons, List.not_mem_nil, false_imp_iff, implies_true, and_true]
  refine ⟨fun k w s g r hd h => ?_, fun k w s g r hd h => ?_⟩
  · exact topk_writes (norm := false) hd h (show _ = execVtopk k w s from rfl)
  · exact topk_writes (norm := true) hd h (show _ = execVtopkNorm k w s from rfl)

end Sys2Proof.Machine

/-! PROOFS, 07 R129 to R131. The special functions take whole lanes, under types of one element; `rseed` finds a value that no word has had. -/

namespace Sys2Proof.Machine
open Sys2Proof Sys2Proof.Claims

/-! ### Types of one element (03 R33) -/

theorem elemCount_one {t : Ty} (ht : 32 ≤ t.bits) : elemCount t = 1 := if_neg (Nat.not_lt.mpr ht)

theorem bits_of_wide : ∀ {t : Ty}, t.wide = true → t.bits = 64 := by
  intro t
  cases t <;> decide

/-- A register or a pair keeps the bits of its one element. -/
theorem writesVector_mod_bits {i : Instr} {s : State} {g : Group} {t : Ty} {d : Opnd} {f : Nat → Nat} {fl : Nat} (ht : 32 ≤ t.bits)
    (h : WritesVector i s g t d f fl) : WritesVector i s g t d (fun l => f l % 2 ^ t.bits) fl := by
  obtain ⟨g', he, hg, hbad, hview, hv⟩ := h
  refine ⟨g', he, hg, hbad, hview, fun r l hl => ?_⟩
  have low : BitVec.ofNat 32 (f l % 2 ^ t.bits) = BitVec.ofNat 32 (f l) :=
    BitVec.eq_of_toNat_eq (by rw [BitVec.toNat_ofNat, BitVec.toNat_ofNat, Nat.mod_mod_of_dvd _ (Nat.pow_dvd_pow 2 ht)])
  have high (hw : t.wide = true) : BitVec.ofNat 32 (f l % 2 ^ t.bits / 2 ^ 32) = BitVec.ofNat 32 (f l / 2 ^ 32) := by
    rw [bits_of_wide hw]
    exact BitVec.eq_of_toNat_eq (by rw [BitVec.toNat_ofNat, BitVec.toNat_ofNat]; omega)
  rw [hv r l hl, low]
  by_cases hw : t.wide = true
  · rw [high hw]
  · simp only [hw, Bool.false_eq_true, false_and, and_false, if_false]

/-- A word that computes lane by lane under a type of one element. -/
theorem elementwiseFlags_whole {i : Instr} {s : State} {g : Group} {t : Ty} {d : Opnd} {x : Nat → Nat × Nat} {f : State → Group → Mask → Group} (ht : 32 ≤ t.bits)
    (h : Issues i s g) (he : exec i s = groupWord i s f) (hf : f s g (lanesFor i g) = g.vecWrite t d (lanesFor i g) x) :
    ElementwiseFlags i s g t d (fun l _ => x l) := by
  refine ⟨_, _, fun l j _ _ _ => ?_, fun b => ?_, writesVector_mod_bits ht (writesVector_flags h he (hf.trans (g.vecWrite_eq t d _ x)))⟩
  · exact if_neg (Nat.not_lt.mpr ht)
  · simp [bit_orFlags_lanes, elemCount_one ht]

/-! ### Special functions (07 R129, Tables 3 and 4) -/

/-- The special functions of one source take .f32, or .f64, and no other type. -/
theorem Issues.special_type {i : Instr} {w : IM} {sub : Nat} {s : State} {g : Group} (h : Issues i s g) (hf : fieldsOf i = some (w.fields 0x49 0 sub)) :
    32 ≤ w.ty.bits := by
  obtain ⟨fm, hfm, ht⟩ := h.takes hf
  cases hfm
  have hty : inSet (if (w.fields 0x49 0 sub).sub = 3 then 0x1000 else 0x3000) w.ty.toNat = true := ht.ty
  have types : ∀ t : Ty, inSet 0x1000 t.toNat = true ∨ inSet 0x3000 t.toNat = true → 32 ≤ t.bits := by
    intro t
    cases t <;> decide
  refine types w.ty ?_
  split at hty
  · exact Or.inl hty
  · exact Or.inr hty

/-! ### Entropy (07 R131) -/

/-- The n values from x up. -/
def valuesFrom (x : W64) (n : Nat) : List W64 := (List.range n).map (fun i => x + BitVec.ofNat 64 i)

theorem freshSeed_eq (seen : List W64) (x : W64) : freshSeed seen x = ((valuesFrom x (seen.length + 1)).find? (fun y => !seen.contains y)).getD x := rfl

theorem valuesFrom_nodup (x : W64) {n : Nat} (h : n ≤ 2 ^ 64) : (valuesFrom x n).Nodup := by
  refine List.Nodup.map_on (fun i hi j hj e => ?_) List.nodup_range
  have he := congrArg BitVec.toNat (add_left_cancel e)
  rw [List.mem_range] at hi hj
  rwa [BitVec.toNat_ofNat, BitVec.toNat_ofNat, Nat.mod_eq_of_lt (hi.trans_le h), Nat.mod_eq_of_lt (hj.trans_le h)] at he

/-- One value more than have been drawn: they cannot all have been drawn. -/
theorem valuesFrom_not_subset (seen : List W64) (x : W64) (h : seen.length < 2 ^ 64) : ¬ valuesFrom x (seen.length + 1) ⊆ seen := by
  intro all
  have count := (List.subperm_of_subset (valuesFrom_nodup x h) all).length_le
  rw [valuesFrom, List.length_map, List.length_range] at count
  exact Nat.not_succ_le_self _ count

/-- While fewer than 2^64 values have been drawn, the next is a new one. -/
theorem freshSeed_not_mem {seen : List W64} (x : W64) (h : seen.length < 2 ^ 64) : freshSeed seen x ∉ seen := by
  rw [freshSeed_eq]
  cases hfind : (valuesFrom x (seen.length + 1)).find? (fun y => !seen.contains y) with
  | some y => simpa using List.find?_some hfind
  | none => exact absurd (fun y hy => by simpa using List.find?_eq_none.mp hfind y hy) (valuesFrom_not_subset seen x h)

/-- Outside a replay `rseed` draws a fresh value, records it and writes it. -/
theorem exec_rseed {w : IM} {s : State} {g : Group} (h : Issues (.rseed w) s g) (hr : s.ll.replay = none) :
    let x := freshSeed s.seeds (Config.freeWord s.freeCtr)
    exec (.rseed w) s = .next (timed (.rseed w) s g
      { (logEvent s (whoOf s g (lanesFor (.rseed w) g)) 9 0 x.toNat).put (g.writeS w.d x.toNat) with freeCtr := s.freeCtr + 1, seeds := s.seeds ++ [x] }) := by
  have unlogged : logged? s (whoOf s g (lanesFor (.rseed w) g)) 9 = none := by rw [logged?, hr]
  refine (show exec (.rseed w) s = execRseed w s from rfl).trans (runWord_ok _ s _ g _ _ h ?_)
  rw [unlogged]

/-- Settles O17: the special functions work on whole lanes (`elementwiseFlags_whole`), `vrand` writes its hash, and `rseed` a fresh value (`freshSeed_not_mem`). -/
theorem specialFunctionsTheGeneratorAndEntropy : Obligations.SpecialFunctionsTheGeneratorAndEntropy := by
  unfold Obligations.SpecialFunctionsTheGeneratorAndEntropy
  simp only [List.forall_mem_cons, List.not_mem_nil, false_imp_iff, implies_true, and_true]
  refine ⟨⟨⟨?_, ?_, ?_, ?_⟩, ⟨?_, ?_⟩, fun w s g h => ?_⟩, fun w s g h hr => ?_⟩
  · exact fun w s g h => elementwiseFlags_whole (h.special_type rfl) h (show _ = execVrcp w s from rfl) rfl
  · exact fun w s g h => elementwiseFlags_whole (h.special_type rfl) h (show _ = execVrsqrt w s from rfl) rfl
  · exact fun w s g h => elementwiseFlags_whole (h.special_type rfl) h (show _ = execVsqrt w s from rfl) rfl
  · exact fun w s g h => elementwiseFlags_whole (h.special_type rfl) h (show _ = execVexpo w s from rfl) rfl
  · exact fun w s g h => elementwiseFlags_whole (t := .f32) le_rfl h (show _ = execVexp2i w s from rfl) rfl
  · exact fun w s g h => elementwiseFlags_whole (t := .f32) le_rfl h (show _ = execVscalb w s from rfl) rfl
  · exact ⟨_, fun l _ => rfl, writesVector_of _ s g w.ty w.d _ _ h (show _ = execVrand w s from rfl) rfl⟩
  · exact ⟨_, _, _, exec_rseed h hr, g.writeS_written w.d _, rfl, freshSeed_not_mem _⟩

end Sys2Proof.Machine

/-! PROOFS, 08 R147. What a word does with an empty mask: nothing but to raise its arrival counter (a far load or an atomic) and to mark its context as one that uses
the fabric. -/

namespace Sys2Proof.Machine
open Sys2Proof Sys2Proof.Claims

/-! ### An empty mask (08 R147) -/

/-- What a word does with an empty mask. -/
def emptyEffect (i : Instr) : State → Group → State :=
  match i with
  | .ldf w | .atomAdd w | .atomMin w | .atomMax w | .atomAnd w | .atomOr w | .atomXor w | .atomExch w | .atomCas w => countEmpty w
  | .stf w | .vatomAdd w | .redAdd w | .redMin w | .redMax w => globEmpty w
  | .rput _ | .rget _ | .gath _ | .publishShadow _ | .pcarm _ | .pcrd _ | .pcadd _ | .genst _ | .genrd _ | .fabst _ => fun s g => markFabric s g.env.ctx
  | _ => nothing

/-- The outcome is the word's, whose effect with an empty mask is e (`runWord`). -/
def RunsWith (i : Instr) (s : State) (e : State → Group → State) (o : Host.Outcome State Fault Refusal) : Prop := ∃ b, o = runWord i s e b

theorem runWord_runsWith (i : Instr) (s : State) (e : State → Group → State) (b : State → Group → Mask → Res) : RunsWith i s e (runWord i s e b) := ⟨b, rfl⟩
theorem groupWord_runsWith (i : Instr) (s : State) (f : State → Group → Mask → Group) : RunsWith i s nothing (groupWord i s f) := ⟨_, rfl⟩
theorem ctrlWord_runsWith (i : Instr) (s : State) (f : State → Group → Mask → Group × Mask × Nat) : RunsWith i s nothing (ctrlWord i s f) := ⟨_, rfl⟩
theorem convWord_runsWith (i : Instr) (w : CV) (s : State) (f : State → Group → Mask → Group) : RunsWith i s nothing (convWord i w s f) := ⟨_, rfl⟩
theorem fabricWord_runsWith (i : Instr) (s : State) (b : State → Group → Mask → Res) :
    RunsWith i s (fun s g => markFabric s g.env.ctx) (fabricWord i s b) := ⟨_, rfl⟩

/-- Every word executes through `runWord` with the effect above. -/
theorem exec_runsWith {i : Instr} (hi : i.isWord = true) (s : State) : RunsWith i s (emptyEffect i) (exec i s) := by
  cases i <;> cases hi <;> delta exec
  case bra | brs | bany | ball | bnone | call | jmp | ret | exit => exact ctrlWord_runsWith _ s _
  case vcvt | vcvtn | vcvtw => exact convWord_runsWith _ _ s _
  case rput | rget | gath | publishShadow | pcarm | pcrd | pcadd | genst | genrd | fabst => exact fabricWord_runsWith _ s _
  case ldf | atomAdd | atomMin | atomMax | atomAnd | atomOr | atomXor | atomExch | atomCas => exact runWord_runsWith _ s (countEmpty _) _
  case stf | vatomAdd | redAdd | redMin | redMax => exact runWord_runsWith _ s (globEmpty _) _
  case brapl | pset | psetv | ldl | rseed | ldn | stn | ldnr | stnr | waitAc | waitAny | waitAll | waitBatch | waitSt | ffr | fenceRel |
      fenceAcqrel | publish | acrd | cp | cpfill | cpd | tagst | tagclr | qpush | qpop | qstat | barinit | bara | barw | barrd | barb | gset |
      gmod | mma | mmconv | mmrd | mmwr | gget | mmstat | trap | tinfo | rte | rteSkip | yield | launch | tpost | tfence | icinv | graceWait |
      dfree | gracest | tmark | temit | trcst | tflush => exact runWord_runsWith _ s nothing _
  all_goals exact groupWord_runsWith _ s _

/-- A word that is not mask-independent has with an empty mask the effect above and no other. -/
theorem exec_emptyMask {i : Instr} {s : State} {g : Group} (hi : i.isWord = true) (hg : s.group? = some g) (hl : illegalOf g.limits i = none)
    (hm : g.active (hdOf i) = 0) (hmi : maskIndependent i = false) : exec i s = .next (emptyEffect i s g) := by
  obtain ⟨b, h⟩ := exec_runsWith hi s
  exact h.trans (runWord_empty i s g _ b hg hl hm hmi)

/-- The words that name an arrival counter: the far loads and the atomics. -/
def countingWords : List (ME → Instr) := [.ldf, .atomAdd, .atomMin, .atomMax, .atomAnd, .atomOr, .atomXor, .atomExch, .atomCas]

theorem countingWords_emptyEffect {p : ME → Instr} (hp : p ∈ countingWords) (w : ME) :
    (p w).isWord = true ∧ maskIndependent (p w) = false ∧ emptyEffect (p w) = countEmpty w := by
  simp only [countingWords, List.mem_cons, List.not_mem_nil, or_false] at hp
  rcases hp with rfl | rfl | rfl | rfl | rfl | rfl | rfl | rfl | rfl <;> exact ⟨rfl, rfl, rfl⟩

theorem countEmpty_eq (w : ME) (s : State) (g : Group) :
    countEmpty w s g = { (if w.glob then markFabric s g.env.ctx else s) with
      groups := s.groups.set s.cur { g with ac := g.ac.set w.ac.toNat (g.ac.getD w.ac.toNat 0 + 1) } } := by
  unfold countEmpty markGlob
  split <;> rfl

/-- The word marks its context with an empty mask too: its GLOB is 1, or its major 0x81 (log 33). -/
def MarksFabric (i : Instr) : Prop :=
  (∃ w : ME, w.glob = true ∧ i ∈ [.stf w, .vatomAdd w, .redAdd w, .redMin w, .redMax w]) ∨
    ∃ w : EN, i ∈ [.rput w, .rget w, .gath w, .publishShadow w, .pcarm w, .pcrd w, .pcadd w, .genst w, .genrd w, .fabst w]

/-- A word that names no arrival counter marks its context or does nothing. -/
theorem emptyEffect_mark {i : Instr} (hn : ∀ p ∈ countingWords, ∀ w, i ≠ p w) (s : State) (g : Group) :
    (MarksFabric i → emptyEffect i s g = markFabric s g.env.ctx) ∧ (¬ MarksFabric i → emptyEffect i s g = s) := by
  unfold emptyEffect
  split
  case h_1 | h_2 | h_3 | h_4 | h_5 | h_6 | h_7 | h_8 | h_9 => exact absurd rfl (hn _ (by simp [countingWords]) _)
  case h_10 w | h_11 w | h_12 w | h_13 w | h_14 w =>
    refine ⟨fun h => if_pos ?_, fun h => if_neg fun hw => h (.inl ⟨w, hw, by simp⟩)⟩
    simpa [MarksFabric] using h
  case h_25 =>
    have unmarked : ¬ MarksFabric i := by simp_all [MarksFabric]
    exact ⟨fun h => absurd h unmarked, fun _ => rfl⟩
  case h_15 w | h_16 w | h_17 w | h_18 w | h_19 w | h_20 w | h_21 w | h_22 w | h_23 w | h_24 w =>
    exact ⟨fun _ => rfl, fun h => absurd (.inr ⟨w, by simp⟩) h⟩

/-- Settles O22: with an empty mask a word has the effect `emptyEffect` gives it (`exec_emptyMask`), which counts, marks the context, or is none. -/
theorem anEmptyMaskLeavesTheArrivalCounterAndTheFabricMark : Obligations.AnEmptyMaskLeavesTheArrivalCounterAndTheFabricMark := by
  unfold Obligations.AnEmptyMaskLeavesTheArrivalCounterAndTheFabricMark
  refine ⟨fun p hp w s g hg hl hm => ?_, fun i s g hi hg hl hmi hm hn => ?_⟩
  · obtain ⟨hi, hmi, he⟩ := countingWords_emptyEffect hp w
    rw [exec_emptyMask hi hg hl hm hmi, he, countEmpty_eq]
  · rw [exec_emptyMask hi hg hl hm hmi]
    have names : ∀ p ∈ countingWords, ∀ w, i ≠ p w := fun p hp w h => hn w (h ▸ List.mem_map_of_mem (f := fun p => p w) hp)
    exact ⟨fun h => congrArg _ ((emptyEffect_mark names s g).1 h), fun h => congrArg _ ((emptyEffect_mark names s g).2 h)⟩

end Sys2Proof.Machine

/-! PROOFS, 18 R299, R307. BLOCK_PLACE looks up the addresses that the waiting tasks name before it chooses: the translations this brings stay, whether or not a tile serves a block. -/

namespace Sys2Proof.Machine
open Sys2Proof Sys2Proof.Claims

/-- A task of context 0 whose block is one group on one tile, with HADDR at the first translated address (18 R306, R307). -/
def hintedTask : Job :=
  { id := 0, queue := 48, num := 0, ctx := 0, launch := 0, hdr := 4 * 2 ^ 52 + 2 ^ 96, decls := [], args := [], blocks := 1, next := 0, ended := 0, bitmap := 0,
    status := 0, finished := false, task := true, haddr := 0x200000000, home := 0 }

/-- The tables of context 0 (20 R330, R331): the root at 0x1000 points to the table at 0x2000, whose entry 8 is the page of 1 GiB at HADDR. -/
def hintedTables : List Host.Cell := memStore (memStore [] (hbmPlace 0x1000) (leBytes 8 0x2001)) (hbmPlace 0x2040) (leBytes 8 0x3)

/-- Context 0 has these tables, and every tile is out of service (27 R400). -/
def hintedRegs : Tab W64 :=
  [(ctxWin 0 + 0x10, 0x1001), (errWin + 0x40, BitVec.allOnes 64), (errWin + 0x48, BitVec.allOnes 64), (errWin + 0x50, BitVec.allOnes 64), (errWin + 0x58, BitVec.allOnes 64)]

/-- The task waits in its window on the device otherwise as reset leaves it. -/
def hintedState : State := { State.reset with regs := hintedRegs, mem := hintedTables, jobs := [hintedTask], seq := 1 }

/-- No tile serves the task. -/
theorem choose_hinted : choose hintedState = none := by decide +kernel

/-- The walk for HADDR leaves the translation of its page in the distributor's cache. -/
theorem trans_blockPlace_hinted : (goneTo (exec .blockPlace hintedState)).map (fun t => t.trans.map Trans.va) = some [0x200000000] := by decide +kernel

/-- Refutes O46: its fifth clause has BLOCK_PLACE change nothing where no block can be placed. While a task waits whose HADDR lies in a page that the distributor's cache lacks, and no tile
is in service, the event walks the tables for the task's preferred tile (18 R307) and the translation enters the cache (20 R334). -/
theorem not_queuesLaunchesAndBlocks : ¬ Obligations.QueuesLaunchesAndBlocks := by
  intro ⟨_, _, _, _, idle, _⟩
  have walked := trans_blockPlace_hinted
  rw [idle hintedState choose_hinted] at walked
  exact absurd walked (by decide)

end Sys2Proof.Machine

/-! PROOFS, 09 R152. The one byte store keeps its canonical form: what every operation of the machine goes through. Only `State.poke` and the filters of
`Memory` make a new store, so each lemma here says of one function of the model that it hands a canonical store on, given that the functions it
calls do. An operation answers a state (`…_wf`), or a result with states in it (`Res.Canonical`, `OutcomeCanonical`, `SomeCanonical`). -/

namespace Sys2Proof.Machine
open Sys2Proof

variable {s t : State}

/-! ### The rules every word and event goes through -/

/-- The state a word's body answers has its memory in canonical form. -/
def Res.Canonical : Res → Prop
  | .ok t => Memory.wf t.mem = true
  | .trap t _ _ => Memory.wf t.mem = true
  | .stall => True

/-- So has the state a step answers. -/
def OutcomeCanonical : Host.Outcome State Fault Refusal → Prop
  | .next t => Memory.wf t.mem = true
  | _ => True

/-- Operations that keep the form, one after the other. -/
theorem foldl_wf {α : Type} {f : State → α → State} {l : List α} (hf : ∀ s x, Memory.wf s.mem = true → Memory.wf (f s x).mem = true)
    (h : Memory.wf s.mem = true) : Memory.wf (l.foldl f s).mem = true :=
  List.foldlRecOn l f h (fun s hs x _ => hf s x hs)

/-- The answer of an operation that may have to wait, or the state as it was. -/
theorem getD_wf {o : Option State} (h : Memory.wf s.mem = true) (ho : ∀ t, o = some t → Memory.wf t.mem = true) :
    Memory.wf (o.getD s).mem = true := by
  cases o with
  | none => exact h
  | some t => exact ho t rfl

theorem State.put_wf {g : Group} (h : Memory.wf s.mem = true) : Memory.wf (State.put s g).mem = true := h

theorem State.setReg_wf {a : Nat} {v : W64} (h : Memory.wf s.mem = true) : Memory.wf (State.setReg s a v).mem = true := h

theorem State.pastHost_wf {p n : Nat} (h : Memory.wf s.mem = true) : Memory.wf (State.pastHost s p n).mem = true := by
  unfold State.pastHost; split <;> exact h

theorem diverged_wf (h : Memory.wf s.mem = true) : Memory.wf (diverged s).mem = true := by
  grind -ring -linarith [diverged, State.setReg_wf, endContext_wf]

theorem setLlst_wf {n v : Nat} (h : Memory.wf s.mem = true) : Memory.wf (setLlst s n v).mem = true := h

theorem abandonCut_wf {k : Nat} (h : Memory.wf s.mem = true) : Memory.wf (abandonCut s k).mem = true := by
  unfold abandonCut; split <;> exact h

theorem abandonCuts_wf (h : Memory.wf s.mem = true) : Memory.wf (abandonCuts s).mem = true := by rw [abandonCuts_frame]; exact h

theorem passEvent_wf {w : Who} {kind obj : Nat} (h : Memory.wf s.mem = true) : Memory.wf (passEvent s w kind obj).mem = true := by
  unfold passEvent
  repeat' split
  all_goals exact h

theorem logEvent_wf {w : Who} {kind obj data : Nat} (h : Memory.wf s.mem = true) : Memory.wf (logEvent s w kind obj data).mem = true := by
  rw [logEvent_frame]; exact h

theorem logTime_wf {i : Instr} {g : Group} {m : Mask} (h : Memory.wf t.mem = true) : Memory.wf (logTime i s g m t).mem = true :=
  foldl_wf (fun _ _ => logEvent_wf) h

/-- A word keeps memory canonical when its body does, and its effect with an empty mask. -/
theorem runWord_canonical {i : Instr} {e : State → Group → State} {b : State → Group → Mask → Res} (h : Memory.wf s.mem = true)
    (he : ∀ g, Memory.wf (e s g).mem = true) (hb : ∀ g m, (b s g m).Canonical) : OutcomeCanonical (runWord i s e b) := by
  unfold runWord
  split
  · trivial
  · next g _ =>
    have hr := hb g (g.active (hdOf i))
    split
    · exact takeTrap_wf _ _ _ _ _ h
    · dsimp only
      split
      · exact he g
      · split
        · next e =>
          rw [e] at hr
          split
          · exact h
          · exact diverged_wf h
          · exact logTime_wf hr
        · next e =>
          rw [e] at hr
          split
          · exact h
          · exact diverged_wf h
          · exact takeTrap_wf _ _ _ _ _ (logTime_wf hr)
        · exact h

/-- The same of a word that does nothing with an empty mask. -/
theorem runWord_nothing_canonical {i : Instr} {b : State → Group → Mask → Res} (h : Memory.wf s.mem = true) (hb : ∀ g m, (b s g m).Canonical) :
    OutcomeCanonical (runWord i s nothing b) :=
  runWord_canonical h (fun _ => h) hb

/-- A word whose effect lies within its group. -/
theorem groupWord_canonical {i : Instr} {f : State → Group → Mask → Group} (h : Memory.wf s.mem = true) : OutcomeCanonical (groupWord i s f) :=
  runWord_nothing_canonical h fun _ _ => h

/-! ### Rows and channels -/

theorem served_wf {r : Nat × Nat} (h : Memory.wf s.mem = true) : Memory.wf (served s r).mem = true := by
  unfold served
  extract_lets
  split <;> exact h

theorem hbmRun_wf {p n : Nat} (h : Memory.wf s.mem = true) (e : hbmRun s p n = some t) : Memory.wf t.mem = true := by
  rw [hbmRun_frame _ _ _ _ e]; exact h

theorem hbmRuns_wf {ps : List (Nat × Nat)} (h : Memory.wf s.mem = true) (e : hbmRuns s ps = some t) : Memory.wf t.mem = true := by
  rw [hbmRuns_frame _ _ _ e]; exact h

/-! ### Reads, writes and the walk -/

theorem countCorrected_wf {unit : Nat} (h : Memory.wf s.mem = true) : Memory.wf (countCorrected s unit).mem = true := h

theorem consume_wf {w : Who} {unit addr syn : Nat} (h : Memory.wf s.mem = true) : Memory.wf (consume s w unit addr syn).mem = true := by
  grind -ring -linarith [consume, consumeAt_wf]

theorem State.readSoft_wf {p n : Nat} (h : Memory.wf s.mem = true) : Memory.wf (s.readSoft p n).1.mem = true := by
  unfold State.readSoft
  split
  · exact h
  · split
    · exact h
    · exact foldl_wf (fun _ _ => countCorrected_wf) h

theorem State.readAll_wf {w : Who} {n : Nat} {ps : List Nat} (h : Memory.wf s.mem = true) : Memory.wf (s.readAll w n ps).1.mem = true := by
  induction ps generalizing s with
  | nil => exact h
  | cons p r ih => grind -ring -linarith [State.readAll, readAt_wf]

theorem manifestUpd_wf {w : Who} {f : Manifest → Manifest} (h : Memory.wf s.mem = true) : Memory.wf (manifestUpd s w f).mem = true := by
  unfold manifestUpd; split <;> exact h

theorem State.shown_wf {p : Nat} {bs : List Byte} (h : Memory.wf s.mem = true) : Memory.wf (State.shown s p bs).mem = true := h

theorem State.observe_wf {w : Who} {p n : Nat} (h : Memory.wf s.mem = true) : Memory.wf (State.observe s w p n).mem = true := by
  unfold State.observe; split <;> exact h

theorem holdPtr_wf {p : WalkPtr} (h : Memory.wf s.mem = true) : Memory.wf (holdPtr s p).mem = true := h

theorem walkFrom_wf {w : Who} {tile va k b lvl n : Nat} (h : Memory.wf s.mem = true) : Memory.wf (walkFrom s w tile va k b lvl n).1.mem = true := by
  induction n generalizing s b lvl with
  | zero => exact h
  | succ n ih => grind -ring -linarith [walkFrom, readAt_wf, holdPtr_wf]

theorem walk_wf {w : Who} {tile va k : Nat} (h : Memory.wf s.mem = true) : Memory.wf (walk s w tile va k).1.mem = true := by
  grind -ring -linarith [walk, walkFrom_wf]

theorem holdTrans_wf {t : Trans} (h : Memory.wf s.mem = true) : Memory.wf (holdTrans s t).mem = true := h

theorem walkedPlace_wf {w : Who} {tile a k : Nat} (h : Memory.wf s.mem = true) : Memory.wf (walkedPlace s w tile a k).1.mem = true := by
  grind -ring -linarith [walkedPlace, holdTrans_wf, walk_wf]

theorem State.readRuns_wf {w : Who} {rs : List (Nat × Nat)} (h : Memory.wf s.mem = true) : Memory.wf (s.readRuns w rs).1.mem = true :=
  List.foldlRecOn (motive := fun r : State × Option (List Byte) => Memory.wf r.1.mem = true) rs _ h fun r hr x _ => by
    grind -ring -linarith [readAt_wf, State.pastHost_wf]

theorem State.readVia_wf {w : Who} {tile a n : Nat} {r : Option (List Byte)} (h : Memory.wf s.mem = true) (e : s.readVia w tile a n = some (t, r)) :
    Memory.wf t.mem = true := by
  obtain ⟨qs, -, e1⟩ := Option.bind_eq_some_iff.1 e
  obtain ⟨s1, e2, e3⟩ := Option.map_eq_some_iff.1 e1
  have hr := State.readRuns_wf (w := w) (rs := (qs.zip (pieces a (List.replicate n 0) (n / 65536 + 2))).map (fun x => (x.1, x.2.2.length))) (hbmRuns_wf h e2)
  rwa [e3] at hr

/-! ### Fetching words and literals -/

theorem fetchCorrect_wf {key : Nat} {g : Group} {plane o : Nat} (h : Memory.wf s.mem = true) :
    Memory.wf (fetchCorrect s key g plane o).mem = true := by
  unfold fetchCorrect
  split
  · exact h
  · split
    · exact h
    · refine foldl_wf (fun s va h => ?_) h
      split
      · exact h
      · split
        · exact readAt_wf _ _ _ _ h
        · exact h

theorem fetchPiece_gone_wf {w : Who} {va : Nat} (h : Memory.wf s.mem = true) (e : fetchPiece s w va = .gone t) : Memory.wf t.mem = true := by
  grind -ring -linarith [fetchPiece, readAt_wf]

theorem fetchAt_gone_wf {key : Nat} {g : Group} {plane o : Nat} (h : Memory.wf s.mem = true) (e : fetchAt s key g plane o = .gone t) :
    Memory.wf t.mem = true := by
  grind -ring -linarith [fetchAt, joinFetch_gone, fetchPiece_gone_wf]

theorem litAt_gone_wf {g : Group} {plane : Nat} {o : Int} (h : Memory.wf s.mem = true) (e : litAt s g plane o = .gone t) :
    Memory.wf t.mem = true := by
  grind -ring -linarith [litAt, fetchAt_gone_wf]

theorem execLdl_canonical {w : IM} (h : Memory.wf s.mem = true) : OutcomeCanonical (execLdl w s) :=
  runWord_nothing_canonical h fun g m => by
    extract_lets o ls at? s1
    have h1 : Memory.wf s1.mem = true := foldl_wf (fun _ _ => fetchCorrect_wf) h
    split
    · next e =>
      obtain ⟨x, hx, hs⟩ := List.exists_of_findSome?_eq_some e
      obtain ⟨l, -, rfl⟩ := List.mem_map.1 hx
      grind -ring -linarith [litAt_gone_wf, Res.Canonical]
    · grind -ring -linarith [Res.Canonical, State.put_wf]

/-! ### The divergence table -/

theorem readBack_wf {w : Who} {p : Nat} {es : List (Entry × Nat)} (h : Memory.wf s.mem = true) : Memory.wf (readBack s w p es).1.mem = true := by
  induction es generalizing s with
  | nil => exact h
  | cons x r ih => grind -ring -linarith [readBack, readAt_wf]

theorem State.respill_wf {key : Nat} {old g : Group} (h : Memory.wf s.mem = true) : Memory.wf (s.respill key old g).mem = true := by
  unfold State.respill
  split
  · exact h
  · extract_lets back
    have hb : Memory.wf (readBack { s with groups := s.groups.set key old } (whoAt key g 0) (spillPlace key) back).1.mem = true := readBack_wf h
    split
    · next e => rw [e] at hb; exact hb
    · next e => rw [e] at hb; exact foldl_wf (fun _ _ => State.poke_wf _ _ _) hb

/-! ### Samples, markers and the trace ring -/

theorem State.setDbg_wf {t : Nat} {d : Dbg} (h : Memory.wf s.mem = true) : Memory.wf (State.setDbg s t d).mem = true := h

theorem setOwes_wf {key : Nat} {b : Bool} {at? : Option Nat} (h : Memory.wf s.mem = true) : Memory.wf (setOwes s key b at?).mem = true := by
  unfold setOwes; split <;> exact h

theorem enterFifo_wf {x : Due} (h : Memory.wf s.mem = true) : Memory.wf (enterFifo s x).mem = true := by
  grind -ring -linarith [enterFifo, setOwes_wf, State.setDbg_wf]

theorem settleTrace_wf {k : Nat} (h : Memory.wf s.mem = true) : Memory.wf (settleTrace s k).mem = true := by
  unfold settleTrace
  extract_lets
  split
  · exact h
  · exact foldl_wf (fun _ _ => enterFifo_wf) h

theorem addDue_wf {x : Due} (h : Memory.wf s.mem = true) : Memory.wf (addDue s x).mem = true := h

theorem post_wf {x : Due} (h : Memory.wf s.mem = true) : Memory.wf (post s x).mem = true := settleTrace_wf h

theorem marker_wf {key plane clock : Nat} (h : Memory.wf s.mem = true) : Memory.wf (marker s key plane clock).mem = true := by
  unfold marker
  repeat' split
  · exact h
  · exact h
  · exact post_wf h

theorem emit_wf {key plane rank ty : Nat} {payload : List Byte} (h : Memory.wf s.mem = true) :
    Memory.wf (emit s key plane rank ty payload).mem = true := by
  unfold emit
  repeat' split
  · exact h
  all_goals exact post_wf h

theorem overdue_wf {c : Nat} (h : Memory.wf s.mem = true) : Memory.wf (overdue s c).mem = true :=
  foldl_wf (fun s x h => by
    dsimp only
    split
    · exact foldl_wf (fun _ _ => addDue_wf) h
    · exact h) h

theorem emitCtrl_wf {g : Group} {m : Mask} {target : Nat} {vplane : Option (Nat → Nat)} (h : Memory.wf s.mem = true) :
    Memory.wf (emitCtrl s g m target vplane).mem = true := by
  unfold emitCtrl
  repeat' split
  · exact h
  · exact emit_wf h
  · exact emit_wf (emit_wf h)

theorem stopEntry_wf {key : Nat} {e : Entry} {cause code : Nat} (h : Memory.wf s.mem = true) :
    Memory.wf (stopEntry s key e cause code).mem = true := by
  grind -ring -linarith [stopEntry, State.setDbg_wf, emit_wf]

theorem checkBreaks_wf {key n : Nat} (h : Memory.wf s.mem = true) : Memory.wf (checkBreaks s key n).mem = true := by
  induction n generalizing s with
  | zero => exact h
  | succ n ih => grind -ring -linarith [checkBreaks, stopEntry_wf]

theorem releaseHeld_wf {key : Nat} {ofs : Option Nat} {step : Bool} (h : Memory.wf s.mem = true) :
    Memory.wf (releaseHeld s key ofs step).mem = true := by
  unfold releaseHeld; split <;> exact h

theorem execDbgcmdRelease_canonical (h : Memory.wf s.mem = true) : OutcomeCanonical (execDbgcmdRelease s) := by
  show Memory.wf (State.mem _) = true
  repeat' split
  · exact releaseHeld_wf h
  all_goals exact h

theorem execDbgcmdReleaseAll_canonical (h : Memory.wf s.mem = true) : OutcomeCanonical (execDbgcmdReleaseAll s) := by
  show Memory.wf (State.mem _) = true
  repeat' split
  · exact releaseHeld_wf h
  all_goals exact h

theorem execTmark_canonical {w : IM} (h : Memory.wf s.mem = true) : OutcomeCanonical (execTmark w s) :=
  runWord_nothing_canonical h fun g m => by grind -ring -linarith [Res.Canonical, marker_wf]

theorem execTemit_canonical {w : IM} (h : Memory.wf s.mem = true) : OutcomeCanonical (execTemit w s) :=
  runWord_nothing_canonical h fun g m => by grind -ring -linarith [Res.Canonical, emit_wf]

theorem statWord_canonical {d : Opnd} {v : State → Group → Nat} {g : Group} {m : Mask} (h : Memory.wf s.mem = true) :
    (statWord d v s g m).Canonical := by
  grind -ring -linarith [Res.Canonical, statWord, logEvent_wf, State.put_wf]

theorem statAfter_canonical {d : Opnd} {v : State → Group → Nat} {past : State → Group → Nat → Bool} {g : Group} {m : Mask} (h : Memory.wf s.mem = true) :
    (statAfter d v past s g m).Canonical := by
  grind -ring -linarith [Res.Canonical, statAfter, statWord_canonical]

theorem drain_wf {k n : Nat} (h : Memory.wf s.mem = true) : Memory.wf (drain s k n).mem = true := by
  induction n generalizing s with
  | zero => exact h
  | succ n ih => grind -ring -linarith [drain, State.setDbg_wf, State.setReg_wf, engineWrite_wf]

theorem execTflush_canonical {w : IM} (h : Memory.wf s.mem = true) : OutcomeCanonical (execTflush w s) :=
  runWord_nothing_canonical h fun g m => by grind -ring -linarith [Res.Canonical, State.setDbg_wf, settleTrace_wf, drain_wf]

theorem execDropped_canonical (h : Memory.wf s.mem = true) : OutcomeCanonical (execDropped s) := by
  show Memory.wf (State.mem _) = true
  split <;> exact settleTrace_wf h

theorem execMarkerTimeout_canonical (h : Memory.wf s.mem = true) : OutcomeCanonical (execMarkerTimeout s) := by
  show Memory.wf (State.mem _) = true
  repeat' split
  · exact marker_wf h
  all_goals exact h

theorem writeTrcctl_wf {k v : Nat} (h : Memory.wf s.mem = true) : Memory.wf (writeTrcctl s k v).mem = true := by
  unfold writeTrcctl
  extract_lets s1 x old ten sen s2 d s3
  have h1 : Memory.wf s1.mem = true := settleTrace_wf h
  have h3 : Memory.wf s3.mem = true := State.setDbg_wf (State.setReg_wf (State.setReg_wf (State.setReg_wf h1)))
  split
  · exact h1
  · split
    · exact State.setReg_wf h1
    · split <;> exact h3

end Sys2Proof.Machine

/-! PROOFS, 09 R152. The words of a group keep the memory form: control, loads and stores, copies, skeins, the matrix engine, system words. -/

namespace Sys2Proof.Machine
open Sys2Proof

variable {s t : State}

/-! ### Control words -/

theorem ctrlWord_canonical {i : Instr} {f : State → Group → Mask → Group × Mask × Nat} (h : Memory.wf s.mem = true) :
    OutcomeCanonical (ctrlWord i s f) :=
  runWord_nothing_canonical h fun _ _ => emitCtrl_wf h

theorem execBrapl_canonical {k : BitVec 3} {w : BR} (h : Memory.wf s.mem = true) : OutcomeCanonical (execBrapl k w s) :=
  runWord_nothing_canonical h fun g m => by grind -ring -linarith [Res.Canonical, emitCtrl_wf, State.put_wf]

theorem execPset_canonical {k : BitVec 3} {w : BR} (h : Memory.wf s.mem = true) : OutcomeCanonical (execPset k w s) :=
  runWord_nothing_canonical h fun g m => by grind -ring -linarith [Res.Canonical, emitCtrl_wf, State.put_wf]

theorem execPsetv_canonical {w : BR} (h : Memory.wf s.mem = true) : OutcomeCanonical (execPsetv w s) :=
  runWord_nothing_canonical h fun g m => by grind -ring -linarith [Res.Canonical, emitCtrl_wf, State.put_wf]

/-! ### Conversions -/

theorem convWord_canonical {i : Instr} {w : CV} {f : State → Group → Mask → Group} (h : Memory.wf s.mem = true) :
    OutcomeCanonical (convWord i w s f) :=
  runWord_nothing_canonical h fun g m => by split <;> exact h

/-! ### The random generator -/

theorem execRseed_canonical {w : IM} (h : Memory.wf s.mem = true) : OutcomeCanonical (execRseed w s) :=
  runWord_nothing_canonical h fun g m => by grind -ring -linarith [Res.Canonical, logEvent_wf, State.put_wf]

/-! ### Loads, stores and atomics -/

theorem execLdn_canonical {w : ME} (h : Memory.wf s.mem = true) : OutcomeCanonical (execLdn w s) :=
  runWord_nothing_canonical h fun g m => by grind -ring -linarith [Res.Canonical, State.readAll_wf, State.put_wf]

theorem execStn_canonical {w : ME} (h : Memory.wf s.mem = true) : OutcomeCanonical (execStn w s) :=
  runWord_nothing_canonical h fun g m => by
    split
    · exact h
    · exact foldl_wf (fun _ _ => nearStore_wf _ _ _) h

theorem execLdnr_canonical {w : ME} (h : Memory.wf s.mem = true) : OutcomeCanonical (execLdnr w s) :=
  runWord_nothing_canonical h fun g m => by grind -ring -linarith [Res.Canonical, readAt_wf, State.put_wf]

theorem execStnr_canonical {w : ME} (h : Memory.wf s.mem = true) : OutcomeCanonical (execStnr w s) :=
  runWord_nothing_canonical h fun g m => by
    split
    · exact h
    · exact foldl_wf (fun _ _ => nearStore_wf _ _ _) h

theorem markGlob_wf {g : Group} {w : ME} (h : Memory.wf s.mem = true) : Memory.wf (markGlob s g w).mem = true := by
  unfold markGlob; split <;> exact h

theorem sendFar_canonical {g : Group} {m : Mask} {w : ME} {kind : FarKind} {ts : List (Nat × Target)} {data cmp : Nat → Nat} (h : Memory.wf s.mem = true) :
    (sendFar s g m w kind ts data cmp).Canonical := by
  grind -ring -linarith [Res.Canonical, sendFar, markGlob_wf, State.put_wf]

theorem countEmpty_wf {w : ME} {g : Group} (h : Memory.wf s.mem = true) : Memory.wf (countEmpty w s g).mem = true := markGlob_wf h

theorem globEmpty_wf {w : ME} {g : Group} (h : Memory.wf s.mem = true) : Memory.wf (globEmpty w s g).mem = true := markGlob_wf h

theorem execLdf_canonical {w : ME} (h : Memory.wf s.mem = true) : OutcomeCanonical (execLdf w s) :=
  runWord_canonical h (fun g => by grind -ring -linarith [sendFar_canonical, markGlob_wf, countEmpty_wf])
    fun g m => by grind -ring -linarith [Res.Canonical, sendFar_canonical, markGlob_wf, countEmpty_wf]

theorem execStf_canonical {w : ME} (h : Memory.wf s.mem = true) : OutcomeCanonical (execStf w s) :=
  runWord_canonical h (fun g => by grind -ring -linarith [sendFar_canonical, markGlob_wf, globEmpty_wf])
    fun g m => by grind -ring -linarith [Res.Canonical, sendFar_canonical, markGlob_wf, globEmpty_wf]

theorem atomWord_canonical {op : Nat} {w : ME} {g : Group} {m : Mask} (h : Memory.wf s.mem = true) : (atomWord op w s g m).Canonical := by
  grind -ring -linarith [Res.Canonical, atomWord, sendFar_canonical, markGlob_wf]

theorem execVatomAdd_canonical {w : ME} (h : Memory.wf s.mem = true) : OutcomeCanonical (execVatomAdd w s) :=
  runWord_canonical h (fun g => by grind -ring -linarith [sendFar_canonical, markGlob_wf, globEmpty_wf])
    fun g m => by grind -ring -linarith [Res.Canonical, sendFar_canonical, markGlob_wf, globEmpty_wf]

theorem redWord_canonical {op : Nat} {w : ME} {g : Group} {m : Mask} (h : Memory.wf s.mem = true) : (redWord op w s g m).Canonical := by
  grind -ring -linarith [Res.Canonical, redWord, sendFar_canonical, markGlob_wf]

theorem State.block_wf {g : Group} {w : Wait} (h : Memory.wf s.mem = true) : Memory.wf (State.block s g w).mem = true := h

theorem waitWord_canonical {w : Wait} {g : Group} (h : Memory.wf s.mem = true) : (waitWord w s g).Canonical := by
  grind -ring -linarith [Res.Canonical, waitWord, State.block_wf]

theorem execWaitAc_canonical {w : SY} (h : Memory.wf s.mem = true) : OutcomeCanonical (execWaitAc w s) :=
  runWord_nothing_canonical h fun g m => by grind -ring -linarith [Res.Canonical, State.put_wf, State.block_wf]

theorem execWaitBatch_canonical {w : SY} (h : Memory.wf s.mem = true) : OutcomeCanonical (execWaitBatch w s) :=
  runWord_nothing_canonical h fun g m => by grind -ring -linarith [Res.Canonical, waitWord_canonical, State.put_wf]

theorem execFenceRel_canonical {w : SY} (h : Memory.wf s.mem = true) : OutcomeCanonical (execFenceRel w s) :=
  runWord_nothing_canonical h fun g m => by grind -ring -linarith [Res.Canonical, waitWord_canonical, State.put_wf]

theorem execFenceAcqrel_canonical {w : SY} (h : Memory.wf s.mem = true) : OutcomeCanonical (execFenceAcqrel w s) :=
  runWord_nothing_canonical h fun g m => by grind -ring -linarith [Res.Canonical, waitWord_canonical, State.put_wf]

theorem handPublish_wf {w : Who} {k look : Nat} {job : Option Nat} (h : Memory.wf s.mem = true) :
    Memory.wf (handPublish s w k look job).mem = true := manifestUpd_wf h

theorem execPublish_canonical {w : SY} (h : Memory.wf s.mem = true) : OutcomeCanonical (execPublish w s) :=
  runWord_nothing_canonical h fun g m => by grind -ring -linarith [Res.Canonical, handPublish_wf, State.block_wf]

/-! ### The copy engine -/

theorem imagePut_wf {bid ofs : Nat} {bs : List Byte} (h : Memory.wf s.mem = true) : Memory.wf (imagePut s bid ofs bs).mem = true := by
  grind -ring -linarith [imagePut, walkedPlace_wf, hbmRun_wf, write_wf, Option.map_eq_some_iff, Option.bind_eq_some_iff]

theorem tagUpd_wf {block tix tag : Nat} {f : Tag → Tag} (h : Memory.wf s.mem = true) : Memory.wf (tagUpd s block tix tag f).mem = true := by
  grind -ring -linarith [tagUpd, imagePut_wf]

theorem noteFlip_wf {block p x y : Nat} (h : Memory.wf s.mem = true) : Memory.wf (noteFlip s block p x y).mem = true := by
  unfold noteFlip; split <;> exact h

theorem barStep_wf {w : Who} {block p : Nat} {f : Nat → Nat} (h : Memory.wf s.mem = true) : Memory.wf (barStep s w block p f).mem = true := by
  grind -ring -linarith [barStep, readAt_wf, noteFlip_wf, State.poke_wf]

theorem sectorBar_wf {w : Who} {block tix a n : Nat} (h : Memory.wf s.mem = true) (e : sectorBar s w block tix a n = some t) :
    Memory.wf t.mem = true := by
  grind -ring -linarith [sectorBar, barStep_wf, imagePut_wf]

theorem startCopyAs_canonical {f : Copy → Copy} {g : Group} {m : Mask} {kind : CopyKind} {tag : Nat} {c : CopyArgs} (h : Memory.wf s.mem = true) :
    (startCopyAs f s g m kind tag c).Canonical := by
  grind -ring -linarith [Res.Canonical, startCopyAs, tagUpd_wf]

theorem startCopy_canonical {g : Group} {m : Mask} {kind : CopyKind} {tag : Nat} {c : CopyArgs} (h : Memory.wf s.mem = true) :
    (startCopy s g m kind tag c).Canonical := by
  grind -ring -linarith [Res.Canonical, startCopy, startCopyAs_canonical]

theorem copyWord_canonical {g : Group} {m : Mask} {w : EN} {kind : CopyKind} {c : CopyArgs} (h : Memory.wf s.mem = true) :
    (copyWord s g m w kind c).Canonical := by
  unfold copyWord
  split
  · exact h
  · exact startCopy_canonical h

theorem execCp_canonical {w : EN} (h : Memory.wf s.mem = true) : OutcomeCanonical (execCp w s) :=
  runWord_nothing_canonical h fun g m => by grind -ring -linarith [Res.Canonical, copyWord_canonical]

theorem execCpfill_canonical {w : EN} (h : Memory.wf s.mem = true) : OutcomeCanonical (execCpfill w s) :=
  runWord_nothing_canonical h fun g m => by grind -ring -linarith [Res.Canonical, copyWord_canonical]

theorem nearDesc_wf {w : Who} {a : Nat} {r : Option Nat} (h : Memory.wf s.mem = true) (e : nearDesc s w a = .ok (t, r)) : Memory.wf t.mem = true := by
  grind -ring -linarith [nearDesc, readAt_wf]

theorem execCpd_canonical {w : EN} (h : Memory.wf s.mem = true) : OutcomeCanonical (execCpd w s) :=
  runWord_nothing_canonical h fun g m => by grind -ring -linarith [Res.Canonical, copyWord_canonical, nearDesc_wf]

theorem execTagclr_canonical {w : EN} (h : Memory.wf s.mem = true) : OutcomeCanonical (execTagclr w s) :=
  runWord_nothing_canonical h fun _ _ => foldl_wf (fun s x h => by
    dsimp only
    split
    · split <;> exact h
    · exact h) h

theorem State.writeRuns_wf {w : Who} {rs : List (Nat × List Byte)} (h : Memory.wf s.mem = true) : Memory.wf (s.writeRuns w rs).mem = true :=
  foldl_wf (fun _ _ => write_wf _ _ _ _) h

theorem hbmBytes_wf {ps : List Nat} (h : Memory.wf s.mem = true) (e : hbmBytes s ps = some t) : Memory.wf t.mem = true := hbmRuns_wf h e

theorem pastHosts_wf {n : Nat} {ps : List Nat} (h : Memory.wf s.mem = true) : Memory.wf (pastHosts s n ps).mem = true :=
  foldl_wf (fun _ _ => State.pastHost_wf) h

theorem moveCells_wf {c : Copy} {cs more : List (Nat × Nat)} {r : Bool} (h : Memory.wf s.mem = true) (e : moveCells s c cs more = some (t, r)) :
    Memory.wf t.mem = true := by
  grind -ring -linarith [moveCells, State.readAll_wf, hbmBytes_wf, pastHosts_wf, State.writeRuns_wf]

theorem finishCopy_wf {c : Copy} (h : Memory.wf s.mem = true) : Memory.wf (finishCopy s c).mem = true := by
  unfold finishCopy
  split
  · exact tagUpd_wf h
  · exact h

theorem execCopySectorComplete_canonical (h : Memory.wf s.mem = true) : OutcomeCanonical (execCopySectorComplete s) := by
  show Memory.wf (State.mem _) = true
  split
  · exact h
  · extract_lets local? cs more now
    clear_value local? more
    split
    · exact h
    · split
      · exact h
      · split
        · split
          · next e =>
            have h1 := moveCells_wf h e
            exact h1
          · exact h
        · split
          · exact h
          · split
            · exact h
            · next e => exact moveCells_wf h e
            · next e =>
              have h1 := moveCells_wf h e
              split
              · exact h
              · next s2 e2 =>
                have h2 : Memory.wf s2.mem = true := by
                  split at e2
                  · exact sectorBar_wf h1 e2
                  · cases e2; exact h1
                exact finishCopy_wf (tagUpd_wf h2)

/-! ### Skeins and barriers -/

theorem State.setSkein_wf {k : Nat} {q : Skein} (h : Memory.wf s.mem = true) : Memory.wf (State.setSkein s k q).mem = true := h

theorem reserve_wf {g : Group} {k : Nat} {a : Opnd} {v : W64} {ids : List Nat} (h : Memory.wf s.mem = true) :
    Memory.wf (reserve s g k a v ids).mem = true := by
  grind -ring -linarith [reserve, State.poke_wf, State.setSkein_wf]

theorem execQpush_canonical {w : EN} (h : Memory.wf s.mem = true) : OutcomeCanonical (execQpush w s) :=
  runWord_nothing_canonical h fun g m => by grind -ring -linarith [Res.Canonical, reserve_wf, State.block_wf]

theorem takeEntry_wf {key : Nat} {g : Group} {w : Who} {k : Nat} {d : Opnd} {m : Mask} {e : SkEntry} (h : Memory.wf s.mem = true) :
    Memory.wf (takeEntry s key g w k d m e).mem = true := by
  grind -ring -linarith [takeEntry, logEvent_wf, readAt_wf, State.setSkein_wf]

theorem execQpop_canonical {w : EN} (h : Memory.wf s.mem = true) : OutcomeCanonical (execQpop w s) :=
  runWord_nothing_canonical h fun g m => by grind -ring -linarith [Res.Canonical, diverged_wf, takeEntry_wf, State.block_wf]

theorem execSkeinReserve_canonical (h : Memory.wf s.mem = true) : OutcomeCanonical (execSkeinReserve s) := by
  show Memory.wf (State.mem _) = true
  grind -ring -linarith [reserve_wf]

theorem execEntryPoppable_canonical (h : Memory.wf s.mem = true) : OutcomeCanonical (execEntryPoppable s) := by
  show Memory.wf (State.mem _) = true
  split <;> exact h

theorem execSkeinTake_canonical (h : Memory.wf s.mem = true) : OutcomeCanonical (execSkeinTake s) := by
  show Memory.wf (State.mem _) = true
  grind -ring -linarith [takeEntry_wf, diverged_wf]

theorem execQpopData_canonical (h : Memory.wf s.mem = true) : OutcomeCanonical (execQpopData s) := by
  show Memory.wf (State.mem _) = true
  repeat' split
  all_goals exact h

theorem execAllowanceRise_canonical (h : Memory.wf s.mem = true) : OutcomeCanonical (execAllowanceRise s) := by
  show Memory.wf (State.mem _) = true
  repeat' split
  all_goals exact h

theorem execBarinit_canonical {w : EN} (h : Memory.wf s.mem = true) : OutcomeCanonical (execBarinit w s) :=
  runWord_nothing_canonical h fun g m => by grind -ring -linarith [Res.Canonical, noteFlip_wf, State.poke_wf]

theorem execBara_canonical {w : EN} (h : Memory.wf s.mem = true) : OutcomeCanonical (execBara w s) :=
  runWord_nothing_canonical h fun g m => by grind -ring -linarith [Res.Canonical, barStep_wf, State.block_wf]

theorem phaseRead_wf {w : Who} {p : Nat} (h : Memory.wf s.mem = true) : Memory.wf (phaseRead s w p).1.mem = true := by
  grind -ring -linarith [phaseRead, readAt_wf]

theorem execBarw_canonical {w : EN} (h : Memory.wf s.mem = true) : OutcomeCanonical (execBarw w s) :=
  runWord_nothing_canonical h fun g m => by grind -ring -linarith [Res.Canonical, phaseRead_wf, State.block_wf]

theorem pollOnce_wf {g : Group} {p x : Nat} {ph : Bool} (h : Memory.wf s.mem = true) (e : pollOnce s g p x ph = some t) : Memory.wf t.mem = true := by
  grind -ring -linarith [pollOnce]

theorem execBarrd_canonical {w : EN} (h : Memory.wf s.mem = true) : OutcomeCanonical (execBarrd w s) :=
  runWord_nothing_canonical h fun g m => by
    split
    · exact h
    · split <;> grind -ring -linarith [Res.Canonical, readAt_wf, pollOnce_wf, statWord_canonical]

theorem execBaraArrival_canonical (h : Memory.wf s.mem = true) : OutcomeCanonical (execBaraArrival s) := by
  show Memory.wf (State.mem _) = true
  grind -ring -linarith [barStep_wf]

theorem markArrived_wf {g : Group} {k : Nat} {m : Mask} (h : Memory.wf s.mem = true) : Memory.wf (markArrived s g k m).mem = true := by
  unfold markArrived; split <;> exact h

theorem execBarb_canonical {w : EN} (h : Memory.wf s.mem = true) : OutcomeCanonical (execBarb w s) :=
  runWord_nothing_canonical h fun g m => by grind -ring -linarith [Res.Canonical, markArrived_wf, State.put_wf, State.block_wf]

theorem departAll_wf {bid k : Nat} (h : Memory.wf s.mem = true) : Memory.wf (departAll s bid k).mem = true :=
  foldl_wf (fun s key h => by grind -ring -linarith [endContext_wf, State.respill_wf]) h

theorem execBlockBarrierComplete_canonical (h : Memory.wf s.mem = true) : OutcomeCanonical (execBlockBarrierComplete s) := by
  show Memory.wf (State.mem _) = true
  grind -ring -linarith [departAll_wf]

/-! ### The matrix engine -/

theorem updGid_wf {gid : Nat} {f : Group → Group} (h : Memory.wf s.mem = true) : Memory.wf (updGid s gid f).mem = true := by
  unfold updGid
  repeat' split
  · exact h
  · exact imagePut_wf h
  · exact imagePut_wf h
  all_goals exact h

theorem execGset_canonical {w : EN} (h : Memory.wf s.mem = true) : OutcomeCanonical (execGset w s) :=
  runWord_nothing_canonical h fun g m => by grind -ring -linarith [Res.Canonical, State.put_wf, nearDesc_wf]

theorem execGmod_canonical {w : EN} (h : Memory.wf s.mem = true) : OutcomeCanonical (execGmod w s) :=
  runWord_nothing_canonical h fun g m => by grind -ring -linarith [Res.Canonical, State.put_wf]

theorem execGget_canonical {w : EN} (h : Memory.wf s.mem = true) : OutcomeCanonical (execGget w s) :=
  runWord_nothing_canonical h fun g m => by grind -ring -linarith [Res.Canonical, State.put_wf, statAfter_canonical]

theorem accept_canonical {g : Group} {m : Mask} {k : Nat} {c : MatCmd} (h : Memory.wf s.mem = true) : (accept s g m k c).Canonical := by
  grind -ring -linarith [Res.Canonical, accept, logEvent_wf, State.put_wf]

theorem execMma_canonical {w : EN} (h : Memory.wf s.mem = true) : OutcomeCanonical (execMma w s) :=
  runWord_nothing_canonical h fun g m => by grind -ring -linarith [Res.Canonical, accept_canonical]

theorem execMmconv_canonical {w : CV} (h : Memory.wf s.mem = true) : OutcomeCanonical (execMmconv w s) :=
  runWord_nothing_canonical h fun g m => by grind -ring -linarith [Res.Canonical, accept_canonical]

theorem execMmrd_canonical {w : EN} (h : Memory.wf s.mem = true) : OutcomeCanonical (execMmrd w s) :=
  runWord_nothing_canonical h fun g m => by grind -ring -linarith [Res.Canonical, State.readAll_wf, State.put_wf]

theorem execMmwr_canonical {w : EN} (h : Memory.wf s.mem = true) : OutcomeCanonical (execMmwr w s) :=
  runWord_nothing_canonical h fun _ _ => foldl_wf (fun _ _ => State.poke_wf _ _ _) h

theorem setMat_wf {c : MatCmd} (h : Memory.wf s.mem = true) : Memory.wf (setMat s c).mem = true := h

theorem execMatrixStart_canonical (h : Memory.wf s.mem = true) : OutcomeCanonical (execMatrixStart s) := by
  unfold execMatrixStart OutcomeCanonical
  dsimp only
  split
  · exact h
  · split
    · exact h
    · refine setMat_wf ?_
      split
      · exact foldl_wf (fun _ _ => State.poke_wf _ _ _) h
      · exact h

theorem readElems_wf {c : MatCmd} {as : List Nat} {r : Option (List Nat)} (h : Memory.wf s.mem = true) (e : readElems s c as = some (t, r)) :
    Memory.wf t.mem = true := by
  unfold readElems at e
  split at e
  · cases e
  · obtain ⟨s0, e0, e1⟩ := Option.map_eq_some_iff.1 e
    grind -ring -linarith [hbmBytes_wf, pastHosts_wf, State.readAll_wf]

theorem stageRead_wf {c : MatCmd} (h : Memory.wf s.mem = true) : Memory.wf (stageRead s c).1.mem = true := by
  unfold stageRead
  split
  · exact consumeAt_wf _ _ _ _ _ _ h
  · exact foldl_wf (fun _ _ => countCorrected_wf) h

theorem rowStep_wf {c : MatCmd} (h : Memory.wf s.mem = true) : Memory.wf (rowStep s c).mem = true := by
  unfold rowStep
  split <;> grind -ring -linarith [readElems_wf, State.readAll_wf, State.poke_wf, setMat_wf]

theorem execMmaRowStep_canonical (h : Memory.wf s.mem = true) : OutcomeCanonical (execMmaRowStep s) := by
  show Memory.wf (State.mem _) = true
  grind -ring -linarith [stageRead_wf, rowStep_wf]

theorem retire_wf {c : MatCmd} (h : Memory.wf s.mem = true) : Memory.wf (retire s c).mem = true := updGid_wf h

/-- What an operation answers that a consumption ends and that may have to wait: each state in it has its memory in canonical form. -/
def SomeCanonical {β : Type} (r : Option (State × β)) : Prop := ∀ t x, r = some (t, x) → Memory.wf t.mem = true

theorem someCanonical_some {β : Type} {x : β} (h : Memory.wf s.mem = true) : SomeCanonical (some (s, x)) := fun _ _ e => by cases e; exact h

theorem flushAcc_wf {bid : Nat} (h : Memory.wf s.mem = true) : Memory.wf (flushAcc s bid).mem = true := by
  unfold flushAcc
  split
  · exact h
  · split
    · exact h
    · extract_lets n w r
      have hr : SomeCanonical r := List.foldlRecOn _ _ (someCanonical_some h) fun r hr i _ => by
        split
        · have h1 := hr _ _ rfl
          intro t x e
          dsimp only at e
          split at e <;> grind -ring -linarith [readAt_wf, writeVia_wf, Option.map_eq_some_iff]
        · exact hr
      clear_value r
      split
      · have h1 := hr _ _ rfl
        exact h1
      · exact hr _ _ rfl
      · exact h

theorem execMmaComplete_canonical (h : Memory.wf s.mem = true) : OutcomeCanonical (execMmaComplete s) := by
  show Memory.wf (State.mem _) = true
  repeat' split
  · exact flushAcc_wf (retire_wf h)
  all_goals exact h

theorem badElem_wf {c : MatCmd} (h : Memory.wf s.mem = true) : Memory.wf (badElem s c).1.mem = true := by
  grind -ring -linarith [badElem, State.readAll_wf]

theorem keepReport_wf {c : MatCmd} {i n w : Nat} (h : Memory.wf s.mem = true) : Memory.wf (keepReport s c i n w).mem = true := updGid_wf h

theorem convRows_wf {c : MatCmd} {k : Nat} (h : Memory.wf s.mem = true) : Memory.wf (convRows s c k).1.mem = true := by
  induction k generalizing s c with
  | zero => exact h
  | succ k ih => grind -ring -linarith [convRows, hbmBytes_wf, State.readAll_wf, State.writeRuns_wf]

theorem execMmconvComplete_canonical (h : Memory.wf s.mem = true) : OutcomeCanonical (execMmconvComplete s) := by
  show Memory.wf (State.mem _) = true
  grind -ring -linarith [badElem_wf, convRows_wf, setMat_wf, retire_wf, keepReport_wf, flushAcc_wf]

theorem execMatrixFaultWait_canonical (h : Memory.wf s.mem = true) : OutcomeCanonical (execMatrixFaultWait s) := by
  show Memory.wf (State.mem _) = true
  repeat' split
  all_goals exact h

/-! ### The end of an offset -/

theorem completionStops_wf {key : Nat} {old : Group} (h : Memory.wf s.mem = true) : Memory.wf (completionStops s key old).mem = true := by
  unfold completionStops
  split
  · exact h
  · extract_lets s1
    have h1 : Memory.wf s1.mem = true := foldl_wf (fun s e h => by grind -ring -linarith [stopEntry_wf]) h
    grind -ring -linarith [stopEntry_wf]

theorem loopCheck_wf {key : Nat} (h : Memory.wf s.mem = true) : Memory.wf (loopCheck s key).mem = true := by
  unfold loopCheck
  repeat' split
  all_goals exact h

theorem loopAfter_wf {key o : Nat} {branched : List Nat} (h : Memory.wf s.mem = true) : Memory.wf (loopAfter s key o branched).mem = true := by
  unfold loopAfter
  split
  · exact loopCheck_wf h
  · split
    · exact loopCheck_wf h
    · extract_lets back s1 s2 planes
      have h1 : Memory.wf s1.mem = true := by grind -ring -linarith
      have h2 : Memory.wf s2.mem = true := loopCheck_wf h1
      have h3 : ∀ ws : List (Nat × Nat × Nat), Memory.wf (ws.foldl (fun s x => fetchCorrect s key { (‹Group›) with pre := [] } x.2.1 x.1) s2).mem = true :=
        fun ws => foldl_wf (fun _ _ => fetchCorrect_wf) h2
      grind -ring -linarith

theorem takePreempt_wf {key : Nat} {g : Group} (h : Memory.wf s.mem = true) : Memory.wf (takePreempt s key g).mem = true := h

theorem offsetDone_wf {key : Nat} (h : Memory.wf s.mem = true) : Memory.wf (offsetDone s key).mem = true := by
  grind -ring -linarith [offsetDone, State.respill_wf, takePreempt_wf, completionStops_wf, endContext_wf, loopAfter_wf, loopCheck_wf, checkBreaks_wf]

theorem execOffsetComplete_canonical (h : Memory.wf s.mem = true) : OutcomeCanonical (execOffsetComplete s) := by
  show Memory.wf (State.mem _) = true
  repeat' split
  · exact offsetDone_wf h
  all_goals exact h

theorem execHandlerEligible_canonical (h : Memory.wf s.mem = true) : OutcomeCanonical (execHandlerEligible s) := by
  show Memory.wf (State.mem _) = true
  repeat' split
  all_goals exact h

theorem headRead_wf {key : Nat} {g : Group} (h : Memory.wf s.mem = true) : Memory.wf (headRead s key g).mem = true := by
  unfold headRead
  split
  · exact fetchCorrect_wf h
  · exact h

theorem execInstructionFetch_canonical (h : Memory.wf s.mem = true) : OutcomeCanonical (execInstructionFetch s) := by
  show Memory.wf (State.mem _) = true
  split
  · exact h
  · dsimp only
    split
    · exact h
    · split
      · split
        · exact h
        · exact fetchCorrect_wf h
      all_goals grind -ring -linarith [fetchPiece_gone_wf]

/-! ### System words -/

theorem execTinfo_canonical {f : BitVec 3} {w : SY} (h : Memory.wf s.mem = true) : OutcomeCanonical (execTinfo f w s) :=
  runWord_nothing_canonical h fun g m => by grind -ring -linarith [Res.Canonical, State.put_wf, statWord_canonical]

theorem preemptAtRte_wf {s0 : State} {g0 : Group} (h : Memory.wf s0.mem = true) : Memory.wf (preemptAtRte s0 g0).mem = true := by
  grind -ring -linarith [preemptAtRte, offsetDone_wf, State.put_wf, headRead_wf, checkBreaks_wf]

theorem returnWord_canonical {skip : Bool} {g : Group} (h : Memory.wf s.mem = true) : (returnWord skip s g).Canonical := by
  grind -ring -linarith [Res.Canonical, returnWord, State.respill_wf, preemptAtRte_wf]

theorem execYield_canonical {w : SY} (h : Memory.wf s.mem = true) : OutcomeCanonical (execYield w s) :=
  runWord_nothing_canonical h fun g m => by grind -ring -linarith [Res.Canonical, State.block_wf]

theorem appendPost_wf {w : Who} {q n : Nat} {bs : List Byte} {ids : List Nat} (h : Memory.wf s.mem = true) :
    Memory.wf (appendPost s w q n bs ids).mem = true := manifestUpd_wf (logEvent_wf h)

theorem nearRecord_wf {w : Who} {a : Nat} {sized : Bool} {r : Option (List Byte)} (h : Memory.wf s.mem = true) (e : nearRecord s w a sized = .ok (t, r)) :
    Memory.wf t.mem = true := by
  grind -ring -linarith [nearRecord, readAt_wf]

theorem postWord_canonical {q : Nat} {sized : Bool} {w : SY} {g : Group} {m : Mask} (h : Memory.wf s.mem = true) :
    (postWord q sized w s g m).Canonical := by
  grind -ring -linarith [Res.Canonical, postWord, nearRecord_wf, diverged_wf, appendPost_wf, statWord_canonical]

theorem flushXlate_wf {ctx : Nat} {tile : Option Nat} (h : Memory.wf s.mem = true) : Memory.wf (flushXlate s ctx tile).mem = true := by
  unfold flushXlate; split <;> exact h

theorem tfenceRelease_wf {key : Nat} {g : Group} {dev : Bool} (h : Memory.wf s.mem = true) :
    Memory.wf (tfenceRelease s key g dev).mem = true := flushXlate_wf h

theorem execTfence_canonical {w : SY} (h : Memory.wf s.mem = true) : OutcomeCanonical (execTfence w s) :=
  runWord_nothing_canonical h fun g m => by grind -ring -linarith [Res.Canonical, tfenceRelease_wf, State.block_wf]

theorem execIcinv_canonical {w : SY} (h : Memory.wf s.mem = true) : OutcomeCanonical (execIcinv w s) :=
  runWord_nothing_canonical h fun g m => by grind -ring -linarith [Res.Canonical]

theorem execIcinvComplete_canonical (h : Memory.wf s.mem = true) : OutcomeCanonical (execIcinvComplete s) := by
  show Memory.wf (State.mem _) = true
  repeat' split
  all_goals exact h

theorem latch_wf (h : Memory.wf s.mem = true) : Memory.wf (latch s).mem = true := h

theorem dropFar_wf {id : Nat} (h : Memory.wf s.mem = true) : Memory.wf (dropFar s id).mem = true := h

theorem castOff_wf {w : Who} {k : Nat} {obj : W64} {ids : List Nat} {since : Option Nat} (h : Memory.wf s.mem = true) :
    Memory.wf (castOff s w k obj ids since).mem = true := manifestUpd_wf h

theorem castGone_wf {e : Cast} (h : Memory.wf s.mem = true) : Memory.wf (castGone s e).mem = true := manifestUpd_wf h

theorem execDfree_canonical {w : SY} (h : Memory.wf s.mem = true) : OutcomeCanonical (execDfree w s) :=
  runWord_nothing_canonical h fun g m => by grind -ring -linarith [Res.Canonical, castOff_wf, statWord_canonical, State.block_wf]

theorem execDfreeAppend_canonical (h : Memory.wf s.mem = true) : OutcomeCanonical (execDfreeAppend s) := by
  show Memory.wf (State.mem _) = true
  grind -ring -linarith [diverged_wf, castOff_wf, logEvent_wf]

theorem execGraceElapse_canonical (h : Memory.wf s.mem = true) : OutcomeCanonical (execGraceElapse s) := by
  show Memory.wf (State.mem _) = true
  grind -ring -linarith [logEvent_wf, diverged_wf]

theorem castUpd_wf {e f : Cast} (h : Memory.wf s.mem = true) : Memory.wf (castUpd s e f).mem = true := h

theorem returnStep_wf {e : Cast} {p : Nat} {sys : Bool} (h : Memory.wf s.mem = true) : Memory.wf (returnStep s e p sys).mem = true := by
  grind -ring -linarith [returnStep, logEvent_wf, readAt_wf, write_wf, atomicAt_wf, castGone_wf, castUpd_wf]

theorem returnStart_wf {e : Cast} (h : Memory.wf s.mem = true) : Memory.wf (returnStart s e).mem = true := by
  grind -ring -linarith [returnStart, castGone_wf, endContext_wf, castUpd_wf]

theorem execCastoffReturn_canonical (h : Memory.wf s.mem = true) : OutcomeCanonical (execCastoffReturn s) := by
  show Memory.wf (State.mem _) = true
  split
  · exact h
  · split
    · exact h
    · split
      · exact h
      · split
        · exact returnStart_wf h
        · split
          · exact h
          · exact diverged_wf h
          · grind -ring -linarith [hbmRun_wf, returnStep_wf]

end Sys2Proof.Machine

/-! PROOFS, 09 R152. The events of the lifeline and of the fabric keep the memory form. -/

namespace Sys2Proof.Machine
open Sys2Proof

variable {s t : State}

/-! ### Cuts, seals and the log -/

theorem tableEntries_wf {w : Who} {t n : Nat} (h : Memory.wf s.mem = true) : Memory.wf (tableEntries s w t n).1.mem = true := by
  grind -ring -linarith [tableEntries, readAt_wf]

theorem gather_wf {f : State → Nat → State × Option (List Nat)} {es : List Nat} (hf : ∀ s e, Memory.wf s.mem = true → Memory.wf (f s e).1.mem = true)
    (h : Memory.wf s.mem = true) : Memory.wf (gather f s es).1.mem = true := by
  induction es generalizing s with
  | nil => exact h
  | cons e r ih => grind -ring -linarith [gather]

theorem entryFrames_wf {w : Who} {lvl n e : Nat} (h : Memory.wf s.mem = true) : Memory.wf (entryFrames w lvl n s e).1.mem = true := by
  induction n generalizing s lvl e with
  | zero => exact h
  | succ n ih =>
    have hg : ∀ s es, Memory.wf s.mem = true → Memory.wf (gather (entryFrames w (lvl + 1) n) s es).1.mem = true := fun s es h => gather_wf (fun _ _ => ih) h
    grind -ring -linarith [entryFrames, tableEntries_wf]

theorem mappedFrames_wf {ctx : Nat} (h : Memory.wf s.mem = true) : Memory.wf (mappedFrames s ctx).1.mem = true := by
  grind -ring -linarith [mappedFrames, entryFrames_wf, gather_wf, tableEntries_wf]

theorem takeCut_wf {k : Nat} {held : List Nat} (h : Memory.wf s.mem = true) : Memory.wf (takeCut s k held).mem = true := by
  grind -ring -linarith [takeCut, State.setReg_wf, setLlst_wf, abandonCut_wf]

theorem nextCut_wf (h : Memory.wf s.mem = true) : Memory.wf (nextCut s).mem = true := takeCut_wf h

theorem execCut_canonical (h : Memory.wf s.mem = true) : OutcomeCanonical (execCut s) := by
  show Memory.wf (State.mem _) = true
  split
  · exact nextCut_wf h
  · exact h

theorem arriveEpoch_wf {ctx : Nat} {e : Int} (h : Memory.wf s.mem = true) : Memory.wf (arriveEpoch s ctx e).mem = true := by
  unfold arriveEpoch
  split
  · exact foldl_wf (fun _ _ => nextCut_wf) h
  · exact h

theorem setNow_wf (h : Memory.wf s.mem = true) : Memory.wf (setNow s).mem = true := by
  unfold setNow
  split
  · exact nextCut_wf h
  · exact h

theorem noEpoch_wf {ctx : Nat} (h : Memory.wf s.mem = true) : Memory.wf (noEpoch s ctx).mem = true := h

theorem stageLog_wf (h : Memory.wf s.mem = true) : Memory.wf (stageLog s).mem = true :=
  foldl_wf (fun t j h => by
    split
    · exact engineWrite_wf _ _ _ h
    · exact h) h

theorem lifePoke_wf {a : Nat} {bs : List Byte} (h : Memory.wf s.mem = true) (e : lifePoke s a bs = some t) : Memory.wf t.mem = true := by
  unfold lifePoke at e
  extract_lets ps at e
  split at e
  · cases e
  · obtain ⟨qs, -, e1⟩ := Option.bind_eq_some_iff.1 e
    obtain ⟨s1, e2, rfl⟩ := Option.map_eq_some_iff.1 e1
    exact foldl_wf (fun _ _ => engineWrite_wf _ _ _) (hbmRuns_wf h e2)

theorem toTarget_wf {ofs : Nat} {bs : List Byte} (h : Memory.wf s.mem = true) (e : toTarget s ofs bs = some t) : Memory.wf t.mem = true := by
  grind -ring -linarith [toTarget, lifePoke_wf]

theorem sendLife_wf {isLog : Bool} {ofs : Nat} {bs : List Byte} (h : Memory.wf s.mem = true) (e : sendLife s isLog ofs bs = some t) :
    Memory.wf t.mem = true := by
  grind -ring -linarith [sendLife]

theorem readStaged_wf (h : Memory.wf s.mem = true) : Memory.wf (readStaged s).1.mem = true := by
  grind -ring -linarith [readStaged, readAt_wf]

theorem becomeDurable_wf {e : LogEntry} (h : Memory.wf s.mem = true) : Memory.wf (becomeDurable s e).mem = true := h

theorem drainLog_wf {n : Nat} (h : Memory.wf s.mem = true) : Memory.wf (drainLog s n).1.mem = true := by
  induction n generalizing s with
  | zero => exact h
  | succ n ih =>
    have hr := readStaged_wf h
    unfold drainLog
    split
    · exact h
    · extract_lets
      split
      · exact h
      · split
        · next e => rw [e] at hr; exact hr
        · next e =>
          rw [e] at hr
          split
          · dsimp only
            split
            · exact h
            · exact getD_wf h fun _ => sendLife_wf hr
          · split
            · exact h
            · next e => exact ih (becomeDurable_wf (toTarget_wf hr e))

theorem endRecording_wf (h : Memory.wf s.mem = true) : Memory.wf (endRecording s).mem = true := abandonCuts_wf h

theorem execLogDrain_canonical (h : Memory.wf s.mem = true) : OutcomeCanonical (execLogDrain s) := by
  show Memory.wf (State.mem _) = true
  grind -ring -linarith [stageLog_wf, endRecording_wf, drainLog_wf]

/-- Cut 0 is taken over the frames the context's tables map, or abandoned where a table cannot be read. -/
theorem firstCut_wf {ctx : Nat} {cs : List Copy} (h : Memory.wf s.mem = true) :
    Memory.wf (match mappedFrames (setLlst { s with ll := Lifeline.idle, copies := cs } 62 0) ctx with
      | (s3, some fs) => takeCut s3 0 fs
      | (s3, none) => abandonCut (takeCut s3 0 []) 0).mem = true := by
  have h1 := mappedFrames_wf (ctx := ctx) (setLlst_wf (s := { s with ll := Lifeline.idle, copies := cs }) (n := 62) (v := 0) h)
  split
  · next e => rw [e] at h1; exact takeCut_wf h1
  · next e => rw [e] at h1; exact abandonCut_wf (takeCut_wf h1)

theorem writeLlctl_wf {v : Nat} (h : Memory.wf s.mem = true) : Memory.wf (writeLlctl s v).mem = true := by
  unfold writeLlctl
  extract_lets
  split
  · apply firstCut_wf
    apply noEpoch_wf
    exact State.setReg_wf (State.setReg_wf h)
  · split
    · exact State.setReg_wf (endRecording_wf (drainLog_wf (stageLog_wf (abandonCuts_wf h))))
    · split
      · exact setNow_wf (State.setReg_wf h)
      · exact State.setReg_wf h

theorem writeLlseal_wf {v : Nat} (h : Memory.wf s.mem = true) : Memory.wf (writeLlseal s v).mem = true := h

theorem frameImages_wf {k : Nat} {fs : List Nat} (h : Memory.wf s.mem = true) : Memory.wf (frameImages s k fs).1.mem = true := by
  induction fs generalizing s with
  | nil => exact h
  | cons f r ih => grind -ring -linarith [frameImages, readAt_wf]

theorem publishSlot_wf {x : Slot} (h : Memory.wf s.mem = true) : Memory.wf (publishSlot s x).mem = true := h

theorem execSeal_canonical (h : Memory.wf s.mem = true) : OutcomeCanonical (execSeal s) := by
  show Memory.wf (State.mem _) = true
  grind -ring -linarith [abandonCut_wf, frameImages_wf, setLlst_wf, sendLife_wf, toTarget_wf, publishSlot_wf]

theorem lifeDone_wf {c : Copy} (h : Memory.wf s.mem = true) : Memory.wf (lifeDone s c).mem = true := by
  unfold lifeDone
  repeat' split
  all_goals exact h

theorem durableFrom_wf {i n : Nat} (h : Memory.wf s.mem = true) : Memory.wf (durableFrom s i n).1.mem = true := by
  induction n generalizing s i with
  | zero => exact h
  | succ n ih => grind -ring -linarith [durableFrom, walkedPlace_wf, readAt_wf, State.pastHost_wf]

theorem loadManifest_wf {m : Manifest} (h : Memory.wf s.mem = true) : Memory.wf (loadManifest s m).mem = true :=
  foldl_wf (fun _ _ => State.setReg_wf) (foldl_wf (fun _ _ => State.setReg_wf) h)

theorem writeLlrep_wf {v : Nat} (h : Memory.wf s.mem = true) : Memory.wf (writeLlrep s v).mem = true := by
  grind -ring -linarith [writeLlrep, abandonCuts_wf, State.setReg_wf, durableFrom_wf]

theorem execLlrep_canonical (h : Memory.wf s.mem = true) : OutcomeCanonical (execLlrep s) := by
  show Memory.wf (State.mem _) = true
  split
  · exact writeLlrep_wf (loadManifest_wf h)
  · exact writeLlrep_wf h

theorem execReplayEnd_canonical (h : Memory.wf s.mem = true) : OutcomeCanonical (execReplayEnd s) := by
  show Memory.wf (State.mem _) = true
  grind -ring -linarith [abandonCuts_wf, State.setReg_wf, nextCut_wf]

/-! ### Accesses at their home -/

theorem setFar_wf {o : FarOp} (h : Memory.wf s.mem = true) : Memory.wf (setFar s o).mem = true := h

theorem performHere_wf {o : FarOp} {e : El} {stale : Bool} (h : Memory.wf s.mem = true) : Memory.wf (performHere s o e stale).mem = true := by
  grind -ring -linarith [performHere, State.observe_wf, logEvent_wf, readAt_wf, setFar_wf, write_wf, diverged_wf, atomicAt_wf, hbmRun_wf, State.pastHost_wf]

theorem execFarAccessAtHome_canonical (h : Memory.wf s.mem = true) : OutcomeCanonical (execFarAccessAtHome s) := by
  show Memory.wf (State.mem _) = true
  repeat' split
  · exact h
  · exact h
  · exact h
  · exact h
  · exact performHere_wf h
  all_goals exact h

theorem execFarLoadLand_canonical (h : Memory.wf s.mem = true) : OutcomeCanonical (execFarLoadLand s) := by
  show Memory.wf (State.mem _) = true
  grind -ring -linarith [setFar_wf, dropFar_wf]

theorem execStoreAck_canonical (h : Memory.wf s.mem = true) : OutcomeCanonical (execStoreAck s) := by
  show Memory.wf (State.mem _) = true
  repeat' split
  all_goals exact h

theorem setVersion_wf {ctx k : Nat} {v : W64} (h : Memory.wf s.mem = true) : Memory.wf (setVersion s ctx k v).mem = true := by
  grind -ring -linarith [setVersion, State.shown_wf, State.poke_wf, State.pastHost_wf]

theorem execPublishVersionAdvance_canonical (h : Memory.wf s.mem = true) : OutcomeCanonical (execPublishVersionAdvance s) := by
  show Memory.wf (State.mem _) = true
  repeat' split
  · exact h
  · exact setVersion_wf h
  · exact h

theorem writeVerbase_wf {ctx v : Nat} (h : Memory.wf s.mem = true) : Memory.wf (writeVerbase s ctx v).mem = true := by
  unfold writeVerbase
  extract_lets
  split
  · exact foldl_wf (fun _ _ => setVersion_wf) h
  · exact h

/-! ### Packets, regions and the host -/

theorem takeSample_wf {r : Route} {sm : Nat} (h : Memory.wf s.mem = true) : Memory.wf (takeSample s r sm).mem = true := by
  unfold takeSample
  repeat' split
  all_goals exact h

theorem touchPod_wf {rt : Route} (h : Memory.wf s.mem = true) : Memory.wf (touchPod s rt).mem = true := by
  unfold touchPod
  repeat' split
  all_goals exact h

theorem setCopy_wf {c : Copy} (h : Memory.wf s.mem = true) : Memory.wf (setCopy s c).mem = true := h

/-- A word of major 0x81 acts after it has marked its context. -/
theorem fabricWord_canonical {i : Instr} {b : State → Group → Mask → Res} (h : Memory.wf s.mem = true)
    (hb : ∀ s g m, Memory.wf s.mem = true → (b s g m).Canonical) : OutcomeCanonical (fabricWord i s b) :=
  runWord_canonical h (fun _ => h) fun g m => hb _ g m h

theorem startFabric_canonical {g : Group} {m : Mask} {kind : CopyKind} {w : EN} {src dst n region : Nat} {widen : Bool}
    {routes : List (Nat × Route)} (h : Memory.wf s.mem = true) :
    (startFabric s g m kind w src dst n region widen routes).Canonical := by
  grind -ring -linarith [Res.Canonical, startFabric, startCopyAs_canonical]

theorem execRput_canonical {w : EN} (h : Memory.wf s.mem = true) : OutcomeCanonical (execRput w s) :=
  fabricWord_canonical h fun s g m h => by grind -ring -linarith [Res.Canonical, startFabric_canonical]

theorem execRget_canonical {w : EN} (h : Memory.wf s.mem = true) : OutcomeCanonical (execRget w s) :=
  fabricWord_canonical h fun s g m h => by grind -ring -linarith [Res.Canonical, startFabric_canonical]

theorem execGath_canonical {w : EN} (h : Memory.wf s.mem = true) : OutcomeCanonical (execGath w s) :=
  fabricWord_canonical h fun s g m h => by grind -ring -linarith [Res.Canonical, State.poke_wf, nearDesc_wf, tagUpd_wf]

theorem setCode_wf {tile a code : Nat} (h : Memory.wf s.mem = true) : Memory.wf (setCode s tile a code).mem = true := by
  grind -ring -linarith [setCode, State.poke_wf]

theorem readPool_wf {sh : Shadow} (h : Memory.wf s.mem = true) : Memory.wf (readPool s sh).1.mem = true := by
  unfold readPool
  split
  · exact consumeAt_wf _ _ _ _ _ _ h
  · exact foldl_wf (fun _ _ => countCorrected_wf) h

theorem publishShadow_wf {sh : Shadow} (h : Memory.wf s.mem = true) (e : publishShadow s sh = some t) : Memory.wf t.mem = true := by
  grind -ring -linarith [publishShadow, writeVia_wf, readPool_wf]

theorem handOut_wf {ctx tile a : Nat} (h : Memory.wf s.mem = true) : Memory.wf (handOut s ctx tile a).mem = true := by
  unfold handOut; split <;> exact h

theorem execPublishShadow_canonical {w : EN} (h : Memory.wf s.mem = true) : OutcomeCanonical (execPublishShadow w s) :=
  fabricWord_canonical h fun s g m h => by grind -ring -linarith [Res.Canonical, handOut_wf, setCode_wf, statWord_canonical, nearDesc_wf]

theorem publishOne_wf {sh : Shadow} (h : Memory.wf s.mem = true) : Memory.wf (publishOne s sh).mem = true := by
  unfold publishOne
  split
  · exact h
  · exact getD_wf h fun _ => publishShadow_wf h

theorem publishAll_wf (h : Memory.wf s.mem = true) : Memory.wf (publishAll s).mem = true := foldl_wf (fun _ _ => publishOne_wf) h

theorem publishDue_wf {i : Nat} (h : Memory.wf s.mem = true) : Memory.wf (publishDue s i).mem = true := by
  unfold publishDue
  split
  · exact h
  · exact publishOne_wf h

/-- A form of a word that names a region keeps memory canonical when the effect it is given does. The predicate on the form as a
whole is there for the kernel, as it is for `FormSpares`. -/
def FormCanonical (form : State → EN → (Nat → Res) → Res) : Prop :=
  ∀ (s : State) (w : EN) (f : Nat → Res), Memory.wf s.mem = true → (∀ n, (f n).Canonical) → (form s w f).Canonical

theorem regionForm_wf : FormCanonical regionForm := by
  obtain ⟨region, hr⟩ : ∃ region, region = regionOf := ⟨_, rfl⟩
  delta regionForm
  rw [← hr]
  intro s w f h hf
  dsimp only
  split
  · exact h
  · exact hf _

theorem addPc_wf {w : Who} {i : Nat} {d : W64} (h : Memory.wf s.mem = true) : Memory.wf (addPc s w i d).mem = true := by
  unfold addPc
  repeat' split
  all_goals exact manifestUpd_wf h

theorem execPcarm_canonical {w : EN} (h : Memory.wf s.mem = true) : OutcomeCanonical (execPcarm w s) :=
  fabricWord_canonical h fun s g m h => regionForm_wf s w _ h fun n => by
    dsimp only
    split
    · trivial
    · exact tagUpd_wf h

theorem execPcrd_canonical {w : EN} (h : Memory.wf s.mem = true) : OutcomeCanonical (execPcrd w s) :=
  fabricWord_canonical h fun s _ _ h => regionForm_wf s w _ h fun _ => statAfter_canonical h

theorem execPcadd_canonical {w : EN} (h : Memory.wf s.mem = true) : OutcomeCanonical (execPcadd w s) :=
  fabricWord_canonical h fun s _ _ h => regionForm_wf s w _ h fun _ => addPc_wf h

theorem execGenst_canonical {w : EN} (h : Memory.wf s.mem = true) : OutcomeCanonical (execGenst w s) :=
  fabricWord_canonical h fun s g m h => regionForm_wf s w _ h fun n => by
    extract_lets x l1 l2 s1
    have h1 : Memory.wf s1.mem = true := by
      dsimp only [s1]
      split <;> exact h
    exact manifestUpd_wf h1

theorem execGenrd_canonical {w : EN} (h : Memory.wf s.mem = true) : OutcomeCanonical (execGenrd w s) :=
  fabricWord_canonical h fun s _ _ h => regionForm_wf s w _ h fun _ => statAfter_canonical h

theorem execPcarmComplete_canonical (h : Memory.wf s.mem = true) : OutcomeCanonical (execPcarmComplete s) := by
  show Memory.wf (State.mem _) = true
  repeat' split
  · exact h
  · exact tagUpd_wf h
  · exact h

theorem consumeReply_wf {w : Who} {x : Nat} (h : Memory.wf s.mem = true) : Memory.wf (consumeReply s w x).mem = true := by
  grind -ring -linarith [consumeReply, consumeAt_wf]

theorem readPut_wf {c : Copy} {x : Nat} (h : Memory.wf s.mem = true) : Memory.wf (readPut s c x).1.mem = true := by
  unfold readPut
  split <;> grind -ring -linarith [State.readVia_wf]

theorem execPacketSend_canonical (h : Memory.wf s.mem = true) : OutcomeCanonical (execPacketSend s) := by
  show Memory.wf (State.mem _) = true
  split
  · grind -ring -linarith [dropFar_wf, endContext_wf, touchPod_wf, setFar_wf]
  · split
    · exact h
    · split
      · grind -ring -linarith [setCopy_wf]
      · grind -ring -linarith [endContext_wf, touchPod_wf, setCopy_wf, readPut_wf]

theorem sampleSend_wf {rt : Route} {sd : Send} (h : Memory.wf s.mem = true) : Memory.wf (sampleSend s rt sd).mem = true := by
  unfold sampleSend
  split
  · exact takeSample_wf h
  · exact h

theorem finishLife_wf {c : Copy} (h : Memory.wf s.mem = true) : Memory.wf (finishLife s c).mem = true := by
  unfold finishLife
  split
  · exact lifeDone_wf h
  · exact h

theorem execPacketAck_canonical (h : Memory.wf s.mem = true) : OutcomeCanonical (execPacketAck s) := by
  show Memory.wf (State.mem _) = true
  grind -ring -linarith [finishCopy_wf, setFar_wf, finishLife_wf, sampleSend_wf, consumeReply_wf, tagUpd_wf]

theorem addRetx_wf {tile n : Nat} (h : Memory.wf s.mem = true) : Memory.wf (addRetx s tile n).mem = true := by
  unfold addRetx; split <;> exact h

theorem resend_wf {ctx tile : Nat} {rt : Route} {sd : Send} {i a n : Nat} {put : State → Send → State} {fail : State → State}
    (hput : ∀ s x, Memory.wf s.mem = true → Memory.wf (put s x).mem = true) (hfail : ∀ s, Memory.wf s.mem = true → Memory.wf (fail s).mem = true)
    (h : Memory.wf s.mem = true) : Memory.wf (resend s ctx tile rt sd i a n put fail).mem = true := by
  grind -ring -linarith [resend, addRetx_wf, endContext_wf]

theorem execRtoExpiry_canonical (h : Memory.wf s.mem = true) : OutcomeCanonical (execRtoExpiry s) := by
  show Memory.wf (State.mem _) = true
  split
  · split
    · exact resend_wf (fun _ _ h => h) (fun _ h => h) h
    · exact h
  · split
    · exact h
    · next c _ =>
      have hr := readPut_wf (c := c) (x := s.inp.b) h
      split
      · extract_lets
        split
        · exact h
        · split
          · next e => rw [e] at hr; exact resend_wf (fun _ _ h => h) (fun _ h => h) hr
          · next e =>
            rw [e] at hr
            split
            · exact resend_wf (fun _ _ h => h) (fun _ h => h) h
            · exact hr
      · exact h

theorem placePut_wf {c : Copy} {k x : Nat} (h : Memory.wf s.mem = true) : Memory.wf (placePut s c k x).mem = true := by
  unfold placePut
  extract_lets
  split
  · exact h
  · split
    · exact h
    · next e => exact State.readVia_wf h e
    · next e =>
      split
      · exact h
      · next e2 => exact finishCopy_wf (tagUpd_wf (addPc_wf (writeVia_wf _ _ _ _ _ _ (State.readVia_wf h e) e2)))

theorem placeGet_wf {c : Copy} {x : Nat} {bs : List Byte} {only : Option Nat} (h : Memory.wf s.mem = true) :
    Memory.wf (placeGet s c x bs only).mem = true := by
  unfold placeGet
  extract_lets z a data mark left todo s1?
  have h1 : ∀ t, s1? = some t → Memory.wf t.mem = true :=
    List.foldlRecOn (motive := fun r : Option State => ∀ t, r = some t → Memory.wf t.mem = true) _ _ (fun t e => Option.some.inj e ▸ h) fun r hr b _ t e => by
      dsimp only at e
      split at e
      · cases e
      · exact writeVia_wf _ _ _ _ _ _ (hr _ rfl) e
  clear_value s1?
  split
  · exact h
  · split
    · exact h
    · dsimp only
      split
      · exact finishCopy_wf (tagUpd_wf (h1 _ rfl))
      · exact setCopy_wf (tagUpd_wf (h1 _ rfl))

theorem replyGet_wf {c : Copy} {x : Nat} {bs : List Byte} (h : Memory.wf s.mem = true) : Memory.wf (replyGet s c x bs).1.mem = true := by
  grind -ring -linarith [replyGet, setCopy_wf, sampleSend_wf]

theorem poisonReply_wf {c : Copy} {x : Nat} (h : Memory.wf s.mem = true) : Memory.wf (poisonReply s c x).mem = true := by
  grind -ring -linarith [poisonReply, setCopy_wf, sampleSend_wf, consumeReply_wf]

theorem placeGather_wf {c : Copy} {x : Nat} {bs : List Byte} {gen : Nat} (h : Memory.wf s.mem = true) :
    Memory.wf (placeGather s c x bs gen).mem = true := by
  unfold placeGather
  repeat' split
  · exact sampleSend_wf h
  · exact h
  · exact sampleSend_wf h
  · exact h

theorem lifeHere_wf {c : Copy} (h : Memory.wf s.mem = true) : Memory.wf (lifeHere s c).mem = true := by
  grind -ring -linarith [lifeHere, setCopy_wf, lifePoke_wf, lifeDone_wf]

theorem placeOwn_wf {c : Copy} {x : Nat} (h : Memory.wf s.mem = true) : Memory.wf (placeOwn s c x).mem = true := by
  grind -ring -linarith [placeOwn, placePut_wf, State.readVia_wf, placeGather_wf, placeGet_wf, lifeHere_wf, replyGet_wf, poisonReply_wf]

theorem readSoftVia_wf {ctx a n : Nat} {r : Option (List Byte)} (h : Memory.wf s.mem = true) (e : readSoftVia s ctx a n = some (t, r)) :
    Memory.wf t.mem = true := by
  obtain ⟨qs, -, e1⟩ := Option.bind_eq_some_iff.1 e
  obtain ⟨s1, e2, e3⟩ := Option.map_eq_some_iff.1 e1
  suffices hr : Memory.wf (State.mem (Prod.fst (List.foldl _ _ _))) = true by rwa [e3] at hr
  exact List.foldlRecOn (motive := fun r : State × Option (List Byte) => Memory.wf r.1.mem = true) _ _ (hbmRuns_wf h e2) fun r hr x _ => by
    grind -ring -linarith [State.readSoft_wf, State.pastHost_wf]

theorem performArrival_wf {w : Who} {ar : Arrival} {a : Nat} {r : Option (List Byte)} (h : Memory.wf s.mem = true)
    (e : performArrival s w ar a = some (t, r)) : Memory.wf t.mem = true := by
  unfold performArrival at e
  split at e
  · obtain ⟨x, e1, e2⟩ := Option.map_eq_some_iff.1 e
    cases e2
    exact readSoftVia_wf h e1
  · split at e
    · obtain ⟨s1, e1, e2⟩ := Option.map_eq_some_iff.1 e
      cases e2
      exact writeVia_wf _ _ _ _ _ _ h e1
    · split at e
      · cases e
      · split at e
        · cases e
        · obtain ⟨s1, e1, e2⟩ := Option.bind_eq_some_iff.1 e
          grind -ring -linarith [hbmRun_wf, State.readSoft_wf, atomicAt_wf]

theorem answerAgain_wf {sender ident : Nat} (h : Memory.wf s.mem = true) : Memory.wf (answerAgain s sender ident).mem = true := by
  unfold answerAgain; split <;> exact h

/- The matcher on `regionOf` is reducible: the kernel would run `regionOf` before it compares the bodies. So the body is taken
as an equation between functions, and `regionOf` in it as any function. -/
theorem placeArrival_wf {sender ident : Nat} (h : Memory.wf s.mem = true) : Memory.wf (placeArrival s sender ident).mem = true := by
  obtain ⟨place, hp⟩ : ∃ place, place = placeArrival := ⟨_, rfl⟩
  obtain ⟨region, hr⟩ : ∃ region, region = regionOf := ⟨_, rfl⟩
  rw [← hp]
  delta placeArrival at hp
  rw [← hr] at hp
  subst hp
  clear hr
  beta_reduce
  extract_lets ar
  split
  · exact h
  · extract_lets a bad src w s0 obj evs
    have h0 : Memory.wf s0.mem = true := arriveEpoch_wf h
    clear_value s0
    split
    · exact h
    · split
      · exact answerAgain_wf h
      · split
        · exact h
        · split
          · exact h0
          · exact diverged_wf h0
          · split
            · exact h0
            · next e =>
              have h1 := performArrival_wf (foldl_wf (fun _ _ => passEvent_wf) h0) e
              refine foldl_wf (fun _ _ => logEvent_wf) ?_
              split
              · exact addPc_wf h1
              · exact h1

theorem execPacketPlace_canonical (h : Memory.wf s.mem = true) : OutcomeCanonical (execPacketPlace s) := by
  show Memory.wf (State.mem _) = true
  repeat' split
  · exact placeArrival_wf h
  · exact publishDue_wf h
  · exact placeOwn_wf h
  · exact h

theorem execGatherComplete_canonical (h : Memory.wf s.mem = true) : OutcomeCanonical (execGatherComplete s) := by
  show Memory.wf (State.mem _) = true
  grind -ring -linarith [State.poke_wf, setCode_wf, tagUpd_wf]

theorem resendHits_wf {hit : Route → Send → Bool} {f : Route → Send → Nat → Nat → Nat → Send} {late : Route → Send → Send} (h : Memory.wf s.mem = true) :
    Memory.wf (resendHits s hit f late).mem = true :=
  foldl_wf (fun _ _ h => foldl_wf (fun _ _ => readPut_wf) h) (foldl_wf (fun _ _ => addRetx_wf) (foldl_wf (fun _ _ => addRetx_wf) h))

theorem execPlaneFail_canonical (h : Memory.wf s.mem = true) : OutcomeCanonical (execPlaneFail s) := by
  show Memory.wf (State.mem _) = true
  have h1 : ∀ d : Nat, Memory.wf (errRecord { s with dead := d } 5 9 0 0 0xFF (s.inp.a % 4) 0).mem = true := fun d => errRecord_wf _ _ _ _ _ _ _ _ h
  split
  · exact h
  · extract_lets dead s1 pm s2
    split
    · refine foldl_wf (fun s x h => ?_) (h1 _)
      extract_lets
      split
      · exact endContext_wf _ _ _ _ h
      · exact h
    · exact resendHits_wf (h1 _)

theorem evict_wf {e : RtEntry} (h : Memory.wf s.mem = true) : Memory.wf (evict s e).mem = true := h

theorem fillPod_wf {raw : Nat} (h : Memory.wf s.mem = true) : Memory.wf (fillPod s raw).mem = true := by
  grind -ring -linarith [fillPod, evict_wf]

theorem execRtfill_canonical (h : Memory.wf s.mem = true) : OutcomeCanonical (execRtfill s) := by
  show Memory.wf (State.mem _) = true
  repeat' split
  · exact fillPod_wf h
  · exact h
  · exact fillPod_wf h

theorem execRtmiss_canonical (h : Memory.wf s.mem = true) : OutcomeCanonical (execRtmiss s) := by
  show Memory.wf (State.mem _) = true
  grind -ring -linarith [endContext_wf, latch_wf]

theorem writeJobctl_wf {v : Nat} (h : Memory.wf s.mem = true) : Memory.wf (writeJobctl s v).mem = true := by
  unfold writeJobctl
  extract_lets
  split
  · exact h
  · split
    · refine foldl_wf (fun s ctx h => ?_) h
      split
      · exact endContext_wf _ _ _ _ h
      · exact h
    · exact h

theorem writeRegion_wf {n : Nat} {ws : List Nat} (h : Memory.wf s.mem = true) : Memory.wf (writeRegion s n ws).mem = true := by
  grind -ring -linarith [writeRegion, State.setReg_wf]

/-- Each port that goes down is recorded (27 R394). -/
theorem portErrors_wf {down : Nat → Bool} (h : Memory.wf s.mem = true) :
    Memory.wf ((List.range 8).foldl (fun s p => if down p then errRecord s 5 10 0 0 0xFF p 0 else s) s).mem = true :=
  foldl_wf (fun s p h => by
    split
    · exact errRecord_wf _ _ _ _ _ _ _ _ h
    · exact h) h

theorem writeTorus_wf {v : Nat} (h : Memory.wf s.mem = true) : Memory.wf (writeTorus s v).mem = true := by
  unfold writeTorus
  apply resendHits_wf
  apply portErrors_wf
  exact State.setReg_wf h

theorem hostStore_wf {p : Nat} {bs : List Byte} (h : Memory.wf s.mem = true) : Memory.wf (hostStore s p bs).mem = true := by
  grind -ring -linarith [hostStore, State.shown_wf, State.poke_wf, State.pastHost_wf]

theorem hostPoke_wf {p : Nat} {bs : List Byte} (h : Memory.wf s.mem = true) : Memory.wf (hostPoke s p bs).mem = true := by
  unfold hostPoke
  split
  · exact h
  · exact hostStore_wf h

theorem hostBegin_wf {p : Nat} (h : Memory.wf s.mem = true) : Memory.wf (hostBegin s p).mem = true := by
  grind -ring -linarith [hostBegin, State.readSoft_wf]

theorem hostWrite_wf {i : Nat} (h : Memory.wf s.mem = true) : Memory.wf (hostWrite s i).mem = true := by
  unfold hostWrite
  repeat' split
  · exact h
  · exact h
  · exact hostStore_wf h
  · exact h
  · exact hostStore_wf h

theorem execHostAccess_canonical (h : Memory.wf s.mem = true) : OutcomeCanonical (execHostAccess s) := by
  show Memory.wf (State.mem _) = true
  grind -ring -linarith [hostPoke_wf, hostBegin_wf, State.readSoft_wf, hostWrite_wf]

end Sys2Proof.Machine

/-! PROOFS, 09 R152. The events of a group, of faults, of launches and of preemption keep the memory form. -/

namespace Sys2Proof.Machine
open Sys2Proof

variable {s t : State}

/-! ### Groups that wait or end -/

theorem goOn_wf {key : Nat} {g : Group} (h : Memory.wf s.mem = true) : Memory.wf (goOn s key g).mem = true := h

theorem unblock_wf {key : Nat} {g : Group} {w : Wait} (h : Memory.wf s.mem = true) : Memory.wf (unblock s key g w).mem = true := by
  unfold unblock
  cases w <;> grind -ring -linarith [goOn_wf, takeTrap_wf, handPublish_wf, markArrived_wf, phaseRead_wf, tfenceRelease_wf]

theorem unblockGroup_wf {key : Nat} (h : Memory.wf s.mem = true) : Memory.wf (unblockGroup s key).mem = true := by
  unfold unblockGroup
  repeat' split
  · exact h
  · exact h
  · exact unblock_wf h
  · exact h

theorem unblockAll_wf (h : Memory.wf s.mem = true) : Memory.wf (unblockAll s).mem = true := foldl_wf (fun _ _ => unblockGroup_wf) h

theorem dropDead_wf {key : Nat} {g : Group} (h : Memory.wf s.mem = true) : Memory.wf (dropDead s key g).mem = true := by
  grind -ring -linarith [dropDead, latch_wf]

theorem freeGroup_wf {key : Nat} {g : Group} (h : Memory.wf s.mem = true) : Memory.wf (freeGroup s key g).mem = true := by
  grind -ring -linarith [freeGroup, errRecord_wf]

theorem execIllegal_canonical {r n maj mi : Nat} (h : Memory.wf s.mem = true) : OutcomeCanonical (execIllegal r n maj mi s) := by
  unfold execIllegal
  split
  · trivial
  · exact takeTrap_wf _ _ _ _ _ h

/-! ### Faults and their answers -/

theorem addFault_wf {ctx va kind lvl pte : Nat} {wr : Bool} {agent tile req : Nat} (h : Memory.wf s.mem = true) :
    Memory.wf (addFault s ctx va kind lvl pte wr agent tile req).mem = true := by
  grind -ring -linarith [addFault]

theorem execFaultEntryWrite_canonical (h : Memory.wf s.mem = true) : OutcomeCanonical (execFaultEntryWrite s) := by
  show Memory.wf (State.mem _) = true
  grind -ring -linarith [State.setReg_wf, engineWrite_wf]

theorem ackFault_wf {v : Nat} (h : Memory.wf s.mem = true) : Memory.wf (ackFault s v).mem = true := by
  grind -ring -linarith [ackFault, endContext_wf]

theorem execFqackRetry_canonical (h : Memory.wf s.mem = true) : OutcomeCanonical (execFqackRetry s) := by
  show Memory.wf (State.mem _) = true
  split
  · exact ackFault_wf h
  · exact h

theorem execFqackNomem_canonical (h : Memory.wf s.mem = true) : OutcomeCanonical (execFqackNomem s) := by
  show Memory.wf (State.mem _) = true
  split
  · exact ackFault_wf h
  · exact h

theorem execFqackKilled_canonical (h : Memory.wf s.mem = true) : OutcomeCanonical (execFqackKilled s) := by
  show Memory.wf (State.mem _) = true
  repeat' split
  · exact endContext_wf _ _ _ _ h
  · exact h
  · exact ackFault_wf h
  · exact h

theorem writeXlinv_wf {v : Nat} (h : Memory.wf s.mem = true) : Memory.wf (writeXlinv s v).mem = true := by
  unfold writeXlinv; split <;> exact h

theorem writeFqbase_wf {v : Nat} (h : Memory.wf s.mem = true) : Memory.wf (writeFqbase s v).mem = true := by
  grind -ring -linarith [writeFqbase, State.setReg_wf]

theorem writeFqctl_wf {v : Nat} (h : Memory.wf s.mem = true) : Memory.wf (writeFqctl s v).mem = true := by
  grind -ring -linarith [writeFqctl, State.setReg_wf]

/-! ### Launches and their records -/

theorem execQtailDoorbell_canonical (h : Memory.wf s.mem = true) : OutcomeCanonical (execQtailDoorbell s) := by
  show Memory.wf (State.mem _) = true
  split <;> exact h

theorem writeQctl_wf {q v : Nat} (h : Memory.wf s.mem = true) : Memory.wf (writeQctl s q v).mem = true := by
  grind -ring -linarith [writeQctl, State.setReg_wf]

theorem execQctlWrite_canonical (h : Memory.wf s.mem = true) : OutcomeCanonical (execQctlWrite s) := by
  show Memory.wf (State.mem _) = true
  split
  · exact writeQctl_wf h
  · exact h

theorem slotsRead_wf {q slot n : Nat} {r : Option (List Byte)} (h : Memory.wf s.mem = true) (e : slotsRead s q slot n = some (t, r)) :
    Memory.wf t.mem = true := by
  have hr : SomeCanonical (slotsRead s q slot n) := List.foldlRecOn _ _ (someCanonical_some h) fun r hr i _ => by
    unfold SomeCanonical at *
    grind -ring -linarith [State.readVia_wf]
  exact hr _ _ e

theorem slotsWrite_wf {p : Post} (h : Memory.wf s.mem = true) (e : slotsWrite s p = some t) : Memory.wf t.mem = true :=
  List.foldlRecOn (motive := fun r => ∀ t, r = some t → Memory.wf t.mem = true) _ _ (fun t e => by cases e; exact h) (fun r hr i _ t e => by
    split at e
    · exact writeVia_wf _ _ _ _ _ _ (hr _ rfl) e
    · cases e) t e

theorem logRecord_wf {q num : Nat} {bs : List Byte} (h : Memory.wf s.mem = true) : Memory.wf (logRecord s q num bs).mem = true := by
  unfold logRecord
  extract_lets
  split
  · exact logEvent_wf h
  · exact foldl_wf (fun _ _ => logEvent_wf) (logEvent_wf h)

theorem tookRecord_wf {q n : Nat} (h : Memory.wf s.mem = true) : Memory.wf (tookRecord s q n).mem = true := h

theorem enterRecord_wf {q : Nat} {bs : List Byte} (h : Memory.wf s.mem = true) : Memory.wf (enterRecord s q bs).mem = true := h

theorem nextBytes_wf {q : Nat} {bs : List Byte} (h : Memory.wf s.mem = true) (e : nextBytes s q = some (t, bs)) : Memory.wf t.mem = true := by
  unfold nextBytes at e
  split at e
  · split at e
    · cases e
    · split at e
      · next e1 =>
        split at e
        · next e2 => cases e; exact slotsRead_wf (slotsRead_wf h e1) e2
        · cases e
      · cases e
  · split at e
    · cases e
    · next p _ =>
      split at e
      · cases e
      · split at e
        · cases e; exact h
        · split at e
          · cases e
          · next s1 e1 =>
            have h1 := slotsWrite_wf h e1
            split at e
            · next e2 => cases e; exact slotsRead_wf (s := { s1 with posts := s1.posts.erase p }) h1 e2
            · cases e

theorem execRecordAdmission_canonical (h : Memory.wf s.mem = true) : OutcomeCanonical (execRecordAdmission s) := by
  show Memory.wf (State.mem _) = true
  grind -ring -linarith [logRecord_wf, enterRecord_wf, diverged_wf, nextBytes_wf, tookRecord_wf]

theorem setJob_wf {j : Job} (h : Memory.wf s.mem = true) : Memory.wf (setJob s j).mem = true := h

theorem execBlockEnd_canonical (h : Memory.wf s.mem = true) : OutcomeCanonical (execBlockEnd s) := by
  show Memory.wf (State.mem _) = true
  grind -ring -linarith [manifestUpd_wf]

theorem execDependenceTagReady_canonical (h : Memory.wf s.mem = true) : OutcomeCanonical (execDependenceTagReady s) := by
  show Memory.wf (State.mem _) = true
  split
  · exact h
  · split
    · exact h
    · split
      · exact h
      · dsimp only
        split
        · exact h
        · exact foldl_wf (fun _ _ => tagUpd_wf) h

theorem distAtomic_wf {w : Who} {a : Nat} {f : Nat → Nat} (h : Memory.wf s.mem = true) (e : distAtomic s w a f = some t) :
    Memory.wf t.mem = true := by
  grind -ring -linarith [distAtomic, hbmRun_wf, readAt_wf, logEvent_wf, atomicAt_wf, Option.map_eq_some_iff]

theorem completion_wf {j : Job} (h : Memory.wf s.mem = true) (e : completion s j = some t) : Memory.wf t.mem = true := by
  grind -ring -linarith [completion, distAtomic_wf, handPublish_wf, Option.map_eq_some_iff, Option.bind_eq_some_iff]

theorem failConsumers_wf {p : Job} (h : Memory.wf s.mem = true) : Memory.wf (failConsumers s p).mem = true := by
  unfold failConsumers; split <;> exact h

theorem execLaunchComplete_canonical (h : Memory.wf s.mem = true) : OutcomeCanonical (execLaunchComplete s) := by
  show Memory.wf (State.mem _) = true
  grind -ring -linarith [completion_wf, setJob_wf, failConsumers_wf]

/-! ### Placing blocks and tasks -/

theorem hintWalks_wf (h : Memory.wf s.mem = true) : Memory.wf (hintWalks s).mem = true :=
  foldl_wf (fun s j h => by
    split
    · split
      · exact h
      · exact walkedPlace_wf h
    · exact h) h

theorem State.reserve_wf {job block : Nat} {rs : List Resv} (h : Memory.wf s.mem = true) : Memory.wf (State.reserve s job block rs).mem = true := h

theorem State.clear_wf {p n : Nat} (h : Memory.wf s.mem = true) : Memory.wf (s.clear p n).mem = true := Memory.wf_filter _ _ h

theorem openTile_wf {hd bid : Nat} {ds : List (Nat × Nat × Nat)} {pl : Place} {x : Nat} (h : Memory.wf s.mem = true) :
    Memory.wf (openTile s hd bid ds pl x).mem = true :=
  foldl_wf (fun _ _ => State.setSkein_wf) (State.clear_wf h)

theorem placeBlock_wf {c : Choice} (h : Memory.wf s.mem = true) : Memory.wf (placeBlock s c).mem = true := by
  unfold placeBlock
  extract_lets j bid origin epoch args w s0 r b s1 s2 s3 st s4
  have h0 : Memory.wf s0.mem = true := logEvent_wf h
  clear_value s0
  have h2 : Memory.wf s2.mem = true :=
    foldl_wf (fun _ _ => openTile_wf) (setJob_wf (s := { s0 with seq := s0.seq + 1, groups := r.1, blocks := s0.blocks.set bid b }) h0)
  clear_value s2
  have h3 : Memory.wf s3.mem = true := by
    dsimp only [s3]
    split
    · exact foldl_wf (fun _ _ => tagUpd_wf) h2
    · exact h2
  clear_value s3
  refine foldl_wf (fun s k h => ?_) (show Memory.wf s4.mem = true from h3)
  extract_lets
  split
  · exact marker_wf (State.clear_wf h)
  · exact State.clear_wf h

theorem carryOut_wf {c : Choice} (h : Memory.wf s.mem = true) : Memory.wf (carryOut s c).mem = true := by
  grind -ring -linarith [carryOut, diverged_wf, placeBlock_wf]

theorem execBlockPlace_canonical (h : Memory.wf s.mem = true) : OutcomeCanonical (execBlockPlace s) := by
  show Memory.wf (State.mem _) = true
  split
  · exact carryOut_wf (hintWalks_wf h)
  · exact hintWalks_wf h

theorem ageAll_wf (h : Memory.wf s.mem = true) : Memory.wf (ageAll s).mem = true := h

theorem execQueueAging_canonical (h : Memory.wf s.mem = true) : OutcomeCanonical (execQueueAging s) := by
  show Memory.wf (State.mem _) = true
  split <;> exact h

theorem enterTask_wf {bs : List Byte} {home : Nat} (h : Memory.wf s.mem = true) (e : enterTask s bs home = some t) : Memory.wf t.mem = true := by
  unfold enterTask at e
  extract_lets q ctx x a num job add w at e
  have ha : ∀ s j, Memory.wf s.mem = true → Memory.wf (add s j).mem = true := fun _ _ h => h
  clear_value add
  split at e
  · cases e; exact ha _ _ h
  · split at e
    · cases e; exact ha _ _ h
    · split at e
      · cases e
      · next er => cases e; exact ha _ _ (State.readVia_wf h er)
      · next er =>
        have h1 := State.readVia_wf h er
        extract_lets at e
        split at e
        · split at e <;> cases e
          exact ha _ _ h1
        · next er => cases e; exact ha _ _ (State.readVia_wf h1 er)
        · next er => cases e; exact ha _ _ (State.readVia_wf h1 er)

theorem execTaskTake_canonical (h : Memory.wf s.mem = true) : OutcomeCanonical (execTaskTake s) := by
  show Memory.wf (State.mem _) = true
  grind -ring -linarith [nextBytes_wf, diverged_wf, logRecord_wf, enterTask_wf, tookRecord_wf, hintWalks_wf, carryOut_wf]

/-! ### Preemption and restoration -/

theorem raisePreempt_wf {bid : Nat} (h : Memory.wf s.mem = true) : Memory.wf (raisePreempt s bid).mem = true := by
  unfold raisePreempt
  repeat' split
  all_goals exact h

theorem execForcedSave_canonical (h : Memory.wf s.mem = true) : OutcomeCanonical (execForcedSave s) := by
  show Memory.wf (State.mem _) = true
  repeat' split
  all_goals exact h

theorem writeParts_wf {w : Who} {tile base : Nat} {ps : List (Nat × List Byte)} (h : Memory.wf s.mem = true)
    (e : writeParts s w tile base ps = some t) :
    Memory.wf t.mem = true := by
  induction ps generalizing s with
  | nil => cases e; exact h
  | cons x r ih =>
    obtain ⟨s1, e1, e2⟩ := Option.bind_eq_some_iff.1 e
    exact ih (writeVia_wf _ _ _ _ _ _ h e1) e2

theorem spillImage_wf {key : Nat} {g : Group} (h : Memory.wf s.mem = true) : Memory.wf (spillImage s key g).1.mem = true := by
  grind -ring -linarith [spillImage, readAt_wf]

theorem ringImages_wf {b : Block} {ds : List (Nat × Nat × Nat)} (h : Memory.wf s.mem = true) : Memory.wf (ringImages s b ds).1.mem = true := by
  induction ds generalizing s with
  | nil => exact h
  | cons d r ih => grind -ring -linarith [ringImages, readAt_wf]

theorem blockOut_wf {bid : Nat} (h : Memory.wf s.mem = true) (e : blockOut s bid = some t) : Memory.wf t.mem = true := by
  grind -ring -linarith [blockOut, ringImages_wf, writeParts_wf, flushAcc_wf, Option.map_eq_some_iff]

theorem execGroupLeave_canonical (h : Memory.wf s.mem = true) : OutcomeCanonical (execGroupLeave s) := by
  show Memory.wf (State.mem _) = true
  split
  · exact h
  · next g _ =>
    split
    · exact h
    · split
      · exact h
      · split
        · exact consume_wf h
        · extract_lets s0
          have h0 : Memory.wf s0.mem = true := by
            dsimp only [s0]
            split
            · exact h
            · exact foldl_wf (fun _ _ => countCorrected_wf) h
          clear_value s0
          have hi := spillImage_wf (key := s.inp.a) (g := g) h0
          split
          · next e => rw [e] at hi; exact hi
          · next e =>
            rw [e] at hi
            extract_lets
            split
            · exact h
            · next e2 =>
              have h2 := writeParts_wf hi e2
              refine getD_wf h fun t => blockOut_wf ?_
              exact h2

theorem execGroupEnd_canonical (h : Memory.wf s.mem = true) : OutcomeCanonical (execGroupEnd s) := by
  show Memory.wf (State.mem _) = true
  split
  · exact h
  · next g _ =>
    split
    · exact h
    · have h1 : Memory.wf (dropDead s s.inp.a g).mem = true := dropDead_wf h
      dsimp only
      split
      · exact h1
      · exact getD_wf h1 fun _ => blockOut_wf (freeGroup_wf h1)

theorem thenRead_canonical {α β : Type} {r : Option (State × Option α)} {f : State → α → Option (State × Option β)} (hr : SomeCanonical r)
    (hf : ∀ s x, Memory.wf s.mem = true → SomeCanonical (f s x)) : SomeCanonical (thenRead r f) := by
  unfold thenRead
  split
  · exact fun _ _ e => by cases e
  · exact someCanonical_some (hr _ _ rfl)
  · exact hf _ _ (hr _ _ rfl)

theorem readVia_canonical {w : Who} {tile a n : Nat} (h : Memory.wf s.mem = true) :
    SomeCanonical (s.readVia w tile a n) := fun _ _ => State.readVia_wf h

theorem imageRegs_canonical {w : Who} {tile base vregs mask : Nat} (h : Memory.wf s.mem = true) :
    SomeCanonical (imageRegs s w tile base vregs mask) := by
  unfold imageRegs
  refine thenRead_canonical ?_ fun s1 sb h1 => thenRead_canonical ?_ fun s2 v h2 => someCanonical_some h2
  · split
    · exact readVia_canonical h
    · exact someCanonical_some h
  · exact List.foldlRecOn _ _ (someCanonical_some h1) fun r hr x _ =>
      thenRead_canonical hr fun s t h => thenRead_canonical (readVia_canonical h) fun s1 bs h => someCanonical_some h

theorem restoreGroups_canonical {b : Block} {pl : Place} {slot : Nat} {gs : Tab Group} (h : Memory.wf s.mem = true) :
    SomeCanonical (restoreGroups s b pl slot gs) := by
  induction gs generalizing s with
  | nil => exact someCanonical_some h
  | cons x r ih =>
    exact thenRead_canonical (readVia_canonical h) fun s1 bs h => thenRead_canonical (readVia_canonical h) fun s2 sp h =>
      thenRead_canonical (imageRegs_canonical h) fun s3 y h => thenRead_canonical (ih h) fun s4 rest h => someCanonical_some h

theorem restoreTags_wf {b : Block} {pl : Place} {bs : List Byte} {i : Nat} (h : Memory.wf s.mem = true) :
    Memory.wf (restoreTags s b pl bs i).mem = true := h

theorem restoreTile_canonical {w : Who} {slot : Nat} {b : Block} {pl : Place} {i : Nat} (h : Memory.wf s.mem = true) :
    SomeCanonical (restoreTile s w slot b pl i) :=
  List.foldlRecOn _ _ (someCanonical_some (foldl_wf (fun _ _ => State.setSkein_wf) h)) fun _ hr _ _ =>
    thenRead_canonical hr fun _ _ h => thenRead_canonical (readVia_canonical h) fun _ _ h => someCanonical_some (State.poke_wf _ _ _ h)

theorem restoreBlock_wf {bid : Nat} {b : Block} {pl : Place} (h : Memory.wf s.mem = true) (e : restoreBlock s bid b pl = some t) :
    Memory.wf t.mem = true := by
  unfold restoreBlock at e
  extract_lets slot tile w read at e
  have hr : SomeCanonical read :=
    thenRead_canonical (restoreGroups_canonical h) fun s1 gs h => thenRead_canonical (readVia_canonical h) fun s2 bs h =>
      thenRead_canonical (readVia_canonical h) fun s3 rs h => thenRead_canonical (List.foldlRecOn _ _ (someCanonical_some h) fun r hr i _ =>
        thenRead_canonical hr fun s _ h => restoreTile_canonical h) fun s4 _ h => someCanonical_some h
  clear_value read
  split at e
  · cases e
  · cases e; exact hr _ _ rfl
  · have h1 := hr _ _ rfl
    extract_lets r b1 s2 s3 at e
    obtain rfl := Option.some.inj e
    have h2 : Memory.wf s2.mem = true := foldl_wf (fun _ _ => restoreTags_wf) h1
    have h3 : Memory.wf s3.mem = true := foldl_wf (fun _ _ => barStep_wf) h2
    refine foldl_wf (fun s i h => ?_) h3
    split
    · extract_lets
      split
      · exact marker_wf (State.poke_wf _ _ _ h)
      · exact State.poke_wf _ _ _ h
    · exact h

theorem payOwed_wf {bid : Nat} (h : Memory.wf s.mem = true) (e : payOwed s bid = some t) : Memory.wf t.mem = true := by
  grind -ring -linarith [payOwed, writeParts_wf, Option.map_eq_some_iff]

theorem execRestore_canonical (h : Memory.wf s.mem = true) : OutcomeCanonical (execRestore s) := by
  show Memory.wf (State.mem _) = true
  have h0 := flushAcc_wf (bid := s.inp.a) h
  split
  · exact h0
  · next e =>
    have h1 := payOwed_wf h0 e
    split
    · exact h1
    · split
      · exact h1
      · split
        · exact h1
        · refine getD_wf h1 fun t e => ?_
          obtain ⟨s2, e2, rfl⟩ := Option.map_eq_some_iff.1 e
          exact State.reserve_wf (restoreBlock_wf h1 e2)

theorem writeTileoff_wf {i v : Nat} (h : Memory.wf s.mem = true) : Memory.wf (writeTileoff s i v).mem = true := by
  unfold writeTileoff
  extract_lets
  refine foldl_wf (fun s x h => ?_) (State.setReg_wf h)
  split
  · split
    · exact endContext_wf _ _ _ _ h
    · exact raisePreempt_wf h
  · exact h

theorem execPageWalk_canonical (h : Memory.wf s.mem = true) : OutcomeCanonical (execPageWalk s) := by
  show Memory.wf (State.mem _) = true
  grind -ring -linarith [holdTrans_wf, addFault_wf, walk_wf]

end Sys2Proof.Machine

/-! PROOFS, 09 R152. The events of errors and power and the register writes keep the memory form; so does every word, every event and every step. -/

namespace Sys2Proof.Machine
open Sys2Proof

variable {s t : State}

/-! ### Errors, power and the reset -/

theorem addFlaw_wf {f : Flaw} (h : Memory.wf s.mem = true) : Memory.wf (addFlaw s f).mem = true := by
  unfold addFlaw; split <;> exact h

theorem execSoftError_canonical (h : Memory.wf s.mem = true) : OutcomeCanonical (execSoftError s) := by
  show Memory.wf (State.mem _) = true
  grind -ring -linarith [countCorrected_wf, addFlaw_wf]

theorem execScrub_canonical (h : Memory.wf s.mem = true) : OutcomeCanonical (execScrub s) := by
  show Memory.wf (State.mem _) = true
  grind -ring -linarith [countCorrected_wf, errRecord_wf]

theorem execCecntRead_canonical (h : Memory.wf s.mem = true) : OutcomeCanonical (execCecntRead s) := by
  show Memory.wf (State.mem _) = true
  split <;> exact h

theorem writeErrctl_wf {v : Nat} (h : Memory.wf s.mem = true) : Memory.wf (writeErrctl s v).mem = true := by
  unfold writeErrctl
  extract_lets
  split
  · exact h
  · split
    · exact State.setReg_wf (State.setReg_wf (State.setReg_wf (State.setReg_wf h)))
    · exact State.setReg_wf h

theorem closeRound_wf {ctr : Nat} {e : Nat → Nat} {u : Nat} (h : Memory.wf s.mem = true) : Memory.wf (closeRound s ctr e u).mem = true := by
  unfold closeRound; split <;> exact h

theorem execPowerRound_canonical (h : Memory.wf s.mem = true) : OutcomeCanonical (execPowerRound s) := by
  show Memory.wf (State.mem _) = true
  split
  · exact closeRound_wf h
  · exact h

theorem roundOver_wf (h : Memory.wf s.mem = true) : Memory.wf (roundOver s).mem = true := by
  unfold roundOver
  split
  · exact closeRound_wf h
  · exact h

theorem execThrottle_canonical (h : Memory.wf s.mem = true) : OutcomeCanonical (execThrottle s) := by
  show Memory.wf (State.mem _) = true
  split <;> exact h

theorem activateAhead_wf {pc k : Nat} (h : Memory.wf s.mem = true) : Memory.wf (activateAhead s pc k).mem = true := by
  unfold activateAhead
  repeat' split
  all_goals exact h

theorem execHbmRequest_canonical (h : Memory.wf s.mem = true) : OutcomeCanonical (execHbmRequest s) := by
  show Memory.wf (State.mem _) = true
  grind -ring -linarith [activateAhead_wf, served_wf]

theorem execIdlePrecharge_canonical (h : Memory.wf s.mem = true) : OutcomeCanonical (execIdlePrecharge s) := by
  show Memory.wf (State.mem _) = true
  repeat' split
  all_goals exact h

theorem hostCells_wf {m : List Host.Cell} (h : Memory.wf m = true) : Memory.wf (hostCells m) = true := Memory.wf_filter _ _ h

theorem bootStep_wf {strap n : Nat} (h : Memory.wf s.mem = true) : Memory.wf (bootStep s strap n).mem = true := by
  unfold bootStep
  refine State.setReg_wf ?_
  split
  · exact h
  · exact foldl_wf (fun _ _ => State.setReg_wf) h
  · exact hostCells_wf h
  · exact h

theorem bringUp_wf {strap n : Nat} (h : Memory.wf s.mem = true) : Memory.wf (bringUp s strap n).mem = true := by
  unfold bringUp
  split
  · exact foldl_wf (fun _ _ => bootStep_wf) h
  · split
    · exact bootStep_wf h
    · split
      · exact bootStep_wf h
      · exact h

/-! ### The sampler -/

theorem sampleTile_wf {t : Nat} {others : List Nat} (h : Memory.wf s.mem = true) : Memory.wf (sampleTile s t others).mem = true := by
  unfold sampleTile
  split
  · exact h
  · exact settleTrace_wf h

theorem sampleAll_wf (h : Memory.wf s.mem = true) : Memory.wf (sampleAll s).mem = true := foldl_wf (fun _ _ => sampleTile_wf) h

/-! ### Register writes -/

theorem putReg_wf {a v : Nat} (h : Memory.wf s.mem = true) : Memory.wf (putReg s a v).mem = true := h

theorem writeQueueReg_wf {q r v : Nat} (h : Memory.wf s.mem = true) : Memory.wf (writeQueueReg s q r v).mem = true := by
  unfold writeQueueReg
  split
  · exact h
  · exact writeQctl_wf h
  · split <;> exact h
  · exact h

theorem writeCtxReg_wf {ctx r v : Nat} (h : Memory.wf s.mem = true) : Memory.wf (writeCtxReg s ctx r v).mem = true := by
  unfold writeCtxReg
  split
  · exact h
  · exact h
  · exact h
  · exact writeVerbase_wf h

theorem writeFaultReg_wf {r v : Nat} (h : Memory.wf s.mem = true) : Memory.wf (writeFaultReg s r v).mem = true := by
  unfold writeFaultReg
  split
  · exact writeFqbase_wf h
  · exact writeFqctl_wf h
  · exact h
  · exact ackFault_wf h
  · exact writeXlinv_wf h
  · exact h

theorem writeDistributor_wf {a v : Nat} (h : Memory.wf s.mem = true) : Memory.wf (writeDistributor s a v).mem = true := by
  grind -ring -linarith [writeDistributor, putReg_wf, writeCtxReg_wf, writeQueueReg_wf, writeFaultReg_wf]

theorem writeRegionWord_wf {n i v : Nat} (h : Memory.wf s.mem = true) : Memory.wf (writeRegionWord s n i v).mem = true := writeRegion_wf h

theorem writeJobReg_wf {r v : Nat} (h : Memory.wf s.mem = true) : Memory.wf (writeJobReg s r v).mem = true := by
  grind -ring -linarith [writeJobReg, writeJobctl_wf, putReg_wf, writeTorus_wf, writeRegionWord_wf, fillPod_wf]

theorem writeLifeReg_wf {r v : Nat} (h : Memory.wf s.mem = true) : Memory.wf (writeLifeReg s r v).mem = true := by
  unfold writeLifeReg
  split
  · exact writeLlctl_wf h
  · exact h
  · exact h
  · split <;> exact h
  · extract_lets
    split
    · split
      · exact abandonCuts_wf (putReg_wf h)
      · exact h
    · exact h
  · exact writeLlseal_wf h
  · exact writeLlrep_wf h
  · exact h

theorem writeErrReg_wf {r v : Nat} (h : Memory.wf s.mem = true) : Memory.wf (writeErrReg s r v).mem = true := by
  unfold writeErrReg
  split
  · exact writeErrctl_wf h
  · split <;> exact h
  · exact h
  · exact h
  · exact writeTileoff_wf h
  · exact writeTileoff_wf h
  · exact writeTileoff_wf h
  · exact writeTileoff_wf h
  · exact h

theorem writeHbmReg_wf {k r v : Nat} (h : Memory.wf s.mem = true) : Memory.wf (writeHbmReg s k r v).mem = true := by
  unfold writeHbmReg; split <;> exact h

theorem writeBootReg_wf {r v : Nat} (h : Memory.wf s.mem = true) : Memory.wf (writeBootReg s r v).mem = true := by
  unfold writeBootReg
  repeat' split
  · exact h
  · exact bringUp_wf h
  · exact h

theorem writeDbgcmd_wf {t v : Nat} (h : Memory.wf s.mem = true) : Memory.wf (writeDbgcmd s t v).mem = true := by
  unfold writeDbgcmd
  repeat' split
  · exact releaseHeld_wf h
  · exact releaseHeld_wf h
  · exact h

theorem writeDebugReg_wf {t r v : Nat} (h : Memory.wf s.mem = true) : Memory.wf (writeDebugReg s t r v).mem = true := by
  unfold writeDebugReg
  repeat' split
  · exact writeTrcctl_wf h
  · exact h
  · exact h
  · exact h
  · exact h
  · exact h
  · exact writeDbgcmd_wf h
  · exact h

theorem registerWrite_wf {a v : Nat} (h : Memory.wf s.mem = true) : Memory.wf (registerWrite s a v).mem = true := by
  grind -ring -linarith [registerWrite, writeErrReg_wf, writeJobReg_wf, writeBootReg_wf, writeDebugReg_wf, writeDistributor_wf, writeHbmReg_wf, writeLifeReg_wf]

theorem registerRead_wf {a temp : Nat} (h : Memory.wf s.mem = true) : Memory.wf (registerRead s a temp).mem = true := by
  unfold registerRead
  repeat' split
  all_goals exact h

theorem execRegisterWrite_canonical (h : Memory.wf s.mem = true) : OutcomeCanonical (execRegisterWrite s) := by
  show Memory.wf (State.mem _) = true
  repeat' split
  · exact registerRead_wf h
  · exact registerWrite_wf h
  · exact registerRead_wf h
  · exact h
  · exact h
  · exact registerWrite_wf h

theorem execServiceCoreStore_canonical (h : Memory.wf s.mem = true) : OutcomeCanonical (execServiceCoreStore s) := by
  show Memory.wf (State.mem _) = true
  grind -ring -linarith [registerWrite_wf, engineWrite_wf, State.poke_wf]

/-! ### The retry of a word -/

theorem struckBy_wf {i : Instr} {key : Nat} {g : Group} (h : Memory.wf t.mem = true) : Memory.wf (struckBy i s key g t).mem = true := by
  unfold struckBy
  split
  · extract_lets
    split
    · exact h
    · split <;> exact h
  · exact h

theorem execMod3Retry_canonical (h : Memory.wf s.mem = true) : OutcomeCanonical (execMod3Retry s) := by
  show Memory.wf (State.mem _) = true
  grind -ring -linarith [takeTrap_wf]

/-! ### Every word and every event -/

/-- Every word and every event keeps memory canonical. -/
theorem exec_canonical {i : Instr} (h : Memory.wf s.mem = true) : OutcomeCanonical (exec i s) := by
  unfold exec
  cases i with
  | nop _ | elect _ | pmask _ | pload _ | pathq _ _ | add _ | sub _ | mul _ | mulhi _ | div _ | rem _ | min _ | max _ | and _ | or _ | xor _
  | andn _ | shl _ | shr _ | sar _ | rotl _ | scmp _ _ | clz _ | ctz _ | popc _ | brev _ | neg _ | abs _ | mov _ | lea _ _ | gaddr _ _ | gfld _ _
  | addi _ | movi _ | movm _ | movh _ | andi _ | ori _ | xori _ | bfxu _ | bfxs _ | bfi _ | vaddInt _ | vsubInt _ | vmulInt _ | vmulhi _ | vminInt _
  | vmaxInt _ | vnegInt _ | vabsInt _ | vand _ | vor _ | vxor _ | vandn _ | vshl _ | vshr _ | vsar _ | vrotl _ | vclz _ | vctz _ | vpopc _ | vbrev _
  | vmov _ | vcmp _ _ | pand _ | por _ | pxor _ | pandn _ | pnot _ | vmad _ _ | vsel _ | vclamp _ | vdp4 _ | vfma _ | vfms _ | vfnma _ | vfnms _
  | vfclamp _ | vdot2 _ | vaddFloat _ | vsubFloat _ | vmulFloat _ | vdiv _ | vminFloat _ | vmaxFloat _ | vminn _ | vmaxn _ | vnegFloat _
  | vabsFloat _ | vcopysign _ | vfcmp _ _ | vfclass _ | vfrnd _ | vshfl _ _ _ | vredlog _ _ | vscan _ _ | vscanx _ _ | vtopk _ _ | vtopkNorm _ _
  | vrcp _ | vrsqrt _ | vsqrt _ | vexpo _ | vexp2i _ | vscalb _ | vrand _ | fenceAcq _ | acwr _ | qbase _ | ginv _ | mmfence _ | save _ | quiesce _
  | trcdis _ | trcen _ | bkpt _ => exact groupWord_canonical h
  | bra _ | brs _ _ | bany _ | ball _ | bnone _ | call _ | jmp _ | ret _ | exit _ => exact ctrlWord_canonical h
  | vcvt _ | vcvtn _ | vcvtw _ => exact convWord_canonical h
  | atomAdd _ | atomMin _ | atomMax _ | atomAnd _ | atomOr _ | atomXor _ | atomExch _ | atomCas _ =>
    exact runWord_canonical h (fun _ => countEmpty_wf h) fun _ _ => atomWord_canonical h
  | redAdd _ | redMin _ | redMax _ => exact runWord_canonical h (fun _ => globEmpty_wf h) fun _ _ => redWord_canonical h
  | waitAny _ | waitAll _ | waitSt _ => exact runWord_nothing_canonical h fun _ _ => waitWord_canonical h
  | qstat _ | gracest _ | trcst _ => exact runWord_nothing_canonical h fun _ _ => statWord_canonical h
  | fabst _ => exact fabricWord_canonical h fun _ _ _ h => statWord_canonical h
  | ffr _ | acrd _ | tagst _ | mmstat _ => exact runWord_nothing_canonical h fun _ _ => statAfter_canonical h
  | rte _ | rteSkip _ => exact runWord_nothing_canonical h fun _ _ => returnWord_canonical h
  | launch _ | tpost _ => exact runWord_nothing_canonical h fun _ _ => postWord_canonical h
  | trap _ | graceWait _ => exact runWord_nothing_canonical h fun _ _ => h
  | brapl _ _ => exact execBrapl_canonical h
  | pset _ _ => exact execPset_canonical h
  | psetv _ => exact execPsetv_canonical h
  | ldl _ => exact execLdl_canonical h
  | rseed _ => exact execRseed_canonical h
  | ldn _ => exact execLdn_canonical h
  | stn _ => exact execStn_canonical h
  | ldnr _ => exact execLdnr_canonical h
  | stnr _ => exact execStnr_canonical h
  | ldf _ => exact execLdf_canonical h
  | stf _ => exact execStf_canonical h
  | vatomAdd _ => exact execVatomAdd_canonical h
  | waitAc _ => exact execWaitAc_canonical h
  | waitBatch _ => exact execWaitBatch_canonical h
  | fenceRel _ => exact execFenceRel_canonical h
  | fenceAcqrel _ => exact execFenceAcqrel_canonical h
  | publish _ => exact execPublish_canonical h
  | cp _ => exact execCp_canonical h
  | cpfill _ => exact execCpfill_canonical h
  | cpd _ => exact execCpd_canonical h
  | tagclr _ => exact execTagclr_canonical h
  | qpush _ => exact execQpush_canonical h
  | qpop _ => exact execQpop_canonical h
  | barinit _ => exact execBarinit_canonical h
  | bara _ => exact execBara_canonical h
  | barw _ => exact execBarw_canonical h
  | barrd _ => exact execBarrd_canonical h
  | barb _ => exact execBarb_canonical h
  | gset _ => exact execGset_canonical h
  | gmod _ => exact execGmod_canonical h
  | mma _ => exact execMma_canonical h
  | mmconv _ => exact execMmconv_canonical h
  | mmrd _ => exact execMmrd_canonical h
  | mmwr _ => exact execMmwr_canonical h
  | gget _ => exact execGget_canonical h
  | rput _ => exact execRput_canonical h
  | rget _ => exact execRget_canonical h
  | gath _ => exact execGath_canonical h
  | publishShadow _ => exact execPublishShadow_canonical h
  | pcarm _ => exact execPcarm_canonical h
  | pcrd _ => exact execPcrd_canonical h
  | pcadd _ => exact execPcadd_canonical h
  | genst _ => exact execGenst_canonical h
  | genrd _ => exact execGenrd_canonical h
  | tinfo _ _ => exact execTinfo_canonical h
  | yield _ => exact execYield_canonical h
  | tfence _ => exact execTfence_canonical h
  | icinv _ => exact execIcinv_canonical h
  | dfree _ => exact execDfree_canonical h
  | tmark _ => exact execTmark_canonical h
  | temit _ => exact execTemit_canonical h
  | tflush _ => exact execTflush_canonical h
  | illegal _ _ _ _ => exact execIllegal_canonical h
  | offsetComplete => exact execOffsetComplete_canonical h
  | mod3Retry => exact execMod3Retry_canonical h
  | handlerEligible => exact execHandlerEligible_canonical h
  | farAccessAtHome => exact execFarAccessAtHome_canonical h
  | farLoadLand => exact execFarLoadLand_canonical h
  | storeAck => exact execStoreAck_canonical h
  | groupUnblocked => exact unblockGroup_wf h
  | groupEnd => exact execGroupEnd_canonical h
  | copySectorComplete => exact execCopySectorComplete_canonical h
  | skeinReserve => exact execSkeinReserve_canonical h
  | entryPoppable => exact execEntryPoppable_canonical h
  | skeinTake => exact execSkeinTake_canonical h
  | qpopData => exact execQpopData_canonical h
  | allowanceRise => exact execAllowanceRise_canonical h
  | baraArrival => exact execBaraArrival_canonical h
  | blockBarrierComplete => exact execBlockBarrierComplete_canonical h
  | publishVersionAdvance => exact execPublishVersionAdvance_canonical h
  | matrixStart => exact execMatrixStart_canonical h
  | mmaRowStep => exact execMmaRowStep_canonical h
  | mmaComplete => exact execMmaComplete_canonical h
  | mmconvComplete => exact execMmconvComplete_canonical h
  | batchComplete => exact updGid_wf h
  | matrixFaultWait => exact execMatrixFaultWait_canonical h
  | sample => exact sampleTile_wf h
  | markerTimeout => exact execMarkerTimeout_canonical h
  | traceDrain => exact drain_wf (settleTrace_wf h)
  | dropped => exact execDropped_canonical h
  | trcctlWrite => exact writeTrcctl_wf h
  | dbgcmdRelease => exact execDbgcmdRelease_canonical h
  | dbgcmdReleaseAll => exact execDbgcmdReleaseAll_canonical h
  | qtailDoorbell => exact execQtailDoorbell_canonical h
  | qctlWrite => exact execQctlWrite_canonical h
  | recordAdmission => exact execRecordAdmission_canonical h
  | blockPlace => exact execBlockPlace_canonical h
  | queueAging => exact execQueueAging_canonical h
  | blockEnd => exact execBlockEnd_canonical h
  | dependenceTagReady => exact execDependenceTagReady_canonical h
  | launchComplete => exact execLaunchComplete_canonical h
  | taskTake => exact execTaskTake_canonical h
  | preemptRaise => exact raisePreempt_wf h
  | forcedSave => exact execForcedSave_canonical h
  | groupLeave => exact execGroupLeave_canonical h
  | restore => exact execRestore_canonical h
  | pageWalk => exact execPageWalk_canonical h
  | faultEntryWrite => exact execFaultEntryWrite_canonical h
  | fqackRetry => exact execFqackRetry_canonical h
  | fqackNomem => exact execFqackNomem_canonical h
  | fqackKilled => exact execFqackKilled_canonical h
  | xlinv => exact writeXlinv_wf h
  | fqctlWrite => exact writeFqctl_wf h
  | icinvComplete => exact execIcinvComplete_canonical h
  | packetSend => exact execPacketSend_canonical h
  | packetPlace => exact execPacketPlace_canonical h
  | packetAck => exact execPacketAck_canonical h
  | rtoExpiry => exact execRtoExpiry_canonical h
  | pcarmComplete => exact execPcarmComplete_canonical h
  | gatherComplete => exact execGatherComplete_canonical h
  | planeFail => exact execPlaneFail_canonical h
  | rtfill => exact execRtfill_canonical h
  | rtmiss => exact execRtmiss_canonical h
  | jobctlWrite => exact writeJobctl_wf h
  | regionValid => exact writeRegion_wf h
  | torusPortDown => exact writeTorus_wf h
  | verbaseWrite => exact writeVerbase_wf h
  | hostAccess => exact execHostAccess_canonical h
  | graceElapse => exact execGraceElapse_canonical h
  | castoffReturn => exact execCastoffReturn_canonical h
  | dfreeAppend => exact execDfreeAppend_canonical h
  | cut => exact execCut_canonical h
  | llctlNow => exact setNow_wf h
  | llctlEn => exact writeLlctl_wf h
  | llseal => exact h
  | sealCut => exact execSeal_canonical h
  | logDrain => exact execLogDrain_canonical h
  | llrep => exact execLlrep_canonical h
  | replayEnd => exact execReplayEnd_canonical h
  | scrub => exact execScrub_canonical h
  | tileoffWrite => exact writeTileoff_wf h
  | cecntRead => exact execCecntRead_canonical h
  | errlostRead => exact h
  | errctlWrite => exact writeErrctl_wf h
  | powerRound => exact execPowerRound_canonical h
  | throttle => exact execThrottle_canonical h
  | pwrctlWrite => exact h
  | hbmRequest => exact execHbmRequest_canonical h
  | idlePrecharge => exact execIdlePrecharge_canonical h
  | refresh => exact h
  | coldReset => exact bringUp_wf h
  | warmReset => exact bringUp_wf h
  | registerWrite => exact execRegisterWrite_canonical h
  | instructionFetch => exact execInstructionFetch_canonical h
  | softError => exact execSoftError_canonical h
  | serviceCoreStore => exact execServiceCoreStore_canonical h

/-! ### An act -/

theorem registerErrors_wf {key : Nat} {g : Group} {i : Instr} (h : Memory.wf s.mem = true) : Memory.wf (registerErrors s key g i).1.mem = true := by
  unfold registerErrors
  split
  · exact h
  · split
    · exact consume_wf h
    · exact foldl_wf (fun _ _ => countCorrected_wf) h

theorem afterWord_wf {key : Nat} {old : Group} {i : Instr} {delay : Nat} (h : Memory.wf s.mem = true) :
    Memory.wf (afterWord s key old i delay).mem = true := by
  unfold afterWord
  repeat' split
  all_goals exact h

theorem restoreView_wf {key : Nat} (h : Memory.wf s.mem = true) : Memory.wf (restoreView s key).mem = true := by
  unfold restoreView
  repeat' split
  all_goals exact h

theorem runFetched_canonical {key w : Nat} {g : Group} (h : Memory.wf s.mem = true) : OutcomeCanonical (runFetched s key g w) := by
  unfold runFetched
  extract_lets g1 i
  split
  · exact h
  · have hr := registerErrors_wf (key := key) (g := g1) (i := i) h
    split
    · next e => rw [e] at hr; exact hr
    · next s1 g2 e =>
      rw [e] at hr
      have hx := exec_canonical (i := i) (s := { s1 with cur := key, inp := { Inp.zero with a := w, nums := timeRegs i }, groups := s1.groups.set key g2 }) hr
      split
      · next e2 => rw [e2] at hx; exact restoreView_wf (struckBy_wf (afterWord_wf hx))
      · exact hx

theorem issueWord_canonical {key : Nat} {g : Group} (h : Memory.wf s.mem = true) : OutcomeCanonical (issueWord s key g) := by
  rw [issueWord]
  split
  · exact takeTrap_wf _ _ _ _ _ h
  · split
    · exact h
    · next e => exact fetchAt_gone_wf h e
    · exact runFetched_canonical (fetchCorrect_wf h)

theorem atOffset_wf {key : Nat} {g : Group} (h : Memory.wf s.mem = true) (e : atOffset s key g = some t) : Memory.wf t.mem = true := by
  grind -ring -linarith [atOffset, State.respill_wf, checkBreaks_wf]

theorem issueGroup_canonical {key : Nat} (h : Memory.wf s.mem = true) : OutcomeCanonical (issueGroup s key) := by
  unfold issueGroup
  split
  · exact h
  · split
    · exact h
    · split
      · next e => exact atOffset_wf h e
      · have h1 := loopCheck_wf (key := key) h
        dsimp only
        split
        · exact h1
        · split
          · exact headRead_wf h1
          · exact issueWord_canonical (headRead_wf h1)

theorem turn_canonical {a : Act} (h : Memory.wf s.mem = true) : OutcomeCanonical (turn s a) := by
  unfold turn
  split
  · exact issueGroup_canonical h
  · split
    · exact h
    · split
      · exact h
      · next i x _ _ _ => exact exec_canonical (s := { s with inp := x, acted := true }) h

theorem runAct_canonical {a : Act} (h : Memory.wf s.mem = true) : OutcomeCanonical (runAct s a) := by
  have ht := turn_canonical (a := a) h
  unfold runAct
  split
  · next e => rw [e] at ht; exact ageAll_wf (unblockAll_wf ht)
  · exact ht

/-! ### A step -/

theorem settleAll_wf (h : Memory.wf s.mem = true) : Memory.wf (settleAll s).mem = true := foldl_wf (fun _ _ => settleTrace_wf) h

theorem State.riseTo_wf {c : Nat} (h : Memory.wf s.mem = true) : Memory.wf (State.riseTo s c).mem = true := by
  grind -ring -linarith [State.riseTo, stageLog_wf, settleAll_wf, overdue_wf, roundOver_wf, publishAll_wf, sampleAll_wf]

theorem State.tick_wf {n : Nat} (h : Memory.wf s.mem = true) : Memory.wf (s.tick n).mem = true := by
  unfold State.tick
  split
  · exact h
  · exact State.riseTo_wf (foldl_wf (fun _ _ => State.riseTo_wf) h)

theorem step_canonical (h : Memory.wf s.mem = true) : OutcomeCanonical (step s) := by
  unfold step
  split
  · next r _ => exact runAct_canonical (State.tick_wf (s := { s with sched := r }) h)
  · have h1 := State.tick_wf (n := 1) h
    dsimp only
    split
    · exact runAct_canonical h1
    · exact h1

/-- Settles O58: every step answers a state whose memory is in canonical form (`step_canonical`). -/
theorem everyStepKeepsTheMemoryForm : Obligations.EveryStepKeepsTheMemoryForm := by
  unfold Obligations.EveryStepKeepsTheMemoryForm
  intro s t h e
  have hs := step_canonical h
  rw [e] at hs
  exact hs

end Sys2Proof.Machine

/-! PROOFS, 09 R152 to R157, 10 R163, 11 R190. The address checks: each reason under its own condition, and the trap of the lowest active lane that fails. -/

namespace Sys2Proof.Machine
open Sys2Proof Sys2Proof.Claims

/-! ### The local map (09 Table 1) -/

section
variable {a n r : Nat}

theorem areaReason_slice (h : a < 0x7F0000) : areaReason a = none := by rw [areaReason, if_pos h]

theorem areaReason_ownReserved (h : 0x7F0000 ≤ a) (h' : a < 0x800000) : areaReason a = some 2 := by
  rw [areaReason, if_neg (by omega), if_pos h']

theorem areaReason_lowHole (h : 0x800000 ≤ a) (h' : a < 0x100000000) : areaReason a = some 1 := by
  rw [areaReason, if_neg (by omega), if_neg (by omega), if_pos h']

theorem areaReason_tiles (h : 0x100000000 ≤ a) (h' : a < 0x180000000) : areaReason a = if 0x7F0000 ≤ a % 0x800000 then some 2 else none := by
  rw [areaReason, if_neg (by omega), if_neg (by omega), if_neg (by omega), if_pos h']

theorem areaReason_highHole (h : 0x180000000 ≤ a) (h' : a < 0x200000000) : areaReason a = some 1 := by
  rw [areaReason, if_neg (by omega), if_neg (by omega), if_neg (by omega), if_neg (by omega), if_pos h']

theorem areaReason_memory (h : 0x200000000 ≤ a) : areaReason a = none := by
  rw [areaReason, if_neg (by omega), if_neg (by omega), if_neg (by omega), if_neg (by omega), if_neg (by omega)]

theorem localReason_misaligned {near : Bool} (h : a < 2 ^ 48) (hn : a % n ≠ 0) : localReason near n a = some 9 := by
  rw [localReason, if_neg (by omega), if_pos hn]

theorem localReason_near (h : a < 2 ^ 48) (hn : a % n = 0) : localReason true n a = if 0x7F0000 ≤ a then some 10 else none := by
  rw [localReason, if_neg (by omega), if_neg (by omega), if_pos rfl]

theorem localReason_far (h : a < 2 ^ 48) (hn : a % n = 0) : localReason false n a = areaReason a := by
  rw [localReason, if_neg (by omega), if_neg (by omega), if_neg Bool.false_ne_true]

/-- The tile's own slice passes the checks of both forms. -/
theorem localReason_slice {near : Bool} (h : a < 0x7F0000) (hn : a % n = 0) : localReason near n a = none := by
  cases near
  · rw [localReason_far (by omega) hn, areaReason_slice h]
  · rw [localReason_near (by omega) hn, if_neg (by omega)]

theorem canon_slice {tile : Nat} (h : a < 0x7F0000) : canon tile a = slicePlace tile a := if_pos (by omega)

theorem canon_far {tile : Nat} (h : 0x800000 ≤ a) : canon tile a = a := if_neg (by omega)
end

/-! ### An access by GLOB = 0 (09 R154, R157) -/

section
variable {s : State} {near : Bool} {n base : Nat} {o x : Int}

theorem resolveLocal_outside (h : 2 ^ 48 ≤ base ∨ (base : Int) + o + x < 0 ∨ (2 ^ 48 : Int) ≤ (base : Int) + o + x) :
    resolveLocal s near n base o x = .error (3, wrapN 48 ((base : Int) + o + x)) := if_pos h

variable (hb : base < 2 ^ 48) (h0 : 0 ≤ (base : Int) + o + x) (ha : ((base : Int) + o + x).toNat < 2 ^ 48)
include hb h0 ha

theorem inside_of_lt : ¬ (2 ^ 48 ≤ base ∨ (base : Int) + o + x < 0 ∨ (2 ^ 48 : Int) ≤ (base : Int) + o + x) := by omega

theorem resolveLocal_refused {r : Nat} (hr : localReason near n ((base : Int) + o + x).toNat = some r) :
    resolveLocal s near n base o x = .error (r, ((base : Int) + o + x).toNat) := by
  rw [resolveLocal, if_neg (inside_of_lt hb h0 ha), hr]

theorem resolveLocal_passed (hr : localReason near n ((base : Int) + o + x).toNat = none) :
    resolveLocal s near n base o x = .ok ⟨canon (tileOf s.cur) ((base : Int) + o + x).toNat, none, none⟩ := by
  rw [resolveLocal, if_neg (inside_of_lt hb h0 ha), hr]

theorem resolveLocal_own (hr : localReason near n ((base : Int) + o + x).toNat = none) (hs : ((base : Int) + o + x).toNat < 0x7F0000) :
    resolveLocal s near n base o x = .ok ⟨slicePlace (tileOf s.cur) ((base : Int) + o + x).toNat, none, none⟩ := by
  rw [resolveLocal_passed hb h0 ha hr, canon_slice hs]

theorem resolveLocal_device (hr : localReason near n ((base : Int) + o + x).toNat = none) (hs : 0x800000 ≤ ((base : Int) + o + x).toNat) :
    resolveLocal s near n base o x = .ok ⟨((base : Int) + o + x).toNat, none, none⟩ := by
  rw [resolveLocal_passed hb h0 ha hr, canon_far hs]
end

/-! ### An access by GLOB = 1 (09 R154, R155, R157, 21 R345, R346, R350) -/

section
variable {s : State} {r : Nat}

theorem resolveRank_noJob (h : bit (s.reg jobWin).toNat 63 = false ∨ (s.reg jobWin).toNat / 2 ^ 28 % 2 ^ 18 ≤ r) : resolveRank s r = .error 5 := by
  unfold resolveRank
  extract_lets j e o rpp step pod dev l2
  refine if_pos ?_
  rcases h with h | h
  · rw [show bit j 63 = false from h]
    rfl
  · rw [show fld j 28 18 = j / 2 ^ 28 % 2 ^ 18 from rfl, decide_eq_true h]
    simp

/-- Every refusal of a rank is reason 5. -/
theorem resolveRank_error {x : Nat} (h : resolveRank s r = .error x) : x = 5 := by
  unfold resolveRank at h
  extract_lets j e o rpp step pod dev l2 at h
  split at h
  · exact (Except.error.inj h).symm
  · split at h
    · exact (Except.error.inj h).symm
    · split at h
      · cases h
      · split at h
        · split at h
          · cases h
          · exact (Except.error.inj h).symm
        · split at h <;> cases h

/-- The device's own rank has no route. -/
theorem resolveRank_own {route : Option Route} (h : resolveRank s r = .ok route) (hr : r = (s.reg jobWin).toNat / 2 ^ 46 % 2 ^ 17) : route = none := by
  unfold resolveRank at h
  extract_lets j e o rpp step pod dev l2 at h
  split at h
  · cases h
  · split at h
    · cases h
    · rw [if_pos (show r = fld j 46 17 from hr)] at h
      exact (Except.ok.inj h).symm
end

theorem foldl_four (f : Nat → Nat) : (List.range 4).foldl (fun x i => x + f i * 2 ^ (64 * i)) 0 =
    f 0 + f 1 * 2 ^ 64 + f 2 * 2 ^ 128 + f 3 * 2 ^ 192 := by
  rw [show List.range 4 = [0, 1, 2, 3] from rfl, List.foldl_cons, List.foldl_cons, List.foldl_cons, List.foldl_cons, List.foldl_nil, Nat.mul_zero,
    Nat.pow_zero, Nat.mul_one, Nat.zero_add]

/-- Word i of the descriptor of a region (21 Table 7). -/
def regionWord (s : State) (reg i : Nat) : Nat := (s.reg (0x13000 + 32 * reg + 8 * i)).toNat

/-- The base and the size that a descriptor gives. -/
def regionTop (s : State) (reg : Nat) : Nat := regionWord s reg 0 / 2 ^ 16 * 2 ^ 16
def regionSize (s : State) (reg : Nat) : Nat := regionWord s reg 1 % 2 ^ 42

section
variable {s : State} {reg : Nat}

theorem wideReg_region : wideReg s (jobWin + 0x3000 + 32 * reg) 4 =
    regionWord s reg 0 + regionWord s reg 1 * 2 ^ 64 + regionWord s reg 2 * 2 ^ 128 + regionWord s reg 3 * 2 ^ 192 :=
  foldl_four (regionWord s reg)

theorem fld_region_base : fld (wideReg s (jobWin + 0x3000 + 32 * reg) 4) 16 48 * 2 ^ 16 = regionTop s reg := by
  have h0 : regionWord s reg 0 < 2 ^ 64 := BitVec.isLt _
  rw [wideReg_region, fld, regionTop]
  omega

theorem fld_region_size : fld (wideReg s (jobWin + 0x3000 + 32 * reg) 4) 64 42 = regionSize s reg := by
  have h0 : regionWord s reg 0 < 2 ^ 64 := BitVec.isLt _
  rw [wideReg_region, fld, regionSize]
  omega

theorem bit_region {i : Nat} (hi : i < 64) : bit (wideReg s (jobWin + 0x3000 + 32 * reg) 4) i = bit (regionWord s reg 0) i := by
  rw [← bit_mod _ hi, ← bit_mod (regionWord s reg 0) hi, wideReg_region]
  congr 1
  omega

theorem regionOf_invalid (h : bit (regionWord s reg 0) 0 = false ∨ 2 ^ 48 < regionTop s reg + regionSize s reg) : regionOf s reg = none := by
  unfold regionOf
  extract_lets d base size
  have hd : bit d 0 = bit (regionWord s reg 0) 0 := bit_region (by decide)
  have hb : base = regionTop s reg := fld_region_base
  have hs : size = regionSize s reg := fld_region_size
  refine if_neg ?_
  rw [hd, hb, hs, Bool.and_eq_true, decide_eq_true_eq]
  rintro ⟨hv, hfits⟩
  rcases h with h | h
  · rw [h] at hv
    cases hv
  · exact absurd hfits (by omega)

theorem regionOf_valid (h : bit (regionWord s reg 0) 0 = true) (hfits : regionTop s reg + regionSize s reg ≤ 2 ^ 48) :
    ∃ d, regionOf s reg = some d ∧ d.base = regionTop s reg ∧ d.size = regionSize s reg ∧
      ∀ k, d.allows k = bit (regionWord s reg 0) (if k = 0 then 1 else if k = 1 then 2 else 3) := by
  unfold regionOf
  extract_lets d base size
  have hd : ∀ i, i < 64 → bit d i = bit (regionWord s reg 0) i := fun _ => bit_region
  have hb : base = regionTop s reg := fld_region_base
  have hs : size = regionSize s reg := fld_region_size
  refine ⟨_, if_pos ?_, hb, hs, fun k => ?_⟩
  · rw [hd 0 (by decide), h, hb, hs, decide_eq_true hfits]
    rfl
  · unfold Region.allows
    split
    · exact hd 1 (by decide)
    · split
      · exact hd 2 (by decide)
      · exact hd 3 (by decide)
end

/-! The checks in their order: each lemma has passed those before it. -/

/-- Bits [47:0] of the global address with a sum y in its offset field: what a refusal names. -/
def globPlace (base : Nat) (y : Int) : Nat := (fld base 46 17 * 2 ^ 46 + fld base 41 5 * 2 ^ 41 + wrapN 41 y) % 2 ^ 48

/-- The offset field with OFS. -/
def globBase (base : Nat) (o : Int) : Int := (fld base 0 41 : Int) + o

/-- Bit 63 is set and neither sum leaves the offset field. -/
structure GlobInside (base : Nat) (o x : Int) : Prop where
  glob : bit base 63 = true
  first : ¬ (globBase base o < 0 ∨ (2 ^ 41 : Int) ≤ globBase base o)
  last : ¬ (globBase base o + x < 0 ∨ (2 ^ 41 : Int) ≤ globBase base o + x)

/-- The checks of the sums are passed: the later ones decide. -/
theorem GlobInside.passes {base : Nat} {o x : Int} {α : Type} {a b c d : α} (h : GlobInside base o x) :
    (if (!bit base 63) = true then a else if globBase base o < 0 ∨ (2 ^ 41 : Int) ≤ globBase base o then b
      else if globBase base o + x < 0 ∨ (2 ^ 41 : Int) ≤ globBase base o + x then c else d) = d := by
  rw [if_neg (by simp [h.glob]), if_neg h.first, if_neg h.last]

section
variable {s : State} {k n align base : Nat} {o x : Int}

theorem resolveGlobal_notGlobal (h : bit base 63 = false) :
    resolveGlobal s k n align base o x = .error (3, globPlace base (globBase base o + x)) :=
  if_pos (show (!bit base 63) = true by rw [h]; rfl)

theorem resolveGlobal_first (h : bit base 63 = true) (h1 : globBase base o < 0 ∨ (2 ^ 41 : Int) ≤ globBase base o) :
    resolveGlobal s k n align base o x = .error (4, globPlace base (globBase base o)) :=
  (if_neg (by simp [h])).trans (if_pos h1)

theorem resolveGlobal_last (h : bit base 63 = true) (h1 : ¬ (globBase base o < 0 ∨ (2 ^ 41 : Int) ≤ globBase base o))
    (h2 : globBase base o + x < 0 ∨ (2 ^ 41 : Int) ≤ globBase base o + x) :
    resolveGlobal s k n align base o x = .error (4, globPlace base (globBase base o + x)) :=
  (if_neg (by simp [h])).trans ((if_neg h1).trans (if_pos h2))

variable (h : GlobInside base o x)
include h

theorem resolveGlobal_rank {r : Nat} (hr : resolveRank s (fld base 46 17) = .error r) :
    resolveGlobal s k n align base o x = .error (r, globPlace base (globBase base o + x)) := by
  refine h.passes.trans ?_
  rw [hr]
  rfl

variable {route : Option Route} (hr : resolveRank s (fld base 46 17) = .ok route)
include hr

theorem resolveGlobal_region (hd : regionOf s (fld base 41 5) = none) :
    resolveGlobal s k n align base o x = .error (6, globPlace base (globBase base o + x)) := by
  refine h.passes.trans ?_
  rw [hr, hd]
  rfl

variable {d : Region} (hd : regionOf s (fld base 41 5) = some d)
include hd

theorem resolveGlobal_size (hs : d.size < (globBase base o + x).toNat + n) :
    resolveGlobal s k n align base o x = .error (7, globPlace base (globBase base o + x)) := by
  refine h.passes.trans ?_
  rw [hr, hd]
  exact if_pos hs

variable (hs : (globBase base o + x).toNat + n ≤ d.size)
include hs

theorem resolveGlobal_permission (hp : d.allows k = false) :
    resolveGlobal s k n align base o x = .error (8, globPlace base (globBase base o + x)) := by
  refine h.passes.trans ?_
  rw [hr, hd]
  exact (if_neg (Nat.not_lt.mpr hs)).trans (if_pos (by rw [hp]; rfl))

variable (hp : d.allows k = true)
include hp

theorem resolveGlobal_misaligned (ha : (globBase base o + x).toNat % align ≠ 0) :
    resolveGlobal s k n align base o x = .error (9, globPlace base (globBase base o + x)) := by
  refine h.passes.trans ?_
  rw [hr, hd]
  exact (if_neg (Nat.not_lt.mpr hs)).trans ((if_neg (by simp [hp])).trans (if_pos ha))

variable (ha : (globBase base o + x).toNat % align = 0)
include ha

theorem resolveGlobal_other {t : Route} (ht : route = some t) :
    resolveGlobal s k n align base o x = .ok ⟨fld base 41 5 * 2 ^ 41 + (globBase base o + x).toNat, some (fld base 46 17), some t⟩ := by
  subst ht
  refine h.passes.trans ?_
  rw [hr, hd]
  exact (if_neg (Nat.not_lt.mpr hs)).trans ((if_neg (by simp [hp])).trans (if_neg (not_not.mpr ha)))

variable (ht : route = none)
include ht

theorem resolveGlobal_area {r : Nat} (har : areaReason (d.base + (globBase base o + x).toNat) = some r) :
    resolveGlobal s k n align base o x = .error (r, globPlace base (globBase base o + x)) := by
  subst ht
  refine h.passes.trans ?_
  rw [hr, hd]
  refine (if_neg (Nat.not_lt.mpr hs)).trans ((if_neg (by simp [hp])).trans ((if_neg (not_not.mpr ha)).trans ?_))
  unfold globBase at har
  dsimp only
  rw [har]
  rfl

theorem resolveGlobal_own (har : areaReason (d.base + (globBase base o + x).toNat) = none) :
    resolveGlobal s k n align base o x = .ok ⟨canon (tileOf s.cur) (d.base + (globBase base o + x).toNat), none, none⟩ := by
  subst ht
  refine h.passes.trans ?_
  rw [hr, hd]
  refine (if_neg (Nat.not_lt.mpr hs)).trans ((if_neg (by simp [hp])).trans ((if_neg (not_not.mpr ha)).trans ?_))
  unfold globBase at har
  dsimp only
  rw [har]
  rfl
end

/-! ### The lowest lane that fails (09 R157, 10 R163) -/

theorem mapM_error {α β ε : Type} {f : α → Except ε β} {low high : List α} {x : α} {e : ε} (hlow : ∀ y ∈ low, ∃ z, f y = .ok z) (hx : f x = .error e) :
    (low ++ x :: high).mapM f = .error e := by
  induction low with
  | nil => rw [List.nil_append, List.mapM_cons, hx]; rfl
  | cons y low ih =>
    obtain ⟨z, hz⟩ := hlow y List.mem_cons_self
    rw [List.cons_append, List.mapM_cons, hz, ih fun y hy => hlow y (List.mem_cons_of_mem _ hy)]
    rfl

/-- The first lane of a mask that a check refuses gives the error of all. -/
theorem lanesOf_mapM_error {β ε : Type} {m : Mask} {l : Nat} {f : Nat → Except ε β} {e : ε} (h : lane m l = true)
    (hlow : ∀ k, k < l → lane m k = true → ∃ z, f k = .ok z) (hl : f l = .error e) : (lanesOf m).mapM f = .error e := by
  obtain ⟨low, high, hm, hk⟩ := lanesOf_split h
  rw [hm]
  exact mapM_error (fun k hin => hlow k (hk k hin).1 (hk k hin).2) hl

section
variable {s : State} {g : Group} {m : Mask} {w : ME} {near : Bool} {k l r a : Nat}

theorem targets_vector (hd : w.d.kind = 0) (hl : lane m l = true)
    (hlow : ∀ j, j < l → lane m j = true → ∃ x, resolve s w.glob near k (bytesOf w.ty) (scalarVal s g w.a) w.ofs.toInt (laneOfs s g w j) = .ok x)
    (hr : resolve s w.glob near k (bytesOf w.ty) (scalarVal s g w.a) w.ofs.toInt (laneOfs s g w l) = .error (r, a)) :
    targets s g m w near k = .error (addrDetail w.glob l r a) := by
  have hs : single w = false := by
    unfold single
    split
    · next hw => rw [hw] at hd; cases hd
    · rfl
  unfold targets
  rw [hs, if_neg Bool.false_ne_true, List.mapM_map]
  refine lanesOf_mapM_error hl (fun j hj hm => ?_) ?_
  · obtain ⟨x, hx⟩ := hlow j hj hm
    exact ⟨(j, x), by simp only [Function.comp, offOf, hx]⟩
  · simp only [Function.comp, offOf, hr]

theorem targets_scalar (hd : w.d.kind = 1)
    (hr : resolve s w.glob near k (bytesOf w.ty) (scalarVal s g w.a) w.ofs.toInt 0 = .error (r, a)) :
    targets s g m w near k = .error (addrDetail w.glob 0 r a) := by
  have hs : single w = true := by
    unfold single
    split
    · rfl
    · next hw =>
      cases e : w.d with
      | s n => exact absurd e (hw n)
      | v n => rw [e] at hd; cases hd
      | p n => rw [e] at hd; cases hd
      | imm n => rw [e] at hd; cases hd
  unfold targets
  rw [hs, if_pos rfl, List.mapM_cons, offOf, hr]
  rfl

theorem atomTargets_lowest (hl : lane m l = true)
    (hlow : ∀ j, j < l → lane m j = true → ∃ x, resolve s w.glob false 2 (bytesOf w.ty) (laneVal s g .n64 w.a j) w.ofs.toInt 0 = .ok x)
    (hr : resolve s w.glob false 2 (bytesOf w.ty) (laneVal s g .n64 w.a l) w.ofs.toInt 0 = .error (r, a)) :
    atomTargets s g m w = .error (addrDetail w.glob l r a) := by
  refine lanesOf_mapM_error hl (fun j hj hm => ?_) ?_
  · obtain ⟨x, hx⟩ := hlow j hj hm
    exact ⟨(j, x), by simp only [offOf, hx]⟩
  · simp only [offOf, hr]
end

/-! The words that trap. A far word marks its context first (21 R345; log 33). -/

section
variable {s : State} {g : Group} {w : ME} {d : W64} {i : Instr}

theorem markGlob_group? (h : s.group? = some g) : (markGlob s g w).group? = some g := by
  unfold markGlob
  split <;> exact h

theorem group?_getD (h : s.group? = some g) : (s.group?).getD g = g := by rw [h]; rfl

/-- A near word whose targets are refused. -/
theorem nearWord_trap {e : State → Group → State} {b : State → Group → Mask → Res} (h : Issues i s g) (hb : b s g (lanesFor i g) = .trap s tAddr d) :
    runWord i s e b = .next (takeTrap (timed i s g s) g tAddr d (lanesFor i g)) := by
  rw [runWord_trap i s _ g e b tAddr d h hb, group?_getD h.cur]

/-- A far word whose targets are refused. -/
theorem farWord_trap {e : State → Group → State} {b : State → Group → Mask → Res} (h : Issues i s g)
    (hb : b s g (lanesFor i g) = .trap (markGlob s g w) tAddr d) :
    runWord i s e b = .next (takeTrap (timed i s g (if w.glob then markFabric s g.env.ctx else s)) g tAddr d (lanesFor i g)) := by
  rw [runWord_trap i s _ g e b tAddr d h hb, group?_getD (markGlob_group? h.cur)]
  rfl

/-- The state in which a word with GLOB and near form as given raises its trap. -/
def trapState (s : State) (g : Group) (w : ME) (near : Bool) : State := if w.glob ∧ near = false then markFabric s g.env.ctx else s

theorem trapState_near : trapState s g w true = s := if_neg (by simp)

theorem trapState_far : trapState s g w false = if w.glob then markFabric s g.env.ctx else s := by simp [trapState]

/-- The words whose addresses `targets` gives, with their form and kind of access. -/
def targetWords : List ((ME → Instr) × Bool × Nat) :=
  [(Instr.ldn, true, 0), (.stn, true, 1), (.ldf, false, 0), (.stf, false, 1), (.redAdd, false, 2), (.redMin, false, 2), (.redMax, false, 2)]

theorem targetWords_trap {p : (ME → Instr) × Bool × Nat} (hp : p ∈ targetWords) (h : Issues (p.1 w) s g)
    (ht : targets s g (lanesFor (p.1 w) g) w p.2.1 p.2.2 = .error d) :
    exec (p.1 w) s = .next (takeTrap (timed (p.1 w) s g (trapState s g w p.2.1)) g tAddr d (lanesFor (p.1 w) g)) := by
  revert p
  simp only [targetWords, List.forall_mem_cons, List.not_mem_nil, false_imp_iff, implies_true, and_true, trapState_near, trapState_far]
  refine ⟨fun h ht => ?_, fun h ht => ?_, fun h ht => ?_, fun h ht => ?_, fun h ht => ?_, fun h ht => ?_, fun h ht => ?_⟩
  · show execLdn w s = _
    refine nearWord_trap h ?_
    simp only [ht]
  · show execStn w s = _
    refine nearWord_trap h ?_
    simp only [ht]
  · show execLdf w s = _
    refine farWord_trap (w := w) h ?_
    simp only [ht]
  · show execStf w s = _
    refine farWord_trap (w := w) h ?_
    simp only [ht]
  · show execRedAdd w s = _
    refine farWord_trap (w := w) h ?_
    simp only [redWord, ht]
  · show execRedMin w s = _
    refine farWord_trap (w := w) h ?_
    simp only [redWord, ht]
  · show execRedMax w s = _
    refine farWord_trap (w := w) h ?_
    simp only [redWord, ht]

/-- The atomics. -/
def atomWords : List (ME → Instr) := [.atomAdd, .atomMin, .atomMax, .atomAnd, .atomOr, .atomXor, .atomExch, .atomCas]

/-- Each atomic is `atomWord` with its own operation. -/
theorem atomWords_exec {p : ME → Instr} (hp : p ∈ atomWords) (w : ME) (s : State) : ∃ op, exec (p w) s = runWord (p w) s (countEmpty w) (atomWord op w) := by
  revert p
  simp only [atomWords, List.forall_mem_cons, List.not_mem_nil, false_imp_iff, implies_true, and_true]
  exact ⟨⟨0, rfl⟩, ⟨1, rfl⟩, ⟨2, rfl⟩, ⟨3, rfl⟩, ⟨4, rfl⟩, ⟨5, rfl⟩, ⟨6, rfl⟩, ⟨7, rfl⟩⟩

theorem atomWords_trap {p : ME → Instr} (hp : p ∈ atomWords) (h : Issues (p w) s g) (ht : atomTargets s g (lanesFor (p w) g) w = .error d) :
    exec (p w) s = .next (takeTrap (timed (p w) s g (if w.glob then markFabric s g.env.ctx else s)) g tAddr d (lanesFor (p w) g)) := by
  obtain ⟨op, he⟩ := atomWords_exec hp w s
  rw [he]
  exact farWord_trap h (by simp only [atomWord, ht])

theorem vatomAdd_trap (h : Issues (.vatomAdd w) s g) (ht : vatomTargets s g (lanesFor (.vatomAdd w) g) w = .error d) :
    exec (.vatomAdd w) s =
      .next (takeTrap (timed (.vatomAdd w) s g (if w.glob then markFabric s g.env.ctx else s)) g tAddr d (lanesFor (.vatomAdd w) g)) := by
  show execVatomAdd w s = _
  refine farWord_trap (w := w) h ?_
  simp only [ht]
end

/-! ### The row of `vatom.add` (10 R177, 14 R250) -/

section
variable {s : State} {g : Group} {m : Mask} {w : ME} {l r x : Nat}

/-- The address of a lane's four bytes. -/
def vatomAt (s : State) (w : ME) (b : Nat) (k : Nat) : Except (Nat × Nat) Target :=
  if w.glob then resolveGlobal s 2 4 1 b w.ofs.toInt (4 * (k : Int)) else resolveLocal s false 1 b w.ofs.toInt (4 * (k : Int))

/-- The first byte of the row, which has to be a multiple of 128. -/
def vatomRow (w : ME) (b : Nat) : Nat := wrapN 64 ((b : Int) + w.ofs.toInt)

theorem vatomTargets_aligned (ha : vatomRow w (scalarVal s g w.a) % 128 = 0) (hl : lane m l = true)
    (hlow : ∀ j, j < l → lane m j = true → ∃ y, vatomAt s w (scalarVal s g w.a) j = .ok y)
    (hr : vatomAt s w (scalarVal s g w.a) l = .error (r, x)) : vatomTargets s g m w = .error (addrDetail w.glob l r x) := by
  unfold vatomAt at hlow hr
  unfold vatomRow at ha
  refine lanesOf_mapM_error hl (fun j hj hm => ?_) ?_
  · obtain ⟨y, hy⟩ := hlow j hj hm
    exact ⟨(j, y), by simp only [offOf, hy, ha, if_true]⟩
  · simp only [offOf, hr, ha, or_true, if_true]

theorem vatomTargets_bytes (hl : lane m l = true) (hlow : ∀ j, j < l → lane m j = false)
    (hr : vatomAt s w (scalarVal s g w.a) l = .error (r, x)) (h3 : 3 ≤ r) (h8 : r ≤ 8) : vatomTargets s g m w = .error (addrDetail w.glob l r x) := by
  unfold vatomAt at hr
  refine lanesOf_mapM_error hl (fun j hj hm => absurd hm (by rw [hlow j hj]; exact Bool.false_ne_true)) ?_
  simp only [offOf, hr, h3, h8, and_self, true_or, if_true]

theorem vatomTargets_row (ha : vatomRow w (scalarVal s g w.a) % 128 ≠ 0) (hl : lane m l = true) (hlow : ∀ j, j < l → lane m j = false)
    (hr : ∀ r x, vatomAt s w (scalarVal s g w.a) l = .error (r, x) → r < 3 ∨ 8 < r) :
    vatomTargets s g m w = .error (addrDetail w.glob l 9 (vatomRow w (scalarVal s g w.a) % 2 ^ 48)) := by
  refine lanesOf_mapM_error hl (fun j hj hm => absurd hm (by rw [hlow j hj]; exact Bool.false_ne_true)) ?_
  unfold vatomAt at hr
  unfold vatomRow at ha
  cases e : (if w.glob then resolveGlobal s 2 4 1 (scalarVal s g w.a) w.ofs.toInt (4 * (l : Int)) else
      resolveLocal s false 1 (scalarVal s g w.a) w.ofs.toInt (4 * (l : Int))) with
  | ok t => simp only [offOf, e, ha, if_false, vatomRow]
  | error y =>
    have hy := hr y.1 y.2 e
    have hno : ¬ ((3 ≤ y.1 ∧ y.1 ≤ 8) ∨ wrapN 64 ((scalarVal s g w.a : Int) + w.ofs.toInt) % 128 = 0) := by omega
    simp only [offOf, e, hno, if_false, vatomRow]
end

/-! ### The ranges of a copy (11 R190) -/

section
variable {a n : Nat}

theorem rangeReason_memory (h : 0x200000000 ≤ a) (hn : a + n ≤ 2 ^ 48) : rangeReason false a n = none := by
  unfold rangeReason
  split
  · rfl
  · refine List.findSome?_eq_none_iff.mpr fun i hi => ?_
    have hlast : i < (a % 65536 + n + 65535) / 65536 := List.mem_range.mp hi
    have hx : ∀ x, 0x200000000 ≤ x → x < 2 ^ 48 → (localReason false 1 x).map (fun r => (r, x)) = none := fun x h1 h2 => by
      rw [localReason_far h2 (Nat.mod_one x), areaReason_memory h1]
      rfl
    dsimp only
    split
    · exact hx _ h (by omega)
    · exact hx _ (by omega) (by omega)

theorem rowsReason_one {stride : Nat} : rowsReason a stride n 1 = rangeReason false a n := by
  rw [rowsReason, rowsReason, Nat.zero_mul, Nat.add_zero]

theorem rangeCheck_misaligned {bad : Bool} {rows stride : Nat} (h : a < 2 ^ 48) (hb : a % 16 ≠ 0 ∨ bad = true) :
    rangeCheck a bad rows stride n = some (9, a) := by
  rw [rangeCheck, if_neg (by omega), if_pos hb]

theorem rangeCheck_memory {stride : Nat} (h : 0x200000000 ≤ a) (hn : a + n ≤ 2 ^ 48) (h16 : a % 16 = 0) (hb : a < 2 ^ 48) :
    rangeCheck a false 1 stride n = none := by
  rw [rangeCheck, if_neg (by omega), if_neg (by simp [h16]), rowsReason_one, rangeReason_memory h hn]
end

/-- The bytes of a row at the destination. -/
def CopyArgs.destRow (c : CopyArgs) : Nat := if c.widen then 2 * c.rowBytes else c.rowBytes

/-- A field of the source's range is misaligned, and a field of the destination's: they count where no address is misaligned. -/
def CopyArgs.sourceBad (c : CopyArgs) : Bool := !(c.src % 16 != 0 || c.dst % 16 != 0) && (c.rowBytes % 16 != 0 || c.sstride % 16 != 0)
def CopyArgs.destBad (c : CopyArgs) : Bool := !(c.src % 16 != 0 || c.dst % 16 != 0) && c.dstride % 16 != 0
def CopyArgs.fillBad (c : CopyArgs) : Bool := !(c.dst % 16 != 0) && (c.dstride % 16 != 0 || c.rowBytes % 16 != 0)

section
variable {c : CopyArgs} (hb : c.bar = none)
include hb

/-- A copy that announces nothing checks its source, then its destination. -/
theorem copyCheck_source : copyCheck false c =
    (rangeCheck c.src c.sourceBad c.rows c.sstride c.rowBytes).or (rangeCheck c.dst c.destBad c.rows c.dstride c.destRow) := by
  unfold copyCheck
  rw [hb]
  simp only [Option.any_none, Bool.or_false, Bool.not_false, Bool.true_and, Bool.false_and, Bool.false_eq_true, if_false,
    CopyArgs.sourceBad, CopyArgs.destBad, CopyArgs.destRow]
  split
  · next e => rw [e]; rfl
  · next e =>
    rw [e, Option.none_or]
    split
    · next e2 => rw [e2]
    · next e2 => rw [e2]

/-- A fill has a destination alone. -/
theorem copyCheck_fill : copyCheck true c = rangeCheck c.dst c.fillBad c.rows c.dstride c.destRow := by
  unfold copyCheck
  rw [hb]
  simp only [Option.any_none, Bool.or_false, Bool.not_true, Bool.false_or, Bool.false_and, Bool.true_and, if_true, CopyArgs.fillBad, CopyArgs.destRow]
  split
  · next e => rw [e]
  · next e => rw [e]
end

/-! ### The obligation -/

/-- Settles O20: each check has its reason (`resolveLocal_…`, `resolveGlobal_…`, `rangeCheck_…`), and the lowest lane that fails traps (`targetWords_trap`,
`atomWords_trap`, `vatomAdd_trap`). -/
theorem addressesAreCheckedBeforeAnyAccess : Obligations.AddressesAreCheckedBeforeAnyAccess := by
  unfold Obligations.AddressesAreCheckedBeforeAnyAccess
  refine ⟨⟨?_, ?_, ?_, ?_, ?_, ?_⟩, ?_⟩
  · intro s near k n base o x e a no
    refine ⟨fun h => resolveLocal_outside h, fun hb h0 ha hn => resolveLocal_refused hb h0 ha (localReason_misaligned ha hn), fun hb h0 ha hn => ⟨?_, ?_, ?_⟩⟩
    · rintro rfl h
      exact resolveLocal_refused hb h0 ha ((localReason_near ha hn).trans (if_pos h))
    · rintro rfl
      have area := localReason_far ha hn
      refine ⟨fun h h' => ?_, fun h h' => ?_, fun h h' hr => ?_, fun h h' => ?_, fun h h' hr => ?_, fun h => ?_⟩
      · exact resolveLocal_refused hb h0 ha (area.trans (areaReason_ownReserved h h'))
      · exact resolveLocal_refused hb h0 ha (area.trans (areaReason_lowHole h h'))
      · exact resolveLocal_refused hb h0 ha (area.trans ((areaReason_tiles h h').trans (if_pos hr)))
      · exact resolveLocal_refused hb h0 ha (area.trans (areaReason_highHole h h'))
      · exact resolveLocal_device hb h0 ha (area.trans ((areaReason_tiles h h').trans (if_neg (Nat.not_le.mpr hr)))) (by omega)
      · exact resolveLocal_device hb h0 ha (area.trans (areaReason_memory h)) (by omega)
    · exact fun h => resolveLocal_own hb h0 ha (localReason_slice h hn) h
  · intro s near k n base o x rank reg e1 e f no d top size j
    have he1 : e1 = globBase base o := by
      dsimp only [e1]
      rw [globBase, fld_zero]
    clear_value e1
    subst he1
    refine ⟨fun h => resolveGlobal_notGlobal h, fun h h1 => resolveGlobal_first h h1, fun h h0 h1 h2 => resolveGlobal_last h (by omega) h2,
      fun h h0 h1 h2 h3 => ?_⟩
    have inside : GlobInside base o x := ⟨h, by omega, by omega⟩
    refine ⟨fun hj => resolveGlobal_rank inside (resolveRank_noJob hj), fun r hr => ?_, fun route hr => ⟨resolveRank_own hr, fun hd => ?_, fun hv hfits => ?_⟩⟩
    · obtain rfl := resolveRank_error hr
      exact ⟨rfl, resolveGlobal_rank inside hr⟩
    · exact resolveGlobal_region inside hr (regionOf_invalid hd)
    · obtain ⟨q, hq, hbase, hsize, hallow⟩ := regionOf_valid hv hfits
      replace hbase : q.base = top := hbase
      replace hsize : q.size = size := hsize
      refine ⟨fun hs => ?_, fun hs hp => ?_, fun hs hp => ?_⟩
      · exact resolveGlobal_size inside hr hq (hsize ▸ hs)
      · exact resolveGlobal_permission inside hr hq (by omega) ((hallow k).trans hp)
      · have fits : f + n ≤ q.size := hsize ▸ hs
        have allowed : q.allows k = true := (hallow k).trans hp
        refine ⟨fun ha => resolveGlobal_misaligned inside hr hq fits allowed ha, fun ha => ⟨fun t ht => ?_, fun ht => ⟨fun r har => ?_, fun har => ?_⟩⟩⟩
        · exact resolveGlobal_other inside hr hq fits allowed ha ht
        · exact resolveGlobal_area inside hr hq fits allowed ha ht (hbase ▸ har)
        · rw [← hbase]
          exact resolveGlobal_own inside hr hq fits allowed ha ht (hbase ▸ har)
  · intro p hp w s g l r a h hd _ hl hlow hr
    exact targetWords_trap hp h (targets_vector hd hl hlow hr)
  · intro p hp w s g r a h hd hr
    exact targetWords_trap hp h (targets_scalar hd hr)
  · intro p hp w s g l r a h _ hl at' hlow hr
    exact atomWords_trap hp h (atomTargets_lowest hl hlow hr)
  · intro w s g l h _ hl b a at' traps
    refine ⟨fun ha hlow r x hr => vatomAdd_trap h (vatomTargets_aligned ha hl hlow hr), fun ha hlow => ⟨fun r x hr h3 h8 => ?_, fun hr => ?_⟩⟩
    · exact vatomAdd_trap h (vatomTargets_bytes hl hlow hr h3 h8)
    · exact vatomAdd_trap h (vatomTargets_row ha hl hlow hr)
  · intro c hrows hbar hsrc hdst len
    refine ⟨fun hs16 hd16 hrow hss hds hs hd hsend hdend => ⟨?_, ?_⟩, fun h => ?_, fun h => ?_, fun hs16 hs hsend h => ?_, fun hs16 hd16 hrow => ⟨?_, ?_⟩⟩
    · have good : c.sourceBad = false ∧ c.destBad = false := by simp [CopyArgs.sourceBad, CopyArgs.destBad, hs16, hd16, hrow, hss, hds]
      rw [copyCheck_source hbar, hrows, good.1, good.2, rangeCheck_memory hs hsend hs16 hsrc, rangeCheck_memory (n := c.destRow) hd hdend hd16 hdst]
      rfl
    · have good : c.fillBad = false := by simp [CopyArgs.fillBad, hd16, hrow, hds]
      rw [copyCheck_fill hbar, hrows, good, rangeCheck_memory (n := c.destRow) hd hdend hd16 hdst]
    · rw [copyCheck_source hbar, rangeCheck_misaligned hsrc (.inl h)]
      rfl
    · rw [copyCheck_fill hbar, rangeCheck_misaligned hdst (.inl h)]
    · have good : c.sourceBad = false := by simp [CopyArgs.sourceBad, h]
      rw [copyCheck_source hbar, hrows, good, rangeCheck_memory hs hsend hs16 hsrc, rangeCheck_misaligned hdst (.inl h)]
      rfl
    · have bad : c.sourceBad = true := by simp [CopyArgs.sourceBad, hs16, hd16, hrow]
      rw [copyCheck_source hbar, rangeCheck_misaligned hsrc (.inr bad)]
      rfl
    · have bad : c.fillBad = true := by simp [CopyArgs.fillBad, hd16, hrow]
      rw [copyCheck_fill hbar, rangeCheck_misaligned hdst (.inr bad)]

end Sys2Proof.Machine

/-! PROOFS, 10 R163 to R166. The near forms: the element of each active lane at its effective address, read as it stands or stored over it alone. -/

namespace Sys2Proof.Machine
open Sys2Proof Sys2Proof.Claims

/-! ### What a legal word of memory takes (10 Table 1) -/

theorem glob_fields (w : ME) (major minor sel : Nat) : (w.fields major minor sel).glob = w.glob := congrArg ME.glob (w.fields_back major minor sel)

/-- A form without GLOB refuses a word that sets it (reason 8). -/
theorem memForm_local {f : Fields} {kd ka kb ty orders pairs : Nat} {wr ac : Bool} (h : (memForm f kd ka kb ty orders pairs wr ac false).ok8 = true) :
    f.glob = false := by
  simpa [memForm] using (Bool.and_eq_true_iff.mp h).2

/-- The type that alone stands in the set of the row forms. -/
theorem Ty.eq_n32 {t : Ty} (h : inSet 0x80 t.toNat = true) : t = .n32 := by
  revert h
  cases t <;> decide

theorem bits_of_bytes (t : Ty) : t.bits = 8 * bytesOf t := by cases t <;> rfl

theorem bytesOf_pos (t : Ty) : 0 < bytesOf t := by cases t <;> decide

theorem bytesOf_le (t : Ty) : bytesOf t ≤ 8 := by cases t <;> decide

section
variable {s : State} {g : Group} {w : ME}

theorem Issues.ldn_local (h : Issues (.ldn w) s g) : w.glob = false := by
  obtain ⟨fm, hfm, ht⟩ := h.takes rfl
  cases hfm
  exact (glob_fields w _ _ _).symm.trans (memForm_local ht.ok8)

theorem Issues.stn_local (h : Issues (.stn w) s g) : w.glob = false := by
  obtain ⟨fm, hfm, ht⟩ := h.takes rfl
  cases hfm
  exact (glob_fields w _ _ _).symm.trans (memForm_local ht.ok8)

theorem Issues.stnr_type (h : Issues (.stnr w) s g) : w.ty = .n32 := by
  obtain ⟨fm, hfm, ht⟩ := h.takes rfl
  cases hfm
  exact Ty.eq_n32 ht.ty
end

/-! ### Targets that pass their checks -/

theorem mapM_ok {α β ε : Type} {f : α → Except ε β} {z : α → β} {xs : List α} (h : ∀ x ∈ xs, f x = .ok (z x)) : xs.mapM f = .ok (xs.map z) := by
  induction xs with
  | nil => rfl
  | cons x r ih =>
    rw [List.mapM_cons, h x List.mem_cons_self, ih fun y hy => h y (List.mem_cons_of_mem _ hy)]
    rfl

theorem single_eq (w : ME) : single w = decide (w.d.kind = 1) := by
  unfold single
  cases w.d <;> rfl

section
variable {s : State} {g : Group} {m : Mask} {w : ME} {near : Bool} {k : Nat}

/-- Each active lane's own target, in ascending order. -/
theorem targets_lanes {t : Nat → Target} (hd : w.d.kind ≠ 1)
    (h : ∀ l, lane m l = true → resolve s w.glob near k (bytesOf w.ty) (scalarVal s g w.a) w.ofs.toInt (laneOfs s g w l) = .ok (t l)) :
    targets s g m w near k = .ok ((lanesOf m).map fun l => (l, t l)) := by
  unfold targets
  rw [single_eq, decide_eq_false hd, if_neg Bool.false_ne_true, List.mapM_map]
  refine mapM_ok fun l hl => ?_
  simp only [Function.comp, offOf, h l (mem_lanesOf.mp hl)]

/-- The one target of a word with a scalar D. -/
theorem targets_one {t : Target} (hd : w.d.kind = 1)
    (h : resolve s w.glob near k (bytesOf w.ty) (scalarVal s g w.a) w.ofs.toInt 0 = .ok t) : targets s g m w near k = .ok [(0, t)] := by
  unfold targets
  rw [single_eq, decide_eq_true hd, if_pos rfl, List.mapM_cons, offOf, h]
  rfl

theorem effAddr_vector (hd : w.d.kind = 0) (l : Nat) : effAddr s g w l = scalarVal s g w.a + w.ofs.toInt + laneOfs s g w l := by
  rw [effAddr, hd, if_neg (by decide)]

theorem effAddr_scalar (hd : w.d.kind = 1) (l : Nat) : effAddr s g w l = scalarVal s g w.a + w.ofs.toInt + 0 := by rw [effAddr, if_pos hd]

/-- An aligned element of the near window is the one of the tile's own slice (09 R153). -/
theorem resolve_near {n base : Nat} {o x : Int} (h : NearElement base (base + o + x) n) :
    resolve s false near k n base o x = .ok ⟨slicePlace (tileOf s.cur) ((base : Int) + o + x).toNat, none, none⟩ := by
  obtain ⟨hb, h0, ha, hn⟩ := h
  have hlt : ((base : Int) + o + x).toNat < 0x7F0000 := by omega
  exact resolveLocal_own hb h0 (by omega) (localReason_slice hlt hn) hlt

/-- Where a near word finds the element of a lane. -/
def nearPlace (s : State) (g : Group) (w : ME) (l : Nat) : Nat := slicePlace (tileOf s.cur) (effAddr s g w l).toNat

theorem nearTargets_vector (hg : w.glob = false) (hd : w.d.kind = 0)
    (h : ∀ l, lane m l = true → NearElement (scalarVal s g w.a) (effAddr s g w l) (bytesOf w.ty)) :
    targets s g m w near k = .ok ((lanesOf m).map fun l => (l, ⟨nearPlace s g w l, none, none⟩)) := by
  refine targets_lanes (by rw [hd]; decide) fun l hl => ?_
  have hn := h l hl
  rw [nearPlace, effAddr_vector hd] at *
  rw [hg, resolve_near hn]

theorem nearTargets_scalar (hg : w.glob = false) (hd : w.d.kind = 1) (h : NearElement (scalarVal s g w.a) (effAddr s g w 0) (bytesOf w.ty)) :
    targets s g m w near k = .ok [(0, ⟨nearPlace s g w 0, none, none⟩)] := by
  refine targets_one hd ?_
  rw [nearPlace, effAddr_scalar hd] at *
  rw [hg, resolve_near h]

theorem nearRow (h : NearElement (scalarVal s g w.a) (rowAddr s g w) 256) :
    rowTarget s g w k = .ok (slicePlace (tileOf s.cur) (rowAddr s g w).toNat) := by
  have hr : (scalarVal s g w.a : Int) + offOf w + 0 = rowAddr s g w := add_zero _
  unfold rowTarget
  rw [resolve_near (by rwa [hr]), hr]
end

/-! ### Reads of bytes without a latent error (27 R395) -/

/-- Where no error lies, a read delivers the bytes and changes nothing. -/
theorem readAt_of_clean {s : State} {w : Who} {p n : Nat} (h : Clean s p n) : s.readAt w p n = (s, some (s.peek p n)) := by
  have hnone : s.flaws.find? (fun f => f.worse && f.inRange p n) = none := List.find?_eq_none.mpr fun f hf => by simp [h f hf]
  have hhit : s.flaws.filter (fun f => f.inRange p n) = [] := List.filter_eq_nil_iff.mpr fun f hf => by simp [h f hf]
  have hkept : s.flaws.filter (fun f => !f.inRange p n) = s.flaws := List.filter_eq_self.mpr fun f hf => by simp [h f hf]
  unfold State.readAt
  split
  · rfl
  · rw [hnone]
    dsimp only
    rw [hhit, hkept]
    rfl

theorem readAll_of_clean {s : State} {w : Who} {n : Nat} {ps : List Nat} (h : ∀ p ∈ ps, Clean s p n) :
    s.readAll w n ps = (s, some (ps.map fun p => s.peek p n)) := by
  induction ps with
  | nil => rfl
  | cons p r ih =>
    rw [State.readAll, readAt_of_clean (h p List.mem_cons_self)]
    dsimp only
    rw [ih fun q hq => h q (List.mem_cons_of_mem _ hq)]
    rfl

theorem slicePlace_add (t o k : Nat) : slicePlace t (o + k) = slicePlace t o + k := (Nat.add_assoc _ _ _).symm

/-- Bytes k up to k + j of n bytes read are the j bytes there. -/
theorem memBytes_slice (m : List Host.Cell) (a k j n : Nat) (h : k + j ≤ n) : ((memBytes m a n).drop k).take j = memBytes m (a + k) j := by
  induction k generalizing a n with
  | zero =>
    rw [List.drop_zero, Nat.add_zero]
    induction j generalizing a n with
    | zero => rfl
    | succ j ih =>
      obtain ⟨n, rfl⟩ : ∃ x, n = x + 1 := ⟨n - 1, by omega⟩
      rw [memBytes, memBytes, List.take_succ_cons, ih _ _ (by omega)]
  | succ k ih =>
    obtain ⟨n, rfl⟩ : ∃ x, n = x + 1 := ⟨n - 1, by omega⟩
    rw [memBytes, List.drop_succ_cons, ih _ _ (by omega), Nat.add_right_comm, Nat.add_assoc]

/-! ### What lands in D (10 R164) -/

/-- The value listed for a lane of a list that goes through the lanes of a mask. -/
theorem find?_lanes {m : Mask} {l : Nat} (h : lane m l = true) (v : Nat → Nat) :
    ((lanesOf m).map fun l => (l, v l)).find? (fun x => x.1 == l) = some (l, v l) := by
  refine List.find?_eq_some_iff_append.mpr ⟨beq_self_eq_true _, ?_⟩
  obtain ⟨low, high, e, hlow⟩ := lanesOf_split h
  refine ⟨low.map fun l => (l, v l), high.map fun l => (l, v l), by rw [e, List.map_append, List.map_cons], fun x hx => ?_⟩
  obtain ⟨k, hk, rfl⟩ := List.mem_map.mp hx
  simp [(hlow k hk).1.ne]

theorem maskOf_lanes (m : Mask) (v : Nat → Nat) : maskOf (fun l => ((lanesOf m).map fun l => (l, v l)).any fun x => x.1 == l) = m := by
  refine lane_ext fun l => ?_
  rw [lane_maskOf, Bool.eq_iff_iff, List.any_map, Bool.and_eq_true, decide_eq_true_eq, List.any_eq_true]
  simp only [Function.comp, beq_iff_eq, mem_lanesOf, exists_eq_right]
  exact ⟨fun h => h.2, fun h => ⟨lt_of_lane h, h⟩⟩

theorem Group.loaded_vector {g : Group} {t : Ty} {d : Opnd} {m : Mask} {v : Nat → Nat} (hd : d.kind = 0) :
    g.loaded t d ((lanesOf m).map fun l => (l, v l)) = g.writeV t d m (fun l => loadLane t (v l)) := by
  cases d with
  | v r =>
    unfold Group.loaded
    dsimp only
    rw [maskOf_lanes]
    exact g.writeV_congr _ _ fun l hl => by rw [find?_lanes hl]
  | s n => cases hd
  | p n => cases hd
  | imm n => cases hd

theorem Group.loaded_scalar {g : Group} {t : Ty} {d : Opnd} {l x : Nat} (hd : d.kind = 1) : g.loaded t d [(l, x)] = g.writeS d (extS t x) := by
  cases d with
  | s n => rfl
  | v n => cases hd
  | p n => cases hd
  | imm n => cases hd

/-- Settles O18: `nearTargets_vector`, `nearTargets_scalar` and `nearRow` give the places, `readAt_of_clean` the bytes. -/
theorem nearLoadsDeliverTheElementsAtTheirAddresses : Obligations.NearLoadsDeliverTheElementsAtTheirAddresses := by
  unfold Obligations.NearLoadsDeliverTheElementsAtTheirAddresses
  intro w s g n p i r b a
  refine ⟨fun h hd hl => ?_, fun h hd hn hc => ?_, fun h hn hc => ?_⟩
  · have hc : ∀ q ∈ (lanesOf (lanesFor i g)).map (nearPlace s g w), Clean s q n := fun q hq => by
      obtain ⟨l, hm, rfl⟩ := List.mem_map.mp hq
      exact (hl l (lt_of_lane (mem_lanesOf.mp hm)) (mem_lanesOf.mp hm)).2
    refine ⟨_, ?_, g.writeV_written w.ty w.d _ _⟩
    rw [Group.raise_zero]
    show execLdn w s = _
    refine runWord_ok i s _ g _ _ h ?_
    rw [nearTargets_vector h.ldn_local hd fun l hm => (hl l (lt_of_lane hm) hm).1]
    dsimp only
    rw [List.map_map, Function.comp_def, readAll_of_clean hc]
    dsimp only
    rw [List.map_map, List.zip_map', List.map_map]
    exact congrArg _ (congrArg s.put (Group.loaded_vector hd))
  · refine ⟨_, ?_, g.writeS_written w.d _⟩
    rw [Group.raise_zero]
    show execLdn w s = _
    refine runWord_ok i s _ g _ _ h ?_
    rw [nearTargets_scalar h.ldn_local hd hn]
    dsimp only [List.map_cons, List.map_nil, nearPlace]
    rw [readAll_of_clean (fun q hq => by rwa [List.mem_singleton.mp hq])]
    exact congrArg _ (congrArg s.put (Group.loaded_scalar hd))
  · refine ⟨_, ?_, g.writeV_written .n32 w.d _ _⟩
    rw [Group.raise_zero]
    show execLdnr w s = _
    refine runWord_ok r s _ g _ _ h ?_
    rw [nearRow hn]
    dsimp only
    rw [readAt_of_clean hc]
    refine congrArg _ (congrArg s.put (g.writeV_congr _ _ fun l hl => ?_))
    have := lt_of_lane hl
    rw [State.peek, memBytes_slice _ _ _ _ _ (by omega), slicePlace_add, memVal]
end Sys2Proof.Machine

/-! PROOFS, 10 R163 to R166. The near stores: each element over its own bytes, the highest lane last. -/

namespace Sys2Proof.Machine
open Sys2Proof Sys2Proof.Claims

/-! ### The kinds of operand a legal word has (04 R66, reason 6) -/

/-- The operands D, A and B of a word that issues are of the kinds its form takes. -/
theorem Issues.kinds {i : Instr} {s : State} {g : Group} {f : Fields} (h : Issues i s g) (hf : fieldsOf i = some f) :
    ∃ fm, formOf g.limits f = .ok fm ∧ bad6 fm f.d 0 fm.kd f.d = false ∧ bad6 fm f.d 1 fm.ka f.a = false ∧ bad6 fm f.d 2 fm.kb f.b = false := by
  have hl := h.legal
  rw [illegalOf, hf] at hl
  change check g.limits f = none at hl
  unfold check at hl
  split at hl
  · cases hl
  · next fm hfm =>
    split at hl
    · cases hl
    split at hl
    · cases hl
    split at hl
    · cases hl
    next hk => exact ⟨fm, hfm, firstBad_none hk⟩

/-- The data of a store are no per-lane register. -/
theorem Issues.stn_data {w : ME} {s : State} {g : Group} (h : Issues (.stn w) s g) : perLane w.d = false := by
  obtain ⟨fm, hfm, hd, -, -⟩ := h.kinds rfl
  cases hfm
  simp only [bad6, memForm, ME.fields] at hd
  exact (by simpa [kVS, inSet, bit] using hd : _ ∧ _).2

/-! ### What a scalar supplies to each element (06 R106) -/

theorem splat_mod (t : Ty) (x : Nat) : splat t x % 2 ^ t.bits = x % 2 ^ t.bits := by
  unfold splat
  split
  · next h =>
    obtain ⟨n, hn⟩ : ∃ n, 32 / t.bits = n + 1 := ⟨32 / t.bits - 1, by have := Nat.div_pos h.le t.bits_pos; omega⟩
    rw [hn, List.replicate_succ, joinElems, Nat.add_mul_mod_self_left, Nat.mod_mod]
  · exact Nat.mod_mod _ _

theorem laneVal_scalar {s : State} {g : Group} {t : Ty} {o : Opnd} (hk : o.kind = 1) (hp : perLane o = false) (l : Nat) :
    laneVal s g t o l = splat t (scalarVal s g o) := by
  cases o with
  | s n =>
    obtain ⟨h0, h1⟩ : n ≠ 0x300 ∧ n ≠ 0x301 := by simpa [perLane] using hp
    rw [laneVal, if_neg h0, if_neg h1]
  | v n => cases hk
  | p n => cases hk
  | imm n => cases hk

/-! ### Several runs of bytes stored in order -/

/-- Runs of bytes stored one after another. -/
def storeAll (m : List Host.Cell) (xs : List (Nat × List Byte)) : List Host.Cell := xs.foldl (fun m x => memStore m x.1 x.2) m

section
variable {m : List Host.Cell} {xs ys : List (Nat × List Byte)} {c : Nat}

theorem Memory.wf_storeAll (h : Memory.wf m = true) : Memory.wf (storeAll m xs) = true := by
  induction xs generalizing m with
  | nil => exact h
  | cons x r ih => exact ih (Memory.wf_memStore _ _ _ h)

theorem memGet_storeAll_outside (h : Memory.wf m = true) (hc : ∀ x ∈ xs, c < x.1 ∨ x.1 + x.2.length ≤ c) : memGet (storeAll m xs) c = memGet m c := by
  induction xs generalizing m with
  | nil => rfl
  | cons x r ih =>
    rw [storeAll, List.foldl_cons, ← storeAll, ih (Memory.wf_memStore _ _ _ h) fun y hy => hc y (List.mem_cons_of_mem _ hy),
      memGet_memStore_outside _ _ _ _ h (hc x List.mem_cons_self)]

theorem memBytes_congr {m' : List Host.Cell} {a n : Nat} (h : ∀ c, a ≤ c → c < a + n → memGet m c = memGet m' c) : memBytes m a n = memBytes m' a n := by
  induction n generalizing a with
  | zero => rfl
  | succ n ih => rw [memBytes, memBytes, h a le_rfl (by omega), ih fun c h1 h2 => h c (by omega) (by omega)]

/-- The last run stored over some bytes stands there. -/
theorem memBytes_storeAll_last {x : Nat × List Byte} (h : Memory.wf m = true)
    (hy : ∀ y ∈ ys, x.1 + x.2.length ≤ y.1 ∨ y.1 + y.2.length ≤ x.1) : memBytes (storeAll m (xs ++ x :: ys)) x.1 x.2.length = x.2 := by
  have hw : Memory.wf (storeAll m xs) = true := Memory.wf_storeAll h
  rw [storeAll, List.foldl_append, List.foldl_cons, ← storeAll, ← storeAll]
  refine (memBytes_congr fun c h1 h2 => ?_).trans (memBytes_memStore_same x.2 (storeAll m xs) x.1 hw)
  refine memGet_storeAll_outside (Memory.wf_memStore _ _ _ hw) fun y hin => ?_
  rcases hy y hin with hlt | hlt
  · exact .inl (by omega)
  · exact .inr (by omega)

/-- Bytes cut into runs are stored as one by one. -/
theorem storeAll_runsOf (cells : List (Nat × Byte)) : storeAll m (runsOf cells) = cells.foldl (fun m x => memPut m x.1 x.2) m := by
  induction cells generalizing m with
  | nil => rfl
  | cons x r ih =>
    obtain ⟨a, b⟩ := x
    rw [List.foldl_cons, ← ih, runsOf]
    split
    · next p bs t hr =>
      rw [hr]
      split
      · next hp => subst hp; rfl
      · rfl
    · next hr => rw [hr]; rfl

theorem foldl_memPut_mapIdx (bs : List Byte) (a : Nat) : (bs.mapIdx fun i x => (a + i, x)).foldl (fun m x => memPut m x.1 x.2) m = memStore m a bs := by
  induction bs generalizing m a with
  | nil => rfl
  | cons b r ih =>
    rw [List.mapIdx_cons, List.foldl_cons, memStore, Nat.add_zero, ← ih]
    simp only [Nat.add_assoc, Nat.add_comm 1]

/-- The cells of several runs, cut anew, are stored as the runs are. -/
theorem storeAll_cells {ls : List Nat} {a : Nat → Nat} {bs : Nat → List Byte} :
    storeAll m (runsOf (ls.flatMap fun l => (bs l).mapIdx fun i x => (a l + i, x))) = storeAll m (ls.map fun l => (a l, bs l)) := by
  rw [storeAll_runsOf, storeAll, List.foldl_flatMap, List.foldl_map]
  congr 1
  funext m l
  exact foldl_memPut_mapIdx _ _
end

/-! ### The elements of the lanes of a mask -/

/-- Of the lanes of a mask, those after a lane are above it. -/
theorem lanesOf_above {m : Mask} {l : Nat} (h : lane m l = true) : ∃ low high, lanesOf m = low ++ l :: high ∧ ∀ k ∈ high, l < k ∧ lane m k = true := by
  obtain ⟨low, high, e⟩ := List.append_of_mem (mem_lanesOf.mpr h)
  have sorted : (lanesOf m).Pairwise (· < ·) := List.Pairwise.filter _ List.pairwise_lt_range
  rw [e, List.pairwise_append, List.pairwise_cons] at sorted
  exact ⟨low, high, e, fun k hk => ⟨sorted.2.1.1 k hk, mem_lanesOf.mp (e ▸ List.mem_append_right _ (List.mem_cons_of_mem _ hk))⟩⟩

/-- Different aligned elements have no byte in common. -/
theorem aligned_apart {n a b : Nat} (ha : a % n = 0) (hb : b % n = 0) (h : a ≠ b) : a + n ≤ b ∨ b + n ≤ a := by
  obtain ⟨x, rfl⟩ := Nat.dvd_of_mod_eq_zero ha
  obtain ⟨y, rfl⟩ := Nat.dvd_of_mod_eq_zero hb
  rcases Nat.lt_or_gt_of_ne fun e : x = y => h (by rw [e]) with hlt | hlt
  · exact .inl (Nat.mul_le_mul_left n hlt)
  · exact .inr (Nat.mul_le_mul_left n hlt)

/-- The element of n bytes of each lane of a mask. -/
def laneRuns (m : Mask) (n : Nat) (p v : Nat → Nat) : List (Nat × List Byte) := (lanesOf m).map fun l => (p l, leBytes n (v l))

section
variable {cells : List Host.Cell} {m : Mask} {n : Nat} {p v : Nat → Nat}

theorem laneRuns_outside (h : Memory.wf cells = true) {c : Nat} (hc : ∀ l, lane m l = true → c < p l ∨ p l + n ≤ c) :
    memGet (storeAll cells (laneRuns m n p v)) c = memGet cells c := by
  refine memGet_storeAll_outside h fun x hx => ?_
  obtain ⟨l, hl, rfl⟩ := List.mem_map.mp hx
  rw [leBytes_length]
  exact hc l (mem_lanesOf.mp hl)

/-- The element of a lane stands where no higher lane stores over it. -/
theorem laneRuns_lane (h : Memory.wf cells = true) {l : Nat} (hl : lane m l = true)
    (hp : ∀ k, l < k → lane m k = true → p l + n ≤ p k ∨ p k + n ≤ p l) : memVal (storeAll cells (laneRuns m n p v)) (p l) n = v l % 256 ^ n := by
  obtain ⟨low, high, e, hk⟩ := lanesOf_above hl
  have hy : ∀ y ∈ high.map fun k => (p k, leBytes n (v k)), p l + (leBytes n (v l)).length ≤ y.1 ∨ y.1 + y.2.length ≤ p l := fun y hy => by
    obtain ⟨k, hin, rfl⟩ := List.mem_map.mp hy
    rw [leBytes_length, leBytes_length]
    exact hp k (hk k hin).1 (hk k hin).2
  have hb := memBytes_storeAll_last (xs := low.map fun k => (p k, leBytes n (v k))) (x := (p l, leBytes n (v l))) h hy
  rw [leBytes_length] at hb
  rw [memVal, laneRuns, e, List.map_append, List.map_cons, hb, leVal_leBytes]
end

/-! ### What a near store changes (10 R165) -/

/-- t is s but for bytes of memory, the errors they have removed, and the model's record of what a replay has passed (log 30). -/
structure NearOnly (s t : State) : Prop where
  memory : OnlyMemory { s with ll := t.ll } t
  record : t.ll = { s.ll with seen := t.ll.seen }
  live : s.ll.replay = none → t.ll = s.ll

theorem NearOnly.refl (s : State) : NearOnly s s := ⟨⟨rfl, fun _ h => h⟩, rfl, fun _ => rfl⟩

theorem NearOnly.trans {s t u : State} (h : NearOnly s t) (h' : NearOnly t u) : NearOnly s u := by
  obtain ⟨⟨hm, hf⟩, hr, hl⟩ := h
  obtain ⟨⟨hm', hf'⟩, hr', hl'⟩ := h'
  refine ⟨⟨?_, fun f hin => hf f (hf' f hin)⟩, ?_, fun hn => ?_⟩
  · rw [hm', hm]
  · rw [hr', hr]
  · have ht : t.ll.replay = none := by rw [hl hn, hn]
    rw [hl' ht, hl hn]

theorem nearStore_only (s : State) (p : Nat) (bs : List Byte) : NearOnly s (s.nearStore p bs) := by
  unfold State.nearStore State.phases State.poke
  split
  · exact ⟨⟨rfl, fun _ h => (List.mem_filter.mp h).1⟩, rfl, fun _ => rfl⟩
  · next hr => exact ⟨⟨rfl, fun _ h => (List.mem_filter.mp h).1⟩, rfl, fun hn => by rw [hr] at hn; cases hn⟩

/-- Near stores one after another. -/
def nearStores (s : State) (xs : List (Nat × List Byte)) : State := xs.foldl (fun s x => s.nearStore x.1 x.2) s

theorem nearStores_only (s : State) (xs : List (Nat × List Byte)) : NearOnly s (nearStores s xs) := by
  induction xs generalizing s with
  | nil => exact .refl s
  | cons x r ih => exact (nearStore_only s x.1 x.2).trans (ih _)

theorem nearStores_mem (s : State) (xs : List (Nat × List Byte)) : (nearStores s xs).mem = storeAll s.mem xs := by
  induction xs generalizing s with
  | nil => rfl
  | cons x r ih => rw [nearStores, List.foldl_cons, ← nearStores, ih, nearStore_mem]; rfl

/-! ### The words -/

section
variable {s : State} {g : Group} {w : ME}

/-- The low bits of the data as bytes say all of it. -/
theorem storeData_bytes (l : Nat) : storeData s g w l % 256 ^ bytesOf w.ty = laneVal s g w.ty w.d l % 2 ^ w.ty.bits := by
  rw [storeData, bits_of_bytes, Nat.pow_mul, Nat.mod_mod]

/-- The lanes of a vector are the same whatever a store has changed. -/
theorem storeData_vector (hd : w.d.kind = 0) (t : State) (l : Nat) : storeData t g w l = storeData s g w l := by
  unfold storeData
  cases hw : w.d with
  | v n => rfl
  | s n => rw [hw] at hd; cases hd
  | p n => rfl
  | imm n => rfl

theorem nearPlace_apart {k l n : Nat} (hk : (effAddr s g w k).toNat % n = 0) (hl : (effAddr s g w l).toNat % n = 0)
    (h : nearPlace s g w k ≠ nearPlace s g w l) : nearPlace s g w l + n ≤ nearPlace s g w k ∨ nearPlace s g w k + n ≤ nearPlace s g w l := by
  have := aligned_apart hl hk fun e => h (by rw [nearPlace, nearPlace, e])
  simp only [nearPlace, slicePlace]
  omega

theorem exec_stn_vector (h : Issues (.stn w) s g) (hd : w.d.kind = 0)
    (hn : ∀ l, lane (lanesFor (.stn w) g) l = true → NearElement (scalarVal s g w.a) (effAddr s g w l) (bytesOf w.ty)) :
    exec (.stn w) s = .next (timed (.stn w) s g
      (nearStores s (laneRuns (lanesFor (.stn w) g) (bytesOf w.ty) (nearPlace s g w) (storeData s g w)))) := by
  show execStn w s = _
  refine runWord_ok _ s _ g _ _ h ?_
  rw [nearTargets_vector h.stn_local hd hn]
  dsimp only
  simp only [List.foldl_map, nearStores, laneRuns, storeData_vector (s := s) hd]

theorem exec_stn_scalar (h : Issues (.stn w) s g) (hd : w.d.kind = 1) (hn : NearElement (scalarVal s g w.a) (effAddr s g w 0) (bytesOf w.ty)) :
    exec (.stn w) s = .next (timed (.stn w) s g (nearStores s [(nearPlace s g w 0, leBytes (bytesOf w.ty) (storeData s g w 0))])) := by
  show execStn w s = _
  refine runWord_ok _ s _ g _ _ h ?_
  rw [nearTargets_scalar h.stn_local hd hn]
  rfl

/-- The row form stores its cells as runs. -/
theorem exec_stnr (h : Issues (.stnr w) s g) (hn : NearElement (scalarVal s g w.a) (rowAddr s g w) 256) :
    ∃ t, exec (.stnr w) s = .next (timed (.stnr w) s g t) ∧ NearOnly s t ∧ t.mem = storeAll s.mem (laneRuns (lanesFor (.stnr w) g) 4
      (fun l => slicePlace (tileOf s.cur) ((rowAddr s g w).toNat + 4 * l)) (storeData s g w)) := by
  refine ⟨_, ?_, nearStores_only s (runsOf ((lanesOf (lanesFor (.stnr w) g)).flatMap fun l =>
    (leBytes 4 (storeData s g w l)).mapIdx fun i x => (slicePlace (tileOf s.cur) (rowAddr s g w).toNat + 4 * l + i, x))), ?_⟩
  · show execStnr w s = _
    refine runWord_ok _ s _ g _ _ h ?_
    rw [nearRow hn]
    rfl
  · rw [nearStores_mem, storeAll_cells]
    simp only [laneRuns, slicePlace_add]
end

/-- Settles O19: the words store runs of bytes (`exec_stn_vector`, `exec_stn_scalar`, `exec_stnr`), of which the last one over a byte stands (`laneRuns_lane`). -/
theorem nearStoresWriteTheirElementsAndNoOtherByte : Obligations.NearStoresWriteTheirElementsAndNoOtherByte := by
  unfold Obligations.NearStoresWriteTheirElementsAndNoOtherByte
  intro w s g hw n p i r b a q only
  have honly : ∀ t, NearOnly s t → only t := fun t h => ⟨h.memory, h.record, h.live⟩
  refine ⟨fun h hd hn => ?_, fun h hd hn => ?_, fun h hn => ?_⟩
  · have hn' : ∀ l, lane (lanesFor i g) l = true → NearElement b (effAddr s g w l) n := fun l hl => hn l (lt_of_lane hl) hl
    refine ⟨_, exec_stn_vector h hd hn', honly _ (nearStores_only _ _), fun c hc => ?_, fun l _ hl hk => ?_⟩
    · rw [nearStores_mem]
      exact laneRuns_outside hw fun l hl => hc l (lt_of_lane hl) hl
    · rw [nearStores_mem, ← storeData_bytes]
      exact laneRuns_lane hw hl fun k hlt hm => nearPlace_apart (hn' k hm).2.2.2 (hn' l hl).2.2.2 (hk k hlt (lt_of_lane hm) hm)
  · refine ⟨_, exec_stn_scalar h hd hn, honly _ (nearStores_only _ _), fun c hc => ?_, ?_⟩
    · rw [nearStores_mem]
      refine memGet_storeAll_outside hw fun x hx => ?_
      rw [List.mem_singleton.mp hx, leBytes_length]
      exact hc
    · rw [← splat_mod, ← laneVal_scalar hd h.stn_data 0, ← storeData_bytes, nearStores_mem, ← leVal_leBytes]
      refine congrArg leVal ?_
      have hb := memBytes_storeAll_last (xs := []) (ys := []) (x := (p 0, leBytes n (storeData s g w 0))) hw fun y hy => absurd hy List.not_mem_nil
      rwa [leBytes_length] at hb
  · obtain ⟨t, he, ho, hm⟩ := exec_stnr h hn
    refine ⟨t, he, honly t ho, fun c hc => ?_, fun l _ hl => ?_⟩
    · rw [hm]
      exact laneRuns_outside hw fun l hl => hc l (lt_of_lane hl) hl
    · have hty : bytesOf w.ty = 4 := by rw [h.stnr_type]; rfl
      have hbits : w.ty.bits = 32 := by rw [h.stnr_type]; rfl
      rw [hm, ← hbits, ← storeData_bytes, hty]
      refine laneRuns_lane hw hl fun k hlt _ => .inl ?_
      simp only [slicePlace]
      omega

end Sys2Proof.Machine

/-! PROOFS, 10 R178 to R183. Waits, fences, publication and the arrival counters: each goes on by its own condition and blocks its group otherwise. -/

namespace Sys2Proof.Machine
open Sys2Proof Sys2Proof.Claims

/-! ### What the conditions say -/

section
variable {s : State} {g : Group}

theorem thrOf_eq (w : SY) (s : State) (g : Group) : thrOf w s g = if w.a.kind = 1 then scalarVal s g w.a % 2 ^ 16 else w.imm.toNat % 2 ^ 16 := by
  unfold thrOf
  cases w.a <;> rfl

theorem thrOf_lt (w : SY) (s : State) (g : Group) : thrOf w s g < 2 ^ 16 := by
  rw [thrOf_eq]
  split <;> exact Nat.mod_lt _ (by decide)

theorem reached_iff {a n : Nat} (h : n < 2 ^ 16) : reached a n = true ↔ (a + 2 ^ 16 - n) % 2 ^ 16 < 2 ^ 15 := by
  rw [reached, decide_eq_true_eq, Nat.mod_eq_of_lt h]

/-- The counter a word names in the top four bits of its immediate (10 Table 5). -/
theorem fld_counter (imm : BitVec 24) : fld imm.toNat 20 4 = imm.toNat / 2 ^ 20 := by
  have := imm.isLt
  rw [fld]
  omega

/-- Tag t of the block's window has its READY bit set. -/
def tagReady (s : State) (tile base t : Nat) : Bool := (s.tags.getD (tile * 64 + base + t) Tag.fresh).ready

theorem tagBits_sum (tile base span : Nat) :
    tagBits s tile base span = ((List.range span).map fun t => if tagReady s tile base t then 2 ^ t else 0).sum := by
  rw [List.sum_eq_foldl, List.foldl_map]
  rfl

theorem bit_tagBits (tile base span t : Nat) : bit (tagBits s tile base span) t = (decide (t < span) && tagReady s tile base t) := by
  rw [bit_eq_testBit, tagBits_sum]
  exact (sum_pow_testBit _ _).2 t

theorem bit_tagMask_high (x : Nat) {t : Nat} (h : g.env.tagSpan ≤ t) : bit (g.tagMask x) t = false := by
  rw [bit_eq_testBit, Group.tagMask, Nat.testBit_mod_two_pow, decide_eq_false (Nat.not_lt.mpr h), Bool.false_and]

/-- A number other than 0 has a bit that is set. -/
theorem ne_zero_iff_bit (x : Nat) : x ≠ 0 ↔ ∃ t, bit x t = true := by
  refine ⟨fun h => ?_, fun ⟨t, ht⟩ h => ?_⟩
  · obtain ⟨t, ht⟩ := Nat.exists_testBit_of_ne_zero h
    exact ⟨t, (bit_eq_testBit x t).trans ht⟩
  · subst h
    simp [bit] at ht

theorem tagAny_iff (key x : Nat) : waitHolds s key g (.tagAny (g.tagMask x)) = true ↔
    g.tagMask x = 0 ∨ ∃ t, t < g.env.tagSpan ∧ bit (g.tagMask x) t = true ∧ tagReady s (tileOf key) g.env.tagBase t = true := by
  simp only [waitHolds, Bool.or_eq_true, beq_iff_eq, bne_iff_ne, ne_zero_iff_bit, bit_and, bit_tagBits, Bool.and_eq_true,
    decide_eq_true_eq, and_assoc, and_comm (a := tagReady _ _ _ _ = true)]

theorem tagAll_iff (key x : Nat) : waitHolds s key g (.tagAll (g.tagMask x)) = true ↔
    ∀ t, t < g.env.tagSpan → bit (g.tagMask x) t = true → tagReady s (tileOf key) g.env.tagBase t = true := by
  rw [waitHolds, beq_iff_eq]
  refine ⟨fun h t _ hb => ?_, fun h => Nat.eq_of_testBit_eq fun t => ?_⟩
  · rw [← h, bit_and, bit_tagBits, Bool.and_eq_true, Bool.and_eq_true] at hb
    exact hb.1.2
  · rw [← bit_eq_testBit, ← bit_eq_testBit, bit_and, bit_tagBits]
    rcases Nat.lt_or_ge t g.env.tagSpan with ht | ht
    · rw [decide_eq_true ht, Bool.true_and]
      cases hb : bit (g.tagMask x) t with
      | false => exact Bool.and_false _
      | true => rw [h t ht hb]; rfl
    · rw [bit_tagMask_high x ht, Bool.and_false]

theorem idle_iff (ids : List Nat) : (∀ o ∈ s.far, o.id ∉ ids) ↔ inFlight s ids = false := by
  simp [inFlight, List.any_eq_false]
end

/-! ### A word that waits (08 R146) -/

section
variable {i : Instr} {s s1 : State} {g g1 : Group} {x : Wait} {e : State → Group → State} {b : State → Group → Mask → Res}

/-- A word that waits goes on when its condition holds as it issues, and blocks its group otherwise. -/
theorem exec_waits {cond : Prop} (h : Issues i s g) (he : exec i s = runWord i s e b) (hb : b s g (lanesFor i g) = waitWord x s1 g1) (hc : cond ↔ waitHolds s1 s1.cur g1 x = true) :
    (cond → exec i s = .next (timed i s g s1)) ∧ (¬ cond → exec i s = .next (timed i s g (s1.block g1 x))) := by
  rw [he]
  refine ⟨fun hy => runWord_ok i s _ g e b h ?_, fun hn => runWord_ok i s _ g e b h ?_⟩
  · rw [hb, waitWord, if_pos (hc.mp hy)]
  · rw [hb, waitWord, if_neg (mt hc.mpr hn)]
end

section
variable {s : State} {g : Group} {w : SY}

/-- What a release at a scope holds back (10 Table 6). -/
theorem relHolds_eq (sc : Nat) : g.relHolds s sc = { g with holds := g.holds ++ if sc ≤ 1 then farIds s s.cur else [] } := by
  unfold Group.relHolds
  split
  · rfl
  · rw [List.append_nil]

theorem waitAc_holds (h : Issues (.waitAc w) s g) (hc : reached (g.ac.getD (w.imm.toNat / 2 ^ 20) 0).toNat (thrOf w s g) = true) :
    GroupBecomes (.waitAc w) s g (g.covered s s.cur (w.imm.toNat / 2 ^ 20) (thrOf w s g)) := by
  show execWaitAc w s = _
  refine runWord_ok _ s _ g _ _ h ?_
  simp only [fld_counter, waitHolds, hc, if_true]

theorem waitAc_blocks (h : Issues (.waitAc w) s g) (hc : reached (g.ac.getD (w.imm.toNat / 2 ^ 20) 0).toNat (thrOf w s g) ≠ true) :
    GroupBecomes (.waitAc w) s g { g with wait := some (.ac (w.imm.toNat / 2 ^ 20) (thrOf w s g)), waitNo := s.clock } := by
  show execWaitAc w s = _
  refine runWord_ok _ s _ g _ _ h ?_
  simp only [fld_counter, waitHolds, hc]
  rfl

/-- A kept report of a batch at or below the number is raised in place of the release (12 R229). -/
theorem waitBatch_report {d : W64} (h : Issues (.waitBatch w) s g) (hc : reached g.bdone.toNat (thrOf w s g) = true)
    (hd : g.report (thrOf w s g) = some d) : exec (.waitBatch w) s =
      .next (takeTrap (timed (.waitBatch w) s g (s.put { g with merr := none })) { g with merr := none } tResidue d (lanesFor (.waitBatch w) g)) := by
  show execWaitBatch w s = _
  refine (runWord_trap _ s (s.put { g with merr := none }) g _ _ tResidue d h ?_).trans ?_
  · simp only [waitHolds, hc, if_true, hd]
  · rw [State.put_group?]
    rfl

theorem manifestUpd_frame (s : State) (who : Who) (f : Manifest → Manifest) : manifestUpd s who f = { s with ll := (manifestUpd s who f).ll } := by
  unfold manifestUpd
  split <;> rfl

theorem publish_idle (h : Issues (.publish w) s g) (hc : inFlight s (farIds s s.cur) = false) :
    ∃ l, exec (.publish w) s = .next (timed (.publish w) s g
      { s with pubs := s.pubs ++ [⟨g.env.ctx, w.imm.toNat % 16, s.clock, some g.gid, none, g.look⟩], ll := l }) := by
  refine ⟨(handPublish s (whoOf s g (lanesFor (.publish w) g)) (w.imm.toNat % 16) g.look none).ll, ?_⟩
  show execPublish w s = _
  refine runWord_ok _ s _ g _ _ h ?_
  simp only [hc, Bool.false_eq_true, if_false]
  exact congrArg Res.ok (manifestUpd_frame _ _ _)

theorem publish_blocks (h : Issues (.publish w) s g) (hc : inFlight s (farIds s s.cur) ≠ false) : exec (.publish w) s =
    .next (timed (.publish w) s g (s.block g (.publish (w.imm.toNat % 16) (farIds s s.cur)))) := by
  show execPublish w s = _
  refine runWord_ok _ s _ g _ _ h ?_
  simp only [Bool.eq_true_of_not_eq_false hc, if_true]

theorem acwr_written (h : Issues (.acwr w) s g) : ∃ g', GroupBecomes (.acwr w) s g g' ∧ g' = { g with ac := g'.ac } ∧
    ∀ n, g'.ac.getD n 0 = if n = w.imm.toNat / 2 ^ 20 then BitVec.ofNat 16 (scalarVal s g w.a) else g.ac.getD n 0 := by
  refine ⟨{ g with ac := g.ac.set (w.imm.toNat / 2 ^ 20) (BitVec.ofNat 16 (scalarVal s g w.a)) }, ?_, rfl, fun n => ?_⟩
  · rw [← fld_counter]
    show execAcwr w s = _
    exact groupWord_ok _ s g _ h
  dsimp only
  split
  · next hn => rw [hn, Tab.getD_set_self]
  · next hn => exact Tab.getD_set_ne _ _ _ _ _ hn
end

/-- Settles O23: each word by its own condition, the waits and fences through `exec_waits`. -/
theorem waitsFencesAndArrivalCounters : Obligations.WaitsFencesAndArrivalCounters := by
  unfold Obligations.WaitsFencesAndArrivalCounters
  refine ⟨fun w s g => ?_, fun w s g => acwr_written⟩
  intro thr past c m ready mine loads own narrow relH waits held idle
  have hthr : thrOf w s g = thr := thrOf_eq w s g
  have hpast : ∀ x, past x ↔ reached x thr = true := fun x => (reached_iff (hthr ▸ thrOf_lt w s g)).symm
  have hidle : ∀ ids, idle ids ↔ inFlight s ids = false := idle_iff
  have hfence : ∀ ids hs, idle ids ↔ waitHolds (s.put (held hs)) s.cur (held hs) (.fence ids) = true := fun ids hs => by
    rw [hidle, waitHolds, Bool.not_eq_true']
    rfl
  have hrel : relIds s w.scope.toNat = if narrow then own else mine := rfl
  refine ⟨fun h hp => ?_, fun h hp => ?_, fun h => ?_, fun h => ?_, fun h hm => ?_, fun b d h hm hp hb => ?_, fun h => ?_, fun h => ?_, fun h => ?_, fun h => ?_,
    fun h hi => publish_idle h ((hidle _).mp hi), fun h hi => publish_blocks h (mt (hidle _).mpr hi)⟩
  · rw [← hthr]
    exact waitAc_holds h (hthr ▸ (hpast _).mp hp)
  · rw [← hthr]
    exact waitAc_blocks h (hthr ▸ mt (hpast _).mpr hp)
  · exact exec_waits h (rfl : _ = execWaitAny w s) rfl (tagAny_iff s.cur _).symm
  · exact exec_waits h (rfl : _ = execWaitAll w s) rfl (tagAll_iff s.cur _).symm
  · refine exec_waits (x := .batch thr) h (rfl : _ = execWaitBatch w s) ?_ (hpast _)
    simp only [hthr, Group.report, hm, ite_self]
  · refine waitBatch_report h (hthr ▸ (hpast _).mp hp) ?_
    rw [Group.report, hm, hthr]
    exact if_pos (decide_eq_true hb)
  · exact exec_waits h (rfl : _ = execWaitSt w s) rfl (beq_iff_eq (a := g.stores)).symm
  · show execFenceAcq w s = _
    exact groupWord_ok _ s g _ h
  · refine exec_waits h (rfl : _ = execFenceRel w s) ?_ (hfence _ relH)
    simp only [relHolds_eq, hrel]
    rfl
  · refine exec_waits h (rfl : _ = execFenceAcqrel w s) ?_ (hfence _ (relH ++ loads))
    simp only [relHolds_eq, hrel]
    rfl

end Sys2Proof.Machine

/-! PROOFS, 10 R180, R181, 26 R387, R390. The words that report a value which depends on timing: one lemma for what they write and log, one value each. -/

namespace Sys2Proof.Machine
open Sys2Proof Sys2Proof.Claims

/-! ### Reporting a value (26 R387 kind 8, R390) -/

/-- What a word that reports x answers: the event of kind 8, and x in the scalar destination. -/
def reported (s s' : State) (g : Group) (m : Mask) (d : Opnd) (x : Nat) : Res := .ok ((logEvent s' (whoOf s g m) 8 0 x).put (g.writeS d x))

/-- s with another record of what a replay has passed. -/
def State.seeing (s : State) (r : Seen) : State := { s with ll := { s.ll with seen := r } }

section
variable {i : Instr} {s s' : State} {g : Group} {d : Opnd} {x : Nat} {e : State → Group → State} {b : State → Group → Mask → Res}

/-- A word that writes x where no logged value replaces it, and otherwise the logged value or waits. -/
theorem reports_of (h : Issues i s g) (he : exec i s = runWord i s e b)
    (hn : logged? s (whoOf s g 0) 8 = none → b s g (lanesFor i g) = reported s s' g (lanesFor i g) d x)
    (hs : ∀ y, logged? s (whoOf s g 0) 8 = some y →
      (∃ r, b s g (lanesFor i g) = reported s (s'.seeing r) g (lanesFor i g) d y.data.toNat) ∨ b s g (lanesFor i g) = .stall) :
    Reports i s s' g d x := by
  have writes : ∀ {u : State} {y : Nat}, b s g (lanesFor i g) = reported s u g (lanesFor i g) d y →
      ∃ g', ScalarWritten g g' d y ∧ exec i s = .next (timed i s g ((logEvent u (whoOf s g (lanesFor i g)) 8 0 y).put g')) :=
    fun hb => ⟨_, g.writeS_written d _, he.trans (runWord_ok i s _ g e b h hb)⟩
  refine ⟨fun hr => writes (hn ?_), fun es hr hc y hy => ?_, fun es hr hc => writes (hn ?_)⟩
  · rw [logged?, hr]
  · refine (hs y ?_).imp (fun ⟨r, hb⟩ => ⟨r, writes hb⟩) fun hb => he.trans (runWord_stall i s g e b h hb)
    rw [logged?, hr]
    exact (if_pos hc).trans hy
  · rw [logged?, hr]
    rcases hc with hc | hc
    · exact if_neg hc
    · exact (ite_eq_right_iff.mpr fun _ => hc : (if llCtx s = g.env.ctx then _ else none) = none)

/-- s' differs from s in nothing that the log and its reader go by. -/
structure LogsAlike (s s' : State) : Prop where
  who : ∀ g m, whoOf s' g m = whoOf s g m
  logged : ∀ g, logged? s' (whoOf s' g 0) 8 = logged? s (whoOf s g 0) 8

theorem LogsAlike.rfl : LogsAlike s s := ⟨fun _ _ => Eq.refl _, fun _ => Eq.refl _⟩

theorem logsAlike_markFabric (s : State) (c : Nat) : LogsAlike s (markFabric s c) := ⟨fun _ _ => rfl, fun _ => rfl⟩

theorem logsAlike_seeing (s : State) (r : Seen) : LogsAlike s (s.seeing r) := ⟨fun _ _ => rfl, fun _ => rfl⟩

section
variable {v : State → Group → Nat} {m : Mask} (ha : LogsAlike s s')
include ha

theorem statWord_live (hl : logged? s (whoOf s g 0) 8 = none) : statWord d v s' g m = reported s s' g m d (v s' g) := by
  rw [statWord, statVal, ha.logged, hl, ha.who]
  rfl

theorem statWord_replay {y : LogEntry} (hl : logged? s (whoOf s g 0) 8 = some y) : statWord d v s' g m = reported s s' g m d y.data.toNat := by
  rw [statWord, statVal, ha.logged, hl, ha.who]
  rfl

theorem reports_of_statWord (h : Issues i s g) (he : exec i s = runWord i s e b) (hb : b s g (lanesFor i g) = statWord d v s' g (lanesFor i g))
    (hx : v s' g = x) : Reports i s s' g d x :=
  reports_of h he (fun hl => by rw [hb, statWord_live ha hl, hx]) fun y hl => .inl ⟨s'.ll.seen, hb.trans (statWord_replay ha hl)⟩

theorem reports_of_statAfter {past : State → Group → Nat → Bool} (h : Issues i s g) (he : exec i s = runWord i s e b)
    (hb : b s g (lanesFor i g) = statAfter d v past s' g (lanesFor i g)) (hx : v s' g = x) : Reports i s s' g d x := by
  refine reports_of h he (fun hl => ?_) fun y hl => ?_
  · rw [hb, statAfter, ha.logged, hl]
    exact hx ▸ statWord_live ha hl
  · rw [hb, statAfter, ha.logged, hl]
    dsimp only
    split
    · exact .inl ⟨s'.ll.seen, statWord_replay ha hl⟩
    · exact .inr rfl
end
end

/-! ### The values -/

section
variable {s : State} {g : Group}

theorem bit_tagMask (x t : Nat) : bit (g.tagMask x) t = (decide (t < g.env.tagSpan) && bit x t) := by
  rw [bit_eq_testBit, bit_eq_testBit, Group.tagMask, Nat.testBit_mod_two_pow]

/-- A ready tag of the mask, as `ffr` looks for it. -/
theorem bit_readyTags (x t : Nat) : bit (tagBits s (tileOf s.cur) g.env.tagBase g.env.tagSpan &&& g.tagMask x) t = true ↔
    t < g.env.tagSpan ∧ bit x t = true ∧ tagReady s (tileOf s.cur) g.env.tagBase t = true := by
  rw [bit_and, bit_tagBits, bit_tagMask, Bool.and_eq_true, Bool.and_eq_true, Bool.and_eq_true, decide_eq_true_eq]
  exact ⟨fun h => ⟨h.2.1, h.2.2, h.1.2⟩, fun h => ⟨⟨h.1, h.2.2⟩, h.1, h.2.1⟩⟩

/-- The lowest bit of 64. -/
theorem find?_bit_lowest {n t : Nat} (ht : t < 64) (h : bit n t = true) (hlow : ∀ u, u < t → ¬ bit n u = true) :
    ((List.range 64).find? fun t => bit n t).getD 64 = t := by
  rw [List.find?_range_eq_some.mpr ⟨h, List.mem_range.mpr ht, fun u hu => by simpa using hlow u hu⟩]
  rfl

theorem find?_bit_none {n : Nat} (h : ∀ t, t < 64 → ¬ bit n t = true) : ((List.range 64).find? fun t => bit n t).getD 64 = 64 := by
  rw [List.find?_eq_none.mpr fun t ht => h t (List.mem_range.mp ht)]
  rfl

theorem at'_of_lt {v lo n : Nat} (h : v < 2 ^ n) : at' v lo n = v * 2 ^ lo := by rw [at', Nat.mod_eq_of_lt h]

theorem trapInfo_budget : trapInfo s g 4 = match g.frame, g.budget with | some _, some e => e - s.clock | _, _ => 0 := by
  unfold trapInfo
  cases g.frame <;> cases g.budget <;> rfl

theorem graceStatus_eq : graceStatus s g = b2n ((periods s g.env.ctx).any (fun c => outHolds s g.env.ctx c)) * 2 ^ 63
    + (s.groups.filter (fun x => x.2.env.ctx == g.env.ctx && (match x.2.wait with | some (.grace _ _ _) => true | _ => false))).length % 2 ^ 16 * 2 ^ 32
    + (s.castoffs.filter (fun e => e.who.ctx == g.env.ctx)).length % 2 ^ 13 * 2 ^ 16 + s.castoffs.length % 2 ^ 13 := by
  simp only [graceStatus, at', Nat.pow_zero, Nat.mul_one] <;> rfl

theorem dbgst_eq (t : Nat) : dbgst s t = min ((settleTrace s t).dbg t).lost 65535 * 2 ^ 48 + min (heldEntries s t) 255 * 2 ^ 40
    + min ((settleTrace s t).dbg t).stops.length 255 * 2 ^ 32 + ((settleTrace s t).dbg t).fifo.length % 2 ^ 13 * 2 ^ 19 + b2n (ringFull s t) * 2 ^ 18 := by
  have hl : min ((settleTrace s t).dbg t).lost 0xFFFF < 2 ^ 16 := by omega
  have hh : min (heldEntries s t) 255 < 2 ^ 8 := by omega
  have hs : min ((settleTrace s t).dbg t).stops.length 255 < 2 ^ 8 := by omega
  have hr : b2n (ringFull s t) < 2 ^ 1 := b2n_lt _
  rw [dbgst, at'_of_lt hl, at'_of_lt hh, at'_of_lt hs, at'_of_lt hr, at']
end

/-! ### The words -/

section
variable {s : State} {g : Group} {w : EN}

/-- The poll of a barrier in a replay changes the model's record alone. -/
theorem pollOnce_seeing {p x : Nat} {ph : Bool} {t : State} (h : pollOnce s g p x ph = some t) : ∃ r, t = s.seeing r := by
  unfold pollOnce at h
  extract_lets r n at h
  split at h
  · cases h
  · exact ⟨_, (Option.some.inj h).symm⟩

theorem barPlace_near (h : scalarVal s g w.a < 0x7F0000) (ha : scalarVal s g w.a % 16 = 0) :
    barPlace s g w.a = .ok (slicePlace (tileOf s.cur) (scalarVal s g w.a)) := by
  unfold barPlace
  dsimp only
  rw [localReason_slice h ha]

theorem barrd_reports (h : Issues (.barrd w) s g) (hp : scalarVal s g w.a < 0x7F0000) (ha : scalarVal s g w.a % 16 = 0)
    (hc : Clean s (slicePlace (tileOf s.cur) (scalarVal s g w.a)) 8) :
    Reports (.barrd w) s s g w.d (memVal s.mem (slicePlace (tileOf s.cur) (scalarVal s g w.a)) 8) := by
  refine reports_of h (rfl : _ = execBarrd w s) (fun hl => ?_) fun y hl => ?_
  all_goals
    rw [barPlace_near hp ha]
    dsimp only
    rw [readAt_of_clean hc]
    dsimp only
    rw [hl]
    dsimp only
  · exact statWord_live .rfl hl
  · split
    · next t ht =>
      obtain ⟨r, rfl⟩ := pollOnce_seeing ht
      exact .inl ⟨r, statWord_replay (logsAlike_seeing s r) hl⟩
    · exact .inr rfl

theorem regionOf_markFabric (c n : Nat) : regionOf (markFabric s c) n = regionOf s n := by
  have hr : ∀ a, (markFabric s c).reg a = s.reg a := fun _ => rfl
  unfold regionOf wideReg
  simp only [hr]

/-- A form of a word that names a region goes by what `region` says of it. A predicate on the form as a whole, for the kernel, as `FormSpares` is. -/
def FormByRegion (region : State → Nat → Option Region) (form : State → EN → (Nat → Res) → Res) : Prop :=
  ∀ (s : State) (w : EN) (f : Nat → Res),
    (region s (w.param.toNat % 32) = none → form s w f = .trap s tAddr (addrDetail false 0 6 (w.param.toNat % 32 * 2 ^ 41))) ∧
    ∀ d, region s (w.param.toNat % 32) = some d → form s w f = f (w.param.toNat % 32)

theorem regionForm_byRegion : FormByRegion regionOf regionForm := by
  obtain ⟨region, hr⟩ : ∃ region, region = regionOf := ⟨_, rfl⟩
  delta regionForm
  rw [← hr]
  intro s w f
  refine ⟨fun hn => ?_, fun d hd => ?_⟩
  · dsimp only
    rw [hn]
  · dsimp only
    rw [hd]

/-- A word of the fabric that names a region which is not valid (21 R350, reason 6). -/
theorem regionWord_trap {i : Instr} {f : State → Group → Mask → Nat → Res} (h : Issues i s g)
    (he : exec i s = fabricWord i s fun s g m => regionForm s w (f s g m)) (hr : regionOf s (w.param.toNat % 32) = none) :
    exec i s = .next (takeTrap (timed i s g (markFabric s g.env.ctx)) g tAddr (addrDetail false 0 6 (w.param.toNat % 32 * 2 ^ 41)) (lanesFor i g)) := by
  have hg : (markFabric s g.env.ctx).group? = some g := h.cur
  rw [he, fabricWord, runWord_trap i s (markFabric s g.env.ctx) g _ _ tAddr (addrDetail false 0 6 (w.param.toNat % 32 * 2 ^ 41)) h, group?_getD hg]
  exact (regionForm_byRegion _ _ _).1 ((regionOf_markFabric _ _).trans hr)

theorem regionForm_valid {c : Nat} {f : Nat → Res} (hr : regionOf s (w.param.toNat % 32) ≠ none) :
    regionForm (markFabric s c) w f = f (w.param.toNat % 32) := by
  obtain ⟨d, hd⟩ := Option.ne_none_iff_exists'.mp hr
  exact (regionForm_byRegion _ _ _).2 d ((regionOf_markFabric _ _).trans hd)

/-- A word of the fabric acts on the state that marks its context. -/
theorem exec_fabric {i : Instr} {b : State → Group → Mask → Res} (he : exec i s = fabricWord i s b) :
    exec i s = runWord i s (fun s g => markFabric s g.env.ctx) fun s g m => b (markFabric s g.env.ctx) g m := he
end

/-- Settles O24: `reports_of_statWord` and `reports_of_statAfter` with the value of each word. -/
theorem statWordsReportWhatTheyName : Obligations.StatWordsReportWhatTheyName := by
  unfold Obligations.StatWordsReportWhatTheyName
  refine ⟨fun w s g => ?_, fun w s g => ?_, fun w s g => ?_⟩
  · intro m has
    have hhas : ∀ t, has t ↔ bit (tagBits s (tileOf s.cur) g.env.tagBase g.env.tagSpan &&& g.tagMask m) t = true := fun t => (bit_readyTags m t).symm
    refine ⟨fun h t ht hy hlow => ?_, fun h hn => ?_, fun h => ?_, fun h => ?_, fun h => ?_⟩
    · refine reports_of_statAfter .rfl h (rfl : _ = execFfr w s) rfl ?_
      exact find?_bit_lowest ht ((hhas t).mp hy) fun u hu => mt (hhas u).mpr (hlow u hu)
    · refine reports_of_statAfter .rfl h (rfl : _ = execFfr w s) rfl ?_
      exact find?_bit_none fun t ht => mt (hhas t).mpr (hn t ht)
    · refine reports_of_statAfter .rfl h (rfl : _ = execAcrd w s) rfl ?_
      rw [fld_counter]
    · exact reports_of_statWord .rfl h (rfl : _ = execGracest w s) rfl graceStatus_eq
    · exact reports_of_statWord .rfl h (rfl : _ = execTinfo 4 w s) (if_pos rfl) trapInfo_budget
  · intro t x stuck q a r k used
    have hu : LogsAlike s used := logsAlike_markFabric s _
    refine ⟨fun h => ?_, fun h => ?_, fun h hp ha hc => barrd_reports h hp ha hc, fun h => ?_, fun h hv hf => ?_, fun h hr => ?_, fun h hr => ?_, fun h => ?_, ?_⟩
    · exact reports_of_statAfter .rfl h (rfl : _ = execTagst w s) rfl rfl
    · refine reports_of_statWord .rfl h (rfl : _ = execQstat w s) rfl ?_
      dsimp only
      rw [← List.countP_eq_length_filter]
      rfl
    · refine reports_of_statAfter .rfl h (rfl : _ = execMmstat w s) rfl ?_
      rw [matrixStatus, ← List.countP_eq_length_filter]
    · refine reports_of_statAfter (v := fun _ g => (g.gauge k).read 4) (past := fun _ g x => decide ((g.gauge k).read 4 ≤ x)) .rfl h (rfl : _ = execGget w s) ?_ rfl
      dsimp only
      rw [show (g.gauge w.index.toNat).valid = true from hv, hf]
      rfl
    · exact reports_of_statAfter hu h (exec_fabric (rfl : _ = execPcrd w s)) (regionForm_valid hr) rfl
    · exact reports_of_statAfter hu h (exec_fabric (rfl : _ = execGenrd w s)) (regionForm_valid hr) rfl
    · exact reports_of_statWord hu h (exec_fabric (rfl : _ = execFabst w s)) rfl rfl
    · simp only [List.forall_mem_cons, List.not_mem_nil, false_imp_iff, implies_true, and_true]
      exact ⟨fun h hr => regionWord_trap h (rfl : _ = execPcrd w s) hr, fun h hr => regionWord_trap h (rfl : _ = execGenrd w s) hr⟩
  · intro d h
    exact reports_of_statWord .rfl h (rfl : _ = execTrcst w s) rfl (dbgst_eq _)

end Sys2Proof.Machine

/-! PROOFS, 10 R168 to R177, 14 R252. The far words: their targets as they pass the checks, and the operation each hands to the copy engine. -/

namespace Sys2Proof.Machine
open Sys2Proof Sys2Proof.Claims

/-! ### The operands of the atomics (10 Table 2) -/

/-- An operand place that takes one kind alone, and no zero operand in its stead. -/
theorem kind_of_bad6 {fm : Form} {d o : Opnd} {n k : Nat} (hk : k ≠ 0) (ho : fm.opt = 0) (h : bad6 fm d n k o = false) : inSet k o.kind = true := by
  unfold bad6 at h
  rw [if_neg hk, ho, if_neg (by simp [inSet, bit]), Bool.or_eq_false_iff] at h
  simpa using h.1

theorem kind_vector {o : Opnd} (h : inSet kV o.kind = true) : o.kind = 0 := by
  cases o with
  | v n => rfl
  | s n => revert h; simp [Opnd.kind]; decide
  | p n => revert h; simp [Opnd.kind]; decide
  | imm n => revert h; simp [Opnd.kind]; decide

section
variable {i : Instr} {s : State} {g : Group} {w : ME} {op : Nat}

/-- An atomic returns its values to vector registers. -/
theorem Issues.atom_dest (h : Issues i s g) (hf : fieldsOf i = some (w.fields 0x51 op 0)) (ho : op ≤ 7) : w.d.kind = 0 := by
  obtain ⟨fm, hfm, hd, -, -⟩ := h.kinds hf
  simp only [formOf, ME.fields, form51, ho, if_true] at hfm
  cases hfm
  exact kind_vector (kind_of_bad6 (by decide) rfl hd)

theorem Issues.vatom_dest (h : Issues (.vatomAdd w) s g) : w.d.kind = 0 := by
  obtain ⟨fm, hfm, ht⟩ := h.takes rfl
  cases hfm
  have hd : w.d = Opnd.zero := ht.d rfl
  rw [hd]
  rfl

/-- What `vatom.add` adds stands in a vector register. -/
theorem Issues.vatom_data (h : Issues (.vatomAdd w) s g) : w.b.kind = 0 := by
  have hk := h.vatom_dest
  obtain ⟨fm, hfm, -, -, hb⟩ := h.kinds rfl
  cases hfm
  have hkb : (memForm (w.fields 81 8 0) 0 kS kV 0x1800 5 0 false false true).kb = kV := by
    show (if w.d.kind = 1 then 0 else kV) = kV
    rw [hk, if_neg (by decide)]
  rw [hkb] at hb
  exact kind_vector (kind_of_bad6 (by decide) rfl hb)
end

/-! ### The row of `vatom.add` that passes its checks (10 R177) -/

section
variable {s : State} {k n align base : Nat} {o x : Int} {t : Target}

/-- What passes a check of alignment passes without it. -/
theorem resolveGlobal_unaligned (h : resolveGlobal s k n align base o x = .ok t) : resolveGlobal s k n 1 base o x = .ok t := by
  have refused : ∀ {y}, resolveGlobal s k n align base o x = .error y → False := fun e => by rw [e] at h; cases h
  have h63 : bit base 63 = true := by
    by_contra hn
    exact refused (resolveGlobal_notGlobal (Bool.eq_false_of_not_eq_true hn))
  have hfirst : ¬ (globBase base o < 0 ∨ (2 ^ 41 : Int) ≤ globBase base o) := fun hf => refused (resolveGlobal_first h63 hf)
  have inside : GlobInside base o x := ⟨h63, hfirst, fun hl => refused (resolveGlobal_last h63 hfirst hl)⟩
  cases hr : resolveRank s (fld base 46 17) with
  | error r => exact (refused (resolveGlobal_rank inside hr)).elim
  | ok route =>
    cases hd : regionOf s (fld base 41 5) with
    | none => exact (refused (resolveGlobal_region inside hr hd)).elim
    | some d =>
      have hsize : (globBase base o + x).toNat + n ≤ d.size := not_lt.mp fun hs => refused (resolveGlobal_size inside hr hd hs)
      have hallow : d.allows k = true := by
        by_contra hn
        exact refused (resolveGlobal_permission inside hr hd hsize (Bool.eq_false_of_not_eq_true hn))
      have halign : (globBase base o + x).toNat % align = 0 := by
        by_contra hn
        exact refused (resolveGlobal_misaligned inside hr hd hsize hallow hn)
      have hone : (globBase base o + x).toNat % 1 = 0 := Nat.mod_one _
      cases hroute : route with
      | some t =>
        rw [← h, resolveGlobal_other inside hr hd hsize hallow halign hroute]
        exact resolveGlobal_other inside hr hd hsize hallow hone hroute
      | none =>
        cases ha : areaReason (d.base + (globBase base o + x).toNat) with
        | some r => exact (refused (resolveGlobal_area inside hr hd hsize hallow halign hroute ha)).elim
        | none =>
          rw [← h, resolveGlobal_own inside hr hd hsize hallow halign hroute ha]
          exact resolveGlobal_own inside hr hd hsize hallow hone hroute ha

theorem localReason_unaligned {a : Nat} (h : localReason false align a = none) : localReason false 1 a = none := by
  unfold localReason at h ⊢
  split at h
  · cases h
  next hlt =>
  split at h
  · cases h
  rw [if_neg hlt, if_neg (by simp [Nat.mod_one])]
  exact h

theorem resolveLocal_unaligned (h : resolveLocal s false align base o x = .ok t) : resolveLocal s false 1 base o x = .ok t := by
  unfold resolveLocal at h ⊢
  dsimp only at h ⊢
  split at h
  · cases h
  next hin =>
  rw [if_neg hin]
  cases hr : localReason false align ((base : Int) + o + x).toNat with
  | some r => rw [hr] at h; cases h
  | none =>
    rw [hr] at h
    rw [localReason_unaligned hr]
    exact h

theorem vatomAt_of_resolve {w : ME} {l : Nat} (h : resolve s w.glob false 2 4 base w.ofs.toInt (4 * (l : Int)) = .ok t) : vatomAt s w base l = .ok t := by
  unfold resolve at h
  unfold vatomAt
  split at h
  · next hg => rw [if_pos hg, resolveGlobal_unaligned h]
  · next hg => rw [if_neg hg, resolveLocal_unaligned h]
end

/-! ### The far words as one (10 R168, R169, R173, R177, 14 R252) -/

/-- The lanes a far word gives an element for. -/
def farLanes (w : ME) (m : Mask) : List Nat := if w.d.kind = 1 then [0] else lanesOf m

/-- The base register of a lane, and what is added to it. -/
def farBase (k : FarKind) (s : State) (g : Group) (w : ME) (l : Nat) : Nat :=
  match k with | .atom _ => laneVal s g .n64 w.a l | _ => scalarVal s g w.a

def farIdx (k : FarKind) (s : State) (g : Group) (w : ME) (l : Nat) : Int :=
  match k with | .atom _ => 0 | .vatom => if w.d.kind = 1 then 0 else 4 * (l : Int) | _ => if w.d.kind = 1 then 0 else laneOfs s g w l

/-- The targets of a far word of a kind, for accesses of kind q, one for each lane. -/
def farTargets (k : FarKind) (q : Nat) (s : State) (g : Group) (m : Mask) (w : ME) : Except W64 (List (Nat × Target)) :=
  match k with | .atom _ => atomTargets s g m w | .vatom => vatomTargets s g m w | _ => targets s g m w false q

/-- The targets of its elements. -/
def farParts (k : FarKind) (w : ME) (ts : List (Nat × Target)) : List (Nat × Target) := match k with | .vatom => vatomEls w.ty ts | _ => ts

/-- The operand of an element, and the value it is compared with. -/
def farData (k : FarKind) (s : State) (g : Group) (w : ME) : Nat → Nat :=
  match k with
  | .load => fun _ => 0
  | .atom _ => fun l => laneVal s g w.ty w.b l % 2 ^ w.ty.bits
  | .vatom => vatomData s g w
  | _ => storeData s g w

def farCmp (k : FarKind) (s : State) (g : Group) (w : ME) : Nat → Nat :=
  match k with | .atom _ => fun l => laneVal s g w.ty w.d l % 2 ^ w.ty.bits | _ => fun _ => 0

/-- A far word's own effect. -/
def farBody (k : FarKind) (q : Nat) (w : ME) (s : State) (g : Group) (m : Mask) : Res :=
  match farTargets k q s g m w with
  | .error d => .trap (markGlob s g w) tAddr d
  | .ok ts => sendFar s g m w k (farParts k w ts) (farData k s g w) (farCmp k s g w)

/-- The far words, with their kinds and the kinds of their accesses. -/
def farWords : List ((ME → Instr) × FarKind × Nat) :=
  [(Instr.ldf, .load, 0), (.stf, .store, 1), (.redAdd, .red 0, 2), (.redMin, .red 1, 2), (.redMax, .red 2, 2), (.vatomAdd, .vatom, 2), (.atomAdd, .atom 0, 2),
    (.atomMin, .atom 1, 2), (.atomMax, .atom 2, 2), (.atomAnd, .atom 3, 2), (.atomOr, .atom 4, 2), (.atomXor, .atom 5, 2), (.atomExch, .atom 6, 2),
    (.atomCas, .atom 7, 2)]

section
variable {p : (ME → Instr) × FarKind × Nat} {s : State} {g : Group} {w : ME}

/-- Each far word is `farBody` of its kind. -/
theorem farWords_exec (hp : p ∈ farWords) (w : ME) (s : State) : ∃ e, exec (p.1 w) s = runWord (p.1 w) s e (farBody p.2.1 p.2.2 w) := by
  revert p
  simp only [farWords, List.forall_mem_cons, List.not_mem_nil, false_imp_iff, implies_true, and_true]
  exact ⟨⟨_, rfl⟩, ⟨_, rfl⟩, ⟨_, rfl⟩, ⟨_, rfl⟩, ⟨_, rfl⟩, ⟨_, rfl⟩, ⟨_, rfl⟩, ⟨_, rfl⟩, ⟨_, rfl⟩, ⟨_, rfl⟩, ⟨_, rfl⟩, ⟨_, rfl⟩, ⟨_, rfl⟩, ⟨_, rfl⟩⟩

/-- An atomic's word is that of its operation in major 0x51. -/
theorem farWords_atom (hp : p ∈ farWords) (w : ME) {op : Nat} (hk : p.2.1 = .atom op) : op ≤ 7 ∧ fieldsOf (p.1 w) = some (w.fields 0x51 op 0) := by
  have split : ∀ x : (ME → Instr) × FarKind × Nat, x ∈ farWords → ∀ op, x.2.1 = .atom op → op ≤ 7 ∧ fieldsOf (x.1 w) = some (w.fields 0x51 op 0) := by
    simp only [farWords, List.forall_mem_cons, List.not_mem_nil, false_imp_iff, implies_true, and_true, FarKind.atom.injEq, reduceCtorEq, true_and]
    refine ⟨?_, ?_, ?_, ?_, ?_, ?_, ?_, ?_⟩
    all_goals
      rintro _ rfl
      exact ⟨by decide, rfl⟩
  exact split p hp op hk

theorem farWords_vatom (hp : p ∈ farWords) (hk : p.2.1 = .vatom) : p.1 = .vatomAdd := by
  revert hk
  revert p
  simp only [farWords, List.forall_mem_cons, List.not_mem_nil, false_imp_iff, implies_true, and_true, reduceCtorEq]

theorem farWords_access (hp : p ∈ farWords) : ((∃ op, p.2.1 = .atom op) ∨ p.2.1 = .vatom) → p.2.2 = 2 := by
  revert p
  simp only [farWords, List.forall_mem_cons, List.not_mem_nil, false_imp_iff, implies_true, and_true, reduceCtorEq, exists_false, or_self]

/-- No atomic has a scalar D. -/
theorem farWords_dest (hp : p ∈ farWords) (h : Issues (p.1 w) s g) (hk : (∃ op, p.2.1 = .atom op) ∨ p.2.1 = .vatom) : w.d.kind = 0 := by
  rcases hk with ⟨op, hk⟩ | hk
  · obtain ⟨ho, hf⟩ := farWords_atom hp w hk
    exact h.atom_dest hf ho
  · rw [farWords_vatom hp hk] at h
    exact h.vatom_dest
end

/-! ### Targets that pass -/

section
variable {s : State} {g : Group} {m : Mask} {w : ME} {x : Nat → Target} {q : Nat}

theorem farLanes_vector (hd : w.d.kind = 0) : farLanes w m = lanesOf m := by rw [farLanes, hd, if_neg (by decide)]

theorem targets_far (h : ∀ l ∈ farLanes w m, resolve s w.glob false q (bytesOf w.ty) (scalarVal s g w.a) w.ofs.toInt
    (if w.d.kind = 1 then 0 else laneOfs s g w l) = .ok (x l)) : targets s g m w false q = .ok ((farLanes w m).map fun l => (l, x l)) := by
  unfold farLanes at *
  by_cases hd : w.d.kind = 1
  · simp only [if_pos hd, List.mem_singleton, forall_eq] at h ⊢
    exact targets_one hd h
  · simp only [if_neg hd] at h ⊢
    exact targets_lanes hd fun l hl => h l (mem_lanesOf.mpr hl)

theorem atomTargets_ok (h : ∀ l, lane m l = true → resolve s w.glob false 2 (bytesOf w.ty) (laneVal s g .n64 w.a l) w.ofs.toInt 0 = .ok (x l)) :
    atomTargets s g m w = .ok ((lanesOf m).map fun l => (l, x l)) := by
  refine mapM_ok fun l hl => ?_
  simp only [offOf, h l (mem_lanesOf.mp hl)]

theorem vatomTargets_ok (ha : vatomRow w (scalarVal s g w.a) % 128 = 0) (h : ∀ l, lane m l = true → vatomAt s w (scalarVal s g w.a) l = .ok (x l)) :
    vatomTargets s g m w = .ok ((lanesOf m).map fun l => (l, x l)) := by
  unfold vatomRow at ha
  refine mapM_ok fun l hl => ?_
  have hx := h l (mem_lanesOf.mp hl)
  unfold vatomAt at hx
  simp only [offOf, hx, ha, if_true]

/-- The elements' addresses pass their checks: each has its target. -/
theorem farTargets_ok {k : FarKind} (hd : (∃ op, k = .atom op) ∨ k = .vatom → w.d.kind = 0) (hq : (∃ op, k = .atom op) ∨ k = .vatom → q = 2)
    (ha : k = .vatom → vatomRow w (scalarVal s g w.a) % 128 = 0)
    (h : ∀ l ∈ farLanes w m, resolve s w.glob false q (if k = .vatom then 4 else bytesOf w.ty) (farBase k s g w l) w.ofs.toInt (farIdx k s g w l) = .ok (x l)) :
    farTargets k q s g m w = .ok ((farLanes w m).map fun l => (l, x l)) := by
  cases k with
  | load => exact targets_far h
  | store => exact targets_far h
  | red op => exact targets_far h
  | atom op =>
    have hd0 := hd (.inl ⟨op, rfl⟩)
    rw [farLanes_vector hd0, hq (.inl ⟨op, rfl⟩)] at *
    exact atomTargets_ok fun l hl => h l (mem_lanesOf.mpr hl)
  | vatom =>
    have hd0 := hd (.inr rfl)
    rw [farLanes_vector hd0, hq (.inr rfl)] at *
    refine vatomTargets_ok (ha rfl) fun l hl => vatomAt_of_resolve ?_
    have hx : resolve s w.glob false 2 4 (scalarVal s g w.a) w.ofs.toInt (if w.d.kind = 1 then 0 else 4 * (l : Int)) = .ok (x l) :=
      h l (mem_lanesOf.mpr hl)
    rwa [hd0, if_neg (by decide)] at hx
end

/-! ### The operation (10 R171, R184, 14 R248) -/

/-- Far words in flight that a new one waits for: those of the group for a release, and those an acquire holds it behind. -/
def farHolds (s : State) (g : Group) (w : ME) : List Nat :=
  if w.order = .rel ∨ w.order = .acqrel then farIds s s.cur else g.holds.filter (fun j => (farIds s s.cur).contains j)

/-- The operation a far word hands to the copy engine. -/
def farOp (s : State) (g : Group) (m : Mask) (w : ME) (k : FarKind) (ts : List (Nat × Target)) (data cmp : Nat → Nat) : FarOp :=
  { id := s.seq, group := s.cur, who := whoOf s g m, kind := k, ty := w.ty, els := mkEls ts data cmp, dest := w.d,
    ac := if k.returns then some w.ac.toNat else none, holds := farHolds s g w, slot := k.returns && !(mkRoutes ts).isEmpty, routes := mkRoutes ts, sends := [] }

/-- The state with a far word in flight for the lanes ls. -/
def farState (s : State) (g : Group) (w : ME) (k : FarKind) (ls : List Nat) (op : FarOp) : State :=
  { (if w.glob then markFabric s g.env.ctx else s) with
    groups := s.groups.set s.cur { g with
      opens := if k.returns then g.opens ++ g.opened w.ty w.d ls w.ac.toNat else g.opens
      stores := g.stores + (if k.returns then 0 else 1)
      holds := g.holds ++ (if w.order = .acq ∨ w.order = .acqrel then [s.seq] else []) }
    far := s.far ++ [op]
    seq := s.seq + 1 }

section
variable {s : State} {g : Group} {m : Mask} {w : ME} {k : FarKind} {ts : List (Nat × Target)} {data cmp : Nat → Nat}

theorem markGlob_cur : (markGlob s g w).cur = s.cur := by
  unfold markGlob
  split <;> rfl

theorem markGlob_groups : (markGlob s g w).groups = s.groups := by
  unfold markGlob
  split <;> rfl

theorem sendFar_ok (hp : enginePlaces s (tileOf s.cur) < Config.copyPlaces) (hs : k.returns = true → mkRoutes ts ≠ [] → 0 < freeSlots s s.cur) :
    sendFar s g m w k ts data cmp = .ok (farState s g w k (ts.map Prod.fst) (farOp s g m w k ts data cmp)) := by
  have hslot : ¬ (k.returns && !(mkRoutes ts).isEmpty && freeSlots s s.cur == 0) = true := by
    intro h
    simp only [Bool.and_eq_true, Bool.not_eq_true', List.isEmpty_eq_false_iff, beq_iff_eq] at h
    exact absurd (hs h.1.1 h.1.2) (by omega)
  unfold sendFar
  extract_lets routes slot ids rel acq op g'
  rw [if_neg (by omega), if_neg hslot]
  have hop : op = farOp s g m w k ts data cmp := by
    simp only [op, farOp, farHolds, rel, Bool.or_eq_true, beq_iff_eq]
    rfl
  have hg : g' = { g with
      opens := if k.returns then g.opens ++ g.opened w.ty w.d (ts.map Prod.fst) w.ac.toNat else g.opens
      stores := g.stores + (if k.returns then 0 else 1)
      holds := g.holds ++ (if w.order = .acq ∨ w.order = .acqrel then [s.seq] else []) } := by
    have h1 : (if k.returns = true then g.stores else g.stores + 1) = g.stores + (if k.returns then 0 else 1) := by split <;> rfl
    have h2 : (if acq = true then g.holds ++ [s.seq] else g.holds) = g.holds ++ (if w.order = .acq ∨ w.order = .acqrel then [s.seq] else []) := by
      simp only [acq, Bool.or_eq_true, beq_iff_eq]
      split
      · rfl
      · rw [List.append_nil]
    simp only [g', h1, h2]
  refine congrArg Res.ok ?_
  show ({ (markGlob s g w).put g' with far := s.far ++ [op], seq := s.seq + 1 } : State) = _
  rw [hop, hg, farState, ← markGlob, State.put, show (markGlob s g w).cur = s.cur from markGlob_cur, show (markGlob s g w).groups = s.groups from markGlob_groups]

/-- A route of a far word is that of an element. -/
theorem mkRoutes_ne_nil (h : mkRoutes ts ≠ []) : ∃ t ∈ ts, t.2.route ≠ none := by
  by_contra hn
  refine h ?_
  unfold mkRoutes
  rw [List.filterMap_eq_nil_iff.mpr]
  · rfl
  · intro t ht
    have hr : t.2.route = none := by
      by_contra hne
      exact hn ⟨t, ht, hne⟩
    rw [hr]
    cases t.2.rank <;> rfl
end

/-! ### The elements -/

section
variable {s : State} {g : Group} {w : ME} {k : FarKind} {x : Nat → Target} {ls : List Nat}

/-- What a lane's operand is, before `vatom.add` cuts it in two. -/
def farLaneData (k : FarKind) (s : State) (g : Group) (w : ME) : Nat → Nat := match k with | .vatom => laneVal s g .n32 w.b | _ => farData k s g w

theorem farParts_whole (h : ¬ (k = .vatom ∧ w.ty.bits = 16)) (ts : List (Nat × Target)) : farParts k w ts = ts := by
  cases k with
  | vatom => exact if_neg fun hb => h ⟨rfl, hb⟩
  | _ => rfl

theorem farData_whole (h : ¬ (k = .vatom ∧ w.ty.bits = 16)) : farData k s g w = farLaneData k s g w := by
  cases k with
  | vatom =>
    funext l
    exact if_neg fun hb => h ⟨rfl, hb⟩
  | _ => rfl

theorem farOp_els (h : ¬ (k = .vatom ∧ w.ty.bits = 16)) (m : Mask) :
    (farOp s g m w k (farParts k w (ls.map fun l => (l, x l))) (farData k s g w) (farCmp k s g w)).els =
      ls.map fun l => ⟨l, (x l).addr, (x l).rank, farLaneData k s g w l, farCmp k s g w l, false, 0, false, false⟩ := by
  rw [farParts_whole h, farData_whole h, farOp, mkEls, List.map_map]
  rfl

theorem vatomData_low (hb : w.ty.bits = 16) (l : Nat) : vatomData s g w (2 * l) = laneVal s g .n32 w.b l % 2 ^ 16 := by
  rw [vatomData, if_pos hb, Nat.mul_div_cancel_left l (by decide), Nat.mul_mod_right, Nat.mul_zero, fld_zero]

theorem laneVal_n32_lt {o : Opnd} (ho : o.kind = 0) (l : Nat) : laneVal s g .n32 o l < 2 ^ 32 := by
  cases o with
  | v r => exact (g.vreg r.toNat l).isLt
  | s n => cases ho
  | p n => cases ho
  | imm n => cases ho

theorem vatomData_high (hb : w.ty.bits = 16) (ho : w.b.kind = 0) (l : Nat) : vatomData s g w (2 * l + 1) = laneVal s g .n32 w.b l / 2 ^ 16 := by
  have hlt : laneVal s g .n32 w.b l < 2 ^ 32 := laneVal_n32_lt ho l
  rw [vatomData, if_pos hb, show (2 * l + 1) / 2 = l by omega, show (2 * l + 1) % 2 = 1 by omega, fld]
  omega

/-- The two elements of each lane under .bf16. -/
theorem vatomOp_els (hb : w.ty.bits = 16) (ho : w.b.kind = 0) (m : Mask) :
    (farOp s g m w .vatom (farParts .vatom w (ls.map fun l => (l, x l))) (farData .vatom s g w) (farCmp .vatom s g w)).els = ls.flatMap fun l =>
      [⟨2 * l, (x l).addr, (x l).rank, laneVal s g .n32 w.b l % 2 ^ 16, 0, false, 0, false, false⟩,
       ⟨2 * l + 1, (x l).addr + 2, (x l).rank, laneVal s g .n32 w.b l / 2 ^ 16, 0, false, 0, false, false⟩] := by
  simp only [farOp, farParts, vatomEls, if_pos hb, mkEls, List.map_flatMap, List.flatMap_map, List.map_cons, List.map_nil, farData, farCmp, vatomData_low hb,
    vatomData_high hb ho]

/-- The lanes whose registers a returning word leaves open. -/
theorem farParts_lanes (hr : k.returns = true) : (farParts k w (ls.map fun l => (l, x l))).map Prod.fst = ls := by
  cases k with
  | vatom => cases hr
  | _ =>
    show (ls.map fun l => (l, x l)).map Prod.fst = ls
    rw [List.map_map]
    exact List.map_id ls
end

/-- A far word's own effect, once its targets pass and the copy engine has room. -/
theorem farBody_ok {s : State} {g : Group} {m : Mask} {w : ME} {k : FarKind} {q : Nat} {x : Nat → Target} {ls : List Nat}
    (ht : farTargets k q s g m w = .ok (ls.map fun l => (l, x l))) (hp : enginePlaces s (tileOf s.cur) < Config.copyPlaces)
    (hs : k.returns = true → (∃ l ∈ ls, (x l).route ≠ none) → 0 < freeSlots s s.cur) :
    farBody k q w s g m =
      .ok (farState s g w k ls (farOp s g m w k (farParts k w (ls.map fun l => (l, x l))) (farData k s g w) (farCmp k s g w))) := by
  have hslot : k.returns = true → mkRoutes (farParts k w (ls.map fun l => (l, x l))) ≠ [] → 0 < freeSlots s s.cur := fun hr hne => by
    rw [farParts_whole fun h => by rw [h.1] at hr; cases hr] at hne
    obtain ⟨t, hin, hroute⟩ := mkRoutes_ne_nil hne
    obtain ⟨l, hl, rfl⟩ := List.mem_map.mp hin
    exact hs hr ⟨l, hl, hroute⟩
  unfold farBody
  rw [ht]
  refine (sendFar_ok hp hslot).trans (congrArg Res.ok ?_)
  unfold farState
  cases hr : k.returns with
  | false => rfl
  | true => rw [farParts_lanes hr]

/-- Settles O21: `farTargets_ok` gives the targets, `farBody_ok` the operation and the state, `farOp_els` and `vatomOp_els` its elements. -/
theorem farWordsAreHandedToTheCopyEngine : Obligations.FarWordsAreHandedToTheCopyEngine := by
  unfold Obligations.FarWordsAreHandedToTheCopyEngine
  rintro ⟨c, k, q⟩ hp w s g x i k' n ls isAtom base idx crosses mine data cmp h hrow hres hplace hslot
  have hdest := farWords_dest hp h
  have hbase : base = farBase k s g w := by cases k <;> rfl
  have hdata : data = farLaneData k s g w := by cases k <;> rfl
  have hcmp : cmp = farCmp k s g w := by cases k <;> rfl
  have hidx : idx = farIdx k s g w := by
    funext l
    cases k <;> simp [idx, isAtom, k', farIdx]
  have ht := farTargets_ok (g := g) (m := lanesFor i g) (x := x) hdest (farWords_access hp) hrow (by rw [← hbase, ← hidx]; exact hres)
  obtain ⟨e, he⟩ := farWords_exec hp w s
  refine ⟨_, _, he.trans (runWord_ok _ s _ g e _ h (farBody_ok ht hplace hslot)), rfl, rfl, rfl, rfl, rfl, rfl, rfl, rfl, ?_, fun hn => ?_, fun hv => ?_, rfl, rfl⟩
  · show (k.returns && !(mkRoutes _).isEmpty) = true ↔ k.returns = true ∧ mkRoutes _ ≠ []
    rw [Bool.and_eq_true, Bool.not_eq_true', List.isEmpty_eq_false_iff]
  · rw [farOp_els hn, ← hdata, ← hcmp]
    rfl
  · obtain ⟨hv, hb⟩ := hv
    obtain rfl : k = .vatom := hv
    obtain rfl : c = .vatomAdd := farWords_vatom hp rfl
    exact vatomOp_els hb h.vatom_data _

end Sys2Proof.Machine

/-! PROOFS, 28 R407, 10 R168 to R175. Far words at their homes: the queue an access finds empty, the bytes it leaves, and what its lanes receive. -/

namespace Sys2Proof.Machine
open Sys2Proof Sys2Proof.Claims

/-! ### An access to HBM4 that finds its pseudo-channel empty (28 R406, R407) -/

/-- No request to the pseudo-channel of a place waits. -/
def ChannelIdle (s : State) (p : Nat) : Prop := isHbm p = true → ∀ x ∈ s.hqueue, pseudoChannel x.1 ≠ pseudoChannel (p - 2 ^ 48)

theorem pseudoChannel_of_accessOf {a b : Nat} (h : accessOf a = accessOf b) : pseudoChannel a = pseudoChannel b := by
  have hbank : bankOf a = bankOf b := congrArg Prod.fst h
  simp only [bankOf, fld] at hbank
  omega

/-- The lowest bits of an address do not choose its pseudo-channel. -/
theorem pseudoChannel_congr {a b : Nat} (h : a / 2048 = b / 2048) : pseudoChannel a = pseudoChannel b := by
  have hfld : ∀ lo len, 11 ≤ lo → fld a lo len = fld b lo len := fun lo len hlo => by
    obtain ⟨k, rfl⟩ := Nat.exists_eq_add_of_le hlo
    rw [fld, fld, Nat.pow_add, ← Nat.div_div_eq_div_mul, ← Nat.div_div_eq_div_mul, show 2 ^ 11 = 2048 from rfl, h]
  rw [pseudoChannel, pseudoChannel, stackOf, stackOf, hfld 11 3 (by decide), hfld 19 3 (by decide), hfld 14 5 (by decide), hfld 22 1 (by decide)]

section
variable {s : State} {p : Nat}

/-- The one request of a pseudo-channel is the next. -/
theorem nextRequest_alone {pc : Nat} {r : Nat × Nat} (h : s.hqueue.filter (fun x => pseudoChannel x.1 == pc) = [r]) : nextRequest s pc = some r := by
  have hx : ∀ q : Nat × Nat → Bool, (([r] : List (Nat × Nat)).find? q).getD r = r := fun q => by
    rw [List.find?_singleton]
    split <;> rfl
  unfold nextRequest
  rw [h]
  dsimp only
  rw [hx, ite_self, hx]

theorem served_alone {r : Nat × Nat} (h : r ∉ s.hqueue) : ∃ rows, served { s with hqueue := s.hqueue ++ [r] } r = { s with rows := rows } := by
  have he : (s.hqueue ++ [r]).erase r = s.hqueue := by
    rw [List.erase_append_right _ h, List.erase_cons_head, List.append_nil]
  unfold served
  dsimp only
  rw [he]
  split <;> exact ⟨_, rfl⟩

/-- A 64-byte access to an idle pseudo-channel is served at once, and leaves the queue as it was. -/
theorem hbmServe_idle (h : ChannelIdle s p) : ∃ rows, hbmServe s p = some { s with rows := rows } := by
  unfold hbmServe
  split
  · exact ⟨s.rows, rfl⟩
  next hp =>
  have hch := h (by simpa using hp)
  have hsame : s.hqueue.any (fun r => accessOf r.1 == accessOf (p - 2 ^ 48)) = false := by
    refine List.any_eq_false.mpr fun x hx hy => hch x hx (pseudoChannel_of_accessOf (beq_iff_eq.mp hy))
  have hnone : s.hqueue.filter (fun r => pseudoChannel r.1 == pseudoChannel (p - 2 ^ 48)) = [] :=
    List.filter_eq_nil_iff.mpr fun x hx hy => hch x hx (beq_iff_eq.mp hy)
  have hnext : nextRequest { s with hqueue := s.hqueue ++ [(p - 2 ^ 48, s.clock)] } (pseudoChannel (p - 2 ^ 48)) = some (p - 2 ^ 48, s.clock) :=
    nextRequest_alone (by rw [List.filter_append, hnone]; simp)
  obtain ⟨rows, hr⟩ := served_alone (s := s) (r := (p - 2 ^ 48, s.clock)) fun hin => hch _ hin rfl
  refine ⟨rows, ?_⟩
  dsimp only
  rw [hsame, hnone]
  simp only [Bool.not_false, Bool.true_and, List.length_nil, show decide (32 ≤ 0) = false from rfl, Bool.false_eq_true, if_false, hnext, beq_self_eq_true, if_true,
    hr]

theorem hbmServes_idle (place : Nat → Nat) {is : List Nat} (h : ∀ i ∈ is, ChannelIdle s (place i)) (rows : Tab (Nat × Nat)) :
    ∃ rows', is.foldl (fun r i => r.bind fun s => hbmServe s (place i)) (some { s with rows := rows }) = some { s with rows := rows' } := by
  induction is generalizing rows with
  | nil => exact ⟨rows, rfl⟩
  | cons i r ih =>
    obtain ⟨rows', hr⟩ := hbmServe_idle (s := { s with rows := rows }) (p := place i) (h i List.mem_cons_self)
    rw [List.foldl_cons, Option.bind_some, hr]
    exact ih (fun j hj => h j (List.mem_cons_of_mem _ hj)) rows'

/-- The bytes of an access whose pseudo-channels are idle are served at once. -/
theorem hbmRun_idle {n : Nat} (hn : 0 < n) (h : ∀ y, p ≤ y → y < p + n → ChannelIdle s y) : ∃ rows, hbmRun s p n = some { s with rows := rows } := by
  unfold hbmRun
  split
  · exact ⟨s.rows, rfl⟩
  next hp =>
  have hp : isHbm p = true := by simpa using hp
  refine hbmServes_idle (fun i => p - p % 64 + 64 * i) (fun i hi => ?_) s.rows
  rw [List.mem_range] at hi
  rcases Nat.eq_zero_or_pos i with rfl | hpos
  · intro _ x hx
    have hlow : 2 ^ 48 ≤ p := by
      simp only [isHbm, Bool.and_eq_true, decide_eq_true_eq] at hp
      exact hp.1
    rw [pseudoChannel_congr (a := p - p % 64 + 64 * 0 - 2 ^ 48) (b := p - 2 ^ 48) (by omega)]
    exact h p le_rfl (by omega) hp x hx
  · exact h (p - p % 64 + 64 * i) (by omega) (by omega)
end

/-! ### Writes while Lifeline is off and the host is still (21 R357, 26 R383) -/

/-- Lifeline neither records nor replays, no latent error lies in memory and no atomic of the host is in progress. -/
structure Calm (s : State) : Prop where
  off : bit (s.reg llWin).toNat 63 = false
  live : s.ll.replay = none
  clean : s.flaws = []
  still : s.hostAts = []

section
variable {s : State} (h : Calm s)
include h

theorem Calm.gate (w : Who) (kind obj : Nat) : gate s w kind obj = .free := by
  simp [Machine.gate, State.records, h.live, h.off]

theorem Calm.logEvent (w : Who) (kind obj data : Nat) : logEvent s w kind obj data = s := by
  simp [Machine.logEvent, State.records, h.live, h.off]

theorem Calm.poke (p : Nat) (bs : List Byte) : s.poke p bs = { s with mem := memStore s.mem p bs } := by
  simp [State.poke, h.clean]

theorem Calm.update (w : Who) (p n : Nat) (f : List Byte → List Byte) (c : Option (List Byte → List Byte)) :
    s.update w p n f c = { s with mem := memStore s.mem p (f (s.peek p n)) } := by
  have hl : lifeWrite s w p n f c = s := by simp [lifeWrite, h.off]
  unfold State.update
  dsimp only
  rw [hl, pastHost_quiet s p n h.still, nearStore_live _ _ _ h.live, h.poke]

theorem Calm.modify (w : Who) (p n : Nat) (f : List Byte → List Byte) (c : Option (List Byte → List Byte)) :
    ∃ v, s.modify w p n f c = { s with mem := memStore s.mem p (f (s.peek p n)), veils := v } := by
  unfold State.modify
  rw [h.update]
  exact ⟨_, rfl⟩

theorem Calm.atomicAt (w : Who) (p n : Nat) (sys : Bool) (op : List Byte → List Byte) :
    ∃ v, s.atomicAt w p n sys none op = { s with mem := memStore s.mem p (op (s.peek p n)), veils := v } := by
  unfold State.atomicAt
  dsimp only
  split
  · rw [h.update]
    exact ⟨_, rfl⟩
  · exact h.modify _ _ _ _ _
end

theorem observe_frame (s : State) (w : Who) (p n : Nat) : ∃ v, s.observe w p n = { s with veils := v } := by
  unfold State.observe
  split
  · exact ⟨_, rfl⟩
  · exact ⟨_, rfl⟩

/-! ### Lanes that share a location (10 R164, R175) -/

section
variable {k : FarKind} {t : Ty}

/-- One operation of a lane on what the location holds. -/
def farStep (k : FarKind) (t : Ty) (m : Nat) (e : El) : Nat := k.apply t m e.data e.cmp

/-- The operations of the lanes, one after another. -/
theorem applyAll_left (m : Nat) (es : List El) : (applyAll k t m es).2 = es.foldl (farStep k t) m := by
  induction es generalizing m with
  | nil => rfl
  | cons e r ih => exact ih _

/-- The value listed for a lane. -/
def received (vals : List (Nat × Nat)) (l : Nat) : Nat := (vals.find? fun v => v.1 == l).elim 0 Prod.snd

/-- Each lane receives what the lanes before it left. -/
theorem applyAll_received (m l : Nat) (es : List El) :
    received (applyAll k t m es).1 l = (es.findIdx? fun y => y.lane == l).elim 0 fun j => (es.take j).foldl (farStep k t) m := by
  induction es generalizing m with
  | nil => rfl
  | cons e r ih =>
    rw [received, applyAll, List.find?_cons, List.findIdx?_cons]
    cases hl : e.lane == l with
    | true => rfl
    | false =>
      simp only [Bool.false_eq_true, if_false]
      refine (ih _).trans ?_
      cases r.findIdx? (fun y => y.lane == l) <;> rfl

theorem foldl_store (m : Nat) (es : List El) : es.foldl (farStep .store t) m = match es.getLast? with | some e => e.data | none => m := by
  induction es generalizing m with
  | nil => rfl
  | cons e r ih =>
    rw [List.foldl_cons, ih]
    cases hr : r.getLast? with
    | none =>
      rw [List.getLast?_eq_none_iff.mp hr]
      rfl
    | some x => rw [List.getLast?_cons, hr]; rfl

theorem foldl_load (m : Nat) (es : List El) : es.foldl (farStep .load t) m = m := by
  induction es with
  | nil => rfl
  | cons e r ih => exact ih
end

theorem memVal_lt (m : List Host.Cell) (a n : Nat) : memVal m a n < 256 ^ n := by
  induction n generalizing a with
  | zero => exact Nat.one_pos
  | succ n ih =>
    have hb : (memGet m a).toNat < 256 := (memGet m a).isLt
    have hr := ih (a + 1)
    rw [memVal] at hr ⊢
    rw [memBytes, leVal, Nat.pow_succ]
    omega

/-! ### Performing an element (10 R172, R174, R175) -/

section
variable {s s1 : State} {o : FarOp} {e : El} {p : Nat} {sys : Bool}

/-- The state once an element and its like have been performed, with the bytes m and the values vals. -/
def performed (s : State) (o : FarOp) (e : El) (m : List Host.Cell) (veils : List Veil) (vals : List (Nat × Nat)) : State :=
  setFar { s with mem := m, veils := veils } (o.done s vals e true)

/-- The values a load or an atomic delivers, and the value a store or an atomic leaves. -/
def farResult (s : State) (o : FarOp) (e : El) (p : Nat) : List (Nat × Nat) × Nat := applyAll o.kind o.ty (memVal s.mem p o.size) (o.same s e)

variable (hx : xlate s o.who.tile o.who.ctx e.addr (if o.kind.access = 0 then 0 else 1) = some (p, sys)) (hr : hbmRun s p o.size = some s1)
  (h : Calm s) (h1 : Calm s1)
include hx hr h h1

omit h in
theorem performHere_load (hk : o.kind = .load) : ∃ v, performHere s o e false = performed s1 o e s1.mem v (farResult s1 o e p).1 := by
  obtain ⟨v, hv⟩ := observe_frame s1 o.who p o.size
  refine ⟨v, ?_⟩
  unfold performHere
  simp only [hx]
  simp only [hk, FarKind.access, FarKind.atomic, if_true, Bool.false_and, Bool.false_eq_true, if_false, bne_self_eq_false, Bool.and_false, hr,
    readAt_clean _ _ _ _ h1.clean, hv, zero_ne_one]
  have hp : ({ s1 with veils := v } : State).pastHost p o.size = { s1 with veils := v } := pastHost_quiet _ _ _ h1.still
  rw [hp]
  simp only [performed, farResult, hk]
  rfl

theorem performHere_store (hk : o.kind = .store) : ∃ v, performHere s o e false =
    performed s1 o e (memStore s1.mem p (leBytes o.size (applyAll o.kind o.ty 0 (o.same s1 e)).2)) v [] := by
  obtain ⟨v, hv⟩ := h1.modify o.who p (leBytes o.size (applyAll o.kind o.ty 0 (o.same s1 e)).2).length
    (fun _ => leBytes o.size (applyAll o.kind o.ty 0 (o.same s1 e)).2) none
  refine ⟨v, ?_⟩
  have hh : hostHolds s p o.size = false := by simp [hostHolds, h.still]
  unfold performHere
  simp only [hx]
  rw [hk] at hv
  simp only [hk, FarKind.access, FarKind.atomic, if_true, Bool.false_and, Bool.false_eq_true, if_false, Bool.and_false, hr, hh, State.write, hv]
  rfl

theorem performHere_atomic (hk : o.kind.access = 2) : ∃ v, performHere s o e false =
    performed s1 o e (memStore s1.mem p (leBytes o.size (farResult s1 o e p).2)) v (farResult s1 o e p).1 := by
  obtain ⟨v, hv⟩ := observe_frame s1 o.who p o.size
  have hc : Calm { s1 with veils := v } := ⟨h1.off, h1.live, h1.clean, h1.still⟩
  obtain ⟨v', hv'⟩ := hc.atomicAt o.who p o.size sys fun b => leBytes o.size (applyAll o.kind o.ty (leVal b) (o.same s1 e)).2
  refine ⟨v', ?_⟩
  have hh : hostHolds s p o.size = false := by simp [hostHolds, h.still]
  have hlog : ∀ b : Bool, (if b = true then logEvent s1 o.who 1 (o.object e.addr) 0 else s1) = s1 := fun b => by rw [h1.logEvent, ite_self]
  unfold performHere
  simp only [hx]
  simp only [hk, hr, hh, h.gate, ite_self, readAt_clean _ _ _ _ h1.clean, hlog, hv, Bool.and_false, Bool.false_and, Bool.false_eq_true, if_false,
    OfNat.ofNat_ne_zero, OfNat.ofNat_ne_one, hv']
  rfl
end

section
variable {s : State} {o : FarOp} {e : El} {p : Nat} {sys : Bool}

/-- The bytes an element and its like leave, and the values they receive. -/
def farBytes (s : State) (o : FarOp) (e : El) (p : Nat) : List Host.Cell :=
  if o.kind = .load then s.mem else memStore s.mem p (leBytes o.size (farResult s o e p).2)

def farVals (s : State) (o : FarOp) (e : El) (p : Nat) : List (Nat × Nat) := if o.kind = .store then [] else (farResult s o e p).1

/-- A store leaves the highest lane's data, whatever was there before. -/
theorem applyAll_store {t : Ty} {es : List El} (h : es ≠ []) (m m' : Nat) : (applyAll .store t m es).2 = (applyAll .store t m' es).2 := by
  rw [applyAll_left, applyAll_left, foldl_store, foldl_store, List.getLast?_eq_some_getLast h]

theorem performHere_calm (hx : xlate s o.who.tile o.who.ctx e.addr (if o.kind.access = 0 then 0 else 1) = some (p, sys)) (h : Calm s)
    (hq : ∀ y, p ≤ y → y < p + o.size → ChannelIdle s y) (he : o.same s e ≠ []) :
    ∃ rows v, performHere s o e false = performed { s with rows := rows } o e (farBytes s o e p) v (farVals s o e p) := by
  obtain ⟨rows, hr⟩ := hbmRun_idle (bytesOf_pos o.ty) hq
  have h1 : Calm { s with rows := rows } := ⟨h.off, h.live, h.clean, h.still⟩
  refine ⟨rows, ?_⟩
  unfold farBytes farVals
  by_cases hl : o.kind = .load
  · rw [if_pos hl, if_neg (by rw [hl]; exact FarKind.noConfusion)]
    exact performHere_load hx hr h1 hl
  rw [if_neg hl]
  by_cases hs : o.kind = .store
  · rw [if_pos hs, farResult, hs, applyAll_store he _ 0, ← hs]
    exact performHere_store hx hr h h1 hs
  · rw [if_neg hs]
    refine performHere_atomic hx hr h h1 ?_
    cases hk : o.kind with
    | load => exact absurd hk hl
    | store => exact absurd hk hs
    | atom op => rfl
    | red op => rfl
    | vatom => rfl

theorem inFlight_none {ids : List Nat} (h : ∀ x ∈ s.far, x.id ∉ ids) : inFlight s ids = false := idle_iff ids |>.mp h

/-- An element of this device that waits for nothing is performed. -/
theorem farAccess_performs (ho : s.far.find? (fun o => o.id == s.inp.a) = some o) (he : o.els[s.inp.b]? = some e) (hp : e.performed = false)
    (hr : e.rank = none) (hc : s.inp.c ≠ 1) (hh : ∀ x ∈ s.far, x.id ∉ o.holds) (hs : earlierShares s o e = false) (hf : ∀ f ∈ s.faults, o.id ∉ f.reqs) :
    exec .farAccessAtHome s = .next (performHere s o e false) := by
  have hw : ∀ x : El, waitsFault s o.id o.who.ctx x.addr = false := fun x =>
    List.any_eq_false.mpr fun f hin => by simp [hf f hin]
  have hany : (o.same s e).any (fun x => waitsFault s o.id o.who.ctx x.addr) = false := List.any_eq_false.mpr fun x _ => by simp [hw x]
  show execFarAccessAtHome s = _
  unfold execFarAccessAtHome
  rw [ho]
  dsimp only
  rw [he]
  dsimp only
  rw [hp, inFlight_none hh, hs, hr, hany, beq_eq_false_iff_ne.mpr hc]
  rfl

theorem mem_same (he : e ∈ o.els) (hp : e.performed = false) : e ∈ o.same s e := by simp [FarOp.same, List.mem_filter, he, hp]

theorem same_eq : o.same s e = o.els.filter (fun x => !x.performed && decide (o.home s x = o.home s e)) := by
  unfold FarOp.same
  congr 1
  funext x
  rw [Bool.beq_eq_decide_eq]

theorem done_eq {vals : List (Nat × Nat)} {back : El → Nat} (hb : ∀ x, received vals x.lane = back x) :
    o.done s vals e true = { o with els := o.els.map (fun x => if x.performed = false ∧ o.home s x = o.home s e then
      { x with performed := true, acked := true, val := back x } else x) } := by
  unfold FarOp.done
  congr 2
  funext x
  simp only [Bool.and_eq_true, Bool.not_eq_true', beq_iff_eq, ← hb x, received]
  cases vals.find? (fun v => v.1 == x.lane) <;> rfl
end

theorem access_kind (k : FarKind) : (if k.access = 0 then 0 else 1) = if k = .load then 0 else 1 := by cases k <;> rfl

/-- A value stored reads back, as far as its bytes go. -/
theorem memVal_memStore {m : List Host.Cell} (h : Memory.wf m = true) (p n x : Nat) : memVal (memStore m p (leBytes n x)) p n = x % 256 ^ n := by
  have hb := memBytes_memStore_same (leBytes n x) m p h
  rw [leBytes_length] at hb
  rw [memVal, hb, leVal_leBytes]

section
variable {s : State} {o : FarOp} {e : El} {p : Nat}

theorem farResult_left : (farResult s o e p).2 = (o.same s e).foldl (farStep o.kind o.ty) (memVal s.mem p o.size) := applyAll_left _ _

theorem farBytes_value (h : Memory.wf s.mem = true) :
    memVal (farBytes s o e p) p o.size = (o.same s e).foldl (farStep o.kind o.ty) (memVal s.mem p o.size) % 256 ^ o.size := by
  unfold farBytes
  split
  · next hk => rw [hk, foldl_load, Nat.mod_eq_of_lt (memVal_lt _ _ _)]
  · rw [memVal_memStore h, farResult_left]

theorem farBytes_outside (h : Memory.wf s.mem = true) {a : Nat} (ha : a < p ∨ p + o.size ≤ a) : memGet (farBytes s o e p) a = memGet s.mem a := by
  unfold farBytes
  split
  · rfl
  · exact memGet_memStore_outside _ _ _ _ h (by rwa [leBytes_length])

theorem farVals_received (x : El) : received (farVals s o e p) x.lane = if o.kind = .store then 0 else
    ((o.same s e).findIdx? fun y => y.lane == x.lane).elim 0 fun j => ((o.same s e).take j).foldl (farStep o.kind o.ty) (memVal s.mem p o.size) := by
  unfold farVals
  split
  · rfl
  · exact applyAll_received _ _ _
end

end Sys2Proof.Machine

/-! PROOFS, 10 R168, R169, 22 R360 to R369. What comes back of far words, and the steps of grace periods and cast-off entries. -/

namespace Sys2Proof.Machine
open Sys2Proof Sys2Proof.Claims

/-! ### A far word leaves flight (22 R360, R367, R368) -/

/-- What a group takes the present clock for as a far word leaves flight. -/
def latchGroup (s : State) (g : Group) : Group :=
  let g1 := match g.wait with
    | some (.grace ids none l) => if inFlight s ids then g else { g with wait := some (.grace ids (some s.clock) l) }
    | some (.dfree d obj k ids none l) => if inFlight s ids then g else { g with wait := some (.dfree d obj k ids (some s.clock) l) }
    | _ => g
  if g1.qpend.any (fun ids => !inFlight s ids) then { g1 with quiet := some s.clock, qpend := g1.qpend.filter (fun ids => inFlight s ids) } else g1

theorem latchGroup_frame (s : State) (g : Group) :
    latchGroup s g = { g with wait := (latchGroup s g).wait, quiet := (latchGroup s g).quiet, qpend := (latchGroup s g).qpend } := by
  unfold latchGroup
  extract_lets g1
  have h1 : g1 = { g with wait := g1.wait } := by
    dsimp only [g1]
    split
    · split <;> rfl
    · split <;> rfl
    · rfl
  clear_value g1
  split <;> rw [h1]

section
variable {s : State} {id key : Nat}

/-- A far word that leaves flight leaves the rest of the state, and of each group, as it was. -/
theorem dropFar_frame (s : State) (id : Nat) :
    dropFar s id = { s with far := s.far.filter (fun o => o.id != id), groups := (dropFar s id).groups, castoffs := (dropFar s id).castoffs } := rfl

theorem dropFar_group {g : Group} (h : s.groups.get? key = some g) : ∃ t, (dropFar s id).groups.get? key = some (latchGroup t g) := by
  refine ⟨{ s with far := s.far.filter (fun o => o.id != id) }, ?_⟩
  have hm : (dropFar s id).groups = s.groups.map (fun x => (x.1, latchGroup { s with far := s.far.filter (fun o => o.id != id) } x.2)) := rfl
  rw [hm]
  refine (Tab.get?_map s.groups (fun _ x => latchGroup { s with far := s.far.filter (fun o => o.id != id) } x) key).trans ?_
  rw [h]
  rfl
end

/-! ### Data that land (10 R164, R168) -/

theorem Group.writeV_frame (g : Group) (t : Ty) (d : Opnd) (m : Mask) (f : Nat → Nat) :
    g.writeV t d m f = { g with v := (g.writeV t d m f).v, bad := (g.writeV t d m f).bad, view := (g.writeV t d m f).view } := (g.writeV_written t d m f).1

theorem Group.writeS_frame (g : Group) (d : Opnd) (x : Nat) :
    g.writeS d x = { g with s := (g.writeS d x).s, bad := (g.writeS d x).bad, view := (g.writeS d x).view } := (g.writeS_written d x).1

/-- Loaded elements reach the registers of D alone. -/
theorem Group.loaded_frame (g : Group) (t : Ty) (d : Opnd) (xs : List (Nat × Nat)) :
    g.loaded t d xs = { g with v := (g.loaded t d xs).v, s := (g.loaded t d xs).s, bad := (g.loaded t d xs).bad, view := (g.loaded t d xs).view } := by
  unfold Group.loaded
  split
  · rw [g.writeV_frame]
  · split
    · rw [g.writeS_frame]
    · rfl

/-- The element of a lane in a list that holds one for each lane. -/
theorem find?_lane {es : List El} (hp : es.Pairwise (fun a b => a.lane ≠ b.lane)) {e : El} (he : e ∈ es) :
    (es.map fun e => (e.lane, e.val)).find? (fun x => x.1 == e.lane) = some (e.lane, e.val) := by
  induction es with
  | nil => cases he
  | cons x r ih =>
    obtain ⟨hx, hr⟩ := List.pairwise_cons.mp hp
    rw [List.map_cons, List.find?_cons]
    rcases List.mem_cons.mp he with rfl | hin
    · rw [beq_self_eq_true]
    · rw [beq_eq_false_iff_ne.mpr (hx e hin)]
      exact ih hr hin

theorem Group.loaded_landed {g : Group} {t : Ty} {d : Opnd} {es : List El} (hp : es.Pairwise (fun a b => a.lane ≠ b.lane)) (hd : d.kind = 0) :
    ∃ f, VectorWritten g (g.loaded t d (es.map fun e => (e.lane, e.val))) t d (maskOf fun l => es.any fun e => e.lane == l) f ∧
      ∀ e ∈ es, f e.lane = if t.bits < 32 then wrapN 32 (readInt t e.val) else e.val := by
  cases d with
  | v r =>
    have hm : (maskOf fun l => (es.map fun e => (e.lane, e.val)).any fun x => x.1 == l) = maskOf fun l => es.any fun e => e.lane == l := by
      simp only [List.any_map]
      rfl
    unfold Group.loaded
    dsimp only
    rw [hm]
    refine ⟨_, g.writeV_written _ _ _ _, fun e he => ?_⟩
    rw [find?_lane hp he]
    rfl
  | s n => cases hd
  | p n => cases hd
  | imm n => cases hd

section
variable {s : State} {o : FarOp} {g : Group} {n : Nat}

/-- The group once every lane of a far word has landed, before what its leaving flight changes. -/
def landedGroup (s : State) (o : FarOp) (g : Group) (n : Nat) : Group :=
  let g0 := g.loaded o.ty o.dest (o.els.map fun e => (e.lane, e.val))
  let vs := landedVals g0 o n (o.els.map El.lane)
  let keep (r : Retry) : Retry := { r with regs := r.regs.filter (fun x => !x.overlaps vs) }
  ({ g0 with opens := g0.opens ++ vs.filter (fun x => !g0.opens.contains x), fills := g0.fills ++ vs, look := s.clock,
             redo := if s.inp.b = 2 then g0.redo else g0.redo.map keep } : Group).landed n

theorem landedGroup_frame : landedGroup s o g n = { g.loaded o.ty o.dest (o.els.map fun e => (e.lane, e.val)) with
    ac := g.ac.set n (g.ac.getD n 0 + 1), opens := (landedGroup s o g n).opens, fills := (landedGroup s o g n).fills, look := s.clock,
    redo := (landedGroup s o g n).redo } := by
  have hac : (g.loaded o.ty o.dest (o.els.map fun e => (e.lane, e.val))).ac = g.ac := by rw [Group.loaded_frame]
  unfold landedGroup Group.landed
  dsimp only
  rw [hac]

/-- The group once the word that has landed has left flight in state t. -/
theorem latchGroup_landed (t : State) : latchGroup t (landedGroup s o g n) = { g.loaded o.ty o.dest (o.els.map fun e => (e.lane, e.val)) with
    ac := g.ac.set n (g.ac.getD n 0 + 1), opens := (latchGroup t (landedGroup s o g n)).opens, fills := (latchGroup t (landedGroup s o g n)).fills,
    look := s.clock, redo := (latchGroup t (landedGroup s o g n)).redo, wait := (latchGroup t (landedGroup s o g n)).wait,
    quiet := (latchGroup t (landedGroup s o g n)).quiet, qpend := (latchGroup t (landedGroup s o g n)).qpend } := by
  have hl := latchGroup_frame t (landedGroup s o g n)
  have hg := landedGroup_frame (s := s) (o := o) (g := g) (n := n)
  generalize latchGroup t (landedGroup s o g n) = y at hl ⊢
  generalize landedGroup s o g n = x at hl hg
  rw [hl]
  conv_lhs => rw [hg]

theorem latchGroup_opens (t : State) (g : Group) : (latchGroup t g).opens = g.opens := by rw [latchGroup_frame]

/-- What was open stays open. -/
theorem landedGroup_opens {x : RegVal} (hx : x ∈ g.opens) : x ∈ (landedGroup s o g n).opens := by
  have ho : (g.loaded o.ty o.dest (o.els.map fun e => (e.lane, e.val))).opens = g.opens := by rw [Group.loaded_frame]
  refine List.mem_append_left _ ?_
  rw [ho]
  exact hx

theorem lane_allLanes {l : Nat} (h : l < 64) : lane allLanes l = true := by
  rw [lane, allLanes, BitVec.getLsbD_allOnes]
  exact decide_eq_true h

/-- A far word whose elements have all come back lands at once. -/
theorem farLoadLand_all (ho : s.far.find? (fun o => o.id == s.inp.a) = some o) (hn : o.ac = some n) (hg : s.groups.get? o.group = some g) (hb : s.inp.b ≠ 1)
    (he : ∀ e ∈ o.els, e.acked = true ∧ e.landed = false ∧ e.lane < 64) (hne : o.els ≠ []) (hm : s.inp.m = allLanes) :
    exec .farLoadLand s = .next (dropFar { s with groups := s.groups.set o.group (landedGroup s o g n) } o.id) := by
  have hnow : o.els.filter (fun e => e.acked && !e.landed && lane s.inp.m e.lane) = o.els := List.filter_eq_self.mpr fun e hin => by
    obtain ⟨ha, hl, hlt⟩ := he e hin
    rw [ha, hl, hm, lane_allLanes hlt]
    rfl
  have hall : (o.els.map (fun e => if e.acked && lane s.inp.m e.lane then { e with landed := true } else e)).all El.landed = true := by
    rw [List.all_map, List.all_eq_true]
    intro e hin
    obtain ⟨ha, -, hlt⟩ := he e hin
    simp only [Function.comp, ha, hm, lane_allLanes hlt, Bool.and_self, if_true]
  have hemp : o.els.isEmpty = false := List.isEmpty_eq_false_iff.mpr hne
  show execFarLoadLand s = _
  unfold execFarLoadLand
  rw [if_neg hb, ho]
  dsimp only
  rw [hn, hg]
  dsimp only
  rw [hnow, hemp, hall]
  rfl
end

/-! ### A store that is acknowledged (10 R169, R177) -/

section
variable {s : State} {o : FarOp} {g : Group}

theorem storeAck_all (ho : s.far.find? (fun o => o.id == s.inp.a) = some o) (hn : o.ac = none) (hg : s.groups.get? o.group = some g)
    (ha : ∀ e ∈ o.els, e.acked = true) :
    exec .storeAck s = .next (dropFar { s with groups := s.groups.set o.group { g with stores := g.stores - 1 } } o.id) := by
  show execStoreAck s = _
  unfold execStoreAck
  rw [ho]
  dsimp only
  rw [hn, List.all_eq_true.mpr ha, hg]
  rfl

theorem storeAck_waits (ho : s.far.find? (fun o => o.id == s.inp.a) = some o) (ha : ∃ e ∈ o.els, e.acked = false) : exec .storeAck s = .next s := by
  obtain ⟨e, he, hf⟩ := ha
  have hall : o.els.all El.acked = false := List.all_eq_false.mpr ⟨e, he, by rw [hf]; exact Bool.false_ne_true⟩
  show execStoreAck s = _
  unfold execStoreAck
  rw [ho]
  dsimp only
  rw [hall, Bool.and_false]
  rfl
end

/-! ### Grace periods and blocked posts (22 R361, R362, R368) -/

section
variable {s : State} {g : Group} {ids : List Nat} {c l : Nat}

theorem graceElapse_waits (hg : s.groups.get? s.inp.a = some g) (hw : g.wait = some (.grace ids (some c) l)) (he : elapsed s g.env.ctx c = false) :
    exec .graceElapse s = .next s := by
  show execGraceElapse s = _
  unfold execGraceElapse
  rw [hg]
  dsimp only
  rw [hw]
  dsimp only
  rw [he]
  rfl

theorem graceElapse_releases (hg : s.groups.get? s.inp.a = some g) (hw : g.wait = some (.grace ids (some c) l)) (he : elapsed s g.env.ctx c = true)
    (hgate : gate s { whoWait s.inp.a g 0 with lane := l } 10 0 = .free) :
    exec .graceElapse s = .next { (logEvent s { whoWait s.inp.a g 0 with lane := l } 10 0 0) with
      groups := s.groups.set s.inp.a { g with wait := none, ready := max g.ready (s.clock + 1), busy := 9, look := s.clock, quiet := some s.clock } } := by
  have hgroups : ∀ w, (logEvent s w 10 0 0).groups = s.groups := fun w => by rw [logEvent_frame]
  show execGraceElapse s = _
  unfold execGraceElapse
  rw [hg]
  dsimp only
  rw [hw]
  dsimp only
  rw [he, hgate]
  dsimp only
  rw [hgroups, Group.released, hw]
  rfl

/-- The entry that a blocked `dfree` posts. -/
def postedCast (key : Nat) (g : Group) (k : Nat) (obj : W64) (ids : List Nat) (since : Option Nat) (l : Nat) : Cast :=
  { who := { whoWait key g 0 with lane := l }, k := k, obj := obj, ids := ids, since := since, list := none, prog := 0, head := 0 }

theorem castOff_frame (s : State) (w : Who) (k : Nat) (obj : W64) (ids : List Nat) (since : Option Nat) : castOff s w k obj ids since =
    { s with ll := (castOff s w k obj ids since).ll,
             castoffs := s.castoffs ++ [{ who := w, k := k, obj := obj, ids := ids, since := since, list := none, prog := 0, head := 0 }] } := by
  unfold castOff
  dsimp only
  rw [manifestUpd_frame]

theorem posted_frame (s : State) (w : Who) (k : Nat) (obj : W64) (ids : List Nat) (since : Option Nat) :
    ∃ ll regs copies, logEvent (castOff s w k obj ids since) w 8 0 0 = { s with
      ll := ll, regs := regs, copies := copies
      castoffs := s.castoffs ++ [{ who := w, k := k, obj := obj, ids := ids, since := since, list := none, prog := 0, head := 0 }] } := by
  obtain ⟨u, hu⟩ : ∃ u, u = logEvent (castOff s w k obj ids since) w 8 0 0 := ⟨_, rfl⟩
  have hf := logEvent_frame (castOff s w k obj ids since) w 8 0 0
  rw [← hu] at hf ⊢
  refine ⟨u.ll, u.regs, u.copies, hf.trans ?_⟩
  rw [castOff_frame]

theorem dfreeAppend_posts {key k : Nat} {d : Opnd} {obj : W64} {since : Option Nat} (hroom : s.castoffs.length < Config.castoffMax)
    (hk : earliest (dfreeWaiters s) = some key) (hg : s.groups.get? key = some g) (hw : g.wait = some (.dfree d obj k ids since l))
    (hgate : postGate s { whoWait key g 0 with lane := l } = .free) :
    ∃ ll regs copies, exec .dfreeAppend s = .next { s with
      ll := ll, regs := regs, copies := copies, castoffs := s.castoffs ++ [postedCast key g k obj ids since l]
      groups := s.groups.set key { g.writeS d 0 with wait := none, ready := max g.ready (s.clock + 1), busy := 10, look := s.clock } } := by
  have hrel : (g.writeS d 0).released s.clock = { g.writeS d 0 with wait := none, ready := max g.ready (s.clock + 1), busy := 10, look := s.clock } := by
    have hwait : (g.writeS d 0).wait = some (.dfree d obj k ids since l) := by rw [g.writeS_frame, ← hw]
    have hready : (g.writeS d 0).ready = g.ready := by rw [g.writeS_frame]
    rw [Group.released, hwait, hready]
    rfl
  obtain ⟨ll, regs, copies, hu⟩ := posted_frame s { whoWait key g 0 with lane := l } k obj ids since
  refine ⟨ll, regs, copies, ?_⟩
  show execDfreeAppend s = _
  unfold execDfreeAppend
  rw [if_neg (by omega), hk]
  dsimp only
  rw [hg]
  dsimp only
  rw [hw]
  dsimp only
  rw [hgate]
  dsimp only
  rw [hrel, hu]
  rfl
end

/-! ### The return of a cast-off entry (22 R369) -/

section
variable {s : State} {e : Cast} {c : Nat}

/-- The entry of a context that is next. -/
def firstCast (s : State) : Option Cast := s.castoffs.find? fun e => e.who.ctx == s.inp.a

theorem castoffReturn_waits (he : firstCast s = some e) (hs : e.since = some c) (hel : elapsed s e.who.ctx c = false) : exec .castoffReturn s = .next s := by
  show execCastoffReturn s = _
  unfold firstCast at he
  unfold execCastoffReturn
  rw [he]
  dsimp only
  rw [hs]
  dsimp only
  rw [hel]
  rfl

theorem castoffReturn_starts (he : firstCast s = some e) (hs : e.since = some c) (hel : elapsed s e.who.ctx c = true) (hl : e.list = none) :
    exec .castoffReturn s = .next (returnStart s e) := by
  show execCastoffReturn s = _
  unfold firstCast at he
  unfold execCastoffReturn
  rw [he]
  dsimp only
  rw [hs]
  dsimp only
  rw [hel, hl]
  rfl

theorem castoffReturn_steps {a hd p : Nat} (he : firstCast s = some e) (hs : e.since = some c) (hel : elapsed s e.who.ctx c = true) (hl : e.list = some (a, hd))
    (h : Calm s) (hp : placeOf s e.who.tile e.who.ctx (e.needs a hd).1 (e.needs a hd).2 = some p) (hq : ∀ y, p ≤ y → y < p + 8 → ChannelIdle s y) :
    ∃ rows sys, exec .castoffReturn s = .next (returnStep { s with rows := rows } e p sys) := by
  obtain ⟨rows, hr⟩ := hbmRun_idle (s := s) (p := p) (n := 8) (by decide) hq
  obtain ⟨⟨q, sys⟩, hx, rfl⟩ := Option.map_eq_some_iff.mp hp
  refine ⟨rows, sys, ?_⟩
  have hgate : returnGate s e = .free := by
    unfold returnGate
    rw [h.gate, ite_self]
  have hheld : heldOff s e.who.tile e.who.ctx (e.needs a hd).1 8 = false := by simp [heldOff, h.still]
  show execCastoffReturn s = _
  unfold firstCast at he
  unfold execCastoffReturn
  rw [he]
  dsimp only
  rw [hs]
  dsimp only
  rw [hel, hl]
  dsimp only
  rw [hgate]
  dsimp only
  rw [hx]
  dsimp only
  rw [hheld, hr]
  simp
end

/-! ### What the start of a return reads (22 R364, R369) -/

section
variable {s : State} {e : Cast}

theorem pastHost_ctxs (s : State) (p n : Nat) : (s.pastHost p n).ctxs = s.ctxs := by
  unfold State.pastHost
  split <;> rfl

theorem engineWrite_ctxs (s : State) (p : Nat) (bs : List Byte) : (s.engineWrite p bs).ctxs = s.ctxs := pastHost_ctxs s p bs.length

theorem errRecord_ctxs (s : State) (c u a x t d : Nat) (i : W64) : (errRecord s c u a x t d i).ctxs = s.ctxs := by
  unfold errRecord
  dsimp only
  split
  · rfl
  · split
    · rfl
    · rw [State.setReg_ctxs, engineWrite_ctxs]

theorem foldl_ctxs {α : Type} {f : State → α → State} (h : ∀ s x, (f s x).ctxs = s.ctxs) (xs : List α) (s : State) : (xs.foldl f s).ctxs = s.ctxs := by
  induction xs generalizing s with
  | nil => rfl
  | cons x r ih => exact (ih _).trans (h s x)

theorem handOver_ctxs (s : State) (ctx : Nat) : (handOver s ctx).ctxs = s.ctxs := by
  have hr : ∀ (s : State) (gs : Tab Group), (reportsOver s ctx gs).ctxs = s.ctxs := fun s gs => foldl_ctxs (fun s x => by
    split
    · exact errRecord_ctxs _ _ _ _ _ _ _ _
    · rfl) gs s
  exact foldl_ctxs (fun s x => by
    split
    · exact hr _ _
    · rfl) s.blocks s

/-- How the contexts stand after one of them has ended goes by the contexts alone. -/
theorem endContext_ctxs (s : State) (ctx st : Nat) (cause : Option (Nat × W64)) : (endContext s ctx st cause).ctxs =
    if (s.ctxs.getD ctx Ctx.live).status ≠ 0 then s.ctxs else s.ctxs.set ctx { s.ctxs.getD ctx Ctx.live with status := st, cause := cause } := by
  unfold endContext
  dsimp only
  split
  · rfl
  · rw [handOver_ctxs]

theorem castGone_frame (s : State) (e : Cast) : castGone s e = { s with ll := (castGone s e).ll, castoffs := s.castoffs.erase e } := manifestUpd_frame _ _ _

theorem castGone_off (h : bit (s.reg llWin).toNat 63 = false) (e : Cast) : castGone s e = { s with castoffs := s.castoffs.erase e } := by
  unfold castGone manifestUpd
  exact if_neg (by rw [show bit (({ s with castoffs := s.castoffs.erase e } : State).reg llWin).toNat 63 = false from h]; simp)

theorem neverReturned_live (hl : s.ll.replay = none) : neverReturned s e = false := by
  unfold neverReturned
  rw [hl]

/-- The word ALLOC of an entry's list, the place of its object's link and the head of the list. -/
def castAlloc (s : State) (e : Cast) : Nat := (s.reg (allocWin e.who.ctx e.k)).toNat
def castLink (s : State) (e : Cast) : Nat := e.obj.toNat + 8 * fld (castAlloc s e) 48 8
def castHead (s : State) (e : Cast) : Nat := fld (castAlloc s e) 3 45 * 8

theorem returnStart_discards (ha : bit (castAlloc s e) 63 = false) : returnStart s e = castGone s e :=
  if_pos (by rw [show bit (s.reg (allocWin e.who.ctx e.k)).toNat 63 = false from ha]; rfl)

variable (ha : bit (castAlloc s e) 63 = true) (hl : s.ll.replay = none)
include ha hl

theorem returnStart_passed {α : Type} (x y : α) : (if !bit (s.reg (allocWin e.who.ctx e.k)).toNat 63 || neverReturned s e then x else y) = y :=
  if_neg (by rw [show bit (s.reg (allocWin e.who.ctx e.k)).toNat 63 = true from ha, neverReturned_live hl]; decide)

theorem returnStart_begins (h1 : localReason false 8 (castLink s e) = none) (h2 : localReason false 8 (castHead s e) = none) :
    returnStart s e = castUpd s e { e with list := some (castLink s e, castHead s e) } := by
  refine (returnStart_passed ha hl _ _).trans (if_neg ?_)
  unfold castLink castHead castAlloc at *
  rw [h1, h2]
  decide

theorem returnStart_ends (h : localReason false 8 (castLink s e) ≠ none ∨ localReason false 8 (castHead s e) ≠ none) :
    returnStart s e = endContext (castGone s e) e.who.ctx stKilled none := by
  refine (returnStart_passed ha hl _ _).trans (if_pos ?_)
  unfold castLink castHead castAlloc at *
  rw [Bool.or_eq_true, Option.isSome_iff_ne_none, Option.isSome_iff_ne_none]
  exact h
end

/-! ### The steps of a return -/

section
variable {e : Cast} {a hd : Nat}

theorem Cast.needs_read (h : e.prog = 0) : e.needs a hd = (hd, 0) := by
  rw [Cast.needs, h]
  rfl

theorem Cast.needs_link (h : e.prog = 1) : e.needs a hd = (a, 1) := by
  rw [Cast.needs, h]
  rfl

theorem Cast.needs_swap (h : 1 < e.prog) : e.needs a hd = (hd, 1) := by
  obtain ⟨k, hk⟩ : ∃ k, e.prog = k + 2 := ⟨e.prog - 2, by omega⟩
  rw [Cast.needs, hk]
  rfl
end

/-- Bytes stored where they stand already change nothing. -/
theorem memGet_memStore_self {m : List Host.Cell} (h : Memory.wf m = true) (p n a : Nat) : memGet (memStore m p (memBytes m p n)) a = memGet m a := by
  have hlen : ∀ n p, (memBytes m p n).length = n := fun n => by
    induction n with
    | zero => exact fun _ => rfl
    | succ n ih => exact fun p => congrArg (· + 1) (ih (p + 1))
  have hget : ∀ n p k, k < n → (memBytes m p n).getD k 0 = memGet m (p + k) := fun n => by
    induction n with
    | zero => exact fun _ k hk => absurd hk (Nat.not_lt_zero k)
    | succ n ih =>
      intro p k hk
      cases k with
      | zero => rfl
      | succ k =>
        rw [memBytes, List.getD_cons_succ, ih (p + 1) k (by omega), Nat.add_assoc, Nat.add_comm 1 k]
  by_cases ha : a < p ∨ p + n ≤ a
  · exact memGet_memStore_outside _ _ _ _ h (by rwa [hlen])
  · obtain ⟨k, rfl⟩ : ∃ k, a = p + k := ⟨a - p, by omega⟩
    rw [memGet_memStore_inside _ _ _ _ h (by rw [hlen]; omega), hget n p k (by omega)]

section
variable {s : State} {e : Cast} {p : Nat} {sys : Bool} (h : Calm s)
include h

theorem returnStep_reads (hp : e.prog = 0) : returnStep s e p sys = castUpd s e { e with prog := 1, head := BitVec.ofNat 64 (memVal s.mem p 8) } := by
  unfold returnStep
  rw [hp]
  dsimp only
  rw [readAt_clean _ _ _ _ h.clean]
  rfl

theorem returnStep_links (hp : e.prog = 1) :
    ∃ v, returnStep s e p sys = castUpd { s with mem := memStore s.mem p (leBytes 8 e.head.toNat), veils := v } e { e with prog := 2 } := by
  obtain ⟨v, hv⟩ := h.modify e.who p (leBytes 8 e.head.toNat).length (fun _ => leBytes 8 e.head.toNat) none
  refine ⟨v, ?_⟩
  unfold returnStep
  rw [hp]
  dsimp only
  rw [State.write, hv]
  rfl

/-- A swap that finds another head writes back what stands there, and the loop begins again. -/
theorem returnStep_again (hp : 1 < e.prog) (hd : memVal s.mem p 8 ≠ e.head.toNat) :
    ∃ v, returnStep s e p sys = castUpd { s with mem := memStore s.mem p (memBytes s.mem p 8), veils := v } e { e with prog := 0 } := by
  obtain ⟨k, hk⟩ : ∃ k, e.prog = k + 2 := ⟨e.prog - 2, by omega⟩
  obtain ⟨v, hv⟩ := h.atomicAt e.who p 8 sys fun b => if leVal b = e.head.toNat then leBytes 8 e.obj.toNat else b
  have hd' : leVal (s.peek p 8) ≠ e.head.toNat := hd
  refine ⟨v, ?_⟩
  unfold returnStep
  rw [hk]
  dsimp only
  rw [readAt_clean _ _ _ _ h.clean]
  dsimp only
  rw [if_neg hd', hv, if_neg hd']
  rfl

theorem returnStep_swaps (hp : 1 < e.prog) (hd : memVal s.mem p 8 = e.head.toNat) :
    ∃ v, returnStep s e p sys = { s with mem := memStore s.mem p (leBytes 8 e.obj.toNat), veils := v, castoffs := s.castoffs.erase e } := by
  obtain ⟨k, hk⟩ : ∃ k, e.prog = k + 2 := ⟨e.prog - 2, by omega⟩
  have hc : Calm { s with castoffs := s.castoffs.erase e } := ⟨h.off, h.live, h.clean, h.still⟩
  obtain ⟨v, hv⟩ := hc.atomicAt e.who p 8 sys fun b => if leVal b = e.head.toNat then leBytes 8 e.obj.toNat else b
  have hd' : leVal (s.peek p 8) = e.head.toNat := hd
  refine ⟨v, ?_⟩
  unfold returnStep
  rw [hk]
  dsimp only
  rw [readAt_clean _ _ _ _ h.clean]
  dsimp only
  rw [if_pos hd', castGone_off h.off, hc.logEvent]
  exact hv.trans (congrArg (fun b => ({ s with mem := memStore s.mem p b, veils := v, castoffs := s.castoffs.erase e } : State)) (if_pos hd'))
end

/-- Settles O45: elements by `performHere_calm`, landings and acknowledgements by `dropFar_frame`, grace periods and returns by the lemmas of their steps. -/
theorem farElementsArePerformedAndCounted : Obligations.FarElementsArePerformedAndCounted := by
  unfold Obligations.FarElementsArePerformedAndCounted
  refine ⟨?_, ?_, ?_, ?_, ?_, ?_⟩
  · intro s o e p sys hw hfl hoff hre ho he hp hr hc hh hs hf hst hx n m quiet op es before back hk hq
    have hcalm : Calm s := ⟨hoff, hre, hfl, hst⟩
    have hes : es = o.same s e := same_eq.symm
    have hin : e ∈ o.same s e := mem_same (List.mem_of_getElem? he) hp
    have hop : op = farStep o.kind o.ty := by
      funext m e
      obtain ⟨hatom, hred⟩ : (∀ k, o.kind = .atom k → k < 8) ∧ ∀ k, o.kind = .red k → k < 3 := ⟨fun k => (hk k).1, fun k => (hk k).2⟩
      dsimp only [op, farStep]
      cases hkind : o.kind with
      | load => rfl
      | store => rfl
      | vatom => rfl
      | atom k =>
        have := hatom k hkind
        interval_cases k <;> rfl
      | red k =>
        have := hred k hkind
        interval_cases k <;> rfl
    obtain ⟨rows, v, hperf⟩ := performHere_calm (by rw [access_kind]; exact hx) hcalm hq (List.ne_nil_of_mem hin)
    refine ⟨performed { s with rows := rows } o e (farBytes s o e p) v (farVals s o e p), ?_, rfl, fun hl => if_pos hl, ?_, fun a ha => farBytes_outside hw ha,
      fun x hst hx => ?_, ?_⟩
    · rw [farAccess_performs ho he hp hr hc hh hs hf, hperf]
    · rw [hop, hes]
      exact farBytes_value hw
    · refine (farBytes_value hw).trans ?_
      rw [hst, foldl_store, ← hes, hx]
      rfl
    · have hback : ∀ x, received (farVals s o e p) x.lane = back x := fun x => by
        dsimp only [back, before]
        rw [farVals_received, hes, hop]
        cases (o.same s e).findIdx? (fun y => y.lane == x.lane) <;> rfl
      have hd : o.done { s with rows := rows } (farVals s o e p) e true = o.done s (farVals s o e p) e true := rfl
      show s.far.map (fun x => if x.id = o.id then o.done { s with rows := rows } (farVals s o e p) e true else x) = _
      rw [hd, done_eq hback]
  · intro s o g n ho hn hg hb he hne hm hp
    obtain ⟨u, hu⟩ := dropFar_group (s := { s with groups := s.groups.set o.group (landedGroup s o g n) }) (id := o.id) (Tab.get?_set_self _ o.group _)
    have hland := farLoadLand_all ho hn hg hb he hne hm
    have hframe := dropFar_frame { s with groups := s.groups.set o.group (landedGroup s o g n) } o.id
    have hgroup := latchGroup_landed (s := s) (o := o) (g := g) (n := n) u
    have hopen : ∀ x ∈ g.opens, x ∈ (latchGroup u (landedGroup s o g n)).opens := fun x hx => by
      rw [latchGroup_opens]
      exact landedGroup_opens hx
    have hvector (hd : o.dest.kind = 0) := Group.loaded_landed (g := g) (t := o.ty) hp hd
    have hscalar (hd : o.dest.kind = 1) (e : El) (hone : o.els = [e]) :
        ScalarWritten g (g.loaded o.ty o.dest (o.els.map fun e => (e.lane, e.val))) o.dest (extS o.ty e.val) := by
      rw [hone, List.map_singleton, Group.loaded_scalar hd]
      exact g.writeS_written o.dest _
    -- The facts above say all that is needed of these three; unfolded, they make the check long.
    generalize dropFar { s with groups := s.groups.set o.group (landedGroup s o g n) } o.id = t at hu hland hframe
    generalize latchGroup u (landedGroup s o g n) = g' at hu hgroup hopen
    generalize g.loaded o.ty o.dest (o.els.map fun e => (e.lane, e.val)) = g1 at hgroup hvector hscalar
    exact ⟨t, g1, g', hland, hframe, hu, hgroup, hopen, hvector, hscalar⟩
  · intro s o g ho hn hg
    refine ⟨fun ha => ?_, storeAck_waits ho⟩
    obtain ⟨u, hu⟩ := dropFar_group (s := { s with groups := s.groups.set o.group { g with stores := g.stores - 1 } }) (id := o.id)
      (Tab.get?_set_self _ o.group _)
    exact ⟨_, _, storeAck_all ho hn hg ha, rfl, hu, latchGroup_frame u _⟩
  · intro s g ids c l hg hw w
    exact ⟨graceElapse_waits hg hw, graceElapse_releases hg hw⟩
  · intro s key g d obj k l ids since hroom hk hg hw hgate
    obtain ⟨ll, regs, copies, he⟩ := dfreeAppend_posts hroom hk hg hw hgate
    exact ⟨_, postedCast key g k obj ids since l, g.writeS d 0, he, rfl, rfl, rfl, rfl, rfl, rfl, rfl, g.writeS_written d 0⟩
  · intro s e c he hs al head link becomes
    refine ⟨castoffReturn_waits he hs, fun hel hl hoff hlive => ?_, fun a hd hel hl hw hclean hstill hoff hlive => ?_⟩
    · rw [castoffReturn_starts he hs hel hl]
      refine ⟨fun ha => ?_, fun ha h1 h2 => ?_, fun ha hbad => ?_⟩
      · rw [returnStart_discards ha, castGone_off hoff]
      · rw [returnStart_begins ha hlive h1 h2]
        rfl
      · refine ⟨_, congrArg _ (returnStart_ends ha hlive hbad), ?_⟩
        rw [endContext_ctxs, endContext_ctxs, castGone_frame]
        rfl
    · have hcalm : Calm s := ⟨hoff, hlive, hclean, hstill⟩
      have hrows : ∀ rows, Calm { s with rows := rows } := fun rows => ⟨hoff, hlive, hclean, hstill⟩
      intro quiet
      refine ⟨fun p hg hp hq => ?_, fun p hg hp hq => ?_, fun p hg hp hne hq => ?_, fun p hg hp heq hq => ?_⟩
      · obtain ⟨rows, sys, hx⟩ := castoffReturn_steps he hs hel hl hcalm (by rw [Cast.needs_read hg]; exact hp) hq
        rw [returnStep_reads (hrows rows) hg] at hx
        exact ⟨_, hx, rfl⟩
      · obtain ⟨rows, sys, hx⟩ := castoffReturn_steps he hs hel hl hcalm (by rw [Cast.needs_link hg]; exact hp) hq
        obtain ⟨v, hv⟩ := returnStep_links (p := p) (sys := sys) (hrows rows) hg
        rw [hv] at hx
        refine ⟨_, hx, rfl, ?_, fun y hy => memGet_memStore_outside _ _ _ _ hw (by rwa [leBytes_length])⟩
        exact (memVal_memStore hw _ _ _).trans (Nat.mod_eq_of_lt e.head.isLt)
      · obtain ⟨rows, sys, hx⟩ := castoffReturn_steps he hs hel hl hcalm (by rw [Cast.needs_swap hg]; exact hp) hq
        obtain ⟨v, hv⟩ := returnStep_again (p := p) (sys := sys) (hrows rows) hg hne
        rw [hv] at hx
        exact ⟨_, hx, rfl, fun y => memGet_memStore_self hw _ _ _⟩
      · obtain ⟨rows, sys, hx⟩ := castoffReturn_steps he hs hel hl hcalm (by rw [Cast.needs_swap hg]; exact hp) hq
        obtain ⟨v, hv⟩ := returnStep_swaps (p := p) (sys := sys) (hrows rows) hg heq
        rw [hv] at hx
        refine ⟨_, hx, rfl, ?_, fun y hy => memGet_memStore_outside _ _ _ _ hw (by rwa [leBytes_length])⟩
        exact (memVal_memStore hw _ _ _).trans (Nat.mod_eq_of_lt e.obj.isLt)

end Sys2Proof.Machine

/-! PROOFS, 11 R186, R188 to R190, R195. Copy words and their tags: what joins the copy engine, what the tag counts, and the ranges and descriptors that are refused. -/

namespace Sys2Proof.Machine
open Sys2Proof Sys2Proof.Claims

/-! ### Parts of a little-endian value (01 R6) -/

theorem leVal_lt (bs : List Byte) : leVal bs < 256 ^ bs.length := by
  induction bs with
  | nil => exact Nat.one_pos
  | cons b r ih =>
    have hb := b.isLt
    rw [leVal, List.length_cons, Nat.pow_succ]
    omega

theorem leVal_append (xs ys : List Byte) : leVal (xs ++ ys) = leVal xs + 256 ^ xs.length * leVal ys := by
  induction xs with
  | nil => rw [List.nil_append, leVal, List.length_nil, Nat.pow_zero, Nat.one_mul, Nat.zero_add]
  | cons b r ih => rw [List.cons_append, leVal, ih, leVal, List.length_cons, Nat.pow_succ', Nat.mul_add, Nat.mul_assoc, Nat.add_assoc]

theorem memBytes_length (m : List Host.Cell) (a n : Nat) : (memBytes m a n).length = n := by
  induction n generalizing a with
  | zero => rfl
  | succ n ih => rw [memBytes, List.length_cons, ih]

/-- Bytes k up to k + j of n bytes are a field of their value. -/
theorem memVal_part (m : List Host.Cell) (a : Nat) {k j n : Nat} (h : k + j ≤ n) : memVal m (a + k) j = fld (memVal m a n) (8 * k) (8 * j) := by
  have split3 : memVal m a n = leVal ((memBytes m a n).take k) + 256 ^ k * (memVal m (a + k) j + 256 ^ j * leVal ((memBytes m a n).drop (k + j))) := by
    have hk : ((memBytes m a n).take k).length = k := by rw [List.length_take, memBytes_length]; omega
    have hj : (memBytes m (a + k) j).length = j := memBytes_length _ _ _
    have hcut := List.take_append_drop j ((memBytes m a n).drop k)
    rw [memBytes_slice _ _ _ _ _ h, List.drop_drop] at hcut
    have hv := leVal_append (memBytes m (a + k) j) ((memBytes m a n).drop (k + j))
    rw [hcut, hj] at hv
    rw [memVal, ← List.take_append_drop k (memBytes m a n), leVal_append, hv, hk, List.take_append_drop]
    rfl
  have hlow : leVal ((memBytes m a n).take k) < 256 ^ k := (leVal_lt _).trans_le (Nat.pow_le_pow_right (by decide) (List.length_take_le _ _))
  have hmid := memVal_lt m (a + k) j
  rw [fld, Nat.pow_mul, Nat.pow_mul, show 2 ^ 8 = 256 from rfl, split3, Nat.add_mul_div_left _ _ (Nat.pow_pos (by decide)), Nat.div_eq_of_lt hlow,
    Nat.zero_add, Nat.add_mul_mod_self_left, Nat.mod_eq_of_lt hmid]

/-- A bit of a byte of a value. -/
theorem bit_part (m : List Host.Cell) (a : Nat) {k n i : Nat} (h : k + 1 ≤ n) (hi : i < 8) : bit (memVal m a n) (8 * k + i) = bit (memVal m (a + k) 1) i := by
  rw [memVal_part m a h, fld, bit_mod _ hi, bit_eq_testBit, bit_eq_testBit, Nat.testBit_div_two_pow, Nat.add_comm]

/-! ### The tag a copy takes (11 R185, R186) -/

/-- The key of a tag of a block's window on one of its tiles. -/
def tagKey (b : Block) (tix tag : Nat) : Nat := b.tiles.getD tix 0 * 64 + b.tagBases.getD tix 0 + tag

/-- The copy command that joins the engine. -/
def queuedCopy (s : State) (g : Group) (m : Mask) (kind : CopyKind) (tag : Nat) (c : CopyArgs) : Copy :=
  { id := s.seq, gid := g.gid, who := whoOf s g m, tile := tileOf s.cur, block := g.env.block, tix := tixOf s g, kind := kind,
    tag := g.tagNo tag, src := c.src, dst := c.dst, rowBytes := c.rowBytes, rows := c.rows, sstride := c.sstride, dstride := c.dstride,
    widen := c.widen, bar := c.bar, unit := 256, holds := g.holds.filter (fun i => (farIds s s.cur).contains i), done := [],
    bytes := 0, routes := [], sends := [], desc := 0, rstride := 0, gen := 0, space := false, own := none, marks := [], got := [] }

section
variable {s : State} {g : Group} {b : Block} {m : Mask} {kind : CopyKind} {tag : Nat} {c : CopyArgs}

/-- A tag of a resident block changes in its place. -/
theorem tagUpd_resident {bid tix : Nat} (hb : s.blocks.get? bid = some b) (ho : b.out = false) (f : Tag → Tag) :
    tagUpd s bid tix tag f = { s with tags := s.tags.set (tagKey b tix tag) (f (s.tags.getD (tagKey b tix tag) Tag.fresh)) } := by
  unfold tagUpd
  rw [hb]
  dsimp only
  rw [ho]
  rfl

variable (hb : s.blocks.get? g.env.block = some b) (ho : b.out = false) (hp : enginePlaces s (tileOf s.cur) < Config.copyPlaces)
include hb ho hp

theorem startCopy_queues (hn : destBytes c.rowBytes c.rows c.dstride c.widen ≠ 0) :
    let key := tagKey b (tixOf s g) (g.tagNo tag)
    startCopy s g m kind tag c = .ok { s with
      tags := s.tags.set key (s.tags.getD key Tag.fresh).take
      copies := s.copies ++ [queuedCopy s g m kind tag c]
      seq := s.seq + 1 } := by
  unfold startCopy startCopyAs
  rw [if_neg (Nat.not_le.mpr hp)]
  dsimp only
  rw [if_neg hn, tagUpd_resident hb ho]
  rfl

theorem startCopy_empty (hn : destBytes c.rowBytes c.rows c.dstride c.widen = 0) :
    let key := tagKey b (tixOf s g) (g.tagNo tag)
    let taken := (s.tags.getD key Tag.fresh).take
    startCopy s g m kind tag c = .ok { s with tags := (s.tags.set key taken).set key taken.drop } := by
  unfold startCopy startCopyAs
  rw [if_neg (Nat.not_le.mpr hp)]
  dsimp only
  rw [if_pos hn, tagUpd_resident hb ho]
  refine congrArg Res.ok ((tagUpd_resident (b := b) ?_ ho Tag.drop).trans ?_)
  · exact hb
  · dsimp only
    rw [Tab.getD_set_self]
end

/-- Taken and dropped, a tag counts what it did, and is ready where that is nothing. -/
theorem Tag.drop_take (x : Tag) : x.take.drop = { x.take with count := x.count, ready := x.count = 0 } := by
  simp [Tag.take, Tag.drop]

/-! ### The words (11 R188, R189) -/

/-- A fill has no source. -/
def CopyKind.fills : CopyKind → Bool
  | .fill _ => true
  | _ => false

section
variable {i : Instr} {s : State} {g : Group} {m : Mask} {w : EN} {kind : CopyKind} {c : CopyArgs} {bd : State → Group → Mask → Res}

theorem copyWord_eq : copyWord s g m w kind c =
    match copyCheck kind.fills c with | some (r, a) => .trap s tAddr (addrDetail false 0 r a) | none => startCopy s g m kind w.tag.toNat c := by
  cases kind <;> rfl

theorem copyWord_passed (hc : copyCheck kind.fills c = none) : copyWord s g m w kind c = startCopy s g m kind w.tag.toNat c := by
  rw [copyWord_eq, hc]

theorem copyWord_refused {r a : Nat} (hc : copyCheck kind.fills c = some (r, a)) : copyWord s g m w kind c = .trap s tAddr (addrDetail false 0 r a) := by
  rw [copyWord_eq, hc]

/-- What a copy word with the operands c does: it is queued with its tag taken, or completes at once, or traps. -/
structure CopyAccepted (i : Instr) (s : State) (g : Group) (b : Block) (w : EN) (kind : CopyKind) (c : CopyArgs) : Prop where
  queues : copyCheck kind.fills c = none → enginePlaces s (tileOf s.cur) < Config.copyPlaces → destBytes c.rowBytes c.rows c.dstride c.widen ≠ 0 →
    let key := tagKey b (tixOf s g) (g.tagNo w.tag.toNat)
    exec i s = .next (timed i s g { s with
      tags := s.tags.set key (s.tags.getD key Tag.fresh).take
      copies := s.copies ++ [queuedCopy s g (lanesFor i g) kind w.tag.toNat c]
      seq := s.seq + 1 })
  empty : copyCheck kind.fills c = none → enginePlaces s (tileOf s.cur) < Config.copyPlaces → destBytes c.rowBytes c.rows c.dstride c.widen = 0 →
    let key := tagKey b (tixOf s g) (g.tagNo w.tag.toNat)
    let x := s.tags.getD key Tag.fresh
    exec i s = .next (timed i s g { s with tags := (s.tags.set key x.take).set key { x.take with count := x.count, ready := x.count = 0 } })
  traps : ∀ r a, copyCheck kind.fills c = some (r, a) → exec i s = .next (takeTrap (timed i s g s) g tAddr (addrDetail false 0 r a) (lanesFor i g))

theorem copyAccepted_of {b : Block} (hb : s.blocks.get? g.env.block = some b) (ho : b.out = false) (h : Issues i s g)
    (he : exec i s = runWord i s nothing bd) (hw : bd s g (lanesFor i g) = copyWord s g (lanesFor i g) w kind c) : CopyAccepted i s g b w kind c where
  queues hc hp hn := by rw [he]; exact runWord_ok i s _ g _ _ h (by rw [hw, copyWord_passed hc, startCopy_queues hb ho hp hn])
  empty hc hp hn := by rw [he]; exact runWord_ok i s _ g _ _ h (by rw [hw, copyWord_passed hc, startCopy_empty hb ho hp hn, Tag.drop_take])
  traps r a hc := by rw [he]; exact nearWord_trap h (by rw [hw, copyWord_refused hc])
end

/-! ### The descriptor of `cpd` (11 R189, Table 2) -/

section
variable {s : State} {g : Group} {w : EN} {who : Who} {a : Nat}

theorem nearDesc_clean (h : a < 0x7F0000) (ha : a % 64 = 0) (hc : Clean s (slicePlace who.tile a) 64) :
    nearDesc s who a = .ok (s, some (memVal s.mem (slicePlace who.tile a) 64)) := by
  unfold nearDesc
  rw [localReason_slice h ha]
  dsimp only
  rw [readAt_of_clean hc]
  rfl

theorem nearDesc_refused {r : Nat} (h : localReason true 64 a = some r) : nearDesc s who a = .error (r, a) := by
  unfold nearDesc
  rw [h]

/-- An address in the local space that is misaligned, or aligned and beyond the near window (09 R157). -/
theorem localReason_nearRefused {n r : Nat} (h : a < 2 ^ 48) (hr : (a % n ≠ 0 ∧ r = 9) ∨ (a % n = 0 ∧ 0x7F0000 ≤ a ∧ r = 10)) :
    localReason true n a = some r := by
  rcases hr with ⟨hn, rfl⟩ | ⟨hn, hb, rfl⟩
  · exact localReason_misaligned h hn
  · rw [localReason_near h hn, if_pos hb]

/-- The fields of a descriptor stand at their bytes. -/
theorem copyDesc_memVal (m : List Host.Cell) (p : Nat) : copyDesc (memVal m p 64) =
    ⟨memVal m (p + 8) 8, memVal m p 8, memVal m (p + 16) 4, memVal m (p + 20) 2, memVal m (p + 24) 4, memVal m (p + 28) 4, bit (memVal m (p + 22) 1) 0,
      if bit (memVal m (p + 22) 1) 1 then some (memVal m (p + 32) 8) else none⟩ := by
  have h0 := memVal_part m p (show 0 + 8 ≤ 64 by decide)
  rw [Nat.add_zero] at h0
  rw [copyDesc, h0, memVal_part m p (show 8 + 8 ≤ 64 by decide), memVal_part m p (show 16 + 4 ≤ 64 by decide), memVal_part m p (show 20 + 2 ≤ 64 by decide),
    memVal_part m p (show 24 + 4 ≤ 64 by decide), memVal_part m p (show 28 + 4 ≤ 64 by decide), memVal_part m p (show 32 + 8 ≤ 64 by decide),
    ← bit_part m p (show 22 + 1 ≤ 64 by decide) (show 0 < 8 by decide), ← bit_part m p (show 22 + 1 ≤ 64 by decide) (show 1 < 8 by decide)]
end

section
variable {s : State} {g : Group} {w : EN} {b : Block} (hb : s.blocks.get? g.env.block = some b) (ho : b.out = false)
include hb ho

theorem cp_accepted (h : Issues (.cp w) s g) : CopyAccepted (.cp w) s g b w .copy
    ⟨scalarVal s g w.a, scalarVal s g w.d, lengthOf s g w, 1, 0, 0, bit w.param.toNat 16, none⟩ :=
  copyAccepted_of hb ho h (rfl : _ = execCp w s) rfl

theorem cpfill_accepted (h : Issues (.cpfill w) s g) : CopyAccepted (.cpfill w) s g b w (.fill (BitVec.ofNat 64 (scalarVal s g w.a)))
    ⟨0, scalarVal s g w.d, lengthOf s g w, 1, 0, 0, false, none⟩ :=
  copyAccepted_of hb ho h (rfl : _ = execCpfill w s) rfl

theorem cpd_accepted (h : Issues (.cpd w) s g) (hlt : scalarVal s g w.a < 0x7F0000) (h64 : scalarVal s g w.a % 64 = 0)
    (hc : Clean s (slicePlace (tileOf s.cur) (scalarVal s g w.a)) 64) :
    CopyAccepted (.cpd w) s g b w .copy (copyDesc (memVal s.mem (slicePlace (tileOf s.cur) (scalarVal s g w.a)) 64)) := by
  refine copyAccepted_of hb ho h (rfl : _ = execCpd w s) ?_
  rw [nearDesc_clean (who := whoOf s g (lanesFor (.cpd w) g)) hlt h64 hc]
  dsimp only
  rw [group?_getD h.cur]
  rfl
end

theorem cpd_refused {s : State} {g : Group} {w : EN} {r : Nat} (h : Issues (.cpd w) s g) (hr : localReason true 64 (scalarVal s g w.a) = some r) : exec (.cpd w) s =
    .next (takeTrap (timed (.cpd w) s g s) g tAddr (addrDetail false 0 r (scalarVal s g w.a)) (lanesFor (.cpd w) g)) := by
  show execCpd w s = _
  refine nearWord_trap h ?_
  rw [nearDesc_refused hr]

/-! ### `tagclr` (11 R195) -/

/-- The tags with READY of tag t of a window cleared, where the mask holds t and the tag counts nothing. -/
def clearTag (mask base : Nat) (ts : Tab Tag) (t : Nat) : Tab Tag :=
  if bit mask t then
    (if (ts.getD (base + t) Tag.fresh).count = 0 then ts.set (base + t) { (ts.getD (base + t) Tag.fresh) with ready := false } else ts)
  else ts

theorem clearTag_getD (mask base : Nat) (ts : Tab Tag) (t k : Nat) : (clearTag mask base ts t).getD k Tag.fresh =
    if k = base + t ∧ bit mask t = true ∧ (ts.getD k Tag.fresh).count = 0 then { (ts.getD k Tag.fresh) with ready := false } else ts.getD k Tag.fresh := by
  unfold clearTag
  by_cases hb : bit mask t = true
  · rw [if_pos hb]
    by_cases hc : (ts.getD (base + t) Tag.fresh).count = 0
    · rw [if_pos hc]
      by_cases hk : k = base + t
      · rw [hk, Tab.getD_set_self, if_pos ⟨rfl, hb, hc⟩]
      · rw [Tab.getD_set_ne _ _ _ _ _ hk, if_neg fun h => hk h.1]
    · rw [if_neg hc, if_neg]
      rintro ⟨rfl, -, h⟩
      exact hc h
  · rw [if_neg hb, if_neg fun h => hb h.2.1]

/-- The tags 0 to n - 1 of a window, one after the other. -/
theorem clearTags_getD (mask base n : Nat) (ts : Tab Tag) (k : Nat) : ((List.range n).foldl (clearTag mask base) ts).getD k Tag.fresh =
    if base ≤ k ∧ k - base < n ∧ bit mask (k - base) = true ∧ (ts.getD k Tag.fresh).count = 0
    then { (ts.getD k Tag.fresh) with ready := false } else ts.getD k Tag.fresh := by
  induction n with
  | zero => rw [if_neg fun h => by omega]; rfl
  | succ n ih =>
    rw [List.range_succ, List.foldl_append, List.foldl_cons, List.foldl_nil, clearTag_getD]
    by_cases hk : k = base + n
    · have hold : ((List.range n).foldl (clearTag mask base) ts).getD k Tag.fresh = ts.getD k Tag.fresh := by
        rw [ih, if_neg fun h => absurd h.2.1 (by omega)]
      rw [hold, hk, Nat.add_sub_cancel_left]
      exact if_congr ⟨fun h => ⟨Nat.le_add_right .., Nat.lt_succ_self n, h.2⟩, fun h => ⟨rfl, h.2.2⟩⟩ rfl rfl
    · rw [if_neg fun h => hk h.1, ih]
      refine if_congr (and_congr_right fun hle => and_congr_left fun _ => ?_) rfl rfl
      omega

/-- The same in a state, whose tags alone change. -/
def clearTagIn (mask base : Nat) (s : State) (t : Nat) : State := { s with tags := clearTag mask (tileOf s.cur * 64 + base) s.tags t }

theorem foldl_clearTagIn (mask base : Nat) (ts : List Nat) (s : State) :
    ts.foldl (clearTagIn mask base) s = { s with tags := ts.foldl (clearTag mask (tileOf s.cur * 64 + base)) s.tags } := by
  induction ts generalizing s with
  | nil => rfl
  | cons t r ih => rw [List.foldl_cons, ih]; rfl

theorem exec_tagclr {w : EN} {s : State} {g : Group} (h : Issues (.tagclr w) s g) : exec (.tagclr w) s = .next (timed (.tagclr w) s g
    { s with tags := (List.range g.env.tagSpan).foldl (clearTag (g.tagMask (scalarVal s g w.a)) (tileOf s.cur * 64 + g.env.tagBase)) s.tags }) := by
  show execTagclr w s = _
  refine runWord_ok _ s _ g _ _ h (congrArg Res.ok ?_)
  refine (List.foldl_ext _ (clearTagIn (g.tagMask (scalarVal s g w.a)) g.env.tagBase) s fun u t _ => ?_).trans (foldl_clearTagIn _ _ _ s)
  unfold clearTagIn clearTag
  split
  · dsimp only
    split <;> rfl
  · rfl

/-- Settles O25: `copyAccepted_of` for the copies, with the operands of each word, and `clearTags_getD` for `tagclr`. -/
theorem copyWordsTakeTheirTagAndTagsClear : Obligations.CopyWordsTakeTheirTagAndTagsClear := by
  unfold Obligations.CopyWordsTakeTheirTagAndTagsClear
  refine ⟨fun w s g b hb ho => ?_, fun w s g h => ?_⟩
  · intro tag key x taken len p accepted
    have haccepted : ∀ i kind c, CopyAccepted i s g b w kind c → (kind.fills = match kind with | .fill _ => true | _ => false) → accepted i kind c := by
      intro i kind c h hf
      refine ⟨fun hc hp => ⟨fun hn => ⟨_, rfl, rfl, rfl, rfl, rfl, rfl, rfl, rfl, rfl, rfl, rfl, rfl, rfl, rfl, rfl, rfl, h.queues (hf ▸ hc) hp hn⟩,
        h.empty (hf ▸ hc) hp⟩, fun r a hc => h.traps r a (hf ▸ hc)⟩
    refine ⟨fun h => haccepted _ _ _ (cp_accepted hb ho h) rfl, fun h => haccepted _ _ _ (cpfill_accepted hb ho h) rfl,
      fun h hlt h64 hc => ?_, fun r h hlt hr => cpd_refused h (localReason_nearRefused hlt hr)⟩
    rw [← copyDesc_memVal]
    exact haccepted _ _ _ (cpd_accepted hb ho h hlt h64 hc) rfl
  · refine ⟨_, exec_tagclr h, rfl, fun k => ?_⟩
    dsimp only
    rw [clearTags_getD]
    refine if_congr (and_congr_right fun _ => and_congr_right fun hlt => ?_) rfl rfl
    rw [bit_tagMask, decide_eq_true hlt, Bool.true_and]

end Sys2Proof.Machine

/-! PROOFS, 11 R199 to R202. Skeins: the entry a push writes, the entry a pop takes, and the order in which those that blocked are served. -/

namespace Sys2Proof.Machine
open Sys2Proof Sys2Proof.Claims

/-! ### The bytes of an entry (11 R199) -/

/-- Of parts of one length laid one after another, the one at its place. -/
theorem take_drop_flatMap {α β : Type} {f : α → List β} {c : Nat} (hc : ∀ x, (f x).length = c) (xs : List α) {l : Nat} (hl : l < xs.length) :
    ((xs.flatMap f).drop (c * l)).take c = f xs[l] := by
  induction xs generalizing l with
  | nil => exact absurd hl (Nat.not_lt_zero l)
  | cons x r ih =>
    rw [List.flatMap_cons]
    cases l with
    | zero => rw [Nat.mul_zero, List.drop_zero, List.take_left' (hc x)]; rfl
    | succ l =>
      rw [Nat.mul_succ, Nat.add_comm, ← List.drop_drop, List.drop_left' (hc x)]
      exact ih (Nat.lt_of_succ_lt_succ hl)

section
variable {g : Group} {a : Opnd} {v : W64} {n : Nat}

theorem entryBytes_scalar (h : ∀ r, a ≠ .v r) : entryBytes g a v n = leBytes n v.toNat := by
  cases a with
  | v r => exact absurd rfl (h r)
  | _ => rfl

theorem entryBytes_vector_length (r : BitVec 10) : (entryBytes g (.v r) v n).length = n / 4 * 4 := by
  simp [entryBytes, List.length_flatMap, leBytes_length]

theorem entryBytes_length_le : (entryBytes g a v n).length ≤ n := by
  cases a with
  | v r => rw [entryBytes_vector_length]; omega
  | _ => exact (leBytes_length n _).le

theorem entryBytes_length (h : n % 8 = 0) : (entryBytes g a v n).length = n := by
  cases a with
  | v r => rw [entryBytes_vector_length]; omega
  | _ => exact leBytes_length n _
end

/-! ### A reservation (11 R199) -/

/-- The skein with its next entry reserved. -/
def Skein.reserves (q : Skein) (ids : List Nat) : Skein :=
  { q with allowance := q.allowance - 1, reserved := q.reserved + 1, live := q.live ++ [⟨q.reserved, ids, false⟩] }

/-- Where the next entry of a skein goes. -/
def State.nextSlot (s : State) (k : Nat) : Nat := (s.skein k).slotPlace k (s.skein k).reserved

section
variable {s : State} {g : Group} {k : Nat} {a : Opnd} {v : W64} {ids : List Nat}

/-- A reservation changes its skein, the bytes of the entry and the errors they cover, and nothing else. -/
theorem reserve_frame : reserve s g k a v ids = { s with
    mem := (reserve s g k a v ids).mem, flaws := (reserve s g k a v ids).flaws, skeins := s.skeins.set k ((s.skein k).reserves ids) } := rfl

theorem reserve_mem : (reserve s g k a v ids).mem = memStore s.mem (s.nextSlot k) (entryBytes g a v (s.skein k).bytes) := rfl

theorem mem_reserve_flaws {f : Flaw} (h : f ∈ (reserve s g k a v ids).flaws) : f ∈ s.flaws := (List.mem_filter.mp h).1

theorem reserve_flaws (h : (s.skein k).bytes % 8 = 0) (f : Flaw) : f ∈ (reserve s g k a v ids).flaws ↔ f ∈ s.flaws ∧
    ¬ (f.inRange (s.nextSlot k) (s.skein k).bytes = true ∧ s.nextSlot k ≤ f.place ∧ f.place + granuleSize f.place ≤ s.nextSlot k + (s.skein k).bytes) := by
  refine List.mem_filter.trans (and_congr_right fun _ => ?_)
  rw [entryBytes_length h, Bool.not_eq_true', ← Bool.not_eq_true, Bool.and_eq_true, Bool.and_eq_true, decide_eq_true_eq, decide_eq_true_eq, and_assoc]
  rfl

variable (hw : Memory.wf s.mem = true)
include hw

theorem reserve_outside {c : Nat} (hc : c < s.nextSlot k ∨ s.nextSlot k + (s.skein k).bytes ≤ c) :
    memGet (reserve s g k a v ids).mem c = memGet s.mem c := by
  have hle := entryBytes_length_le (g := g) (a := a) (v := v) (n := (s.skein k).bytes)
  rw [reserve_mem]
  exact memGet_memStore_outside _ _ _ _ hw (by omega)

theorem reserve_lane {r : BitVec 10} {l : Nat} (hl : 4 * l + 4 ≤ (s.skein k).bytes) :
    memVal (reserve s g k (.v r) v ids).mem (s.nextSlot k + 4 * l) 4 = (g.vreg r.toNat l).toNat := by
  have hlen := entryBytes_vector_length (g := g) (v := v) (n := (s.skein k).bytes) r
  have hpart : ((entryBytes g (.v r) v (s.skein k).bytes).drop (4 * l)).take 4 = leBytes 4 (g.vreg r.toNat l).toNat := by
    have hin : l < (List.range ((s.skein k).bytes / 4)).length := by rw [List.length_range]; omega
    have h := take_drop_flatMap (f := fun i => leBytes 4 (g.vreg r.toNat i).toNat) (fun _ => leBytes_length 4 _) _ hin
    rwa [List.getElem_range] at h
  rw [memVal, reserve_mem, ← memBytes_slice _ _ _ _ (entryBytes g (.v r) v (s.skein k).bytes).length (by omega), memBytes_memStore_same _ _ _ hw, hpart,
    leVal_leBytes]
  exact Nat.mod_eq_of_lt (g.vreg r.toNat l).isLt

theorem reserve_scalar (ha : ∀ r, a ≠ .v r) : memVal (reserve s g k a v ids).mem (s.nextSlot k) (s.skein k).bytes = v.toNat % 256 ^ (s.skein k).bytes := by
  rw [reserve_mem, entryBytes_scalar ha, memVal_memStore hw]
end

theorem inFlight_some {s : State} {ids : List Nat} (h : ∃ o ∈ s.far, o.id ∈ ids) : inFlight s ids = true := by
  obtain ⟨o, ho, hin⟩ := h
  exact Bool.eq_true_of_not_eq_false fun h0 => idle_iff ids |>.mpr h0 o ho hin

/-! ### `qpush` (11 R199, R201) -/

section
variable {s : State} {g : Group} {w : EN}

/-- The key of a skein names its tile. -/
theorem skeinKey_tile (s : State) (w : EN) : skeinKey s w / 32 = tileOf s.cur := by
  have := w.index.isLt
  unfold skeinKey
  omega

theorem qpush_reserves (h : Issues (.qpush w) s g) (ha : (s.skein (skeinKey s w)).allowance ≠ 0) (hp : pushWaiters s (skeinKey s w) = []) :
    let k := skeinKey s w
    let ids := relIds s w.scope.toNat
    let v := BitVec.ofNat 64 (scalarVal s g w.a)
    let r := reserve s g k w.a v ids
    (inFlight s ids = false → exec (.qpush w) s = .next (timed (.qpush w) s g r)) ∧
    (inFlight s ids = true → exec (.qpush w) s = .next (timed (.qpush w) s g (r.block g (.qpush k w.a v (some (s.skein k).reserved) ids)))) := by
  have hgo : ¬ ((s.skein (skeinKey s w)).allowance = 0 ∨ (!(pushWaiters s (skeinKey s w)).isEmpty) = true) := by
    rw [hp]
    exact fun h => h.elim ha Bool.false_ne_true
  refine ⟨fun hi => ?_, fun hi => ?_⟩
  all_goals
    show execQpush w s = _
    refine runWord_ok _ s _ g _ _ h ?_
    dsimp only
    rw [if_neg hgo, hi]
    rfl

theorem qpush_dry (h : Issues (.qpush w) s g) (ha : (s.skein (skeinKey s w)).allowance = 0) : exec (.qpush w) s = .next (timed (.qpush w) s g
    (s.block g (.qpush (skeinKey s w) w.a (BitVec.ofNat 64 (scalarVal s g w.a)) none (relIds s w.scope.toNat)))) := by
  show execQpush w s = _
  refine runWord_ok _ s _ g _ _ h ?_
  dsimp only
  rw [if_pos (.inl ha)]
end

/-! ### The take of an entry (11 R200) -/

section
variable {s : State} {g : Group} {key k : Nat} {who : Who} {d : Opnd} {m : Mask} {e : SkEntry} {r : List SkEntry}

theorem logEvent_skeins (who : Who) (n o x : Nat) : (logEvent s who n o x).skeins = s.skeins := by rw [logEvent_frame]

theorem logEvent_groups (who : Who) (n o x : Nat) : (logEvent s who n o x).groups = s.groups := by rw [logEvent_frame]

theorem takeEntry_clean (hl : (s.skein k).live = e :: r) (hc : Clean s ((s.skein k).slotPlace k e.j) (s.skein k).bytes) :
    takeEntry s key g who k d m e = { (logEvent s who 3 k e.j) with
      skeins := s.skeins.set k { s.skein k with taken := (s.skein k).taken + 1, live := r, rises := (s.skein k).rises + 1 }
      groups := s.groups.set key
        { (g.released s.clock) with pops := g.pops ++ [⟨d, m, memBytes s.mem ((s.skein k).slotPlace k e.j) (s.skein k).bytes⟩] } } := by
  unfold takeEntry
  dsimp only
  rw [readAt_of_clean hc]
  dsimp only [State.setSkein]
  rw [hl, logEvent_skeins, logEvent_groups]
  rfl

theorem oldest_poppable {q : Skein} (hl : q.live = e :: r) (he : e.poppable = true) : oldest q = some e := by
  unfold oldest
  rw [hl]
  exact if_pos he

theorem oldest_none {q : Skein} (h : ∀ e ∈ q.live.head?, e.poppable = false) : oldest q = none := by
  unfold oldest
  cases hl : q.live with
  | nil => rfl
  | cons e r =>
    rw [hl] at h
    exact if_neg (Bool.eq_false_iff.mp (h e rfl))
end

/-! ### `qpop` (11 R200, R201) -/

section
variable {s : State} {g : Group} {w : EN}

theorem qpop_takes {e : SkEntry} {r : List SkEntry} (h : Issues (.qpop w) s g) (hl : (s.skein (skeinKey s w)).live = e :: r) (he : e.poppable = true)
    (hp : popWaiters s (skeinKey s w) = []) (hg : gate s (whoOf s g (lanesFor (.qpop w) g)) 3 (skeinKey s w) = .free) : exec (.qpop w) s =
      .next (timed (.qpop w) s g (takeEntry s s.cur g (whoOf s g (lanesFor (.qpop w) g)) (skeinKey s w) w.d (lanesFor (.qpop w) g) e)) := by
  show execQpop w s = _
  refine runWord_ok _ s _ g _ _ h ?_
  dsimp only
  rw [hp, oldest_poppable hl he]
  dsimp only [List.isEmpty_nil]
  rw [if_pos rfl]
  dsimp only
  rw [hg]

theorem qpop_blocks (h : Issues (.qpop w) s g) (hn : ∀ e ∈ (s.skein (skeinKey s w)).live.head?, e.poppable = false) :
    exec (.qpop w) s = .next (timed (.qpop w) s g (s.block g (.qpop (skeinKey s w) w.d (lanesFor (.qpop w) g)))) := by
  show execQpop w s = _
  refine runWord_ok _ s _ g _ _ h ?_
  dsimp only
  rw [oldest_none hn, ite_self]
end

/-! ### The data of a pop (11 R200) -/

section
variable {g : Group} {d : Opnd} {m : Mask} {bs : List Byte}

theorem popped_vector (hd : d.kind = 0) :
    VectorWritten g (g.popped d m bs) .n32 d (m &&& maskOf (fun l => decide (l < bs.length / 4))) (fun l => leVal ((bs.drop (4 * l)).take 4)) := by
  cases d with
  | v r => exact g.writeV_written .n32 (.v r) _ (fun l => leVal ((bs.drop (4 * l)).take 4))
  | s n => cases hd
  | p n => cases hd
  | imm n => cases hd

theorem popped_scalar (hd : d.kind = 1) : ScalarWritten g (g.popped d m bs) d (leVal (bs.take 8)) := by
  cases d with
  | s n => exact g.writeS_written (.s n) (leVal (bs.take 8))
  | v r => cases hd
  | p n => cases hd
  | imm n => cases hd
end

theorem Opnd.exists_v {a : Opnd} (h : a.kind = 0) : ∃ r, a = .v r := by
  cases a with
  | v r => exact ⟨r, rfl⟩
  | s n => cases h
  | p n => cases h
  | imm n => cases h

/-- Settles O27: `qpush_reserves`, `qpush_dry`, `qpop_takes` and `qpop_blocks`, with what a reservation writes and a take leaves. -/
theorem qpushWritesAnEntryAndQpopTakesTheOldest : Obligations.QpushWritesAnEntryAndQpopTakesTheOldest := by
  unfold Obligations.QpushWritesAnEntryAndQpopTakesTheOldest
  refine ⟨fun w s g hw => ?_, fun w s g => ?_, fun s g d m bs r hg hp => ?_⟩
  · intro k q ids p v q'
    have hslot : s.nextSlot k = p := by
      show slicePlace (skeinKey s w / 32) _ = _
      rw [skeinKey_tile]
    refine ⟨fun h ha hpush h8 => ?_, qpush_dry, fun h => writesScalar_of _ s g w.d q.base _ h (rfl : _ = execQbase w s) rfl⟩
    obtain ⟨hgo, hwait⟩ := qpush_reserves h ha hpush
    refine ⟨(reserve s g k w.a v ids).mem, (reserve s g k w.a v ids).flaws, fun f => mem_reserve_flaws, fun a hout => ?_, fun hk l hl => ?_, fun hk => ?_,
      fun hi => (hgo (inFlight_none hi)).trans (congrArg (fun t => Host.Outcome.next (timed (.qpush w) s g t)) reserve_frame), fun hi => ⟨_, hwait (inFlight_some hi), rfl, rfl, rfl⟩⟩
    · exact reserve_outside hw (hslot ▸ hout)
    · obtain ⟨r, hr⟩ := Opnd.exists_v hk
      rw [← hslot, hr]
      exact reserve_lane hw (show 4 * l + 4 ≤ q.bytes by omega)
    · rw [← hslot]
      exact reserve_scalar hw fun r hr => hk (by rw [hr]; rfl)
  · intro k q m blocked
    refine ⟨fun e r h hl he hpop hg => ?_, qpop_blocks⟩
    intro p hc
    have hslot : (s.skein k).slotPlace k e.j = p := by
      show slicePlace (skeinKey s w / 32) _ = _
      rw [skeinKey_tile]
    clear_value p
    subst hslot
    exact (qpop_takes h hl he hpop hg).trans (congrArg (fun t => Host.Outcome.next (timed (.qpop w) s g t)) (takeEntry_clean hl hc))
  · refine ⟨g.popped d m bs, ?_, popped_vector, popped_scalar⟩
    show execQpopData s = _
    unfold execQpopData
    rw [hg]
    dsimp only
    rw [hp]

/-! ### The steps of a skein (11 R199 to R201) -/

section
variable {s : State} {key : Nat} {g : Group}

theorem skeinReserve_dry {k : Nat} {a : Opnd} {v : W64} {ids : List Nat} (he : earliest (pushWaiters s s.inp.a) = some key) (hg : s.groups.get? key = some g)
    (hw : g.wait = some (.qpush k a v none ids)) (ha : (s.skein k).allowance = 0) : exec .skeinReserve s = .next s := by
  show execSkeinReserve s = _
  unfold execSkeinReserve
  rw [he]
  dsimp only
  rw [hg]
  dsimp only
  rw [hw]
  dsimp only
  rw [if_pos ha]

theorem skeinReserve_reserves {k : Nat} {a : Opnd} {v : W64} {ids : List Nat} (he : earliest (pushWaiters s s.inp.a) = some key)
    (hg : s.groups.get? key = some g) (hw : g.wait = some (.qpush k a v none ids)) (ha : (s.skein k).allowance ≠ 0) : exec .skeinReserve s =
      .next { reserve s g k a v ids with groups := s.groups.set key { g with wait := some (.qpush k a v (some (s.skein k).reserved) ids) } } := by
  show execSkeinReserve s = _
  unfold execSkeinReserve
  rw [he]
  dsimp only
  rw [hg]
  dsimp only
  rw [hw]
  dsimp only
  rw [if_neg ha]
  rfl

/-- The entries before the first that cannot be popped stand; that one becomes poppable once its release condition holds. -/
theorem ripen_first {pre r : List SkEntry} {e : SkEntry} (hpre : ∀ x ∈ pre, x.poppable = true) (he : e.poppable = false) :
    ripen s (pre ++ e :: r) = pre ++ (if inFlight s e.ids then e else { e with poppable := true }) :: r := by
  induction pre with
  | nil =>
    rw [List.nil_append, ripen, he, if_neg Bool.false_ne_true]
    split <;> rfl
  | cons x xs ih => rw [List.cons_append, ripen, if_pos (hpre x List.mem_cons_self), ih fun y hy => hpre y (List.mem_cons_of_mem _ hy)]; rfl

theorem entryPoppable_ripens {q : Skein} (hq : s.skeins.get? s.inp.a = some q) :
    exec .entryPoppable s = .next { s with skeins := s.skeins.set s.inp.a { q with live := ripen s q.live } } := by
  show execEntryPoppable s = _
  unfold execEntryPoppable
  rw [hq]
  rfl

theorem skeinTake_takes {d : Opnd} {m : Mask} {e : SkEntry} {r : List SkEntry} (he : earliest (popWaiters s s.inp.a) = some key)
    (hg : s.groups.get? key = some g) (hw : g.wait = some (.qpop s.inp.a d m)) (hl : (s.skein s.inp.a).live = e :: r) (hp : e.poppable = true)
    (hf : gate s (whoWait key g m) 3 s.inp.a = .free) : exec .skeinTake s = .next (takeEntry s key g (whoWait key g m) s.inp.a d m e) := by
  show execSkeinTake s = _
  unfold execSkeinTake
  rw [he, oldest_poppable hl hp]
  dsimp only
  rw [hg]
  dsimp only
  rw [hw]
  dsimp only
  rw [hf]

theorem allowanceRise_rises {q : Skein} (hq : s.skeins.get? s.inp.a = some q) (hr : q.rises ≠ 0) :
    exec .allowanceRise s = .next { s with skeins := s.skeins.set s.inp.a { q with allowance := q.allowance + 1, rises := q.rises - 1 } } := by
  show execAllowanceRise s = _
  unfold execAllowanceRise
  rw [hq]
  dsimp only
  rw [if_neg hr]
  rfl
end

/-- Settles O28: one lemma for each step, `ripen_first` for the order of the entries. -/
theorem skeinStepsFollowTheOrderOfBlocking : Obligations.SkeinStepsFollowTheOrderOfBlocking := by
  unfold Obligations.SkeinStepsFollowTheOrderOfBlocking
  refine ⟨fun s key g k a v ids he hg hw => ⟨skeinReserve_dry he hg hw, fun ha => ?_⟩, fun s q pre r e hq hl hpre hn => ⟨fun hi => ?_, fun hi => ?_⟩,
    fun s key g d m e r he hg hw hl hp => ?_, fun s q => allowanceRise_rises⟩
  · refine ⟨_, skeinReserve_reserves he hg hw ha, rfl, fun hwf => ⟨fun c => reserve_outside (ids := ids) hwf, ?_, reserve_scalar (ids := ids) hwf, reserve_flaws (ids := ids)⟩⟩
    rintro r rfl l hl
    exact reserve_lane (ids := ids) hwf hl
  · rw [entryPoppable_ripens hq, hl, ripen_first hpre hn, inFlight_none hi]
    rfl
  · rw [entryPoppable_ripens hq, hl, ripen_first hpre hn, inFlight_some hi, if_pos rfl, ← hl]
  · intro q p hf hc
    rw [skeinTake_takes he hg hw hl hp hf]
    exact congrArg _ (takeEntry_clean hl hc)

end Sys2Proof.Machine

/-! PROOFS, 11 R191. A widening copy whose second row starts at an odd distance from the first: which byte of its .bf16 a destination byte takes. -/

namespace Sys2Proof.Machine
open Sys2Proof Sys2Proof.Claims

/-- A widening copy of two rows of one byte, the second three bytes after the first, within tile 0's slice. -/
def oddCopy : Copy :=
  { id := 0, gid := 0, who := agentWho 0 0, tile := 0, block := 0, tix := 0, kind := .copy, tag := 0, src := 0x100000100, dst := 0x100000000, rowBytes := 1, rows := 2,
    sstride := 0, dstride := 3, widen := true, bar := none, unit := 256, holds := [], done := [], bytes := 0, routes := [], sends := [], desc := 0, rstride := 0,
    gen := 0, space := false, own := none, marks := [], got := [] }

/-- Its block, on tile 0. -/
def oddBlock : Block :=
  { job := 0, ctx := 0, linear := 0, hdr := 0, decls := [], epoch := -1, launch := 0, tiles := [0], bases := [0], keys := [], gone := [], arrived := [],
    tagBases := [0], accBases := [0], needs := [], early := false, raised := none, slot := 0, out := false, accDue := false, saved := [], otags := [],
    orecs := [], oskeins := [], owed := [] }

/-- The source byte is the number 1 of .f8e4, whose .bf16 is 0x3F80; the sector of the destination completes. -/
def oddState : State :=
  { State.reset with
    inp := { Inp.zero with b := 0x1000000 }
    mem := [(0x100000100, 0x38)]
    blocks := [(0, oddBlock)]
    copies := [oddCopy] }

/-- The first byte of the second row, in the state an outcome goes on to. -/
def secondRowAfter : Host.Outcome State Fault Refusal → Option Byte
  | .next t => some (memGet t.mem 0x100000003)
  | _ => none

/-- Where no byte of a sector has two writers, nothing is chosen among rows. -/
theorem Copy.cells_single {c : Copy} {free b : Nat} (h : ∀ i ∈ List.range 256, (c.writers (256 * b + i)).1 ≤ 1) :
    c.cells free b = (List.range 256).filterMap fun i =>
      let d := 256 * b + i
      let w := c.writers d
      let o := d - (c.dst + w.2 * c.dstride)
      if w.1 = 0 then none else some (d, c.src + w.2 * c.sstride + (if c.widen then o / 2 else o)) := by
  refine List.filterMap_congr fun i hi => ?_
  dsimp only
  by_cases h0 : (c.writers (256 * b + i)).1 = 0
  · rw [if_pos h0, if_pos h0]
  · rw [if_neg h0, if_neg h0, show (c.writers (256 * b + i)).1 = 1 from Nat.le_antisymm (h i hi) (Nat.pos_of_ne_zero h0), Nat.mod_one, Nat.add_zero]

theorem cells_oddCopy (free : Nat) : oddCopy.cells free 0x1000000 =
    [(0x100000000, 0x100000100), (0x100000001, 0x100000100), (0x100000003, 0x100000100), (0x100000004, 0x100000100)] := by
  rw [Copy.cells_single (by decide +kernel)]
  decide +kernel

/-- The byte takes its part of the .bf16 by its distance from the first row, which is odd. -/
theorem secondRowAfter_sector : secondRowAfter (exec .copySectorComplete oddState) = some 0x3F := by
  show secondRowAfter (execCopySectorComplete oddState) = _
  unfold execCopySectorComplete
  rw [show oddState.copies.find? (fun c => c.id == oddState.inp.a) = some oddCopy from rfl]
  dsimp only
  rw [show oddState.inp.b = 0x1000000 from rfl, cells_oddCopy]
  decide +kernel

/-- An address of the tile windows is its own place. -/
theorem placeOf_tiles {s : State} {tile ctx a k : Nat} (h : 0x800000 ≤ a) (h' : a < 0x200000000) : placeOf s tile ctx a k = some a := by
  rw [placeOf, xlate, if_pos h', canon_far h]
  rfl

/-- Refutes O26: it asks nothing of the strides, which 11 R190 has be multiples of 16. Where the second row of a widening copy starts an odd number of bytes after the first, the model tells the two
bytes of a .bf16 apart by the distance from the first row, and the statement by that from the byte's own row: the byte at 3 takes 0x3F, and the statement has it take 0x80. -/
theorem not_aCopySectorMovesItsBytes : ¬ Obligations.ACopySectorMovesItsBytes := by
  intro h
  have quiet : ∀ p, ChannelIdle oddState p := fun p _ x hx => absurd hx List.not_mem_nil
  have destination : ∀ d, d / 256 = 0x1000000 → placeOf oddState 0 0 d 1 = some (0x100000000 + d % 256) := fun d hd => by
    rw [placeOf_tiles (by omega) (by omega)]
    congr 1
    omega
  have source : ∀ o, o < 2 → placeOf oddState 0 0 (0x100000100 + o / 2) 0 = some 0x100000100 := fun o ho => by
    rw [Nat.div_eq_of_lt ho]
    exact placeOf_tiles (by decide) (by decide)
  obtain ⟨t, m, ht, -, -, hbytes, -, hbar, -⟩ := h oddState oddCopy oddBlock 0x100000000 (fun _ _ => 0x100000100) (by decide +kernel) rfl rfl (by decide +kernel)
    (by decide +kernel) (.inl rfl) rfl rfl (by decide +kernel) (fun f hf => absurd hf List.not_mem_nil) (fun o ho => absurd ho List.not_mem_nil) (by decide +kernel)
    (by decide +kernel) (fun d hd => ⟨destination d hd.1, quiet _⟩) (fun _ r d _ hr => ⟨source _ (of_decide_eq_true (Bool.and_eq_true_iff.mp hr).2), quiet _⟩)
  obtain ⟨r, hr, -, hwide, -⟩ := hbytes 0x100000003 ⟨by decide +kernel, 1, by decide +kernel⟩
  obtain ⟨⟨hrows, hfrom⟩, hto⟩ : (r < 2 ∧ 0x100000000 + r * 3 ≤ 0x100000003) ∧ 0x100000003 - (0x100000000 + r * 3) < 2 := by
    rw [Bool.and_eq_true, Bool.and_eq_true, decide_eq_true_eq, decide_eq_true_eq, decide_eq_true_eq] at hr
    exact hr
  obtain rfl : r = 1 := by omega
  have hlow : memGet m 0x100000003 = 0x80 := (hwide rfl rfl).trans (by decide +kernel)
  have hhigh := secondRowAfter_sector
  rw [ht] at hhigh
  have hclash : some (0x80 : Byte) = some 0x3F := by rw [← hlow, ← hbar rfl]; exact hhigh
  exact absurd hclash (by decide)

end Sys2Proof.Machine

/-! PROOFS, 11 R204 to R207, 02 R24 to R26. Barriers: a phase barrier as the fields of its 16 bytes, and the lanes parked on a block barrier as they go on. -/

namespace Sys2Proof.Machine
open Sys2Proof Sys2Proof.Claims

/-! ### Fields of a number (01 R5) -/

section
variable (x : Nat) {lo len v lo' len' n : Nat}

theorem fld_testBit (i : Nat) : (fld x lo len).testBit i = (decide (i < len) && x.testBit (lo + i)) := by
  rw [fld, Nat.testBit_mod_two_pow, Nat.testBit_div_two_pow, Nat.add_comm]

theorem setFld_testBit (i : Nat) : (setFld x lo len v).testBit i = if lo ≤ i ∧ i < lo + len then v.testBit (i - lo) else x.testBit i := by
  simp only [← bit_eq_testBit, bit_setFld]

theorem fld_setFld_same : fld (setFld x lo len v) lo len = v % 2 ^ len := by
  refine Nat.eq_of_testBit_eq fun i => ?_
  rw [fld_testBit, setFld_testBit, Nat.testBit_mod_two_pow, Nat.add_sub_cancel_left]
  by_cases hi : i < len
  · rw [if_pos ⟨Nat.le_add_right .., by omega⟩]
  · rw [decide_eq_false hi, Bool.false_and, Bool.false_and]

theorem fld_setFld_apart (h : lo' + len' ≤ lo ∨ lo + len ≤ lo') : fld (setFld x lo len v) lo' len' = fld x lo' len' := by
  refine Nat.eq_of_testBit_eq fun i => ?_
  rw [fld_testBit, fld_testBit, setFld_testBit]
  by_cases hi : i < len'
  · rw [if_neg (by omega)]
  · rw [decide_eq_false hi, Bool.false_and, Bool.false_and]

theorem fld_mod (h : lo + len ≤ n) : fld (x % 2 ^ n) lo len = fld x lo len := by
  refine Nat.eq_of_testBit_eq fun i => ?_
  rw [fld_testBit, fld_testBit, Nat.testBit_mod_two_pow]
  by_cases hi : i < len
  · rw [decide_eq_true (show lo + i < n by omega), Bool.true_and]
  · rw [decide_eq_false hi, Bool.false_and, Bool.false_and]
end

/-! ### A phase barrier (11 R204, Table 4) -/

/-- What the 16 bytes of a phase barrier say; `reserved`: bits [15:0], [61:48] and [127:96]. -/
structure Barrier where
  phase : Bool
  ovr : Bool
  pend : Nat
  expct : Nat
  bytes : Nat
  reserved : Nat × Nat × Nat

/-- The barrier that a number of 128 bits is. -/
def barrierOf (x : Nat) : Barrier := ⟨bit x 63, bit x 62, fld x 16 16, fld x 32 16, fld x 64 32, (fld x 0 16, fld x 48 14, fld x 96 32)⟩

/-- The barrier at a place. -/
def barrierAt (m : List Host.Cell) (p : Nat) : Barrier := barrierOf (memVal m p 16)

/-- `Settle` (11 R205). -/
def Barrier.settled (b : Barrier) : Barrier := if b.pend = 0 ∧ b.bytes = 0 then { b with phase := !b.phase, pend := b.expct } else b

/-- An arrival that announces n bytes (11 R205). -/
def Barrier.arrival (n : Nat) (b : Barrier) : Barrier :=
  (if b.pend = 0 then { b with ovr := true } else { b with pend := b.pend - 1, bytes := (b.bytes + n) % 2 ^ 32 } : Barrier).settled

section
variable (x v : Nat)

theorem barrierOf_mod : barrierOf (x % 2 ^ 128) = barrierOf x := by
  simp only [barrierOf, bit_mod x (show 63 < 128 by decide), bit_mod x (show 62 < 128 by decide), fld_mod x (show 16 + 16 ≤ 128 by decide),
    fld_mod x (show 32 + 16 ≤ 128 by decide), fld_mod x (show 64 + 32 ≤ 128 by decide), fld_mod x (show 0 + 16 ≤ 128 by decide),
    fld_mod x (show 48 + 14 ≤ 128 by decide), fld_mod x (show 96 + 32 ≤ 128 by decide)]

theorem barrierOf_setPend : barrierOf (setFld x 16 16 v) = { barrierOf x with pend := v % 2 ^ 16 } := by
  simp [barrierOf, bit_setFld, fld_setFld_same, fld_setFld_apart]

theorem barrierOf_setBytes : barrierOf (setFld x 64 32 v) = { barrierOf x with bytes := v % 2 ^ 32 } := by
  simp [barrierOf, bit_setFld, fld_setFld_same, fld_setFld_apart]

theorem barrierOf_setOver : barrierOf (setFld x 62 1 1) = { barrierOf x with ovr := true } := by
  simp [barrierOf, bit_setFld, fld_setFld_apart, show bit 1 0 = true from rfl]

theorem barrierOf_flip : barrierOf (setFld x 63 1 (1 - fld x 63 1)) = { barrierOf x with phase := !bit x 63 } := by
  have hbit : bit (1 - fld x 63 1) 0 = !bit x 63 := by
    rw [bit_eq_fld x]
    have hlt := fld_lt x 63 1
    rcases (by omega : fld x 63 1 = 0 ∨ fld x 63 1 = 1) with h | h <;> rw [h] <;> rfl
  simp [barrierOf, bit_setFld, fld_setFld_apart, hbit]

theorem barrierOf_settle : barrierOf (settle x) = (barrierOf x).settled := by
  have hexpct : fld x 32 16 % 2 ^ 16 = fld x 32 16 := Nat.mod_eq_of_lt (fld_lt x 32 16)
  unfold settle Barrier.settled
  refine (apply_ite barrierOf _ _ _).trans (if_congr Iff.rfl ?_ rfl)
  rw [barrierOf_setPend, barrierOf_flip, hexpct]
  rfl

theorem barrierOf_barArrive (n : Nat) : barrierOf (barArrive n x) = (barrierOf x).arrival n := by
  have hpend : (fld x 16 16 - 1) % 2 ^ 16 = fld x 16 16 - 1 := Nat.mod_eq_of_lt ((Nat.sub_le _ _).trans_lt (fld_lt x 16 16))
  unfold barArrive Barrier.arrival
  rw [barrierOf_settle]
  congr 1
  refine (apply_ite barrierOf _ _ _).trans (if_congr Iff.rfl (barrierOf_setOver x) ?_)
  rw [barrierOf_setBytes, barrierOf_setPend, hpend]
  rfl

/-- A barrier of EXPECT and PENDING n, and everything else 0. -/
theorem barrierOf_fresh {n : Nat} (h : n < 2 ^ 16) : barrierOf (n * 2 ^ 32 + n * 2 ^ 16) = ⟨false, false, n, n, 0, (0, 0, 0)⟩ := by
  obtain ⟨y, hy⟩ : ∃ y, y = n * 2 ^ 32 + n * 2 ^ 16 := ⟨_, rfl⟩
  have hlt : y < 2 ^ 48 := by omega
  have hhalves : y / 2 ^ 16 = n * 2 ^ 16 + n := by omega
  have hover : bit y 62 = false := (bit_eq_testBit _ _).trans (Nat.testBit_lt_two_pow (hlt.trans (by decide)))
  have hphase : bit y 63 = false := (bit_eq_testBit _ _).trans (Nat.testBit_lt_two_pow (hlt.trans (by decide)))
  have hpend : fld y 16 16 = n := by rw [fld, hhalves, Nat.mul_add_mod_self_right, Nat.mod_eq_of_lt h]
  have hexpct : fld y 32 16 = n := by
    rw [fld, show 2 ^ 32 = 2 ^ 16 * 2 ^ 16 from rfl, ← Nat.div_div_eq_div_mul, hhalves, Nat.add_comm,
      Nat.add_mul_div_right _ _ (by decide), Nat.div_eq_of_lt h, Nat.zero_add, Nat.mod_eq_of_lt h]
  have hhigh : ∀ lo len, 48 ≤ lo → fld y lo len = 0 := fun lo len hlo => by
    rw [fld, Nat.div_eq_of_lt (hlt.trans_le (Nat.pow_le_pow_right (by decide) hlo)), Nat.zero_mod]
  have hlow : fld y 0 16 = 0 := by
    rw [fld_zero]
    omega
  rw [← hy, barrierOf, hover, hphase, hpend, hexpct, hlow, hhigh 64 32 (by decide), hhigh 48 14 (by decide), hhigh 96 32 (by decide)]
end

/-! ### The barrier at a place -/

section
variable {m : List Host.Cell} {p : Nat}

theorem barrierAt_stored (hw : Memory.wf m = true) (x : Nat) : barrierAt (memStore m p (leBytes 16 x)) p = barrierOf x := by
  rw [barrierAt, memVal_memStore hw, show 256 ^ 16 = 2 ^ 128 from rfl, barrierOf_mod]

variable (m p)

/-- The fields where the statements read them. -/
theorem barrierAt_eq : barrierAt m p = ⟨bit (memVal m p 8) 63, bit (memVal m p 8) 62, memVal m (p + 2) 2, memVal m (p + 4) 2, memVal m (p + 8) 4,
    (memVal m p 2, memVal m p 8 / 2 ^ 48 % 2 ^ 14, memVal m (p + 12) 4)⟩ := by
  have h8 : memVal m p 8 = memVal m p 16 % 2 ^ 64 := by
    have h := memVal_part m p (show 0 + 8 ≤ 16 by decide)
    rwa [Nat.add_zero, fld_zero] at h
  have h2 : memVal m p 2 = fld (memVal m p 16) 0 16 := memVal_part m p (show 0 + 2 ≤ 16 by decide)
  rw [barrierAt, barrierOf, h2, h8, bit_mod _ (by decide), bit_mod _ (by decide), ← fld, fld_mod _ (by decide), memVal_part m p (show 2 + 2 ≤ 16 by decide),
    memVal_part m p (show 4 + 2 ≤ 16 by decide), memVal_part m p (show 8 + 4 ≤ 16 by decide), memVal_part m p (show 12 + 4 ≤ 16 by decide)]
end

/-! ### The steps of the barrier unit (11 R205) -/

section
variable {s : State} {g : Group} {w : EN} {who : Who} {block p x y z : Nat} {bs : List Byte}

theorem noteFlip_only : NearOnly s (noteFlip s block p x y) := by
  unfold noteFlip
  split
  · exact .refl s
  · next h =>
    refine ⟨⟨rfl, fun _ hf => hf⟩, rfl, fun hn => absurd ?_ h⟩
    rw [hn]
    rfl

theorem poke_only (s : State) (p : Nat) (bs : List Byte) : NearOnly s (s.poke p bs) := ⟨⟨rfl, fun _ h => (List.mem_filter.mp h).1⟩, rfl, fun _ => rfl⟩

/-- The barrier unit writes y to a barrier that was x; z has the phase that a replay goes by. -/
def barWritten (s : State) (block p x z y : Nat) : State := (noteFlip s block p x z).poke p (leBytes 16 y)

theorem barWritten_only : NearOnly s (barWritten s block p x z y) := noteFlip_only.trans (poke_only _ _ _)

theorem noteFlip_mem : (noteFlip s block p x y).mem = s.mem := by
  unfold noteFlip
  split <;> rfl

theorem barWritten_mem : (barWritten s block p x z y).mem = memStore s.mem p (leBytes 16 y) := by
  unfold barWritten State.poke
  dsimp only
  rw [noteFlip_mem]

theorem barWritten_outside (hw : Memory.wf s.mem = true) {c : Nat} (hc : c < p ∨ p + 16 ≤ c) :
    memGet (barWritten s block p x z y).mem c = memGet s.mem c := by
  rw [barWritten_mem]
  refine memGet_memStore_outside _ _ _ _ hw ?_
  rw [leBytes_length]
  exact hc

theorem barWritten_barrier (hw : Memory.wf s.mem = true) : barrierAt (barWritten s block p x z y).mem p = barrierOf y := by
  rw [barWritten_mem, barrierAt_stored hw]

/-- An arrival that announces n bytes has been performed. -/
def barArrived (s : State) (block p n : Nat) : State :=
  barWritten s block p (memVal s.mem p 16) (barArrive n (memVal s.mem p 16)) (barArrive n (memVal s.mem p 16))

theorem barArrived_barrier {n : Nat} (hw : Memory.wf s.mem = true) : barrierAt (barArrived s block p n).mem p = (barrierAt s.mem p).arrival n :=
  (barWritten_barrier hw).trans (barrierOf_barArrive _ n)

theorem barStep_clean (hc : Clean s p 16) (n : Nat) : barStep s who block p (barArrive n) = barArrived s block p n := by
  unfold barStep
  rw [readAt_of_clean hc]
  rfl

theorem barPlace_refused {r : Nat} (h : localReason true 16 (scalarVal s g w.a) = some r) :
    barPlace s g w.a = .error (addrDetail false 0 r (scalarVal s g w.a)) := by
  unfold barPlace
  dsimp only
  rw [h]
end

/-! ### The words (11 R205) -/

/-- The words that name a phase barrier. -/
def barWords : List (EN → Instr) := [.barinit, .bara, .barw, .barrd]

section
variable {s : State} {g : Group} {w : EN}

theorem barWords_refused {p : EN → Instr} (hp : p ∈ barWords) {r : Nat} (h : Issues (p w) s g) (hr : localReason true 16 (scalarVal s g w.a) = some r) :
    exec (p w) s = .next (takeTrap (timed (p w) s g s) g tAddr (addrDetail false 0 r (scalarVal s g w.a)) (lanesFor (p w) g)) := by
  have hbar := barPlace_refused hr
  revert p
  simp only [barWords, List.forall_mem_cons, List.not_mem_nil, false_imp_iff, implies_true, and_true]
  refine ⟨fun h => ?_, fun h => ?_, fun h => ?_, fun h => ?_⟩
  · show execBarinit w s = _
    exact nearWord_trap h (by rw [hbar])
  · show execBara w s = _
    exact nearWord_trap h (by rw [hbar])
  · show execBarw w s = _
    exact nearWord_trap h (by rw [hbar])
  · show execBarrd w s = _
    exact nearWord_trap h (by rw [hbar])

variable (hlt : scalarVal s g w.a < 0x7F0000) (h16 : scalarVal s g w.a % 16 = 0)
include hlt h16

theorem exec_barinit (h : Issues (.barinit w) s g) : ∃ x, exec (.barinit w) s = .next (timed (.barinit w) s g
    (barWritten s g.env.block (slicePlace (tileOf s.cur) (scalarVal s g w.a)) x 0
      (scalarVal s g w.b % 2 ^ 16 * 2 ^ 32 + scalarVal s g w.b % 2 ^ 16 * 2 ^ 16))) := by
  refine ⟨leVal (s.peek (slicePlace (tileOf s.cur) (scalarVal s g w.a)) 16), ?_⟩
  show execBarinit w s = _
  refine runWord_ok _ s _ g _ _ h ?_
  rw [barPlace_near hlt h16]
  rfl

theorem exec_bara (h : Issues (.bara w) s g) (hi : inFlight s (relIds s w.scope.toNat) = false) (hc : Clean s (slicePlace (tileOf s.cur) (scalarVal s g w.a)) 16) :
    let p := slicePlace (tileOf s.cur) (scalarVal s g w.a)
    exec (.bara w) s = .next (timed (.bara w) s g
      (barArrived s g.env.block p (scalarVal s g w.b % 2 ^ 32))) := by
  show execBara w s = _
  refine runWord_ok _ s _ g _ _ h ?_
  rw [barPlace_near hlt h16]
  dsimp only
  rw [hi, if_neg Bool.false_ne_true, barStep_clean hc]

theorem bara_blocks (h : Issues (.bara w) s g) (hi : inFlight s (relIds s w.scope.toNat) = true) : exec (.bara w) s = .next (timed (.bara w) s g
    (s.block g (.bara (slicePlace (tileOf s.cur) (scalarVal s g w.a)) (scalarVal s g w.b % 2 ^ 32) (relIds s w.scope.toNat)))) := by
  show execBara w s = _
  refine runWord_ok _ s _ g _ _ h ?_
  rw [barPlace_near hlt h16]
  dsimp only
  rw [hi, if_pos rfl]

theorem exec_barw (h : Issues (.barw w) s g) (hc : Clean s (slicePlace (tileOf s.cur) (scalarVal s g w.a)) 8) :
    let p := slicePlace (tileOf s.cur) (scalarVal s g w.a)
    let b := bit (scalarVal s g w.b) 0
    exec (.barw w) s = .next (timed (.barw w) s g (if bit (memVal s.mem p 8) 63 = b then s.block g (.barw p b) else s)) := by
  show execBarw w s = _
  refine runWord_ok _ s _ g _ _ h ?_
  rw [barPlace_near hlt h16]
  dsimp only [phaseRead]
  rw [readAt_of_clean hc]
  dsimp only
  rw [apply_ite Res.ok]
  exact if_congr beq_iff_eq rfl rfl
end

section
variable {s : State} {g : Group}

/-- The step of BARA_ARRIVAL (11 R205). -/
theorem exec_baraArrival {p n : Nat} {ids : List Nat} (hg : s.groups.get? s.inp.a = some g) (hw : g.wait = some (.bara p n ids)) (hi : inFlight s ids = false)
    (hc : Clean s p 16) : exec .baraArrival s =
      .next { (barArrived s g.env.block p n) with groups := s.groups.set s.inp.a (g.released s.clock) } := by
  have hgroups : (barArrived s g.env.block p n).groups = s.groups := by rw [barArrived, barWritten_only.memory.1]
  show execBaraArrival s = _
  unfold execBaraArrival
  rw [hg]
  dsimp only
  rw [hw]
  dsimp only
  rw [hi, if_neg Bool.false_ne_true, barStep_clean hc, hgroups, hg]

/-! ### `barb` (11 R206) -/

theorem recPark_parks (m : Mask) (k l : Nat) : (g.recPark m k).rcd.parks.get? l = if lane m l then some k else g.rcd.parks.get? l := by
  simp only [Group.recPark, get?_foldl_set (fun _ => k), mem_lanesOf]

theorem exec_barb {w : EN} {b : Block} (h : Issues (.barb w) s g) (hb : s.blocks.get? g.env.block = some b) :
    let k := w.index.toNat
    let m := lanesFor (.barb w) g
    let ids := relIds s w.scope.toNat
    let n := k * 64 + g.env.index
    let g' := g.recPark m k
    (inFlight s ids = false → exec (.barb w) s = .next (timed (.barb w) s g { s.put g' with
      blocks := s.blocks.set g.env.block { b with arrived := b.arrived.set n (b.arrived.getD n 0 ||| m) } })) ∧
    (inFlight s ids = true → exec (.barb w) s = .next (timed (.barb w) s g ((s.put g').block g' (.barb k m ids)))) := by
  refine ⟨fun hi => ?_, fun hi => ?_⟩
  all_goals
    show execBarb w s = _
    refine runWord_ok _ s _ g _ _ h ?_
    dsimp only
    rw [hi]
  · have hblock : (s.put (g.recPark (lanesFor (.barb w) g) w.index.toNat)).blocks.get? (g.recPark (lanesFor (.barb w) g) w.index.toNat).env.block = some b := hb
    rw [if_neg Bool.false_ne_true, markArrived, hblock]
    rfl
  · rw [if_pos rfl]
end

end Sys2Proof.Machine

/-! PROOFS, 11 R206, R207, 02 R24 to R26. The departure from a block barrier: where each lane of a path table goes, and the groups and the spill areas that change. -/

namespace Sys2Proof.Machine
open Sys2Proof Sys2Proof.Claims

/-! ### Lanes at offsets (02 R24) -/

/-- Lane l stands at offset o of a path table. -/
def Stands (ps : List Entry) (o l : Nat) : Prop := ∃ e ∈ ps, e.ofs = o ∧ lane e.lanes l = true

theorem lane_or (a b : Mask) (l : Nat) : lane (a ||| b) l = (lane a l || lane b l) := BitVec.getLsbD_or

theorem lane_andNot {a b : Mask} {l : Nat} : lane (a &&& ~~~b) l = true ↔ lane a l = true ∧ lane b l = false := by
  simp only [lane, BitVec.getLsbD_and, BitVec.getLsbD_not, Bool.and_eq_true, Bool.not_eq_true', decide_eq_true_eq]
  exact ⟨fun h => ⟨h.1, h.2.2⟩, fun h => ⟨h.1, BitVec.lt_of_getLsbD h.1, h.2⟩⟩

section
variable {ps : List Entry} {o l t stamp : Nat} {m : Mask} {f : Entry → Entry}

theorem stands_map (ho : ∀ e, (f e).ofs = e.ofs) (hl : ∀ e, (f e).lanes = e.lanes) : Stands (ps.map f) o l ↔ Stands ps o l := by
  simp only [Stands, List.mem_map, exists_exists_and_eq_and, ho, hl]

/-- Lanes that merge into the entries at an offset stand there. -/
theorem stands_merge (ho : ∀ e, (f e).ofs = e.ofs) (hl : ∀ e, (f e).lanes = if e.ofs = t then e.lanes ||| m else e.lanes)
    (ht : ps.any (fun e => e.ofs == t) = true) : Stands (ps.map f) o l ↔ Stands ps o l ∨ (o = t ∧ lane m l = true) := by
  obtain ⟨x, hx, hxt⟩ := List.any_eq_true.mp ht
  have hxt : x.ofs = t := beq_iff_eq.mp hxt
  have one : ∀ e, lane (f e).lanes l = true ↔ lane e.lanes l = true ∨ (e.ofs = t ∧ lane m l = true) := fun e => by
    rw [hl]
    split
    · next h => rw [lane_or, Bool.or_eq_true]; simp [h]
    · next h => simp [h]
  simp only [Stands, List.mem_map, exists_exists_and_eq_and, ho, one]
  constructor
  · rintro ⟨e, he, ho', h | ⟨h, hm⟩⟩
    · exact .inl ⟨e, he, ho', h⟩
    · exact .inr ⟨ho'.symm.trans h, hm⟩
  · rintro (⟨e, he, ho', h⟩ | ⟨h, hm⟩)
    · exact ⟨e, he, ho', .inl h⟩
    · exact ⟨x, hx, hxt.trans h.symm, .inr ⟨hxt, hm⟩⟩

theorem stands_append (e : Entry) : Stands (ps ++ [e]) o l ↔ Stands ps o l ∨ (o = e.ofs ∧ lane e.lanes l = true) := by
  simp only [Stands, List.mem_append, List.mem_singleton, or_and_right, exists_or, exists_eq_left]
  exact or_congr_right (and_congr_left fun _ => eq_comm)

/-- Entries taken in one after another, each with the lanes at the offset it brings. -/
theorem stands_foldl {α : Type} {table : α → List Entry} {step : α → Entry → α} {P : Entry → Prop}
    (h : ∀ a e, Stands (table (step a e)) o l ↔ Stands (table a) o l ∨ P e) (es : List Entry) (a : α) :
    Stands (table (es.foldl step a)) o l ↔ Stands (table a) o l ∨ ∃ e ∈ es, P e := by
  induction es generalizing a with
  | nil => simp
  | cons e r ih => rw [List.foldl_cons, ih, h, List.exists_mem_cons_iff, or_assoc]

/-! ### Merging and spilling (02 R24, R25) -/

theorem stands_addLanes : Stands (addLanes ps stamp t m).1 o l ↔ Stands ps o l ∨ (o = t ∧ lane m l = true) := by
  unfold addLanes
  split
  · next h => rw [h, lane_zero, and_iff_right_of_imp (fun h => nomatch h)]; simp
  · split
    · next h => exact stands_merge (fun e => by split <;> rfl) (fun e => by split <;> rfl) h
    · exact stands_append _

theorem stands_spillOldest (next : Nat) : Stands (spillOldest next ps) o l ↔ Stands ps o l := by
  unfold spillOldest
  split
  · exact Iff.rfl
  · exact stands_map (fun e => by split <;> rfl) (fun e => by split <;> rfl)

theorem stands_placeLanes : Stands (placeLanes ps stamp t m).1 o l ↔ Stands ps o l ∨ (o = t ∧ lane m l = true) := by
  unfold placeLanes
  split
  · exact stands_addLanes
  · rw [stands_addLanes, stands_spillOldest]

theorem stands_holdAt (b : Bool) : Stands (holdAt t b ps) o l ↔ Stands ps o l :=
  stands_map (fun e => by split <;> rfl) (fun e => by split <;> rfl)

/-! ### The table after a departure (11 R207) -/

/-- An entry that moves whole. -/
def moveWhole (stride : Nat) (a : List Entry) (e : Entry) : List Entry :=
  let t := (e.ofs + 1) % stride
  if a.any (fun x => x.ofs == t) then a.map (fun x => if x.ofs = t then { x with lanes := x.lanes ||| e.lanes, held := x.held || e.held, stops := x.stops ++ e.stops } else x)
  else a ++ [{ e with ofs := t, pass := false }]

/-- The lanes of an entry that move away from it. -/
def movePart (stride : Nat) (m : Mask) (a : List Entry × Nat) (e : Entry) : List Entry × Nat :=
  let t := (e.ofs + 1) % stride
  let r := placeLanes a.1 a.2 t (e.lanes &&& m)
  (holdAt t e.held r.1, r.2)

theorem stands_moveWhole (stride : Nat) (a : List Entry) (e : Entry) :
    Stands (moveWhole stride a e) o l ↔ Stands a o l ∨ (o = (e.ofs + 1) % stride ∧ lane e.lanes l = true) := by
  unfold moveWhole
  dsimp only
  split
  · next h => exact stands_merge (fun x => by split <;> rfl) (fun x => by split <;> rfl) h
  · exact stands_append _

theorem stands_movePart (stride : Nat) (a : List Entry × Nat) (e : Entry) :
    Stands (movePart stride m a e).1 o l ↔ Stands a.1 o l ∨ (o = (e.ofs + 1) % stride ∧ lane (e.lanes &&& m) l = true) :=
  (stands_holdAt _).trans stands_placeLanes

/-- The entries without the lanes that move. -/
def stayers (m : Mask) (ps : List Entry) : List Entry := (ps.map (fun e => { e with lanes := e.lanes &&& ~~~m })).filter (fun e => e.lanes != 0)

theorem departTable_eq (stride : Nat) (hm : m ≠ 0) : departTable stride m ps stamp =
    (ps.filter (fun e => e.lanes &&& ~~~m != 0 && e.lanes &&& m != 0)).foldl (movePart stride m)
      ((ps.filter (fun e => e.lanes &&& ~~~m == 0)).foldl (moveWhole stride) (stayers m ps), stamp) := if_neg hm

theorem stands_stayers : Stands (stayers m ps) o l ↔ ∃ e ∈ ps, e.ofs = o ∧ lane e.lanes l = true ∧ lane m l = false := by
  simp only [Stands, stayers, List.mem_filter, List.mem_map, bne_iff_ne]
  constructor
  · rintro ⟨e, ⟨⟨x, hx, rfl⟩, -⟩, ho, hl⟩
    exact ⟨x, hx, ho, lane_andNot.mp hl⟩
  · rintro ⟨e, he, ho, hl⟩
    have hl := lane_andNot.mpr hl
    exact ⟨_, ⟨⟨e, he, rfl⟩, ne_zero_iff_lane.mpr ⟨l, hl⟩⟩, ho, hl⟩

/-- Each lane that departs stands at o + 1 of its entry, every other where it stood. -/
theorem stands_departTable (stride : Nat) : Stands (departTable stride m ps stamp).1 o l ↔
    ∃ e ∈ ps, lane e.lanes l = true ∧ o = if lane m l then (e.ofs + 1) % stride else e.ofs := by
  by_cases hm : m = 0
  · have hno : lane m l = false := by rw [hm, lane_zero]
    rw [departTable, if_pos hm, hno]
    exact exists_congr fun e => and_congr_right fun _ => and_comm.trans (and_congr_right fun _ => eq_comm)
  rw [departTable_eq stride hm, stands_foldl (table := Prod.fst) (stands_movePart stride)]
  dsimp only
  rw [stands_foldl (table := fun a => a) (stands_moveWhole stride)]
  simp only [stands_stayers, List.mem_filter, Bool.and_eq_true, bne_iff_ne, beq_iff_eq, lane_and]
  cases hml : lane m l with
  | false =>
    have hwhole : ∀ e : Entry, e.lanes &&& ~~~m = 0 → lane e.lanes l = true → False := fun e h0 hl => by
      have h := lane_andNot.mpr ⟨hl, hml⟩
      rw [h0, lane_zero] at h
      cases h
    constructor
    · rintro ((⟨e, he, ho, hl, -⟩ | ⟨e, ⟨-, h0⟩, -, hl⟩) | ⟨e, -, -, -, h⟩)
      · exact ⟨e, he, hl, ho.symm⟩
      · exact (hwhole e h0 hl).elim
      · cases h
    · rintro ⟨e, he, hl, ho⟩
      exact .inl (.inl ⟨e, he, ho.symm, hl, rfl⟩)
  | true =>
    constructor
    · rintro ((⟨e, -, -, -, h⟩ | ⟨e, ⟨he, -⟩, ho, hl⟩) | ⟨e, ⟨he, -⟩, ho, hl, -⟩)
      · cases h
      · exact ⟨e, he, hl, ho⟩
      · exact ⟨e, he, hl, ho⟩
    · rintro ⟨e, he, hl, ho⟩
      by_cases h0 : e.lanes &&& ~~~m = 0
      · exact .inl (.inr ⟨e, ⟨he, h0⟩, ho, hl⟩)
      · exact .inr ⟨e, ⟨he, h0, (and_ne_zero_iff _ _).mpr ⟨l, hl, hml⟩⟩, ho, hl, rfl⟩
end

/-! ### The lanes parked on a barrier (11 R206) -/

theorem lane_ofNat_two_pow {n : Nat} (h : n < 64) : lane (BitVec.ofNat 64 (2 ^ n)) n = true := by
  rw [lane, BitVec.getLsbD_ofNat, decide_eq_true h, Nat.testBit_two_pow_self, Bool.and_self]

theorem lane_parkedOn {t : Tab Nat} {k : Nat} {x : Nat × Nat} (hx : x ∈ t) (hk : x.2 = k) (hl : x.1 < 64) : lane (parkedOn t k) x.1 = true := by
  have keeps : ∀ (t : Tab Nat) (a : Mask), lane a x.1 = true →
      lane (t.foldl (fun a x => if x.2 = k then a ||| BitVec.ofNat 64 (2 ^ x.1) else a) a) x.1 = true := by
    intro t
    induction t with
    | nil => exact fun a h => h
    | cons y r ih =>
      intro a h
      refine ih _ ?_
      dsimp only
      split
      · rw [lane_or, h, Bool.true_or]
      · exact h
  have reaches : ∀ (t : Tab Nat) (a : Mask), x ∈ t →
      lane (t.foldl (fun a x => if x.2 = k then a ||| BitVec.ofNat 64 (2 ^ x.1) else a) a) x.1 = true := by
    intro t
    induction t with
    | nil => exact fun a h => absurd h List.not_mem_nil
    | cons y r ih =>
      intro a h
      rcases List.mem_cons.mp h with rfl | h
      · refine keeps r _ ?_
        dsimp only
        rw [if_pos hk, lane_or, lane_ofNat_two_pow hl, Bool.or_true]
      · exact ih _ h
  exact reaches t 0 hx

/-- Of the lanes parked on a barrier none is left, once all of them have departed. -/
theorem unpark_parkedOn {t : Tab Nat} {k : Nat} {x : Nat × Nat} (hx : x ∈ unpark t k (parkedOn t k)) (hk : x.2 = k) : 64 ≤ x.1 := by
  obtain ⟨hin, hno⟩ := List.mem_filter.mp hx
  by_contra hlt
  rw [lane_parkedOn hin hk (by omega), hk, beq_self_eq_true] at hno
  cases hno

/-! ### A group that departs (11 R207) -/

/-- The group once its parked lanes have departed, or are noted to depart, its offset being in progress. -/
def Group.departed (g : Group) (k : Nat) : Group :=
  if g.todo.isSome then { g with late := g.late ++ [.depart k (parkedOn g.parked k)] } else g.lateStep (.depart k (parkedOn g.parked k))

section
variable (g : Group) (clock k : Nat)

theorem late1_frame (x y : Late) : ∃ stamp frame, g.late1 x y =
    { (if g.todo.isSome then { g with late := g.late ++ [x] } else g.lateStep x) with stamp := stamp, frame := frame } := by
  unfold Group.late1
  dsimp only
  split
  · exact ⟨_, _, rfl⟩
  · split <;> exact ⟨_, _, rfl⟩

theorem moved_frame (n : Nat) : ∃ ready busy, g.moved clock n = { g with ready := ready, busy := busy } := by
  unfold Group.moved
  split <;> exact ⟨_, _, rfl⟩

/-- A group in the clock of a departure: blocked still if it was (b), and stalled for n spilled entries. -/
def Group.stalledBy (g : Group) (clock : Nat) (b : Bool) (n : Nat) : Group :=
  { ((if b then { g with ready := max g.ready (clock + 1), busy := 8 } else g : Group).moved clock n) with look := clock }

theorem stalledBy_frame (b : Bool) (n : Nat) : ∃ ready busy look, g.stalledBy clock b n = { g with ready := ready, busy := busy, look := look } := by
  unfold Group.stalledBy
  split
  all_goals
    obtain ⟨ready, busy, hmoved⟩ := moved_frame _ clock n
    exact ⟨_, _, _, by rw [hmoved]⟩

theorem depart_eq : ∃ y b n, g.depart clock k = (g.late1 (.depart k (parkedOn g.parked k)) y).stalledBy clock b n := ⟨_, _, _, rfl⟩

/-- Beside the table, a departure changes what the frame holds, and what holds the group for a time. -/
theorem depart_frame : ∃ stamp frame ready busy look, g.depart clock k =
    { g.departed k with stamp := stamp, frame := frame, ready := ready, busy := busy, look := look } := by
  obtain ⟨y, b, n, hdepart⟩ := depart_eq g clock k
  obtain ⟨stamp, frame, hlate⟩ := late1_frame g (.depart k (parkedOn g.parked k)) y
  obtain ⟨ready, busy, look, hstalled⟩ := stalledBy_frame (g.late1 (.depart k (parkedOn g.parked k)) y) clock b n
  exact ⟨stamp, frame, ready, busy, look, by rw [hdepart, hstalled, hlate]; rfl⟩

theorem departed_frame : g.departed k = { g with
    paths := (g.departed k).paths, stamp := (g.departed k).stamp, parked := (g.departed k).parked, late := (g.departed k).late } := by
  unfold Group.departed Group.lateStep
  split <;> rfl

theorem depart_changes : g.depart clock k = { g with
    paths := (g.depart clock k).paths, stamp := (g.depart clock k).stamp, parked := (g.depart clock k).parked, late := (g.depart clock k).late,
    frame := (g.depart clock k).frame, ready := (g.depart clock k).ready, busy := (g.depart clock k).busy, look := (g.depart clock k).look } := by
  obtain ⟨stamp, frame, ready, busy, look, h⟩ := depart_frame g clock k
  rw [h, departed_frame]

variable {g}

theorem depart_between (h : g.todo = none) : (g.depart clock k).paths = (departTable g.env.stride (parkedOn g.parked k) g.paths g.stamp).1 ∧
    (g.depart clock k).parked = unpark g.parked k (parkedOn g.parked k) := by
  have hd : g.departed k = g.lateStep (.depart k (parkedOn g.parked k)) := by
    rw [Group.departed, h]
    rfl
  obtain ⟨stamp, frame, ready, busy, look, h⟩ := depart_frame g clock k
  rw [h, hd]
  dsimp only [Group.lateStep]
  rw [BitVec.and_self]
  exact ⟨rfl, rfl⟩

theorem depart_within (h : g.todo ≠ none) : (g.depart clock k).paths = g.paths ∧ (g.depart clock k).late = g.late ++ [.depart k (parkedOn g.parked k)] := by
  have hd : g.departed k = { g with late := g.late ++ [.depart k (parkedOn g.parked k)] } := by
    rw [Group.departed, if_pos (Option.isSome_iff_ne_none.mpr h)]
  obtain ⟨stamp, frame, ready, busy, look, h⟩ := depart_frame g clock k
  rw [h, hd]
  exact ⟨rfl, rfl⟩
end

/-! ### The spill area of any group (02 R26) -/

section
variable {s : State} {key : Nat} {old g : Group} (h : s.flaws = [])
include h

theorem respill_at : s.respill key old g = if old.spilled = g.spilled then { s with groups := s.groups.set key g }
    else pokes { s with groups := s.groups.set key g } (spillPlace key) (spillWrites old.spilled g.spilled g.stamp) := by
  unfold State.respill
  split
  · rfl
  · simp only [readBack_clean { s with groups := s.groups.set key old } _ _ _ h, Tab.set_set]
    rfl

theorem respill_at_frame : s.respill key old g = { s with groups := s.groups.set key g, mem := (s.respill key old g).mem } := by
  rw [respill_at h]
  split
  · rfl
  · exact pokes_frame { s with groups := s.groups.set key g } _ _ h

theorem respill_at_outside (hm : Memory.wf s.mem = true) {c : Nat} (hc : c < spillPlace key ∨ spillPlace key + 1024 ≤ c) :
    memGet (s.respill key old g).mem c = memGet s.mem c := by
  rw [respill_at h]
  split
  · rfl
  · exact pokes_outside { s with groups := s.groups.set key g } _ 1024 c _ (spillWrites_within _ _ _) hc hm

theorem respill_at_mem (e : old.spilled = g.spilled) : (s.respill key old g).mem = s.mem := by rw [respill_at h, if_pos e]
end

/-! ### All groups of a block depart (11 R207) -/

/-- The departure of the group with a key, if it is of the block. -/
def departGroup (bid k : Nat) (s : State) (key : Nat) : State :=
  match s.groups.get? key with
  | none => s
  | some g0 =>
    let g := g0.depart s.clock k
    if g0.env.block ≠ bid then s
    else if g.frame.isSome && g.paths.any (fun e => decide (16 ≤ e.idx)) then endContext s g.env.ctx stKilled none
    else s.respill key g0 g

/-- The keys of the groups of a block. -/
def blockKeys (s : State) (bid : Nat) : List Nat := ((s.groups.filter (fun x => x.2.env.block == bid)).map Prod.fst).eraseDups

theorem departAll_eq (s : State) (bid k : Nat) : departAll s bid k = (blockKeys s bid).foldl (departGroup bid k) s := rfl

theorem nodup_eraseDups (xs : List Nat) : xs.eraseDups.Nodup := by
  induction h : xs.length using Nat.strong_induction_on generalizing xs with
  | _ n ih =>
    cases xs with
    | nil => rw [List.eraseDups_nil]; exact List.nodup_nil
    | cons x r =>
      rw [List.eraseDups_cons, List.nodup_cons]
      refine ⟨fun hin => ?_, ih _ ?_ _ rfl⟩
      · simpa using (List.mem_filter.mp (List.mem_eraseDups.mp hin)).2
      · rw [← h, List.length_cons]
        exact Nat.lt_succ_of_le (List.length_filter_le _ _)

theorem mem_of_get? {α : Type} {t : Tab α} {k : Nat} {v : α} (h : t.get? k = some v) : (k, v) ∈ t := by
  induction t with
  | nil => cases h
  | cons x r ih =>
    rw [Tab.get?] at h
    split at h
    · next hk => rw [← hk, ← Option.some.inj h]; exact List.mem_cons_self
    · split at h
      · cases h
      · exact List.mem_cons_of_mem _ (ih h)

theorem mem_blockKeys {s : State} {bid key : Nat} {g : Group} (h : s.groups.get? key = some g) (hb : g.env.block = bid) : key ∈ blockKeys s bid :=
  List.mem_eraseDups.mpr (List.mem_map.mpr ⟨(key, g), List.mem_filter.mpr ⟨mem_of_get? h, beq_iff_eq.mpr hb⟩, rfl⟩)

/-- A group of the block departs if its key is among those served; every other group stands as it did. -/
def departsIn (s : State) (bid k : Nat) (done : List Nat) (key : Nat) (g : Group) : Group :=
  if key ∈ done ∧ g.env.block = bid then g.depart s.clock k else g

/-- t is s once the groups with the keys `done` have departed: those groups, and bytes of their spill areas where entries spill or return, have changed. -/
structure Departed (s : State) (bid k : Nat) (done : List Nat) (t : State) : Prop where
  frame : t = { s with groups := t.groups, mem := t.mem }
  groups : ∀ key, t.groups.get? key = (s.groups.get? key).map (departsIn s bid k done key)
  form : Memory.wf t.mem = true
  outside : ∀ c, (∀ key g, s.groups.get? key = some g → g.env.block = bid → c < spillPlace key ∨ spillPlace key + 1024 ≤ c) → memGet t.mem c = memGet s.mem c
  still : (∀ key g, s.groups.get? key = some g → g.env.block = bid → (g.depart s.clock k).spilled = g.spilled) → t.mem = s.mem

section
variable {s t : State} {bid k key : Nat} {done : List Nat}

/-- A key that names no group of the block changes nothing. -/
theorem Departed.skips (h : Departed s bid k done t) (hn : ∀ g, s.groups.get? key = some g → g.env.block ≠ bid) : Departed s bid k (key :: done) t where
  frame := h.frame
  groups key' := by
    rw [h.groups]
    refine Option.map_congr fun g hg => ?_
    unfold departsIn
    refine if_congr (and_congr_left fun hb => ?_) rfl rfl
    rw [List.mem_cons, or_iff_right]
    rintro rfl
    exact hn g hg hb
  form := h.form
  outside := h.outside
  still := h.still

/-- A group of the block departs, and its spill area follows its table. -/
theorem Departed.serves {g : Group} (h : Departed s bid k done t) (hf : s.flaws = []) (hg : s.groups.get? key = some g) (hb : g.env.block = bid) :
    Departed s bid k (key :: done) (t.respill key g (g.depart s.clock k)) where
  frame := by
    have hflaws : t.flaws = [] := by rw [h.frame]; exact hf
    rw [respill_at_frame hflaws, h.frame]
  groups key' := by
    have hflaws : t.flaws = [] := by rw [h.frame]; exact hf
    have hgroups : (t.respill key g (g.depart s.clock k)).groups = t.groups.set key (g.depart s.clock k) := by rw [respill_at_frame hflaws]
    rw [hgroups]
    by_cases hk : key' = key
    · rw [hk, Tab.get?_set_self, hg, Option.map_some, departsIn, if_pos ⟨List.mem_cons_self, hb⟩]
    · rw [Tab.get?_set_ne _ _ _ _ hk, h.groups]
      refine Option.map_congr fun g' _ => ?_
      unfold departsIn
      refine if_congr (and_congr_left fun _ => ?_) rfl rfl
      rw [List.mem_cons, or_iff_right hk]
  form := State.respill_wf h.form
  outside c hc := by
    have hflaws : t.flaws = [] := by rw [h.frame]; exact hf
    rw [respill_at_outside hflaws h.form (hc key g hg hb), h.outside c hc]
  still hs := by
    have hflaws : t.flaws = [] := by rw [h.frame]; exact hf
    rw [respill_at_mem hflaws (hs key g hg hb).symm, h.still hs]

/-- One key served: a spill in a handler, which ends the context, is left out. -/
theorem Departed.step (h : Departed s bid k done t) (hf : s.flaws = []) (hk : key ∉ done)
    (hs : ∀ key g, s.groups.get? key = some g → (g.depart s.clock k).frame ≠ none → ∀ e ∈ (g.depart s.clock k).paths, e.idx < 16) :
    Departed s bid k (key :: done) (departGroup bid k t key) := by
  have hclock : t.clock = s.clock := by rw [h.frame]
  have hget : t.groups.get? key = s.groups.get? key := by
    rw [h.groups]
    refine (Option.map_congr fun g _ => ?_).trans Option.map_id'
    exact if_neg fun hin => hk hin.1
  unfold departGroup
  rw [hget, hclock]
  split
  · next hg => exact h.skips fun g hg' => by rw [hg] at hg'; cases hg'
  next g hg =>
  dsimp only
  split
  · next hb => exact h.skips fun g' hg' => by rw [hg] at hg'; cases hg'; exact hb
  next hb =>
  rw [if_neg]
  · exact h.serves hf hg (not_not.mp hb)
  · rw [Bool.and_eq_true, List.any_eq_true]
    rintro ⟨hframe, e, he, hidx⟩
    have := hs key g hg (Option.isSome_iff_ne_none.mp hframe) e he
    exact absurd (of_decide_eq_true hidx) (by omega)

theorem Departed.all (hf : s.flaws = [])
    (hs : ∀ key g, s.groups.get? key = some g → (g.depart s.clock k).frame ≠ none → ∀ e ∈ (g.depart s.clock k).paths, e.idx < 16)
    {keys : List Nat} (hn : keys.Nodup) (hd : ∀ key ∈ keys, key ∉ done) (h : Departed s bid k done t) :
    ∃ done', (∀ key, key ∈ done' ↔ key ∈ keys ∨ key ∈ done) ∧ Departed s bid k done' (keys.foldl (departGroup bid k) t) := by
  induction keys generalizing t done with
  | nil => exact ⟨done, fun key => by simp, h⟩
  | cons key r ih =>
    obtain ⟨hkey, hr⟩ := List.nodup_cons.mp hn
    obtain ⟨done', hmem, h'⟩ := ih hr (done := key :: done)
      (fun key' hin hin' => (List.mem_cons.mp hin').elim (fun he => hkey (he ▸ hin)) (hd key' (List.mem_cons_of_mem _ hin)))
      (h.step hf (hd key List.mem_cons_self) hs)
    refine ⟨done', fun key' => ?_, h'⟩
    rw [hmem, List.mem_cons, List.mem_cons]
    tauto

theorem departAll_departed (hw : Memory.wf s.mem = true) (hf : s.flaws = [])
    (hs : ∀ key g, s.groups.get? key = some g → (g.depart s.clock k).frame ≠ none → ∀ e ∈ (g.depart s.clock k).paths, e.idx < 16) :
    ∃ done, (∀ key, key ∈ done ↔ key ∈ blockKeys s bid) ∧ Departed s bid k done (departAll s bid k) := by
  have hnone : Departed s bid k [] s := by
    refine ⟨rfl, fun key => ?_, hw, fun _ _ => rfl, fun _ => rfl⟩
    refine (Eq.symm ?_)
    refine (Option.map_congr fun g _ => ?_).trans Option.map_id'
    exact if_neg fun hin => List.not_mem_nil hin.1
  obtain ⟨done, hmem, h⟩ := Departed.all hf hs (nodup_eraseDups _) (fun _ _ => List.not_mem_nil) hnone
  exact ⟨done, fun key => by rw [hmem]; simp [blockKeys], departAll_eq s bid k ▸ h⟩
end

/-! ### What an arrival says (11 R205) -/

/-- One arrival on a barrier, by its PENDING and by the bytes outstanding. -/
theorem Barrier.arrival_says (b : Barrier) (n : Nat) :
    (b.arrival n).expct = b.expct ∧ (b.arrival n).reserved = b.reserved ∧ ((b.arrival n).ovr = true ↔ b.ovr = true ∨ b.pend = 0) ∧
    (1 < b.pend → (b.arrival n).pend = b.pend - 1 ∧ (b.arrival n).bytes = (b.bytes + n) % 2 ^ 32 ∧ (b.arrival n).phase = b.phase) ∧
    (b.pend = 1 → (b.bytes + n) % 2 ^ 32 ≠ 0 → (b.arrival n).pend = 0 ∧ (b.arrival n).bytes = (b.bytes + n) % 2 ^ 32 ∧ (b.arrival n).phase = b.phase) ∧
    (b.pend = 1 → (b.bytes + n) % 2 ^ 32 = 0 → (b.arrival n).pend = b.expct ∧ (b.arrival n).bytes = 0 ∧ (b.arrival n).phase = !b.phase) ∧
    (b.pend = 0 → b.bytes ≠ 0 → (b.arrival n).pend = 0 ∧ (b.arrival n).bytes = b.bytes ∧ (b.arrival n).phase = b.phase) ∧
    (b.pend = 0 → b.bytes = 0 → (b.arrival n).pend = b.expct ∧ (b.arrival n).bytes = 0 ∧ (b.arrival n).phase = !b.phase) := by
  obtain ⟨phase, ovr, pend, expct, bytes, reserved⟩ := b
  unfold Barrier.arrival Barrier.settled
  rcases pend with _ | _ | pend
  · by_cases hb : bytes = 0 <;> simp [hb]
  · generalize (bytes + n) % 2 ^ 32 = left
    by_cases hl : left = 0 <;> simp [hl]
  · simp

/-! ### The completion of a block barrier (11 R207) -/

section
variable {s : State} {b : Block}

/-- The arrivals of barrier `s.inp.b` of block `s.inp.a` are cleared. -/
def arrivalsCleared (s : State) (b : Block) : State :=
  { s with blocks := s.blocks.set s.inp.a { b with arrived := b.arrived.filter (fun x => x.1 / 64 != s.inp.b) } }

theorem exec_blockBarrierComplete (hb : s.blocks.get? s.inp.a = some b) (ho : b.out = false) (hs : b.saved = []) : exec .blockBarrierComplete s =
    .next (if barrierDone s b s.inp.b then departAll (arrivalsCleared s b) s.inp.a s.inp.b else s) := by
  have hstays : (b.out || !b.saved.isEmpty || !barrierDone s b s.inp.b) = !barrierDone s b s.inp.b := by
    rw [ho, hs]
    rfl
  show execBlockBarrierComplete s = _
  rw [execBlockBarrierComplete, hb]
  dsimp only
  rw [hstays]
  cases barrierDone s b s.inp.b <;> rfl
end

/-- Settles O29: a barrier form is refused or changes the one barrier as `Barrier.arrival` says; of a block barrier, the path table of a group that departs by `stands_departTable`, and the groups of the block one after another by `departAll_departed`. -/
theorem barriersCountFlipAndReleaseEveryLane : Obligations.BarriersCountFlipAndReleaseEveryLane := by
  unfold Obligations.BarriersCountFlipAndReleaseEveryLane
  refine ⟨fun s hw => ?_, ?_, fun s b hw hb ho hs hf hspill => ?_⟩
  · intro pend expct bytes phase ovr reserved only arrived
    have honly : ∀ {t}, NearOnly s t → only s t := fun h => ⟨h.memory, h.record⟩
    have harrived : ∀ block p n, only s (barArrived s block p n) ∧ arrived s.mem (barArrived s block p n).mem p n := fun block p n => by
      have hsays := (barrierAt s.mem p).arrival_says n
      rw [← barArrived_barrier (block := block) hw, barrierAt_eq, barrierAt_eq] at hsays
      exact ⟨honly barWritten_only, fun c hc => barWritten_outside hw hc, hsays⟩
    refine ⟨?_, ?_,
      fun g p n ids hg hwait hi hc => ⟨_, exec_baraArrival hg hwait (inFlight_none hi) hc, harrived ..⟩⟩
    · intro p hp w g r h a ha hr
      exact barWords_refused hp h (localReason_nearRefused ha hr)
    intro w g a p n ids hlt h16
    refine ⟨fun h => ?_, fun h hi hc => ⟨_, exec_bara hlt h16 h (inFlight_none hi) hc, harrived ..⟩, fun h hi => bara_blocks hlt h16 h (inFlight_some hi),
      fun h hc hp => ?_, fun h hc hp => ?_⟩
    · obtain ⟨x, hexec⟩ := exec_barinit hlt h16 h
      have hfresh := (barWritten_barrier (s := s) (block := g.env.block) (p := p) (x := x) (z := 0) hw).trans (barrierOf_fresh (Nat.mod_lt n (by decide)))
      rw [barrierAt_eq] at hfresh
      obtain ⟨hphase, hovr, hpend, hexpct, hbytes, hreserved⟩ := Barrier.mk.inj hfresh
      exact ⟨_, hexec, honly barWritten_only, fun c hc => barWritten_outside hw hc, hpend, hexpct, hbytes, hphase, hovr, hreserved⟩
    · exact (exec_barw hlt h16 h hc).trans (by rw [if_neg hp])
    · exact (exec_barw hlt h16 h hc).trans (by rw [if_pos hp])
  · intro w s g b k m ids n h hb
    obtain ⟨hgo, hblock⟩ := exec_barb h hb
    exact ⟨g.recPark m k, rfl, recPark_parks m k, fun hi => hgo (inFlight_none hi), fun hi => hblock (inFlight_some hi)⟩
  · rw [exec_blockBarrierComplete hb ho hs]
    refine ⟨fun hd => by rw [hd]; rfl, fun hd => ?_⟩
    obtain ⟨done, hdone, hall⟩ := departAll_departed (s := arrivalsCleared s b) (bid := s.inp.a) (k := s.inp.b) hw hf hspill
    refine ⟨_, { b with arrived := b.arrived.filter (fun x => x.1 / 64 != s.inp.b) }, by rw [if_pos hd], hall.frame, rfl, rfl,
      fun key g hg => ?_, hall.outside, hall.still⟩
    have hkey : g.env.block = s.inp.a → departsIn (arrivalsCleared s b) s.inp.a s.inp.b done key g = g.depart s.clock s.inp.b := fun hblock =>
      if_pos ⟨(hdone key).mpr (mem_blockKeys hg hblock), hblock⟩
    have hget : (departAll (arrivalsCleared s b) s.inp.a s.inp.b).groups.get? key = some (departsIn (arrivalsCleared s b) s.inp.a s.inp.b done key g) := by
      rw [hall.groups, show (arrivalsCleared s b).groups.get? key = some g from hg, Option.map_some]
    refine ⟨_, hget, ?_, fun hother => if_neg fun hin => hother hin.2, hkey, fun hblock hbetween => ?_, fun hblock hwithin => ?_⟩
    · unfold departsIn
      split
      · exact depart_changes ..
      · rfl
    · obtain ⟨hpaths, hparked⟩ := depart_between s.clock s.inp.b hbetween
      rw [hkey hblock, hpaths, hparked]
      exact ⟨fun x hx hk => unpark_parkedOn hx hk, fun l o _ => stands_departTable g.env.stride⟩
    · rw [hkey hblock]
      exact depart_within s.clock s.inp.b hwithin

end Sys2Proof.Machine

/-! PROOFS, 12 R213, R214, R220, R224. Gauge records and the parts of an accumulator tile: the fields of a descriptor, the words that read and change one record, and the
bytes that `mmrd` and `mmwr` take for each lane. -/

namespace Sys2Proof.Machine
open Sys2Proof Sys2Proof.Claims

/-! ### The fields of a gauge descriptor (12 Table 2) -/

/-- A field within a field. -/
theorem fld_fld (x lo : Nat) {n a b : Nat} (h : a + b ≤ n) : fld (fld x lo n) a b = fld x (lo + a) b := by
  rw [show fld (fld x lo n) a b = fld (x / 2 ^ lo % 2 ^ n) a b from rfl, fld_mod _ h, fld, fld, Nat.div_div_eq_div_mul, ← Nat.pow_add]

theorem sext16_spec (x : Nat) : -2 ^ 15 ≤ sext 16 x ∧ sext 16 x < 2 ^ 15 ∧ (2 ^ 16 : Int) ∣ sext 16 x - x := by
  simp only [sext]
  split <;> omega

/-- The fields stand at their bytes. -/
theorem gaugeOf_memVal (m : List Host.Cell) (p inuse : Nat) : gaugeOf (memVal m p 64) inuse =
    { valid := true, inuse := inuse, abase := BitVec.ofNat 64 (memVal m p 8), bbase := BitVec.ofNat 64 (memVal m (p + 8) 8), astride := memVal m (p + 16) 4,
      bstride := memVal m (p + 20) 4, cstride := memVal m (p + 24) 4, steps := memVal m (p + 28) 2, cexp := sext 16 (memVal m (p + 30) 2),
      m := memVal m (p + 32) 1 % 128 + 1, n := memVal m (p + 33) 1 % 128 + 1, bord := memVal m (p + 33) 1 / 128 } := by
  have h0 := memVal_part m p (show 0 + 8 ≤ 64 by decide)
  have h32 : memVal m (p + 32) 1 = fld (memVal m p 64) 256 8 := memVal_part m p (by decide)
  have h33 : memVal m (p + 33) 1 = fld (memVal m p 64) 264 8 := memVal_part m p (by decide)
  have hlow : ∀ x lo, fld x lo 7 = fld x lo 8 % 128 := fun x lo => by
    rw [show fld x lo 7 = fld x (lo + 0) 7 from rfl, ← fld_fld x lo (show 0 + 7 ≤ 8 by decide), fld, Nat.pow_zero, Nat.div_one]
    rfl
  have hb : fld (memVal m p 64) 271 1 = memVal m (p + 33) 1 / 128 := by
    rw [show fld (memVal m p 64) 271 1 = fld (memVal m p 64) (264 + 7) 1 from rfl, ← fld_fld _ _ (show 7 + 1 ≤ 8 by decide), ← h33]
    have hlt := memVal_lt m (p + 33) 1
    exact Nat.mod_eq_of_lt (by omega)
  rw [gaugeOf, hlow, hlow, ← h32, ← h33, hb, memVal_part m p (show 8 + 8 ≤ 64 by decide), memVal_part m p (show 16 + 4 ≤ 64 by decide),
    memVal_part m p (show 20 + 4 ≤ 64 by decide), memVal_part m p (show 24 + 4 ≤ 64 by decide), memVal_part m p (show 28 + 2 ≤ 64 by decide),
    memVal_part m p (show 30 + 2 ≤ 64 by decide), show memVal m p 8 = _ from h0]

/-! ### The words of gauge records (12 R220) -/

section
variable {s : State} {g : Group} {w : EN}

/-- The group with one gauge record replaced. -/
def Group.setGauge (g : Group) (k : Nat) (r : Gauge) : Group := { g with gauges := g.gauges.set k r }

theorem exec_gset (h : Issues (.gset w) s g) (hlt : scalarVal s g w.a < 0x7F0000) (h64 : scalarVal s g w.a % 64 = 0)
    (hc : Clean s (slicePlace (tileOf s.cur) (scalarVal s g w.a)) 64) :
    GroupBecomes (.gset w) s g (g.setGauge w.index.toNat (gaugeOf (memVal s.mem (slicePlace (tileOf s.cur) (scalarVal s g w.a)) 64) (g.gauge w.index.toNat).inuse)) := by
  refine (show _ = execGset w s from rfl).trans (runWord_ok _ s _ g _ _ h ?_)
  rw [nearDesc_clean (who := whoOf s g (lanesFor (.gset w) g)) hlt h64 hc]
  rfl

theorem gset_refused {r : Nat} (h : Issues (.gset w) s g) (hr : localReason true 64 (scalarVal s g w.a) = some r) : exec (.gset w) s =
    .next (takeTrap (timed (.gset w) s g s) g tAddr (addrDetail false 0 r (scalarVal s g w.a)) (lanesFor (.gset w) g)) := by
  refine word_traps h (show _ = execGset w s from rfl) ?_
  rw [nearDesc_refused hr]

/-- The new value of the field that `gmod` names, of its old one. -/
def gmodValue (w : EN) (s : State) (g : Group) (y : Nat) : Nat := if bit w.param.toNat 3 then y + scalarVal s g w.a else scalarVal s g w.a

theorem exec_gmod (h : Issues (.gmod w) s g) (hv : (g.gauge w.index.toNat).valid = true) :
    GroupBecomes (.gmod w) s g (g.setGauge w.index.toNat ((g.gauge w.index.toNat).modify (w.param.toNat % 8) (gmodValue w s g))) := by
  refine (show _ = execGmod w s from rfl).trans (runWord_ok _ s _ g _ _ h ?_)
  exact if_neg (by rw [hv]; decide)

theorem exec_ginv (h : Issues (.ginv w) s g) : GroupBecomes (.ginv w) s g (g.setGauge w.index.toNat { (g.gauge w.index.toNat) with valid := false }) :=
  (show _ = execGinv w s from rfl).trans (groupWord_ok _ s g _ h)

theorem exec_gget (h : Issues (.gget w) s g) (hv : (g.gauge w.index.toNat).valid = true) (hf : w.param.toNat % 8 < 4) :
    WritesScalar (.gget w) s g w.d ((g.gauge w.index.toNat).read (w.param.toNat % 8)) 0 := by
  refine ⟨_, ?_, g.writeS_written w.d _⟩
  rw [Group.raise_zero]
  refine (show _ = execGget w s from rfl).trans (runWord_ok _ s _ g _ _ h ?_)
  have hvalid : ¬ (!(g.gauge w.index.toNat).valid) = true := by rw [hv]; decide
  exact (if_neg hvalid).trans (if_neg (by omega))

/-- An invalid record can be neither changed nor read. -/
theorem gaugeWords_matrix {p : EN → Instr} (hp : p ∈ [Instr.gmod, .gget]) (h : Issues (p w) s g) (hv : (g.gauge w.index.toNat).valid = false) : exec (p w) s =
    .next (takeTrap (timed (p w) s g s) g tMatrix (matrixDetail g w.index.toNat) (lanesFor (p w) g)) := by
  have hinvalid : (!(g.gauge w.index.toNat).valid) = true := by rw [hv]; rfl
  revert p
  simp only [List.forall_mem_cons, List.not_mem_nil, false_imp_iff, implies_true, and_true]
  exact ⟨fun h => word_traps h (show _ = execGmod w s from rfl) (if_pos hinvalid), fun h => word_traps h (show _ = execGget w s from rfl) (if_pos hinvalid)⟩

variable (w s g)

/-- The two base fields take the sum, or the value, modulo 2^64. -/
theorem gmodValue_base (b : W64) : BitVec.ofNat 64 (gmodValue w s g b.toNat) = (if bit w.param.toNat 3 then b else 0) + BitVec.ofNat 64 (scalarVal s g w.a) := by
  unfold gmodValue
  split
  · rw [BitVec.ofNat_add, BitVec.ofNat_toNat, BitVec.setWidth_eq]
  · rw [BitVec.ofNat_eq_ofNat, BitVec.zero_add]

theorem gmodValue_steps (n : Nat) : gmodValue w s g n = (if bit w.param.toNat 3 then n else 0) + scalarVal s g w.a := by
  unfold gmodValue
  split
  · rfl
  · exact (Nat.zero_add _).symm

/-- CEXP takes the sum, or the value, wrapped to 16 bits. -/
theorem gmodValue_cexp (e : Int) : (2 ^ 16 : Int) ∣ sext 16 (gmodValue w s g (wrapN 16 e)) - ((if bit w.param.toNat 3 then e else 0) + (scalarVal s g w.a : Int)) := by
  have hs := (sext16_spec (gmodValue w s g (wrapN 16 e))).2.2
  have hw := wrapN_cast 16 e
  unfold gmodValue at hs ⊢
  cases hb : bit w.param.toNat 3 with
  | false =>
    simp only [hb, Bool.false_eq_true, if_false] at hs ⊢
    omega
  | true =>
    simp only [hb, if_true] at hs ⊢
    omega
end

/-! ### Bytes placed one run after another -/

/-- Runs of bytes placed by an engine, in order. -/
def pokeAll (s : State) (xs : List (Nat × List Byte)) : State := xs.foldl (fun s x => s.poke x.1 x.2) s

theorem pokeAll_mem (s : State) (xs : List (Nat × List Byte)) : (pokeAll s xs).mem = storeAll s.mem xs := by
  induction xs generalizing s with
  | nil => rfl
  | cons x r ih => exact ih _

theorem pokeAll_only (s : State) (xs : List (Nat × List Byte)) : OnlyMemory s (pokeAll s xs) := by
  induction xs generalizing s with
  | nil => exact ⟨rfl, fun _ h => h⟩
  | cons x r ih =>
    obtain ⟨hframe, hflaws⟩ := ih (s.poke x.1 x.2)
    exact ⟨hframe, fun f hf => (List.mem_filter.mp (hflaws f hf)).1⟩

/-- A list beside the values of its members. -/
theorem zip_map_self {α β : Type} (xs : List α) (f : α → β) : xs.zip (xs.map f) = xs.map fun x => (x, f x) := by
  simpa using List.zip_map' (f := id) (g := f) (l := xs)

/-! ### Parts of an accumulator tile (12 R224) -/

section
variable (w : EN) (s : State) (g : Group)

/-- The 4 bytes of a lane of the part that the lane names. -/
def lanePart (l : Nat) : Nat := accPlace (tileOf s.cur) (partOfs g (fld w.param.toNat 9 4) (accBytes w.ty) (partNo s g w.b l) l)

theorem accBytes_cases (t : Ty) : accBytes t = 4 ∨ accBytes t = 2 := by
  unfold accBytes
  split
  · exact .inl rfl
  · exact .inr rfl

theorem lanePart_eq (l : Nat) : let rb := 128 * accBytes w.ty
    let q := laneVal s g .n32 w.b l % 256
    lanePart w s g l = accPlace (tileOf s.cur) ((g.env.accBase + w.param.toNat / 2 ^ 9 % 16) * 32768 + (q / (rb / 256) % 128 * rb + q % (rb / 256) * 256 + 4 * l)) := by
  have hrow : 256 ≤ 128 * accBytes w.ty := by have := accBytes_cases w.ty; omega
  dsimp only
  rw [lanePart, partOfs, if_pos hrow]
  rfl

/-- A part starts at a multiple of 256 bytes. -/
theorem lanePart_mod {l : Nat} (hl : l < 64) : lanePart w s g l % 256 = 4 * l := by
  rw [lanePart_eq]
  dsimp only [accPlace]
  rcases accBytes_cases w.ty with e | e <;> rw [e] <;> omega

theorem lanePart_apart {k l : Nat} (hk : k < 64) (hl : l < 64) (h : l < k) :
    lanePart w s g l + 4 ≤ lanePart w s g k ∨ lanePart w s g k + 4 ≤ lanePart w s g l := by
  have h1 := lanePart_mod w s g hk
  have h2 := lanePart_mod w s g hl
  omega

/-- The words stored for the lanes of `mmwr`, one after another. -/
theorem mmwr_pokes (ls : List Nat) :
    ls.foldl (fun s l => s.poke (lanePart w s g l) (leBytes 4 (laneVal s g .n32 w.a l))) s =
      pokeAll s (ls.map fun l => (lanePart w s g l, leBytes 4 (laneVal s g .n32 w.a l))) := by
  induction ls generalizing s with
  | nil => rfl
  | cons l r ih => exact ih _
end

section
variable {s : State} {g : Group} {w : EN}

theorem exec_mmrd (h : Issues (.mmrd w) s g) (hc : ∀ l, lane (lanesFor (.mmrd w) g) l = true → Clean s (lanePart w s g l) 4) :
    WritesVector (.mmrd w) s g .n32 w.d (fun l => memVal s.mem (lanePart w s g l) 4) 0 := by
  have hread : ∀ p ∈ (lanesOf (lanesFor (.mmrd w) g)).map (lanePart w s g), Clean s p 4 := fun p hp => by
    obtain ⟨l, hl, rfl⟩ := List.mem_map.mp hp
    exact hc l (mem_lanesOf.mp hl)
  refine ⟨_, ?_, g.writeV_written .n32 w.d _ _⟩
  rw [Group.raise_zero]
  refine (show _ = execMmrd w s from rfl).trans (runWord_ok _ s _ g _ _ h ?_)
  have hall := readAll_of_clean (w := whoOf s g (lanesFor (.mmrd w) g)) hread
  unfold lanePart at hall
  dsimp only
  rw [hall]
  dsimp only
  rw [List.map_map, List.map_map, zip_map_self]
  exact congrArg Res.ok (congrArg s.put (g.writeV_congr _ _ fun l hl => by rw [find?_lanes hl]; rfl))

theorem exec_mmwr (h : Issues (.mmwr w) s g) : exec (.mmwr w) s = .next (timed (.mmwr w) s g
    (pokeAll s (laneRuns (lanesFor (.mmwr w) g) 4 (lanePart w s g) (laneVal s g .n32 w.a)))) := by
  refine (show _ = execMmwr w s from rfl).trans (runWord_ok _ s _ g _ _ h ?_)
  exact congrArg Res.ok (mmwr_pokes w s g _)
end

/-- Settles O30: `gaugeOf_memVal` gives the record that `gset` loads, `gmodValue` the field that `gmod` leaves, and `lanePart` the bytes of each lane of `mmrd` and `mmwr`, which
no other lane has (`lanePart_apart`). -/
theorem gaugeRecordsAndAccumulatorParts : Obligations.GaugeRecordsAndAccumulatorParts := by
  unfold Obligations.GaugeRecordsAndAccumulatorParts
  refine ⟨fun w s g => ?_, fun w s g => ?_⟩
  · intro k p x mv r f up change
    have hmod : Issues (.gmod w) s g → r.valid = true → ∀ n, f = n → GroupBecomes (.gmod w) s g (change fun r => r.modify n (gmodValue w s g)) :=
      fun h hv n hn => hn ▸ exec_gmod h hv
    refine ⟨fun h hlt h64 hc => ?_, fun n h hlt hn => gset_refused h (localReason_nearRefused hlt hn),
      fun h hv => ⟨fun hf => ?_, fun hf => ?_, fun hf => ?_, fun hf => ?_⟩, exec_ginv, fun h hv hf => ?_, fun p hp h hv => gaugeWords_matrix hp h hv⟩
    · obtain ⟨hlo, hhi, hdvd⟩ := sext16_spec (mv 30 2)
      refine ⟨_, hlo, hhi, hdvd, ?_⟩
      have hset := exec_gset h hlt h64 hc
      rw [gaugeOf_memVal] at hset
      exact hset
    · have hbase := hmod h hv 0 hf
      simp only [Gauge.modify, gmodValue_base] at hbase
      exact hbase
    · have hbase := hmod h hv 1 hf
      simp only [Gauge.modify, gmodValue_base] at hbase
      exact hbase
    · have hsteps := hmod h hv 2 hf
      simp only [Gauge.modify, gmodValue_steps] at hsteps
      exact hsteps
    · obtain ⟨hlo, hhi, -⟩ := sext16_spec (gmodValue w s g (wrapN 16 r.cexp))
      exact ⟨_, hlo, hhi, gmodValue_cexp s g w r.cexp, hmod h hv 3 hf⟩
    · have hget := exec_gget h hv hf
      have hread : ∀ f < 4, r.read f = [r.abase.toNat, r.bbase.toNat, r.steps, wrapN 64 r.cexp].getD f 0 := fun f hf => by
        interval_cases f <;> rfl
      rwa [show (g.gauge w.index.toNat).read _ = _ from hread _ hf] at hget
  · intro z rb q p
    have hp : ∀ l, lanePart w s g l = p l := fun l => lanePart_eq w s g l
    refine ⟨fun h hc => ?_, fun h hw => ?_⟩
    · have hread := exec_mmrd h fun l hl => by rw [hp]; exact hc l (lt_of_lane hl) hl
      simp only [hp] at hread
      exact hread
    · refine ⟨_, exec_mmwr h, pokeAll_only _ _, fun a ha => ?_, fun l hl hm => ?_⟩
      · rw [pokeAll_mem]
        exact laneRuns_outside hw fun l hl => by rw [hp]; exact ha l (lt_of_lane hl) hl
      · rw [pokeAll_mem, ← hp]
        exact laneRuns_lane hw hm fun k hk hlk => lanePart_apart w s g (lt_of_lane hlk) hl hk

end Sys2Proof.Machine

/-! PROOFS, 12 R214 to R216, R218, R219, R221 to R223, 09 R157. Matrix words: the checks of an `mma`'s operands, and the command that a word queues. -/

namespace Sys2Proof.Machine
open Sys2Proof Sys2Proof.Claims

/-! ### The operand checks of an `mma` (12 R221, 09 R157) -/

section
variable {a rows stride n : Nat} {bad : Bool}

theorem rangeCheck_wide (h : 2 ^ 48 ≤ a) : rangeCheck a bad rows stride n = some (3, a) := by rw [rangeCheck, if_pos h]

theorem rangeCheck_rows (h : a < 2 ^ 48) (h16 : a % 16 = 0) : rangeCheck a false rows stride n = rowsReason a stride n rows := by
  rw [rangeCheck, if_neg (by omega), if_neg (by simp [h16])]
end

section
variable (r : Gauge) (sN z k stride : Nat)

/-- A stride of the record is misaligned and counts, since both bases are aligned. -/
def Gauge.strideBad : Bool := !(r.abase.toNat % 16 != 0 || r.bbase.toNat % 16 != 0) && stride % 16 != 0

/-- The rows of A and of B that an `mma` reads in all its steps, by BORD, and the bytes of one of B. -/
def Gauge.aRows : Nat := if sN = 0 then 0 else r.m
def Gauge.bRows : Nat := if r.bord = 0 then sN * k else if sN = 0 then 0 else r.n
def Gauge.bWidth : Nat := if r.bord = 0 then r.n * z else sN * k * z

/-- A is checked before B. -/
theorem mmaCheck_eq : mmaCheck r sN z k =
    (rangeCheck r.abase.toNat (r.strideBad r.astride) (r.aRows sN) r.astride (sN * k * z)).or
      (rangeCheck r.bbase.toNat (r.strideBad r.bstride) (r.bRows sN k) r.bstride (r.bWidth sN z k)) := by
  unfold mmaCheck Gauge.bRows Gauge.bWidth
  dsimp only
  split
  · next e => rw [show rangeCheck _ (r.strideBad r.astride) (r.aRows sN) _ _ = _ from e]; rfl
  · next e =>
    rw [show rangeCheck _ (r.strideBad r.astride) (r.aRows sN) _ _ = _ from e, Option.none_or]
    split <;> rfl

theorem rowsReason_b (a : Nat) : rowsReason a stride (r.bWidth sN z k) (r.bRows sN k) =
    if r.bord = 0 then rowsReason a stride (r.n * z) (sN * k) else rowsReason a stride (sN * k * z) (if sN = 0 then 0 else r.n) := by
  unfold Gauge.bWidth Gauge.bRows
  split <;> rfl

variable {r stride}

theorem strideBad_true (ha : r.abase.toNat % 16 = 0) (hb : r.bbase.toNat % 16 = 0) (h : stride % 16 ≠ 0) : r.strideBad stride = true := by
  simp [Gauge.strideBad, ha, hb, h]

theorem strideBad_false (h : stride % 16 = 0) : r.strideBad stride = false := by simp [Gauge.strideBad, h]

variable {sN z k} (h : r.abase.toNat < 2 ^ 48)
include h

/-- The rows of A are checked where base and stride are sound, then B. -/
theorem mmaCheck_aSound (h16 : r.abase.toNat % 16 = 0) (hs : r.astride % 16 = 0) : mmaCheck r sN z k =
    (rowsReason r.abase.toNat r.astride (sN * k * z) (r.aRows sN)).or
      (rangeCheck r.bbase.toNat (r.strideBad r.bstride) (r.bRows sN k) r.bstride (r.bWidth sN z k)) := by
  rw [mmaCheck_eq, strideBad_false hs, rangeCheck_rows h h16]

theorem mmaCheck_aMisaligned (hbad : r.abase.toNat % 16 ≠ 0 ∨ r.strideBad r.astride = true) : mmaCheck r sN z k = some (9, r.abase.toNat) := by
  rw [mmaCheck_eq, rangeCheck_misaligned h hbad, Option.some_or]
end

/-! ### Commands accepted (12 R214, R216, R218) -/

/-- One more command uses a gauge record. -/
def Group.used (g : Group) (k : Nat) : Group := g.setGauge k { (g.gauge k) with inuse := (g.gauge k).inuse + 1 }

theorem accept_eq (s : State) (g : Group) (m : Mask) (k : Nat) (c : MatCmd) : accept s g m k c =
    .ok { (logEvent s (whoOf s g m) 4 (tileOf s.cur) 0) with groups := s.groups.set s.cur (g.used k), mats := s.mats ++ [c], seq := s.seq + 1 } := by
  have hcur : (logEvent s (whoOf s g m) 4 (tileOf s.cur) 0).cur = s.cur := by rw [logEvent_frame]
  unfold accept State.put
  dsimp only
  rw [logEvent_groups, hcur]
  rfl

section
variable {s : State} {g : Group} {w : EN}

/-- The steps of an `mma`, its stage bytes and its accumulator type, from its modifiers (12 Table 1, R216, R219). -/
def mmaSteps (w : EN) (g : Group) : Nat := if fld w.param.toNat 0 7 = 0 then (g.gauge w.index.toNat).steps else fld w.param.toNat 0 7
def mmaStage (w : EN) (g : Group) : Nat := stageBytes (g.gauge w.index.toNat).m (g.gauge w.index.toNat).n (stepDepth w.ty) (bytesOf w.ty)
def mmaAcc (w : EN) : Ty := accTy (fld w.param.toNat 7 2)

/-- The command that an `mma` queues. -/
def mmaCmd (w : EN) (s : State) (g : Group) : MatCmd :=
  { (baseCmd s g (lanesFor (.mma w) g) w.index.toNat (fld w.param.toNat 9 4) (mmaAcc w).fullAcc) with
    steps := mmaSteps w g, ty := w.ty, acc := mmaAcc w, rm := RM.ofCode (fld w.param.toNat 13 3), zero := bit w.param.toNat 16, stage := mmaStage w g }

/-- A queue without room, or a throttled tile, holds the word back. -/
theorem held_back {room : Bool} {n : Nat} (h : room = false) : (!room || decide (1 ≤ n)) = true := by rw [h]; rfl

theorem not_held_back {room : Bool} {n : Nat} (h : room = true) (hn : n = 0) : ¬ (!room || decide (1 ≤ n)) = true := by rw [h, hn]; decide

theorem mma_stalls (h : Issues (.mma w) s g) (hq : queueRoom s (tileOf s.cur) (mmaStage w g) = false) : exec (.mma w) s = .next (s.put g.retry) := by
  refine (show _ = execMma w s from rfl).trans (runWord_stall _ s g _ _ h ?_)
  exact if_pos (held_back hq)

section
variable (h : Issues (.mma w) s g) (ht : throttle s (tileOf s.cur) = 0) (hq : queueRoom s (tileOf s.cur) (mmaStage w g) = true)
include h ht hq

theorem mma_invalid (hv : (g.gauge w.index.toNat).valid = false) : exec (.mma w) s =
    .next (takeTrap (timed (.mma w) s g s) g tMatrix (matrixDetail g w.index.toNat) (lanesFor (.mma w) g)) := by
  refine word_traps h (show _ = execMma w s from rfl) ((if_neg (not_held_back hq ht)).trans (if_pos ?_))
  rw [hv]
  rfl

variable (hv : (g.gauge w.index.toNat).valid = true)
include hv

theorem mma_refused {n a : Nat} (hc : mmaCheck (g.gauge w.index.toNat) (mmaSteps w g) (bytesOf w.ty) (stepDepth w.ty) = some (n, a)) : exec (.mma w) s =
    .next (takeTrap (timed (.mma w) s g s) g tAddr (addrDetail false 0 n a) (lanesFor (.mma w) g)) := by
  refine word_traps h (show _ = execMma w s from rfl) ((if_neg (not_held_back hq ht)).trans ((if_neg (by rw [hv]; decide)).trans ?_))
  unfold mmaSteps at hc
  rw [hc]

theorem mma_queued (hc : mmaCheck (g.gauge w.index.toNat) (mmaSteps w g) (bytesOf w.ty) (stepDepth w.ty) = none) : exec (.mma w) s =
    .next (timed (.mma w) s g { (logEvent s (whoOf s g (lanesFor (.mma w) g)) 4 (tileOf s.cur) 0) with
      groups := s.groups.set s.cur (g.used w.index.toNat), mats := s.mats ++ [mmaCmd w s g], seq := s.seq + 1 }) := by
  refine (show _ = execMma w s from rfl).trans (runWord_ok _ s _ g _ _ h ((if_neg (not_held_back hq ht)).trans ((if_neg (by rw [hv]; decide)).trans ?_)))
  unfold mmaSteps at hc
  rw [hc]
  exact accept_eq s g _ _ _
end

/-- `mmfence` delivers OPEN and opens the next batch (12 R222). -/
theorem exec_mmfence (h : Issues (.mmfence w) s g) : GroupBecomes (.mmfence w) s g { (g.writeS w.d g.bopen.toNat) with bopen := g.bopen + 1 } :=
  (show _ = execMmfence w s from rfl).trans (groupWord_ok _ s g _ h)

variable (w g)

theorem mmaSteps_eq : mmaSteps w g = if w.param.toNat % 128 = 0 then (g.gauge w.index.toNat).steps else w.param.toNat % 128 := by
  rw [mmaSteps, fld, Nat.pow_zero, Nat.div_one]
  rfl

theorem stepDepth_eq (t : Ty) : stepDepth t = if t = .f8e4 then 64 else 32 := by simp [stepDepth]

theorem mmaAcc_eq : mmaAcc w = [.f32, .bf16, .f16, .rn24].getD (w.param.toNat / 128 % 4) .f32 := by
  have hall : ∀ n < 4, accTy n = [.f32, .bf16, .f16, .rn24].getD n .f32 := by decide
  exact hall _ (Nat.mod_lt _ (by decide))
end

/-! ### `mmconv` (12 R223) -/

section
variable {s : State} {g : Group} {w : CV}

/-- The record that the word names. -/
def convRecord (w : CV) : Nat := fld w.b.idx 4 4

/-- The command that an `mmconv` queues. -/
def convCmd (w : CV) (s : State) (g : Group) : MatCmd :=
  { (baseCmd s g (lanesFor (.mmconv w) g) (convRecord w) (w.b.idx % 16) w.ty.fullAcc) with
    conv := true, acc := w.ty, rm := w.rm, dst := scalarVal s g w.a, dty := w.dty, exp := (g.gauge (convRecord w)).cexp + w.scale.toInt }

/-- The checks of its destination. -/
def convCheck (w : CV) (s : State) (g : Group) : Option (Nat × Nat) :=
  rangeCheck (scalarVal s g w.a) (scalarVal s g w.a % 16 == 0 && (g.gauge (convRecord w)).cstride % 16 != 0) (g.gauge (convRecord w)).m (g.gauge (convRecord w)).cstride
    ((g.gauge (convRecord w)).n * bytesOf w.dty)

theorem mmconv_stalls (h : Issues (.mmconv w) s g) (hq : queueRoom s (tileOf s.cur) 0 = false) : exec (.mmconv w) s = .next (s.put g.retry) := by
  refine (show _ = execMmconv w s from rfl).trans (runWord_stall _ s g _ _ h ?_)
  exact if_pos (held_back hq)

variable (h : Issues (.mmconv w) s g) (ht : throttle s (tileOf s.cur) = 0) (hq : queueRoom s (tileOf s.cur) 0 = true)
include h ht hq

theorem mmconv_invalid (hv : (g.gauge (convRecord w)).valid = false) : exec (.mmconv w) s =
    .next (takeTrap (timed (.mmconv w) s g s) g tMatrix (matrixDetail g (convRecord w)) (lanesFor (.mmconv w) g)) := by
  refine word_traps h (show _ = execMmconv w s from rfl) ((if_neg (not_held_back hq ht)).trans (if_pos ?_))
  rw [show (g.gauge (fld w.b.idx 4 4)).valid = false from hv]
  rfl

variable (hv : (g.gauge (convRecord w)).valid = true)
include hv

theorem mmconv_refused {n a : Nat} (hc : convCheck w s g = some (n, a)) : exec (.mmconv w) s =
    .next (takeTrap (timed (.mmconv w) s g s) g tAddr (addrDetail false 0 n a) (lanesFor (.mmconv w) g)) := by
  refine word_traps h (show _ = execMmconv w s from rfl)
    ((if_neg (not_held_back hq ht)).trans ((if_neg (by rw [show (g.gauge (fld w.b.idx 4 4)).valid = true from hv]; decide)).trans ?_))
  unfold convCheck convRecord at hc
  rw [hc]

theorem mmconv_queued (hc : convCheck w s g = none) : exec (.mmconv w) s =
    .next (timed (.mmconv w) s g { (logEvent s (whoOf s g (lanesFor (.mmconv w) g)) 4 (tileOf s.cur) 0) with
      groups := s.groups.set s.cur (g.used (convRecord w)), mats := s.mats ++ [convCmd w s g], seq := s.seq + 1 }) := by
  refine (show _ = execMmconv w s from rfl).trans (runWord_ok _ s _ g _ _ h
    ((if_neg (not_held_back hq ht)).trans ((if_neg (by rw [show (g.gauge (fld w.b.idx 4 4)).valid = true from hv]; decide)).trans ?_)))
  unfold convCheck convRecord at hc
  rw [hc]
  exact accept_eq s g _ _ _
end

/-- Settles O31: `mmaCheck_eq` puts the checks of A before those of B; `mmaCmd` and `convCmd` are the commands queued. -/
theorem matrixWordsQueueCommands : Obligations.MatrixWordsQueueCommands := by
  unfold Obligations.MatrixWordsQueueCommands
  refine ⟨fun w s g => ?_, fun w s g => ?_, fun w s g h => ⟨_, g.writeS_written w.d _, exec_mmfence h⟩⟩
  · intro k p r steps depth z acc stage used h ht
    have hsteps : mmaSteps w g = steps := mmaSteps_eq g w
    have hdepth : stepDepth w.ty = depth := stepDepth_eq w.ty
    have hacc : mmaAcc w = acc := mmaAcc_eq w
    have hstage : mmaStage w g = stage := by rw [mmaStage, hdepth]; rfl
    rw [← hsteps, ← hdepth, ← hacc, ← hstage]
    refine ⟨fun hq hv => mma_invalid h ht hq hv, fun hq hv n a hc => mma_refused h ht hq hv hc, ?_, fun hq hv hc => ?_, fun hq => mma_stalls h hq⟩
    · intro a b inA inB check
      refine ⟨fun ha => ?_, fun ha h16 => mmaCheck_aMisaligned ha (.inl h16), fun ha h16 hb hs => mmaCheck_aMisaligned ha (.inr (strideBad_true h16 hb hs)),
        fun ha h16 hs => ⟨fun x hx => ?_, fun hnone => ⟨fun hb => ?_, fun hb hbad => ?_, fun hb h16b hsb => ?_⟩⟩⟩
      · exact (mmaCheck_eq ..).trans (by rw [rangeCheck_wide ha, Option.some_or])
      · exact (mmaCheck_aSound ha h16 hs).trans (by rw [show rowsReason _ _ _ (r.aRows _) = _ from hx, Option.some_or])
      all_goals
        refine (mmaCheck_aSound ha h16 hs).trans ?_
        rw [show rowsReason _ _ _ (r.aRows _) = _ from hnone, Option.none_or]
      · exact rangeCheck_wide hb
      · refine rangeCheck_misaligned hb ?_
        by_cases hb16 : b % 16 = 0
        · exact .inr (strideBad_true h16 hb16 (hbad.resolve_left (not_not.mpr hb16)))
        · exact .inl hb16
      · rw [strideBad_false hsb, rangeCheck_rows hb h16b, rowsReason_b]
    · refine ⟨mmaCmd w s g, rfl, rfl, rfl, rfl, rfl, rfl, rfl, rfl, rfl, rfl, rfl, rfl, rfl, rfl, rfl, rfl, rfl, rfl, rfl, rfl, rfl, rfl, rfl, rfl, rfl, rfl, rfl, rfl,
        mma_queued h ht hq hv hc⟩
  · intro b k r dst used
    refine ⟨fun h hq => mmconv_stalls h hq, fun h ht hq hv => mmconv_invalid h ht hq hv, fun n a h ht hq hv hc => mmconv_refused h ht hq hv hc, fun h hv hc ht hq => ?_⟩
    exact ⟨convCmd w s g, rfl, rfl, rfl, rfl, rfl, rfl, rfl, rfl, rfl, rfl, rfl, rfl, rfl, rfl, rfl, rfl, rfl, rfl, mmconv_queued h ht hq hv hc⟩

end Sys2Proof.Machine

/-! PROOFS, 12 R217, R221, R228. The matrix queue of a tile: which command may start, the region that an `mma.z` zeroes, and the command whose unit a fault frees. -/

namespace Sys2Proof.Machine
open Sys2Proof Sys2Proof.Claims

/-! ### Bytes of zero (12 R221) -/

section
variable {m : List Host.Cell} {c : Nat}

/-- Where runs of zeros are stored, a byte that is 0 already, or that one of them covers, is 0. -/
theorem memGet_storeAll_zeros {xs : List (Nat × Nat)} (h : Memory.wf m = true) (hc : memGet m c = 0 ∨ ∃ x ∈ xs, x.1 ≤ c ∧ c < x.1 + x.2) :
    memGet (storeAll m (xs.map fun x => (x.1, List.replicate x.2 0))) c = 0 := by
  induction xs generalizing m with
  | nil => exact hc.resolve_right fun ⟨_, hx, _⟩ => absurd hx List.not_mem_nil
  | cons x r ih =>
    refine ih (m := memStore m x.1 (List.replicate x.2 0)) (Memory.wf_memStore _ _ _ h) ?_
    by_cases hin : x.1 ≤ c ∧ c < x.1 + x.2
    · obtain ⟨k, rfl⟩ := Nat.exists_eq_add_of_le hin.1
      have hk : k < (List.replicate x.2 (0 : Byte)).length := by rw [List.length_replicate]; omega
      refine .inl ?_
      rw [memGet_memStore_inside _ _ _ _ h hk, List.getD_eq_getElem _ _ hk, List.getElem_replicate]
    · have hout : c < x.1 ∨ x.1 + (List.replicate x.2 (0 : Byte)).length ≤ c := by rw [List.length_replicate]; omega
      rw [memGet_memStore_outside _ _ _ _ h hout]
      refine hc.imp_right fun ⟨y, hy, hyc⟩ => ⟨y, ?_, hyc⟩
      rcases List.mem_cons.mp hy with rfl | hr
      · exact absurd hyc hin
      · exact hr

theorem memVal_zero {a n : Nat} (h : ∀ k, a ≤ k → k < a + n → memGet m k = 0) : memVal m a n = 0 := by
  induction n generalizing a with
  | zero => rfl
  | succ n ih =>
    have hrest : memVal m (a + 1) n = 0 := ih fun k h1 h2 => h k (by omega) (by omega)
    rw [memVal] at hrest ⊢
    rw [memBytes, leVal, h a le_rfl (by omega), hrest]
    rfl
end

/-! ### Accumulator elements (12 R211) -/

/-- The elements of a row follow one another. -/
theorem MatCmd.accAt_row (c : MatCmd) (i n : Nat) : c.accAt i n = c.accAt i 0 + n * accBytes c.acc := by
  unfold MatCmd.accAt accPlace
  ring

/-- The rows of the region of a command, each with its bytes. -/
def MatCmd.rows (c : MatCmd) : List (Nat × Nat) := (List.range c.m).map fun i => (c.accAt i 0, c.n * accBytes c.acc)

/-- The state with the region of a command zeroed. -/
def zeroed (s : State) (c : MatCmd) : State := pokeAll s (c.rows.map fun x => (x.1, List.replicate x.2 0))

section
variable {s : State} {c : MatCmd} (h : Memory.wf s.mem = true)
include h

theorem zeroed_element {i n : Nat} (hi : i < c.m) (hn : n < c.n) : memVal (zeroed s c).mem (c.accAt i n) (accBytes c.acc) = 0 := by
  rw [zeroed, pokeAll_mem]
  refine memVal_zero fun k h1 h2 => memGet_storeAll_zeros h (.inr ⟨_, List.mem_map.mpr ⟨i, List.mem_range.mpr hi, rfl⟩, ?_⟩)
  rw [c.accAt_row i n] at h1 h2
  have hend : (n + 1) * accBytes c.acc ≤ c.n * accBytes c.acc := Nat.mul_le_mul_right _ hn
  rw [Nat.succ_mul] at hend
  dsimp only
  omega

theorem zeroed_outside {a : Nat} (ha : ∀ i, i < c.m → a < c.accAt i 0 ∨ c.accAt i 0 + c.n * accBytes c.acc ≤ a) : memGet (zeroed s c).mem a = memGet s.mem a := by
  rw [zeroed, pokeAll_mem]
  refine memGet_storeAll_outside h fun x hx => ?_
  obtain ⟨y, hy, rfl⟩ := List.mem_map.mp hx
  obtain ⟨i, hi, rfl⟩ := List.mem_map.mp hy
  rw [List.length_replicate]
  exact ha i (List.mem_range.mp hi)
end

/-! ### The next command (12 R217) -/

section
variable {s : State} {c : MatCmd}

/-- A command may start: what holds it has completed, and so have the earlier commands of its group and on its half-slots. -/
def MayStart (s : State) (d : MatCmd) : Prop := (∀ o ∈ s.far, o.id ∉ d.holds) ∧
  ∀ e ∈ s.mats, e.id < d.id → e.gid ≠ d.gid ∧ (e.tile = d.tile → ∀ h ∈ e.halves, h ∉ d.halves)

theorem mayStart_iff (s : State) (d : MatCmd) : mayStart s d = true ↔ MayStart s d := by
  unfold mayStart MayStart
  rw [Bool.and_eq_true, Bool.not_eq_true', ← idle_iff, List.all_eq_true]
  refine and_congr_right fun _ => forall₂_congr fun e _ => ?_
  by_cases hid : e.id < d.id
  · simp [hid, Nat.not_le.mpr hid, imp_iff_not_or]
  · simp [hid, Nat.not_lt.mp hid]

/-- A command that has not started, or waits on a fault. -/
def Idle (d : MatCmd) : Prop := d.started = false ∨ d.faulted = true

theorem idle_test (d : MatCmd) : (!d.started || d.faulted) = true ↔ Idle d := by simp [Idle]

theorem bedBusy_false (h : ∀ d ∈ s.mats, d.tile = c.tile → d.conv = c.conv → d.id ≠ c.id → d.started = true → d.faulted = true) : bedBusy s c = false := by
  refine List.any_eq_false.mpr fun d hd => ?_
  have hd := h d hd
  simp only [Bool.and_eq_true, bne_iff_ne, beq_iff_eq, Bool.not_eq_true', not_and, Bool.not_eq_false]
  exact fun ⟨⟨⟨hid, ht⟩, hc⟩, hs⟩ => hd ht hc hid hs

/-- What keeps a command from starting or resuming now. -/
def startHeld (s : State) (c : MatCmd) : Bool :=
  !(!c.started || c.faulted) || !mayStart s c || bedBusy s c || faulted s c.id ||
    s.mats.any (fun d => d.tile == c.tile && d.conv == c.conv && decide (d.id < c.id) && (!d.started || d.faulted) && mayStart s d && !faulted s d.id)

theorem startHeld_false (hi : Idle c) (hm : MayStart s c) (hnf : faulted s c.id = false)
    (hbed : ∀ d ∈ s.mats, d.tile = c.tile → d.conv = c.conv → d.id ≠ c.id → d.started = true → d.faulted = true)
    (hold : ∀ d ∈ s.mats, d.tile = c.tile → d.conv = c.conv → d.id < c.id → Idle d → MayStart s d → faulted s d.id = true) : startHeld s c = false := by
  have hno : s.mats.any (fun d => d.tile == c.tile && d.conv == c.conv && decide (d.id < c.id) && (!d.started || d.faulted) && mayStart s d && !faulted s d.id) = false := by
    refine List.any_eq_false.mpr fun d hd => ?_
    have hd := hold d hd
    rw [← idle_test, ← mayStart_iff] at hd
    simp only [Bool.and_eq_true, beq_iff_eq, decide_eq_true_eq, Bool.not_eq_true', not_and, Bool.not_eq_false]
    exact fun ⟨⟨⟨⟨ht, hc⟩, hid⟩, hi⟩, hm⟩ => hd ht hc hid hi hm
  rw [startHeld, (idle_test c).mpr hi, (mayStart_iff s c).mpr hm, bedBusy_false hbed, hnf, hno]
  rfl

theorem startHeld_true (hm : ¬ MayStart s c) : startHeld s c = true := by
  have hno : mayStart s c = false := Bool.eq_false_iff.mpr fun h => hm ((mayStart_iff s c).mp h)
  rw [startHeld, hno]
  simp

variable (hf : s.mats.find? (fun d => d.id == s.inp.a) = some c)
include hf

theorem exec_matrixStart : exec .matrixStart s = .next (if startHeld s c then s else
    setMat (if c.zero ∧ c.started = false then zeroed s c else s) { c with started := true, faulted := false }) := by
  have hrows : (List.range c.m).foldl (fun s i => s.poke (c.accAt i 0) (List.replicate (c.n * accBytes c.acc) 0)) s = zeroed s c := by
    rw [zeroed, pokeAll, MatCmd.rows, List.map_map, List.foldl_map]
    rfl
  show execMatrixStart s = _
  unfold execMatrixStart findMat
  rw [hf, ← hrows]
  rfl

theorem exec_matrixFaultWait : exec .matrixFaultWait s = .next (if c.started && faulted s c.id then setMat s { c with faulted := true } else s) := by
  show execMatrixFaultWait s = _
  unfold execMatrixFaultWait findMat
  rw [hf]
end

/-- Settles O32: `exec_matrixStart` under `startHeld_false` or `startHeld_true`, with the region that `zeroed` leaves. -/
theorem matrixCommandsStartInOrder : Obligations.MatrixCommandsStartInOrder := by
  unfold Obligations.MatrixCommandsStartInOrder
  intro s c hf idle may z becomes
  refine ⟨fun hi hm hnf hw hbed hold => ?_, fun hm => ?_, fun hs hfault => ?_, fun hnf => ?_⟩
  · have hstart := exec_matrixStart hf
    rw [startHeld_false hi hm hnf hbed hold, if_neg Bool.false_ne_true] at hstart
    by_cases hz : c.zero ∧ c.started = false
    · rw [if_pos hz] at hstart
      obtain ⟨hframe, hflaws⟩ := pokeAll_only s (c.rows.map fun x => (x.1, List.replicate x.2 0))
      refine ⟨_, hstart, ?_, hflaws, fun hno => ?_, fun _ _ => ⟨fun i n hi hn => zeroed_element hw hi hn, fun a ha => zeroed_outside hw ha⟩⟩
      · unfold setMat zeroed
        rw [hframe]
      · rcases hno with h | h
        · exact absurd (h.symm.trans hz.1) (by decide)
        · exact absurd (h.symm.trans hz.2) (by decide)
    · rw [if_neg hz] at hstart
      exact ⟨_, hstart, rfl, fun _ h => h, fun _ => rfl, fun h1 h2 => absurd ⟨h1, h2⟩ hz⟩
  · rw [exec_matrixStart hf, startHeld_true hm, if_pos rfl]
  · rw [exec_matrixFaultWait hf, hs, hfault]
    rfl
  · rw [exec_matrixFaultWait hf, hnf, Bool.and_false]
    rfl

end Sys2Proof.Machine

/-! PROOFS, 12 R214, R221, R228, 28 R407. The needle bed: the operands it reads where their pseudo-channels are idle, the row it writes, and the command it completes. -/

namespace Sys2Proof.Machine
open Sys2Proof Sys2Proof.Claims

/-! ### Bytes at places whose pseudo-channels are idle (28 R407) -/

section
variable {s : State}

theorem hbmRuns_idle {xs : List (Nat × Nat)} (hn : ∀ x ∈ xs, 0 < x.2) (h : ∀ x ∈ xs, ∀ y, x.1 ≤ y → y < x.1 + x.2 → ChannelIdle s y) :
    ∃ rows, hbmRuns s xs = some { s with rows := rows } := by
  suffices hgo : ∀ rows, ∃ rows', hbmRuns { s with rows := rows } xs = some { s with rows := rows' } from hgo s.rows
  induction xs with
  | nil => exact fun rows => ⟨rows, rfl⟩
  | cons x r ih =>
    intro rows
    obtain ⟨rows', hr⟩ := hbmRun_idle (s := { s with rows := rows }) (hn x List.mem_cons_self) (h x List.mem_cons_self)
    rw [hbmRuns, List.foldl_cons, Option.bind_some, hr]
    exact ih (fun y hy => hn y (List.mem_cons_of_mem _ hy)) (fun y hy => h y (List.mem_cons_of_mem _ hy)) rows'

/-- An access of 64 bytes lies in one pseudo-channel. -/
theorem ChannelIdle.access {p : Nat} (h : ChannelIdle s p) (hp : isHbm p = true) : ChannelIdle s (p - p % 64) := by
  intro _ x hx
  have hlow : 2 ^ 48 ≤ p := by
    simp only [isHbm, Bool.and_eq_true, decide_eq_true_eq] at hp
    exact hp.1
  rw [pseudoChannel_congr (a := p - p % 64 - 2 ^ 48) (b := p - 2 ^ 48) (by omega)]
  exact h hp x hx

theorem hbmBytes_idle {ps : List Nat} (h : ∀ p ∈ ps, ChannelIdle s p) : ∃ rows, hbmBytes s ps = some { s with rows := rows } := by
  refine hbmRuns_idle (fun x hx => ?_) (fun x hx y h1 h2 => ?_)
  · obtain ⟨p, -, rfl⟩ := List.mem_map.mp hx
    exact Nat.one_pos
  · obtain ⟨q, hq, rfl⟩ := List.mem_map.mp hx
    obtain ⟨p, hp, rfl⟩ := List.mem_map.mp (List.mem_eraseDups.mp hq)
    obtain ⟨hin, hhbm⟩ := List.mem_filter.mp hp
    rw [show y = p - p % 64 by dsimp only at h1 h2; omega]
    exact (h p hin).access hhbm

/-- Accesses that come after the host's atomics change nothing but the atomics in progress. -/
theorem pastHosts_frame (s : State) (n : Nat) (ps : List Nat) : ∃ hs, pastHosts s n ps = { s with hostAts := hs } ∧ (s.hostAts = [] → hs = []) := by
  unfold pastHosts
  induction ps generalizing s with
  | nil => exact ⟨s.hostAts, rfl, id⟩
  | cons p r ih =>
    obtain ⟨hs, hframe, hempty⟩ := ih (s.pastHost p n)
    refine ⟨hs, ?_, fun h => hempty (by rw [pastHost_quiet s p n h, h])⟩
    rw [List.foldl_cons, hframe]
    unfold State.pastHost
    split <;> rfl
end

theorem mapM_some {α β : Type} {f : α → Option β} {z : α → β} {xs : List α} (h : ∀ x ∈ xs, f x = some (z x)) : xs.mapM f = some (xs.map z) := by
  induction xs with
  | nil => rfl
  | cons x r ih =>
    rw [List.mapM_cons, h x List.mem_cons_self, ih fun y hy => h y (List.mem_cons_of_mem _ hy)]
    rfl

section
variable {s : State} (hs : s.flaws = [])
include hs

theorem readAll_flawless (w : Who) (n : Nat) (ps : List Nat) : s.readAll w n ps = (s, some (ps.map fun p => s.peek p n)) :=
  readAll_of_clean fun p _ f hf => absurd hf (by rw [hs]; exact List.not_mem_nil)

/-- The elements at addresses that need no walk, in idle pseudo-channels. -/
theorem readElems_idle {c : MatCmd} {as : List Nat} {q : Nat → Nat} (h : ∀ a ∈ as, placeOf s c.tile c.who.ctx a 0 = some (q a) ∧ ChannelIdle s (q a)) :
    ∃ rows ats, readElems s c as = some ({ s with rows := rows, hostAts := ats }, some (as.map fun a => memVal s.mem (q a) (bytesOf c.ty))) ∧
      (s.hostAts = [] → ats = []) := by
  obtain ⟨rows, hrows⟩ := hbmBytes_idle (s := s) (ps := as.map q) fun p hp => by
    obtain ⟨a, ha, rfl⟩ := List.mem_map.mp hp
    exact (h a ha).2
  obtain ⟨ats, hats, hempty⟩ := pastHosts_frame { s with rows := rows } (bytesOf c.ty) (as.map q)
  refine ⟨rows, ats, ?_, hempty⟩
  unfold readElems
  rw [mapM_some fun a ha => (h a ha).1]
  dsimp only
  rw [hrows, Option.map_some, hats, readAll_flawless (s := { s with rows := rows, hostAts := ats }) hs]
  dsimp only
  rw [List.map_map, List.map_map]
  rfl

theorem poke_flawless (p : Nat) (bs : List Byte) : s.poke p bs = { s with mem := memStore s.mem p bs } := by simp [State.poke, hs]

theorem stageRead_flawless (c : MatCmd) : stageRead s c = (s, true) := by
  have hkept : ({ s with flaws := [] } : State) = s := by rw [← hs]
  simp [stageRead, hs, hkept]
end

/-! ### A row of elements stored (12 R221, R223) -/

section
variable {m : List Host.Cell} {p n z : Nat} {v : Nat → Nat}

/-- The bytes of n elements of z bytes each. -/
def rowBytes (n z : Nat) (v : Nat → Nat) : List Byte := (List.range n).flatMap fun l => leBytes z (v l)

theorem rowBytes_length : (rowBytes n z v).length = n * z := by
  simp [rowBytes, List.length_flatMap, leBytes_length]

theorem memVal_rowBytes (h : Memory.wf m = true) {l : Nat} (hl : l < n) : memVal (memStore m p (rowBytes n z v)) (p + l * z) z = v l % 256 ^ z := by
  have hin : l < (List.range n).length := by rwa [List.length_range]
  have hpart := take_drop_flatMap (f := fun l => leBytes z (v l)) (fun _ => leBytes_length z _) _ hin
  rw [List.getElem_range, Nat.mul_comm] at hpart
  have hend : (l + 1) * z ≤ (rowBytes n z v).length := by
    rw [rowBytes_length]
    exact Nat.mul_le_mul_right _ hl
  rw [Nat.succ_mul] at hend
  rw [memVal, ← memBytes_slice _ _ _ _ _ hend, memBytes_memStore_same _ _ _ h, rowBytes, hpart, leVal_leBytes]

theorem memGet_rowBytes_outside (h : Memory.wf m = true) {a : Nat} (ha : a < p ∨ p + n * z ≤ a) : memGet (memStore m p (rowBytes n z v)) a = memGet m a :=
  memGet_memStore_outside _ _ _ _ h (by rwa [rowBytes_length])
end

/-! ### The steps of the needle bed (12 R221) -/

section
variable {s : State} {c : MatCmd}

/-- The progress of a command after the row it has computed. -/
def MatCmd.rowDone (c : MatCmd) : MatCmd := if c.row + 1 = c.m then { c with step := c.step + 1, row := 0, bbuf := [] } else { c with row := c.row + 1 }

theorem rowDone_id (c : MatCmd) : c.rowDone.id = c.id := by
  unfold MatCmd.rowDone
  split <;> rfl

/-- Element n of the row in progress, with the row of A as it was read. -/
def macAt (s : State) (c : MatCmd) (as : List Nat) (n : Nat) : Nat := macElem c (memVal s.mem (c.accAt c.row n) (accBytes c.acc)) as (c.column n)

theorem rowStep_readsB (hs : s.flaws = []) (hb : c.bbuf = []) {q : Nat → Nat}
    (h : ∀ a ∈ c.bAddrs, placeOf s c.tile c.who.ctx a 0 = some (q a) ∧ ChannelIdle s (q a)) :
    ∃ rows ats, rowStep s c = setMat { s with rows := rows, hostAts := ats } { c with bbuf := c.bAddrs.map fun a => memVal s.mem (q a) (bytesOf c.ty) } ∧
      (s.hostAts = [] → ats = []) := by
  obtain ⟨rows, ats, hread, hempty⟩ := readElems_idle hs h
  refine ⟨rows, ats, ?_, hempty⟩
  rw [rowStep, if_pos (by rw [hb]; rfl), hread]

/-- The row computed from the row of A that was read. -/
theorem rowStep_stores {t : State} {as : List Nat} (ht : t.flaws = []) (hb : c.bbuf ≠ []) (hread : readElems s c c.aAddrs = some (t, some as)) :
    rowStep s c = setMat { t with mem := memStore t.mem (c.accAt c.row 0) (rowBytes c.n (accBytes c.acc) (macAt t c as)) } c.rowDone := by
  have hrow : (List.range c.n).flatMap (fun n => leBytes (accBytes c.acc)
      (macElem c (leVal ((((List.range c.n).map fun n => c.accAt c.row n).map fun p => t.peek p (accBytes c.acc)).getD n [])) as (c.column n))) =
        rowBytes c.n (accBytes c.acc) (macAt t c as) := by
    refine List.flatMap_congr fun n hn => ?_
    rw [List.map_map, List.getD_eq_getElem _ _ (by simpa using hn), List.getElem_map, List.getElem_range]
    rfl
  rw [rowStep, if_neg (by simpa using hb), hread]
  dsimp only
  rw [readAll_flawless ht]
  dsimp only
  rw [hrow, poke_flawless ht]
  rfl

theorem rowStep_computes (hs : s.flaws = []) (hb : c.bbuf ≠ []) {q : Nat → Nat}
    (h : ∀ a ∈ c.aAddrs, placeOf s c.tile c.who.ctx a 0 = some (q a) ∧ ChannelIdle s (q a)) :
    ∃ rows ats, rowStep s c = setMat { s with
        rows := rows
        hostAts := ats
        mem := memStore s.mem (c.accAt c.row 0) (rowBytes c.n (accBytes c.acc) (macAt s c (c.aAddrs.map fun a => memVal s.mem (q a) (bytesOf c.ty)))) } c.rowDone ∧
      (s.hostAts = [] → ats = []) := by
  obtain ⟨rows, ats, hread, hempty⟩ := readElems_idle hs h
  exact ⟨rows, ats, rowStep_stores (t := { s with rows := rows, hostAts := ats }) hs hb hread, hempty⟩

theorem mmaRowStep_throttled (hf : s.mats.find? (fun d => d.id == s.inp.a) = some c) (ht : throttle s c.tile ≠ 0) : exec .mmaRowStep s = .next s := by
  show execMmaRowStep s = _
  unfold execMmaRowStep findMat
  rw [hf]
  dsimp only
  rw [if_pos (by simp [Nat.one_le_iff_ne_zero.mpr ht])]

variable (hf : s.mats.find? (fun d => d.id == s.inp.a) = some c) (hc : c.conv = false) (hst : c.started = true) (hfa : c.faulted = false)
include hf hc hst hfa

theorem exec_mmaRowStep (hlt : c.step < c.steps) (ht : throttle s c.tile = 0) (hs : s.flaws = []) : exec .mmaRowStep s = .next (rowStep s c) := by
  show execMmaRowStep s = _
  unfold execMmaRowStep findMat
  rw [hf]
  dsimp only
  rw [stageRead_flawless hs, hc, hst, hfa, if_neg (by simp [hlt, ht])]
end

/-! ### The completion of a command (12 R214, R228) -/

/-- One command less uses a gauge record. -/
def Group.freed (g : Group) (k : Nat) : Group := g.setGauge k { (g.gauge k) with inuse := (g.gauge k).inuse - 1 }

section
variable {s : State} {c : MatCmd} {key : Nat} {g : Group} {b : Block}

theorem updGid_resident {gid : Nat} (hg : s.groups.find? (fun x => x.2.gid == gid) = some (key, g)) (f : Group → Group) :
    updGid s gid f = { s with groups := s.groups.set key (f g) } := by
  unfold updGid
  rw [hg]

theorem flushAcc_resident {bid : Nat} (hb : s.blocks.get? bid = some b) (ho : b.out = false) : flushAcc s bid = s := by
  unfold flushAcc
  rw [hb]
  dsimp only
  rw [ho]
  rfl

theorem retire_resident (hg : s.groups.find? (fun x => x.2.gid == c.gid) = some (key, g)) : retire s c = { s with
    mats := s.mats.filter (fun d => d.id != c.id)
    flaws := s.flaws.filter (fun f => !f.inStage c.id)
    groups := s.groups.set key (g.freed c.rcd) } :=
  updGid_resident (s := { s with mats := s.mats.filter (fun d => d.id != c.id), flaws := s.flaws.filter (fun f => !f.inStage c.id) }) hg _

/-- A command that completes, of a block in its place. -/
theorem retire_completes (hg : s.groups.find? (fun x => x.2.gid == c.gid) = some (key, g)) (hb : s.blocks.get? c.block = some b) (ho : b.out = false) :
    flushAcc (retire s c) c.block = { s with
      mats := s.mats.filter (fun d => d.id != c.id)
      flaws := s.flaws.filter (fun f => !f.inStage c.id)
      groups := s.groups.set key (g.freed c.rcd) } := by
  rw [retire_resident hg]
  exact flushAcc_resident hb ho

theorem exec_mmaComplete (hf : s.mats.find? (fun d => d.id == s.inp.a) = some c) (hc : c.conv = false) (hst : c.started = true) (hfa : c.faulted = false)
    (hle : c.steps ≤ c.step) : exec .mmaComplete s = .next (flushAcc (retire s c) c.block) := by
  show execMmaComplete s = _
  unfold execMmaComplete findMat
  rw [hf]
  dsimp only
  rw [if_pos (by simp [hc, hst, hfa, hle])]
end

/-- Settles O33: `rowStep_readsB` and `rowStep_computes` for the two kinds of turn, `retire_completes` for the completion. -/
theorem anMmaAdvancesRowByRow : Obligations.AnMmaAdvancesRowByRow := by
  unfold Obligations.AnMmaAdvancesRowByRow
  intro s c hf hc hst hfa z becomes quiet
  refine ⟨fun hlt ht hs => ⟨fun q hb hq => ?_, fun q hb hw hq => ?_⟩, fun _ ht => mmaRowStep_throttled hf ht, fun key g b hle hg hb ho => ?_⟩
  · obtain ⟨rows, ats, hrow, hempty⟩ := rowStep_readsB hs hb hq
    exact ⟨_, (exec_mmaRowStep hf hc hst hfa hlt ht hs).trans (congrArg _ hrow), hempty, rfl⟩
  · obtain ⟨rows, ats, hrow, hempty⟩ := rowStep_computes hs hb hq
    refine ⟨_, (exec_mmaRowStep hf hc hst hfa hlt ht hs).trans (congrArg _ hrow), hempty, ?_, fun n hn => ?_, fun a ha => memGet_rowBytes_outside hw ha⟩
    · unfold setMat
      rw [rowDone_id]
      rfl
    · have helement := memVal_rowBytes (p := c.accAt c.row 0) (z := accBytes c.acc) (v := macAt s c (c.aAddrs.map fun a => memVal s.mem (q a) z)) hw hn
      rw [← c.accAt_row] at helement
      exact helement
  · rw [exec_mmaComplete hf hc hst hfa hle, retire_completes hg hb ho]
    rfl

end Sys2Proof.Machine

/-! PROOFS, 12 R218, R223, R228, R229. The conversion path: the first element whose check fails, the row that a conversion writes, the report that is kept, and the completion
of a batch. -/

namespace Sys2Proof.Machine
open Sys2Proof Sys2Proof.Claims

/-! ### The report of a failed check (12 R229, 03 R50 Table 6) -/

/-- The detail word of a report. -/
def reportOf (c : MatCmd) (i n w : Nat) : W64 := residueDetail 1 c.tile c.batch.toNat i n (wrapN 64 ((rn24Decode w).1 % 251)) (w / 2 ^ 24 % 256 % 251)

theorem reportOf_fields (c : MatCmd) (i n w : Nat) : (reportOf c i n w).toNat / 2 ^ 60 = 1 ∧ (reportOf c i n w).toNat / 2 ^ 36 % 2 ^ 16 = c.batch.toNat ∧
    (reportOf c i n w).toNat / 2 ^ 29 % 128 = i % 128 ∧ (reportOf c i n w).toNat / 2 ^ 22 % 128 = n % 128 := by
  have hb := c.batch.isLt
  simp only [reportOf, residueDetail, BitVec.toNat_ofNat]
  generalize wrapN 64 ((rn24Decode w).1 % 251) = expect
  generalize w / 2 ^ 24 % 256 % 251 = found
  omega

/-- A report kept by a group, or counted where it keeps one. -/
def Group.reported (g : Group) (batch : Nat) (d : W64) : Group :=
  match g.merr with
  | none => { g with merr := some (batch, d) }
  | some _ => { g with nerr := if g.nerr < 127 then g.nerr + 1 else g.nerr }

theorem Group.reported_gid (g : Group) (batch : Nat) (d : W64) : (g.reported batch d).gid = g.gid := by
  unfold Group.reported
  split <;> rfl

/-- The first value that satisfies a test, replaced by one that does. -/
theorem find?_set {α : Type} {t : Tab α} {p : α → Bool} {key : Nat} {v v' : α} (h : t.find? (fun x => p x.2) = some (key, v)) (hp : p v' = true) :
    (t.set key v').find? (fun x => p x.2) = some (key, v') := by
  induction t with
  | nil => cases h
  | cons x r ih =>
    obtain ⟨i, y⟩ := x
    rw [Tab.set]
    split
    · exact List.find?_cons_of_pos hp
    split
    · exact List.find?_cons_of_pos hp
    next hk =>
    cases hy : p y with
    | true =>
      rw [List.find?_cons_of_pos (p := fun x : Nat × α => p x.2) hy] at h
      exact absurd (congrArg Prod.fst (Option.some.inj h)) hk
    | false =>
      have hn : ¬ p y = true := by rw [hy]; exact Bool.false_ne_true
      rw [List.find?_cons_of_neg (p := fun x : Nat × α => p x.2) hn] at h ⊢
      exact ih h

/-! ### The first element whose check fails (12 R223) -/

theorem range_split {m i : Nat} (h : i < m) : ∃ low high, List.range m = low ++ i :: high ∧ ∀ j ∈ low, j < i := by
  obtain ⟨low, high, e⟩ := List.append_of_mem (List.mem_range.mpr h)
  have sorted : (List.range m).Pairwise (· < ·) := List.pairwise_lt_range
  rw [e, List.pairwise_append] at sorted
  exact ⟨low, high, e, fun j hj => sorted.2.2 j hj i List.mem_cons_self⟩

section
variable {s : State} {c : MatCmd}

theorem mem_region {x : Nat × Nat} : x ∈ c.region ↔ x.1 < c.m ∧ x.2 < c.n := by
  obtain ⟨i, n⟩ := x
  simp [MatCmd.region]

/-- Before an element of the region come those of lower rows, and those of lower columns in its own. -/
theorem region_split {i n : Nat} (hi : i < c.m) (hn : n < c.n) :
    ∃ low high, c.region = low ++ (i, n) :: high ∧ ∀ x ∈ low, x ∈ c.region ∧ (x.1 < i ∨ (x.1 = i ∧ x.2 < n)) := by
  obtain ⟨rows, rows', hrows, hr⟩ := range_split hi
  obtain ⟨cols, cols', hcols, hc⟩ := range_split hn
  have hsplit : c.region = (rows.flatMap (fun i => (List.range c.n).map fun n => (i, n)) ++ cols.map fun n => (i, n)) ++
      (i, n) :: (cols'.map (fun n => (i, n)) ++ rows'.flatMap fun i => (List.range c.n).map fun n => (i, n)) := by
    have hrow : (List.range c.n).map (fun n => (i, n)) = cols.map (fun n => (i, n)) ++ (i, n) :: cols'.map fun n => (i, n) := by
      rw [hcols, List.map_append, List.map_cons]
    rw [MatCmd.region, hrows, List.flatMap_append, List.flatMap_cons, hrow]
    simp only [List.append_assoc, List.cons_append]
  refine ⟨_, _, hsplit, fun x hx => ⟨hsplit ▸ List.mem_append_left _ hx, ?_⟩⟩
  rcases List.mem_append.mp hx with hx | hx
  · obtain ⟨j, hj, hx⟩ := List.mem_flatMap.mp hx
    obtain ⟨k, -, rfl⟩ := List.mem_map.mp hx
    exact .inl (hr j hj)
  · obtain ⟨k, hk, rfl⟩ := List.mem_map.mp hx
    exact .inr ⟨rfl, hc k hk⟩

/-- An accumulator word of 4 bytes. -/
def accWord (s : State) (c : MatCmd) (x : Nat × Nat) : Nat := memVal s.mem (c.accAt x.1 x.2) 4

/-- An element whose check fails, with its word. -/
def failing (s : State) (c : MatCmd) (x : Nat × Nat) : Option (Nat × Nat × Nat) := if (rn24Decode (accWord s c x)).2 then none else some (x.1, x.2, accWord s c x)

theorem failing_none {x : Nat × Nat} (h : (rn24Decode (accWord s c x)).2 = true) : failing s c x = none := if_pos h

theorem failing_some {x : Nat × Nat} (h : (rn24Decode (accWord s c x)).2 = false) : failing s c x = some (x.1, x.2, accWord s c x) :=
  if_neg (by rw [h]; exact Bool.false_ne_true)

variable (hs : s.flaws = [])
include hs

theorem badElem_flawless : badElem s c = (s, some (c.region.findSome? (failing s c))) := by
  unfold badElem
  rw [readAll_flawless hs]
  dsimp only
  rw [List.map_map, List.map_map, zip_map_self, List.findSome?_map]
  rfl

theorem badElem_none (h : ∀ i n, i < c.m → n < c.n → (rn24Decode (accWord s c (i, n))).2 = true) : badElem s c = (s, some none) := by
  have hnone : c.region.findSome? (failing s c) = none := List.findSome?_eq_none_iff.mpr fun x hx => by
    obtain ⟨hi, hn⟩ := mem_region.mp hx
    exact failing_none (x := x) (h x.1 x.2 hi hn)
  rw [badElem_flawless hs, hnone]

theorem badElem_first {i n : Nat} (hi : i < c.m) (hn : n < c.n) (hbad : (rn24Decode (accWord s c (i, n))).2 = false)
    (hlow : ∀ j k, j < c.m → k < c.n → j < i ∨ (j = i ∧ k < n) → (rn24Decode (accWord s c (j, k))).2 = true) :
    badElem s c = (s, some (some (i, n, accWord s c (i, n)))) := by
  obtain ⟨low, high, hsplit, hl⟩ := region_split hi hn
  have hfirst : c.region.findSome? (failing s c) = some (i, n, accWord s c (i, n)) :=
    List.findSome?_eq_some_iff.mpr ⟨low, (i, n), high, hsplit, failing_some hbad, fun x hx => by
      obtain ⟨hin, hbefore⟩ := hl x hx
      obtain ⟨hj, hk⟩ := mem_region.mp hin
      exact failing_none (hlow x.1 x.2 hj hk hbefore)⟩
  rw [badElem_flawless hs, hfirst]
end

/-! ### Writes where Lifeline is off and the host is still -/

/-- Lifeline records nothing, no latent error lies in memory and no atomic of the host is in progress; a replay may be. -/
structure Undisturbed (s : State) : Prop where
  off : bit (s.reg llWin).toNat 63 = false
  clean : s.flaws = []
  still : s.hostAts = []

/-- t is s but for bytes of memory, what the host may still read in their place, and the model's record of what a replay has passed (log 30). -/
structure WriteOnly (s t : State) : Prop where
  frame : t = { s with mem := t.mem, veils := t.veils, ll := { s.ll with seen := t.ll.seen } }
  live : s.ll.replay = none → t.ll = s.ll

theorem WriteOnly.trans {s t u : State} (h : WriteOnly s t) (h' : WriteOnly t u) : WriteOnly s u where
  frame := by rw [h'.frame, h.frame]
  live hn := by
    have ht : t.ll.replay = none := by rw [h.live hn, hn]
    rw [h'.live ht, h.live hn]

theorem Undisturbed.after {s t : State} (h : Undisturbed s) (ht : WriteOnly s t) : Undisturbed t := by
  rw [ht.frame]
  exact ⟨h.off, h.clean, h.still⟩

section
variable {s : State} (h : Undisturbed s)
include h

theorem Undisturbed.nearStore (p : Nat) (bs : List Byte) : WriteOnly s (s.nearStore p bs) := by
  unfold State.nearStore State.phases
  split
  · rw [poke_flawless h.clean]
    exact ⟨rfl, fun _ => rfl⟩
  · next hr =>
    rw [poke_flawless]
    · exact ⟨rfl, fun hn => by rw [hr] at hn; cases hn⟩
    · exact h.clean

theorem Undisturbed.write (w : Who) (p : Nat) (bs : List Byte) : WriteOnly s (s.write w p bs) ∧ (s.write w p bs).mem = memStore s.mem p bs := by
  have hupdate : s.update w p bs.length (fun _ => bs) none = s.nearStore p bs := by
    have hl : lifeWrite s w p bs.length (fun _ => bs) none = s := by simp [lifeWrite, h.off]
    unfold State.update
    dsimp only
    rw [hl, pastHost_quiet s p _ h.still]
  obtain ⟨hframe, hlive⟩ := h.nearStore p bs
  unfold State.write State.modify
  rw [hupdate]
  refine ⟨⟨?_, hlive⟩, nearStore_mem s p bs⟩
  dsimp only
  rw [hframe]

theorem Undisturbed.writeRuns (w : Who) (rs : List (Nat × List Byte)) : WriteOnly s (s.writeRuns w rs) ∧ (s.writeRuns w rs).mem = storeAll s.mem rs := by
  induction rs generalizing s with
  | nil => exact ⟨⟨rfl, fun _ => rfl⟩, rfl⟩
  | cons x r ih =>
    obtain ⟨hx, hm⟩ := h.write w x.1 x.2
    obtain ⟨hr, hmr⟩ := ih (h.after hx)
    refine ⟨hx.trans hr, ?_⟩
    show ((s.write w x.1 x.2).writeRuns w r).mem = _
    rw [hmr, hm]
    rfl
end

/-! ### The row that a conversion writes (12 R223) -/

theorem memStore_append (m : List Host.Cell) (p : Nat) (xs ys : List Byte) : memStore m p (xs ++ ys) = memStore (memStore m p xs) (p + xs.length) ys := by
  induction xs generalizing m p with
  | nil => rfl
  | cons x r ih =>
    rw [List.cons_append, memStore, ih, List.length_cons, memStore]
    congr 1
    omega

theorem storeAll_row (m : List Host.Cell) (p n z : Nat) (v : Nat → Nat) :
    storeAll m ((List.range n).map fun l => (p + l * z, leBytes z (v l))) = memStore m p (rowBytes n z v) := by
  induction n with
  | zero => rfl
  | succ n ih =>
    have hrow : rowBytes (n + 1) z v = rowBytes n z v ++ leBytes z (v n) := by simp [rowBytes, List.range_succ]
    rw [hrow, memStore_append, ← ih, rowBytes_length, List.range_succ, List.map_append, storeAll, List.foldl_append]
    rfl

theorem map_range_getD (bs : List Byte) (a : Nat) : (List.range bs.length).map (fun i => (a + i, bs.getD i 0)) = bs.mapIdx fun i x => (a + i, x) := by
  refine List.ext_getElem (by simp) fun i h1 h2 => ?_
  have hi : i < bs.length := by simpa using h2
  simp [hi]

section
variable {s : State} {c : MatCmd}

/-- The converted element n of the row in progress. -/
def convAt (s : State) (c : MatCmd) (n : Nat) : Nat := convElem c (memVal s.mem (c.accAt c.row n) (accBytes c.acc))

/-- A row whose destination needs no walk, in idle pseudo-channels, at places that follow one another. -/
theorem convRows_one (h : Undisturbed s) (hc : c.conv = true) (hlt : c.row < c.m) {p : Nat}
    (hp : ∀ n, n < c.n → placeOf s c.tile c.who.ctx (c.dst + c.row * c.cstride + n * bytesOf c.dty) 1 = some (p + n * bytesOf c.dty) ∧ ChannelIdle s (p + n * bytesOf c.dty)) :
    ∃ rows t, convRows s c 1 = (t, { c with row := c.row + 1 }) ∧ WriteOnly { s with rows := rows } t ∧
      t.mem = memStore s.mem p (rowBytes c.n (bytesOf c.dty) (convAt s c)) := by
  have hneeds : c.needs = (List.range c.n).map fun n => c.dst + c.row * c.cstride + n * bytesOf c.dty := if_pos hc
  have hfree : c.needs.any (fun a => heldOff s c.tile c.who.ctx a (bytesOf c.dty)) = false :=
    List.any_eq_false.mpr fun a _ => by simp [heldOff, h.still]
  have hplaces : c.needs.mapM (fun a => placeOf s c.tile c.who.ctx a 1) = some ((List.range c.n).map fun n => p + n * bytesOf c.dty) := by
    rw [hneeds, List.mapM_map]
    exact mapM_some fun n hn => (hp n (List.mem_range.mp hn)).1
  obtain ⟨rows, hrows⟩ := hbmBytes_idle (s := s) (ps := (List.range c.n).map fun n => p + n * bytesOf c.dty) fun q hq => by
    obtain ⟨n, hn, rfl⟩ := List.mem_map.mp hq
    exact (hp n (List.mem_range.mp hn)).2
  have h' : Undisturbed { s with rows := rows } := ⟨h.off, h.clean, h.still⟩
  refine ⟨rows, _, ?_, (h'.writeRuns c.who (runsOf ((List.range c.n).flatMap fun n => (leBytes (bytesOf c.dty) (convAt s c n)).mapIdx fun i x => (p + n * bytesOf c.dty + i, x)))).1, ?_⟩
  · rw [convRows, if_neg (Nat.not_le.mpr hlt), hfree, if_neg Bool.false_ne_true, hplaces]
    dsimp only
    rw [hrows]
    dsimp only
    rw [readAll_flawless h'.clean]
    dsimp only
    rw [List.map_map, List.zip_map', List.flatMap_map, convRows]
    simp only [map_range_getD]
    rfl
  · rw [(h'.writeRuns _ _).2, storeAll_cells, storeAll_row]
end

/-! ### The end of a conversion's turn (12 R223, R229) -/

section
variable {s : State} {c : MatCmd} (hf : s.mats.find? (fun d => d.id == s.inp.a) = some c) (hc : c.conv = true) (hst : c.started = true) (hfa : c.faulted = false)
include hf hc hst hfa

theorem mmconvComplete_writes (hb : s.inp.b = 1) (hgood : c.acc = .rn24 → c.row = 0 → badElem s c = (s, some none)) : exec .mmconvComplete s =
    .next (let r := convRows s c 1; if r.2.m ≤ r.2.row then flushAcc (retire r.1 r.2) c.block else setMat r.1 r.2) := by
  have hcheck : (if c.acc == .rn24 && c.row == 0 then badElem s c else (s, some none)) = (s, some none) := by
    split
    · next h =>
      rw [Bool.and_eq_true, beq_iff_eq, beq_iff_eq] at h
      exact hgood h.1 h.2
    · rfl
  show execMmconvComplete s = _
  unfold execMmconvComplete findMat
  rw [hf]
  dsimp only
  rw [if_neg (by simp [hc, hst, hfa]), hcheck, hb]
  rfl

theorem mmconvComplete_reports {i n w : Nat} (ha : c.acc = .rn24) (hr : c.row = 0) (hbad : badElem s c = (s, some (some (i, n, w)))) : exec .mmconvComplete s =
    .next (flushAcc (retire (keepReport s c i n w) c) c.block) := by
  show execMmconvComplete s = _
  unfold execMmconvComplete findMat
  rw [hf]
  dsimp only
  rw [if_neg (by simp [hc, hst, hfa]), if_pos (by simp [ha, hr]), hbad]
end

section
variable {s : State} {c : MatCmd} {key : Nat} {g : Group} {b : Block}

theorem staged_flawless (hs : s.flaws = []) (id : Nat) : s.flaws.filter (fun f => !f.inStage id) = s.flaws := by
  rw [hs]
  rfl

/-- A report is kept and the command completes, of a block in its place. -/
theorem keepReport_completes (hg : s.groups.find? (fun x => x.2.gid == c.gid) = some (key, g)) (hb : s.blocks.get? c.block = some b) (ho : b.out = false)
    (hs : s.flaws = []) (i n w : Nat) : flushAcc (retire (keepReport s c i n w) c) c.block = { s with
      mats := s.mats.filter (fun d => d.id != c.id)
      groups := s.groups.set key ((g.reported c.batch.toNat (reportOf c i n w)).freed c.rcd) } := by
  have hkeep : keepReport s c i n w = { s with groups := s.groups.set key (g.reported c.batch.toNat (reportOf c i n w)) } := updGid_resident hg _
  have hgid : g.gid = c.gid := by simpa using List.find?_some hg
  have hfound := find?_set (p := fun g => g.gid == c.gid) (v' := g.reported c.batch.toNat (reportOf c i n w)) hg (by rw [Group.reported_gid, hgid]; exact beq_self_eq_true _)
  rw [hkeep, retire_completes (s := { s with groups := _ }) hfound hb ho]
  dsimp only
  rw [staged_flawless hs, Tab.set_set]

theorem exec_batchComplete (hg : s.groups.find? (fun x => x.2.gid == s.inp.a) = some (key, g)) : exec .batchComplete s =
    .next { s with groups := s.groups.set key (if batchReady s s.inp.a g then { g with bdone := g.bdone + 1 } else g) } :=
  congrArg Host.Outcome.next (updGid_resident hg _)

theorem batchReady_iff {gid : Nat} : batchReady s gid g = true ↔
    (s.ctxs.getD g.env.ctx Ctx.live).status = 0 ∧ g.bdone + 1 ≠ g.bopen ∧ ∀ c ∈ s.mats, c.gid = gid → c.batch ≠ g.bdone + 1 := by
  simp [batchReady, and_assoc]

/-- The end of a turn that has written a row: the command completes or keeps its progress. -/
def convTurn (t : State) (c : MatCmd) : State :=
  if c.m ≤ c.row + 1 then flushAcc (retire t { c with row := c.row + 1 }) c.block else setMat t { c with row := c.row + 1 }

theorem convTurn_frame (hg : s.groups.find? (fun x => x.2.gid == c.gid) = some (key, g)) (hb : s.blocks.get? c.block = some b) (ho : b.out = false) (hs : s.flaws = []) :
    convTurn s c = { s with mats := (convTurn s c).mats, groups := (convTurn s c).groups } ∧
    (c.row + 1 < c.m → (convTurn s c).groups = s.groups ∧ (convTurn s c).mats = s.mats.map fun d => if d.id = c.id then { c with row := c.row + 1 } else d) ∧
    (c.row + 1 = c.m → (convTurn s c).groups = s.groups.set key (g.freed c.rcd) ∧ (convTurn s c).mats = s.mats.filter fun d => d.id != c.id) := by
  unfold convTurn
  split
  · next hend =>
    rw [retire_completes (c := { c with row := c.row + 1 }) hg hb ho]
    dsimp only
    rw [staged_flawless hs]
    exact ⟨rfl, fun h => absurd hend (Nat.not_le.mpr h), fun _ => ⟨rfl, rfl⟩⟩
  · next hend => exact ⟨rfl, fun _ => ⟨rfl, rfl⟩, fun h => absurd (Nat.le_of_eq h.symm) hend⟩
end

/-- Settles O34: `mmconvComplete_writes` and `convRows_one` for the row, `badElem_first` and `keepReport_completes` for the failed check. -/
theorem conversionsWriteRowsAndBatchesComplete : Obligations.ConversionsWriteRowsAndBatchesComplete := by
  unfold Obligations.ConversionsWriteRowsAndBatchesComplete
  refine ⟨fun s c b key g hf hc hst hfa hg hb ho => ?_, fun s key g hg => ?_⟩
  · intro z word freed quiet
    refine ⟨fun pd hone hlt hgood hw hflaws hats hoff hq => ?_, fun i n ha hr hflaws hi hn hbad hlow => ?_⟩
    · have hpassed : c.acc = .rn24 → c.row = 0 → badElem s c = (s, some none) := fun ha hr => badElem_none hflaws (hgood ha hr)
      obtain ⟨rows, t, hrow, ⟨hframe, hlive⟩, hmem⟩ := convRows_one (c := c) ⟨hoff, hflaws, hats⟩ hc hlt hq
      have hturn : exec .mmconvComplete s = .next (convTurn t c) := by
        rw [mmconvComplete_writes hf hc hst hfa hone hpassed, hrow]
        rfl
      have hgt : t.groups = s.groups := by rw [hframe]
      have hmt : t.mats = s.mats := by rw [hframe]
      have hbt : t.blocks = s.blocks := by rw [hframe]
      have hft : t.flaws = [] := by rw [hframe, ← hflaws]
      obtain ⟨hrest, hmore, hlast⟩ := convTurn_frame (s := t) (c := c) (by rw [hgt]; exact hg) (by rw [hbt]; exact hb) ho hft
      have hmem' : (convTurn t c).mem = memStore s.mem pd (rowBytes c.n z (convAt s c)) := by rw [hrest, hmem]
      refine ⟨_, hturn, fun hn => ?_, ?_, fun n hn => ?_, fun a ha => ?_, fun h => ?_, fun h => ?_⟩
      · rw [hrest]
        exact hlive hn
      · rw [hrest, hframe]
      · rw [hmem']
        exact memVal_rowBytes hw hn
      · rw [hmem']
        exact memGet_rowBytes_outside hw ha
      · rw [← hgt, ← hmt]
        exact hmore h
      · rw [← hgt, ← hmt]
        exact hlast h
    · obtain ⟨hunit, hbatch, hrow, hcol⟩ := reportOf_fields c i n (word i n)
      have hturn := mmconvComplete_reports hf hc hst hfa ha hr (badElem_first hflaws hi hn hbad hlow)
      rw [keepReport_completes hg hb ho hflaws] at hturn
      exact ⟨_, hunit, hbatch, hrow, hcol, _, hturn, rfl, Tab.get?_set_self _ _ _⟩
  · rw [exec_batchComplete hg]
    intro ready
    exact ⟨fun h => by rw [if_pos (batchReady_iff.mpr h)], fun h => by rw [if_neg (mt batchReady_iff.mp h)]⟩

end Sys2Proof.Machine
